-- ==== Sys2Proof/Word.lean ====
section
/-! DEFINITION. The word types of the Utzomer and its plainest arithmetic (R6, R12). -/

namespace Sys2Proof

/-- A 64-bit general register or port word. -/
abbrev Word := BitVec 64

/-- A 128-bit vector register. -/
abbrev VWord := BitVec 128

/-- A byte. -/
abbrev Byte := BitVec 8

/-- A map keyed by natural numbers, kept in ascending key order. -/
abbrev Map (α : Type) := List (Nat × α)

end Sys2Proof
end

