-- ==== Sys2Proof/Syntax.lean ====
section
/-! DEFINITION. The steps of the machine, one constructor for each row of the opcode table: context
instructions with their operands (R39 to R50), engine command words with their operand words
(R52, R53), and the events of the units with the identities they act for. -/

namespace Sys2Proof

/-- The four sides of a core (R42: lnN, lnE, lnS, lnW in this order). -/
inductive Dir where
  | n | e | s | w
  deriving DecidableEq, Repr

/-- The ports of R42: link queues, engine queues, stream registers, pipes. -/
inductive Port where
  | ln (d : Dir)
  | eq (q : Fin 4)
  | st (q : Fin 4)
  | pp (q : Fin 4)
  deriving DecidableEq, Repr

/-- A scalar-class specifier (R42). -/
inductive SOp where
  | x (r : Fin 48)
  | port (p : Port)
  deriving DecidableEq, Repr

/-- A vector-class specifier (R42). -/
inductive VOp where
  | v (r : Fin 32)
  | port (p : Port)
  deriving DecidableEq, Repr

/-- The lane types of R118. -/
inductive VType where
  | f32 | bf16 | f16 | i8 | i16 | i32 | i64
  deriving DecidableEq, Repr

/-- The atomic operations of R49. -/
inductive AmoOp where
  | add | and | or | xor | min | max | minu | maxu | swap | cas | fadd
  deriving DecidableEq, Repr

/-- The predicates of VCMP (R130). -/
inductive CmpOp where
  | eq | ne | lt | le | gt | ge | ltu | geu
  deriving DecidableEq, Repr

/-- The conversion formats, codes 1 to 11 of R135. -/
inductive CvtFmt where
  | i8 | i16 | i32 | i64 | f32 | f16 | bf16 | e4m3 | e5m2 | e2m1 | i4
  deriving DecidableEq, Repr

/-- The rounding qualifiers of R135. -/
inductive CvtRnd where
  | ne | z | sat
  deriving DecidableEq, Repr

/-- The signedness of VDOT4 (R142). -/
inductive DotSign where
  | ss | uu | su
  deriving DecidableEq, Repr

/-- The header fields of a command word besides OPCODE (R52). -/
structure CmdHdr where
  tag : BitVec 16
  result : Bool
  flagen : Bool
  flag : BitVec 8
  ext : BitVec 16
  deriving DecidableEq, Repr

/-- What a message from another package asks for (R285, R360, R361, R368, R369). -/
inductive FabAct where
  | load (size : Nat)
  | store (data : List Byte)
  | nibble (byte mask : Byte)
  | atomic (op : AmoOp) (wide : Bool) (v cmp : Word) (returns : Bool)
  | meet (handle : Word) (data : VWord)
  | meetr (handle : Word)
  | tkput (handle : Word) (packet : List Byte)
  | tkget (handle : Word)
  | mdef (handle : Word) (defn : Nat) (parent : Word) (destroy : Bool)
  deriving DecidableEq, Repr

/-- A firmware image (R352): its security version, its public key as the 64 bytes of the two coordinates, its signature, and
its body. -/
structure Firmware where
  svn : Nat
  key : List Byte
  r : Nat
  s : Nat
  body : List Byte
  deriving DecidableEq, Repr

/-- A message that a port of the package receives from another package: its fabric job tag,
its fabric physical address and what it asks for (R358 to R361). -/
structure FabMsg where
  tag : Nat
  fpa : Nat
  key : Nat
  flag : Option Nat
  act : FabAct
  deriving DecidableEq, Repr

/-- Every step of the machine. An engine command carries the operands of its command word; an event
carries nothing: the unit and the item it is for are named by `State.cur`. -/
inductive Instr where
  -- register arithmetic and logic (R93)
  | add (d s1 s2 : SOp) | sub (d s1 s2 : SOp) | mul (d s1 s2 : SOp) | mulh (d s1 s2 : SOp) | mulhu (d s1 s2 : SOp)
  | and (d s1 s2 : SOp) | or (d s1 s2 : SOp) | xor (d s1 s2 : SOp) | andn (d s1 s2 : SOp) | orn (d s1 s2 : SOp)
  | sll (d s1 s2 : SOp) | srl (d s1 s2 : SOp) | sra (d s1 s2 : SOp) | min (d s1 s2 : SOp) | max (d s1 s2 : SOp)
  | minu (d s1 s2 : SOp) | maxu (d s1 s2 : SOp) | slt (d s1 s2 : SOp) | sltu (d s1 s2 : SOp) | seq (d s1 s2 : SOp)
  | sne (d s1 s2 : SOp) | addp (d s1 s2 : SOp) | clz (d s1 : SOp) | ctz (d s1 : SOp) | pop (d s1 : SOp)
  -- division (R95)
  | div (d s1 s2 : SOp) (la : BitVec 4) | divu (d s1 s2 : SOp) (la : BitVec 4) | rem (d s1 s2 : SOp) (la : BitVec 4)
  | remu (d s1 s2 : SOp) (la : BitVec 4)
  -- immediates (R100)
  | addi (d s1 : SOp) (imm : BitVec 12) | andi (d s1 : SOp) (imm : BitVec 12) | ori (d s1 : SOp) (imm : BitVec 12)
  | xori (d s1 : SOp) (imm : BitVec 12) | slti (d s1 : SOp) (imm : BitVec 12) | sltui (d s1 : SOp) (imm : BitVec 12)
  | slli (d s1 : SOp) (sh : BitVec 6) | srli (d s1 : SOp) (sh : BitVec 6) | srai (d s1 : SOp) (sh : BitVec 6)
  | addpi (d s1 : SOp) (imm : BitVec 12) | bfx (d s1 : SOp) (pos lenm1 : BitVec 6)
  | bfxu (d s1 : SOp) (pos lenm1 : BitVec 6) | bfi (d s1 : SOp) (pos lenm1 : BitVec 6)
  | pfmt (d s1 : SOp) (fmt : BitVec 5) (blog : BitVec 3) | pkey (d s1 : SOp) (key : BitVec 4)
  -- branches (R102 to R104)
  | beq (s1 s2 : SOp) (off : BitVec 12) | bne (s1 s2 : SOp) (off : BitVec 12) | blt (s1 s2 : SOp) (off : BitVec 12)
  | bge (s1 s2 : SOp) (off : BitVec 12) | bltu (s1 s2 : SOp) (off : BitVec 12) | bgeu (s1 s2 : SOp) (off : BitVec 12)
  | jl (d : SOp) (off : BitVec 18) | jlr (d s1 : SOp) (imm : BitVec 12)
  -- local memory, 32-bit forms (R154)
  | ldS8 (d s1 : SOp) (off : BitVec 8) (la : BitVec 4) | ldZ8 (d s1 : SOp) (off : BitVec 8) (la : BitVec 4)
  | ldS16 (d s1 : SOp) (off : BitVec 8) (la : BitVec 4) | ldZ16 (d s1 : SOp) (off : BitVec 8) (la : BitVec 4)
  | ldS32 (d s1 : SOp) (off : BitVec 8) (la : BitVec 4) | ldZ32 (d s1 : SOp) (off : BitVec 8) (la : BitVec 4)
  | ld (d s1 : SOp) (off : BitVec 8) (la : BitVec 4) | ldFe (d s1 : SOp) (off : BitVec 8) (la : BitVec 4)
  | ldFec (d s1 : SOp) (off : BitVec 8) (la : BitVec 4) | st8 (data s1 : SOp) (off : BitVec 12)
  | st16 (data s1 : SOp) (off : BitVec 12) | st32 (data s1 : SOp) (off : BitVec 12)
  | st (data s1 : SOp) (off : BitVec 12) | stSf (data s1 : SOp) (off : BitVec 12)
  | ldv (d : VOp) (s1 : SOp) (off : BitVec 8) (la : BitVec 4)
  | ldvFe (d : VOp) (s1 : SOp) (off : BitVec 8) (la : BitVec 4)
  | ldvFec (d : VOp) (s1 : SOp) (off : BitVec 8) (la : BitVec 4) | stv (data : VOp) (s1 : SOp) (off : BitVec 12)
  | stvSf (data : VOp) (s1 : SOp) (off : BitVec 12)
  -- local memory, 64-bit forms (R153)
  | ldS8Long (d s1 : SOp) (off : BitVec 16) (la : BitVec 4) | ldZ8Long (d s1 : SOp) (off : BitVec 16) (la : BitVec 4)
  | ldS16Long (d s1 : SOp) (off : BitVec 16) (la : BitVec 4)
  | ldZ16Long (d s1 : SOp) (off : BitVec 16) (la : BitVec 4)
  | ldS32Long (d s1 : SOp) (off : BitVec 16) (la : BitVec 4)
  | ldZ32Long (d s1 : SOp) (off : BitVec 16) (la : BitVec 4) | ldLong (d s1 : SOp) (off : BitVec 16) (la : BitVec 4)
  | ldFeLong (d s1 : SOp) (off : BitVec 16) (la : BitVec 4)
  | ldFecLong (d s1 : SOp) (off : BitVec 16) (la : BitVec 4)
  | ldvLong (d : VOp) (s1 : SOp) (off : BitVec 16) (la : BitVec 4)
  | ldvFeLong (d : VOp) (s1 : SOp) (off : BitVec 16) (la : BitVec 4)
  | ldvFecLong (d : VOp) (s1 : SOp) (off : BitVec 16) (la : BitVec 4) | st8Long (data s1 : SOp) (off : BitVec 16)
  | st16Long (data s1 : SOp) (off : BitVec 16) | st32Long (data s1 : SOp) (off : BitVec 16)
  | stLong (data s1 : SOp) (off : BitVec 16) | stSfLong (data s1 : SOp) (off : BitVec 16)
  | stvLong (data : VOp) (s1 : SOp) (off : BitVec 16) | stvSfLong (data : VOp) (s1 : SOp) (off : BitVec 16)
  | lde (d s1 s2 : SOp) (la : BitVec 4) | ste (data s1 s2 : SOp)
  | amo (op : AmoOp) (wide : Bool) (d s1 s2 s3 : SOp) (off : BitVec 16) (la : BitVec 4)
  -- system (R69 to R74, R106 to R117)
  | tret | brk | wfe | retire | yield | hexit (s1 : SOp) | gtime (d : SOp) | cid (d : SOp) | hstart (d s1 s2 : SOp)
  | hjoin (d s1 : SOp) | dhop (d s1 s2 : SOp) | sys (code : BitVec 12) | csrr (d : SOp) (csr : BitVec 12)
  | csrw (d s1 : SOp) (csr : BitVec 12) | csrs (d s1 : SOp) (csr : BitVec 12) | csrc (d s1 : SOp) (csr : BitVec 12)
  -- barriers, phases and flags (R185, R213, R280)
  | bara (b : BitVec 6) | barw (b : BitVec 6) | phase (level : BitVec 3) | farm (flag : BitVec 8) (s1 : SOp)
  | fwait (flag : BitVec 8) | fread (d : SOp) (flag : BitVec 8) | fclr (flag : BitVec 8)
  -- pushes and queues (R190, R238, R269, R285)
  | tcmd (q : Fin 4) (s1 : Fin 48) | tcmdm (q : Fin 4) (s1 : SOp) | unlease | slotq (d : SOp) | launch (d s1 : SOp)
  | tkput (s1 s2 : SOp) | lease (budget : BitVec 7) | pack (d s1 s2 : SOp) | unpack (d s1 s2 : SOp)
  | pext (d s1 s2 : SOp) | gwid (width : BitVec 6) | tkget (d s1 : SOp) (la : BitVec 4)
  -- literals and select (R50, R101)
  | lit (d : SOp) (imm : BitVec 32) | lith (d : SOp) (imm : BitVec 32) | sel (d s1 s2 s3 : SOp)
  -- vectors (R47, R48)
  | vadd (t : VType) (m : Fin 8) (d s1 s2 : VOp) | vsub (t : VType) (m : Fin 8) (d s1 s2 : VOp)
  | vmul (t : VType) (m : Fin 8) (d s1 s2 : VOp) | vfma (t : VType) (m : Fin 8) (d s1 s2 : VOp)
  | vfms (t : VType) (m : Fin 8) (d s1 s2 : VOp) | vnfma (t : VType) (m : Fin 8) (d s1 s2 : VOp)
  | vmin (t : VType) (m : Fin 8) (d s1 s2 : VOp) | vmax (t : VType) (m : Fin 8) (d s1 s2 : VOp)
  | vabs (t : VType) (m : Fin 8) (d s1 : VOp) | vneg (t : VType) (m : Fin 8) (d s1 : VOp)
  | vsel (t : VType) (m : Fin 8) (d s1 s2 : VOp) | vand (t : VType) (m : Fin 8) (d s1 s2 : VOp)
  | vor (t : VType) (m : Fin 8) (d s1 s2 : VOp) | vxor (t : VType) (m : Fin 8) (d s1 s2 : VOp)
  | vshl (t : VType) (m : Fin 8) (d s1 s2 : VOp) | vshr (t : VType) (m : Fin 8) (d s1 s2 : VOp)
  | vshra (t : VType) (m : Fin 8) (d s1 s2 : VOp) | vreds (t : VType) (m : Fin 8) (d s1 : VOp)
  | vredm (t : VType) (m : Fin 8) (d s1 : VOp) | vbcast (t : VType) (m : Fin 8) (d : VOp) (s1 : SOp)
  | vcmp (p : CmpOp) (t : VType) (m : Fin 8) (d : Fin 8) (s1 s2 : VOp)
  | vshuf (t : VType) (m : Fin 8) (d s1 s2 s3 : VOp) | vins (t : VType) (d : VOp) (s1 : SOp) (lane : BitVec 4)
  | vext (t : VType) (d : SOp) (s1 : VOp) (lane : BitVec 4) | vmaxi (t : VType) (m : Fin 8) (d s3 : SOp) (s1 : VOp)
  | vmini (t : VType) (m : Fin 8) (d s3 : SOp) (s1 : VOp)
  | vcvt (dst src : CvtFmt) (rnd : CvtRnd) (m : Fin 8) (d s1 : VOp)
  | vcvtef (dst src : CvtFmt) (rnd : CvtRnd) (m : Fin 8) (d s3 s1 : VOp)
  | vrcp (t : VType) (d s1 : VOp) (la : BitVec 4) | vrsq (t : VType) (d s1 : VOp) (la : BitVec 4)
  | vrcps (t : VType) (d s1 s2 : VOp) (la : BitVec 4) | vrsqs (t : VType) (d s1 s2 : VOp) (la : BitVec 4)
  | vexp2 (t : VType) (d s1 : VOp) (la : BitVec 4) | vlog2 (t : VType) (d s1 : VOp) (la : BitVec 4)
  | vdot4 (sg : DotSign) (m : Fin 8) (d s1 s2 : VOp)
  -- remote access (R177 to R181)
  | rst8 (s2 s1 : SOp) (flag : BitVec 8) (la : BitVec 4) | rst16 (s2 s1 : SOp) (flag : BitVec 8) (la : BitVec 4)
  | rst32 (s2 s1 : SOp) (flag : BitVec 8) (la : BitVec 4) | rst (s2 s1 : SOp) (flag : BitVec 8) (la : BitVec 4)
  | rstv (s2 : VOp) (s1 : SOp) (flag : BitVec 8) (la : BitVec 4)
  | rldS8 (d s1 : SOp) (off : BitVec 16) (la : BitVec 4) | rldZ8 (d s1 : SOp) (off : BitVec 16) (la : BitVec 4)
  | rldS16 (d s1 : SOp) (off : BitVec 16) (la : BitVec 4) | rldZ16 (d s1 : SOp) (off : BitVec 16) (la : BitVec 4)
  | rldS32 (d s1 : SOp) (off : BitVec 16) (la : BitVec 4) | rldZ32 (d s1 : SOp) (off : BitVec 16) (la : BitVec 4)
  | rld (d s1 : SOp) (off : BitVec 16) (la : BitVec 4) | rldv (d : VOp) (s1 : SOp) (off : BitVec 16) (la : BitVec 4)
  | ramo (op : AmoOp) (wide : Bool) (s1 s2 s3 : SOp) (flag : BitVec 8) (la : BitVec 4)
  | ramor (op : AmoOp) (wide : Bool) (d s1 s2 s3 : SOp) (la : BitVec 4)
  -- copy engine (R191 to R199); the command acts for the channel `ch` of core `c`
  | ccopy (h : CmdHdr) (src dst : Word) (count : BitVec 32) | ccopy2 (h : CmdHdr) (src dst shape : Word)
  | ccopy3 (h : CmdHdr) (src dst shape : Word) | cfill (h : CmdHdr) (value dst : Word) (count : BitVec 32)
  | cgather (h : CmdHdr) (src dst : Word) (count : BitVec 32) (listkey : BitVec 4) (list : BitVec 19)
  | cscatter (h : CmdHdr) (src dst : Word) (count : BitVec 32) (listkey : BitVec 4) (list : BitVec 19)
  | cstream (h : CmdHdr) (mem shape : Word) (dir : Bool) (stream : BitVec 2)
  | cflag (h : CmdHdr) (addr : BitVec 52) (value : BitVec 40) | clink (h : CmdHdr) (next : Word) | cend (h : CmdHdr)
  | ngemv (h : CmdHdr) (matrix vector shape : Word)
  -- the square (R238 to R262); the command acts for core `c`
  | tlda (h : CmdHdr) (src : Word) (stride : BitVec 32) (kbm1 : BitVec 2)
  | tldb (h : CmdHdr) (src : Word) (stride : BitVec 32) (kbm1 : BitVec 2)
  | tmma (h : CmdHdr) (slot : BitVec 16) (fresh : Bool) | tzps (h : CmdHdr) (slot : BitVec 16) (ty : BitVec 2)
  | tsto (h : CmdHdr) (slot : BitVec 16) (dst : Word) (stride : BitVec 32)
  | tadds (h : CmdHdr) (slot : BitVec 16) (dst : Word) (stride : BitVec 32) | trel (h : CmdHdr) (slot : BitVec 16)
  | pmul (h : CmdHdr) (slot : BitVec 16) (split : Bool) (a b : Word)
  | pmac (h : CmdHdr) (slot : BitVec 16) (split : Bool) (a b : Word)
  | pextb (h : CmdHdr) (slot : BitVec 16) (product : BitVec 2) (first count : BitVec 16) (dst : Word)
  -- die collective engine and eq3 commands; `c` is the pushing core, `t` the pushing slot
  | mdefDefine (h : CmdHdr) (deff meeting parent : Word) | mdefDestroy (h : CmdHdr) (deff meeting parent : Word)
  | srouteLoad (h : CmdHdr) (w1 sets : Word) | srouteStep (h : CmdHdr) (w1 sets : Word)
  | srouteClear (h : CmdHdr) (w1 sets : Word) | kcard (h : CmdHdr)
  | frsave (h : CmdHdr) (launch : BitVec 16) (mode : BitVec 2) (image : BitVec 52) (limit : BitVec 32)
  | frload (h : CmdHdr) (image : BitVec 52)
  -- meetings (R369 to R373)
  | meet (s1 : SOp) (s2 : VOp) | meetr (d : VOp) (s1 : SOp) (la : BitVec 4)
  -- division (R95)
  | divideComplete
  -- local memory, 64-bit forms (R153)
  | localLoadComplete | storePerform | stePerform | fullEmptyServe | instructionFetch
  -- barriers, phases and flags (R185, R213, R280)
  | baraArrive | phaseArrive | domainReleaseDeliver
  -- pushes and queues (R190, R238, R269, R285)
  | commandQueueEnter | taskPacketAppend | tkgetComplete
  -- vectors (R47, R48)
  | approximationComplete
  -- remote access (R177 to R181)
  | postedHandoff | remoteStoreArrive | remoteAtomicArrive | remoteLoadArrive | flagWindowArrive
  | nibbleMessageArrive | remoteAckReturn | remoteLoadComplete | remoteFailureReturn | linkWordArrive
  | portTransferContinue | trapEntry
  -- copy engine (R191 to R199); the command acts for the channel `ch` of core `c`
  | copyListStart | commandWordRead | ngemvServe | copyAccessPerform | copyCommandEnd | copyRecordPush | streamRefill
  | streamDrain | engineRecordArrive
  -- the square (R238 to R262); the command acts for core `c`
  | leaseGrant | leaseTurnEnd | leaseReleaseDone | unleasedCommandReject | arrayCommandEnd | arrayRecordPush
  | limiterTokenRenew
  -- die collective engine and eq3 commands; `c` is the pushing core, `t` the pushing slot
  | frsaveImageWrite | frsaveEnd | frloadTakeEffect | frontierNoticeTake | frontierFire
  -- meetings (R369 to R373)
  | meetArrive | meetingDeadline | meetrRequestArrive | meetrComplete | meetRejectionArrive
  -- launches and groups (R264 to R278)
  | launchQueueNotify | launchQueueEntry | launchRequest | batchDeal | gangStartRelease | groupStart | coreFree
  | sweep
  -- register actions of a context (R165, R212, R284, R318)
  | tqcfgCreate | tqcfgDestroy | tqcfgReply | retag | retagComplete | barcfgWrite | tlbinv | tlbinvDieAck
  | tlbWalkComplete | translationRegister
  -- debug, trace, sampling, dumps (R217 to R234)
  | debugHalt | debugResume | debugStepHalt | debugHoldRelease | dbgrdataWrite | watchpointImpreciseDeliver | trcmark
  | traceEnable | traceSyncRecord | traceFlowRecord | traceWriteFail | samplingPulse | counterOverflow | dumpStart
  | dumpEnd
  -- gang switch, power, shrinking (R323 to R336)
  | gangStopSave | gangStopSaveRestore | gangRestore | gangStop | gangSaveEnd | gangRestoreEnd
  | performanceStateRequest | linkWidthRequest | supplyRampEnd | relockEnd | linkWidthChange | dieGate | dieUngate
  | dieUngateComplete | shrinkGo | shrinkDrained | shrinkComplete
  -- failures and their registers (R337 to R339)
  | meshFlitError | routerFailure | errcntRead | eccstatRead | linkstatRead | portstatRead | uestatRead
  -- reset, boot, host (R340 to R355)
  | moduleReset | bootStageComplete | hostLinkTrain | hostLinkError | hostMemWrite | hostMemRead | hostApertureAccess
  | featureAccept | jobInstall | jobRemove | intmaskWrite | attestationReport | attestationCertificate
  | attestationDone | samplingRestart | debugPortRead | debugPortWrite | tempSensorReading | thermalThrottleStep
  -- fabric (R356 to R365)
  | portControlWrite | portServiceResume | portTrainRetry | scaleupFlitError | portDownResend | fabricMessageArrive
  | ingressResend | registerWrite | hbm4eWriteArrive | launchReplyArrive | taskPacketRemove | ultraEthernetLinkChange
  deriving DecidableEq, Repr

end Sys2Proof
end

