-- ==== Sys2Proof/WellFormed.lean ====
section
/-! DEFINITION. The conditions a legal instruction meets beyond the shape of its fields (R43, R46 to
R51). What depends on where the code runs (helper limits, links off the mesh) is judged at issue. -/

namespace Sys2Proof

/-- Floating-point lane types (the set F of R47). -/
def VType.isFloat : VType → Bool
  | .f32 | .bf16 | .f16 => true
  | _ => false

/-- Width in bits of a lane (R118). -/
def VType.width : VType → Nat
  | .f32 | .i32 => 32
  | .bf16 | .f16 | .i16 => 16
  | .i8 => 8
  | .i64 => 64

/-- Number of lanes of a vector (R118). -/
def VType.lanes (t : VType) : Nat := 128 / t.width

/-- Floating-point conversion formats (R135). -/
def CvtFmt.isFloat : CvtFmt → Bool
  | .f32 | .f16 | .bf16 | .e4m3 | .e5m2 | .e2m1 => true
  | _ => false

/-- Element width in bits of a conversion format (R135). -/
def CvtFmt.width : CvtFmt → Nat
  | .i8 | .e4m3 | .e5m2 => 8
  | .i16 | .f16 | .bf16 => 16
  | .i32 | .f32 => 32
  | .i64 => 64
  | .e2m1 | .i4 => 4

/-- A scalar operand that is a port. -/
def SOp.isPort : SOp → Bool
  | .port _ => true
  | .x _ => false

/-- A vector operand that is a port. -/
def VOp.isPort : VOp → Bool
  | .port _ => true
  | .v _ => false

/-- R49: an FP32 addition has size 32, and only a compare-and-swap names a third specifier. -/
def wfAtomic (op : AmoOp) (wide : Bool) (s3 : SOp) : Bool :=
  (op != .fadd || !wide) && (op == .cas || s3 == .x 0)

/-- R100: the bit field lies in the register. -/
def wfField (pos lenm1 : BitVec 6) : Bool := pos.toNat + lenm1.toNat + 1 ≤ 64

/-- R137: a floating-point source that is not narrower than its destination, and two destinations. -/
def wfCvtef (dst src : CvtFmt) (d s3 : VOp) : Bool :=
  (src == .f32 || src == .f16 || src == .bf16) && dst.width ≤ src.width && d != s3

/-- The whole test of R51 on a decoded instruction; events and commands have none of their own. -/
def wellFormed : Instr → Bool
  | .bfx _ _ pos len | .bfxu _ _ pos len => wfField pos len
  | .bfi d _ pos len => wfField pos len && !d.isPort
  | .amo op wide _ _ _ s3 _ _ => wfAtomic op wide s3
  | .ramo op wide _ _ s3 _ _ => wfAtomic op wide s3
  | .ramor op wide _ _ _ s3 _ => wfAtomic op wide s3
  | .tcmd _ s1 => s1.val ≤ 44
  | .lease b => 1 ≤ b.toNat && b.toNat ≤ 64
  | .gwid w => 8 ≤ w.toNat && w.toNat ≤ 48
  | .lith d _ => !d.isPort
  | .vfma t _ d _ _ | .vfms t _ d _ _ | .vnfma t _ d _ _ => t.isFloat && !d.isPort
  | .vsel _ m _ _ _ => m != 0
  | .vand t _ _ _ _ | .vor t _ _ _ _ | .vxor t _ _ _ _ | .vshl t _ _ _ _ | .vshr t _ _ _ _
  | .vshra t _ _ _ _ => !t.isFloat
  | .vcmp p t _ _ _ _ => (p != .ltu && p != .geu) || !t.isFloat
  | .vshuf t _ _ _ _ _ => !t.isFloat
  | .vins t d _ lane => lane.toNat < t.lanes && !d.isPort
  | .vext t _ _ lane => lane.toNat < t.lanes
  | .vcvtef dst src _ _ d s3 _ => wfCvtef dst src d s3
  | .vrcp t _ _ _ | .vrsq t _ _ _ | .vexp2 t _ _ _ | .vlog2 t _ _ _ => t.isFloat
  | .vrcps t _ _ _ _ | .vrsqs t _ _ _ _ => t.isFloat
  | .vdot4 _ _ d _ _ => !d.isPort
  | _ => true

end Sys2Proof
end

