-- ==== Sys2Proof/Decode.lean ====
section
/-! DEFINITION. Decoding of instruction words (R39 to R51) and command words (R52 to R54), total on any
bytes and rejecting by name; then the encoders, written from the same tables. -/

namespace Sys2Proof

/-- Why bytes are not an instruction (R51). -/
inductive DecodeErr where
  | short
  | unassigned
  | malformed
  | illFormed
  deriving DecidableEq, Repr

/-- The fields of an instruction: word 0 by form A (R40), word 1 (R41), the literal of word 2. -/
structure Fields where
  len : Nat
  maj : Nat
  d : Nat := 0
  s1 : Nat := 0
  s2 : Nat := 0
  hi : Nat := 0
  imm : Nat := 0
  xq : Nat := 0
  s3 : Nat := 0
  la : Nat := 0
  lit : Nat := 0
  deriving DecidableEq, Repr

/-- Every field fits its place. -/
def Fields.fits (f : Fields) : Bool :=
  f.len < 4 && f.maj < 64 && f.d < 64 && f.s1 < 64 && f.s2 < 64 && f.hi < 64 &&
  f.imm < 65536 && f.xq < 64 && f.s3 < 64 && f.la < 16 && f.lit < 4294967296

/-- Word 0 of the fields. -/
def Fields.word0 (f : Fields) : Nat :=
  f.len + 4 * f.maj + 256 * f.d + 16384 * f.s1 + 1048576 * f.s2 + 67108864 * f.hi

/-- Word 1 of the fields. -/
def Fields.word1 (f : Fields) : Nat :=
  f.imm + 65536 * f.xq + 4194304 * f.s3 + 268435456 * f.la

/-- The fields of three words; a short instruction has no word 1, a 64-bit one no word 2 (R39). -/
def Fields.ofWords (w0 w1 w2 : Nat) : Fields :=
  let len := w0 % 4
  let w1 := if 2 ≤ len then w1 else 0
  { len := len, maj := w0 / 4 % 64, d := w0 / 256 % 64, s1 := w0 / 16384 % 64,
    s2 := w0 / 1048576 % 64, hi := w0 / 67108864 % 64,
    imm := w1 % 65536, xq := w1 / 65536 % 64, s3 := w1 / 4194304 % 64, la := w1 / 268435456 % 16,
    lit := if len = 3 then w2 % 4294967296 else 0 }

/-- Length in words by bits [1:0] of word 0 (R39). -/
def lengthOf (w0 : Nat) : Nat :=
  match w0 % 4 with
  | 2 => 2
  | 3 => 3
  | _ => 1

/-- A direction by its number in R42. -/
def dirOf : Nat → Dir
  | 0 => .n | 1 => .e | 2 => .s | _ => .w

/-- A direction's number. -/
def dirNum : Dir → Nat
  | .n => 0 | .e => 1 | .s => 2 | .w => 3

/-- Ports 48 to 63 by the specifier minus 48 (R42). -/
def portOf (k : Nat) : Port :=
  match k / 4 with
  | 0 => .ln (dirOf (k % 4))
  | 1 => .eq (Fin.ofNat 4 k)
  | 2 => .st (Fin.ofNat 4 k)
  | _ => .pp (Fin.ofNat 4 k)

/-- The specifier of a port, minus 48. -/
def portNum : Port → Nat
  | .ln d => dirNum d
  | .eq q => 4 + q.val
  | .st q => 8 + q.val
  | .pp q => 12 + q.val

/-- A scalar-class specifier (R42). -/
def SOp.dec (k : Nat) : SOp := if h : k < 48 then .x ⟨k, h⟩ else .port (portOf (k - 48))

/-- The number of a scalar-class specifier. -/
def SOp.enc : SOp → Nat
  | .x r => r.val
  | .port p => 48 + portNum p

/-- A vector-class specifier (R42); 32 to 47 are illegal. -/
def VOp.dec (k : Nat) : Option VOp :=
  if h : k < 32 then some (.v ⟨k, h⟩) else if k < 48 then none else some (.port (portOf (k - 48)))

/-- The number of a vector-class specifier. -/
def VOp.enc : VOp → Nat
  | .v r => r.val
  | .port p => 48 + portNum p

/-- The TYPE field (R47). -/
def VType.dec : Nat → Option VType
  | 0 => some .f32 | 1 => some .bf16 | 2 => some .f16 | 3 => some .i8 | 4 => some .i16
  | 5 => some .i32 | 6 => some .i64 | _ => none

/-- The number of a lane type. -/
def VType.enc : VType → Nat
  | .f32 => 0 | .bf16 => 1 | .f16 => 2 | .i8 => 3 | .i16 => 4 | .i32 => 5 | .i64 => 6

/-- The operation code of R49. -/
def AmoOp.dec : Nat → Option AmoOp
  | 0 => some .add | 1 => some .and | 2 => some .or | 3 => some .xor | 4 => some .min | 5 => some .max
  | 6 => some .minu | 7 => some .maxu | 8 => some .swap | 9 => some .cas | 10 => some .fadd | _ => none

/-- The number of an atomic operation. -/
def AmoOp.enc : AmoOp → Nat
  | .add => 0 | .and => 1 | .or => 2 | .xor => 3 | .min => 4 | .max => 5
  | .minu => 6 | .maxu => 7 | .swap => 8 | .cas => 9 | .fadd => 10

/-- The predicate code of R48. -/
def CmpOp.dec : Nat → Option CmpOp
  | 0 => some .eq | 1 => some .ne | 2 => some .lt | 3 => some .le | 4 => some .gt | 5 => some .ge
  | 6 => some .ltu | 7 => some .geu | _ => none

/-- The number of a predicate. -/
def CmpOp.enc : CmpOp → Nat
  | .eq => 0 | .ne => 1 | .lt => 2 | .le => 3 | .gt => 4 | .ge => 5 | .ltu => 6 | .geu => 7

/-- The conversion format code of R135. -/
def CvtFmt.dec : Nat → Option CvtFmt
  | 1 => some .i8 | 2 => some .i16 | 3 => some .i32 | 4 => some .i64 | 5 => some .f32 | 6 => some .f16
  | 7 => some .bf16 | 8 => some .e4m3 | 9 => some .e5m2 | 10 => some .e2m1 | 11 => some .i4 | _ => none

/-- The number of a conversion format. -/
def CvtFmt.enc : CvtFmt → Nat
  | .i8 => 1 | .i16 => 2 | .i32 => 3 | .i64 => 4 | .f32 => 5 | .f16 => 6
  | .bf16 => 7 | .e4m3 => 8 | .e5m2 => 9 | .e2m1 => 10 | .i4 => 11

/-- The rounding code of R135. -/
def CvtRnd.dec : Nat → Option CvtRnd
  | 0 => some .ne | 1 => some .z | 2 => some .sat | _ => none

/-- The number of a rounding. -/
def CvtRnd.enc : CvtRnd → Nat
  | .ne => 0 | .z => 1 | .sat => 2

/-- The signedness code of R48. -/
def DotSign.dec : Nat → Option DotSign
  | 0 => some .ss | 1 => some .uu | 2 => some .su | _ => none

/-- The number of a signedness. -/
def DotSign.enc : DotSign → Nat
  | .ss => 0 | .uu => 1 | .su => 2

namespace Fields

/-- Operands by position. -/
def xd (f : Fields) : SOp := SOp.dec f.d
def xs1 (f : Fields) : SOp := SOp.dec f.s1
def xs2 (f : Fields) : SOp := SOp.dec f.s2
def xs3 (f : Fields) : SOp := SOp.dec f.s3
/-- IMM12 and OFF12: [31:26] above [25:20]. -/
def imm12 (f : Fields) : BitVec 12 := BitVec.ofNat 12 (64 * f.hi + f.s2)
/-- LA of forms K and M: bits [31:28]. -/
def la32 (f : Fields) : BitVec 4 := BitVec.ofNat 4 (f.hi / 4)
/-- LA of word 1. -/
def la64 (f : Fields) : BitVec 4 := BitVec.ofNat 4 f.la
/-- SUB of form K: bits [27:26]. -/
def sub (f : Fields) : Nat := f.hi % 4
/-- IMM8 of form M. -/
def imm8 (f : Fields) : BitVec 8 := BitVec.ofNat 8 (64 * (f.hi % 4) + f.s2)
/-- IMM16 of word 1. -/
def imm16 (f : Fields) : BitVec 16 := BitVec.ofNat 16 f.imm
/-- MASK of form V. -/
def mask (f : Fields) : Fin 8 := Fin.ofNat 8 (f.hi / 8)
/-- TYPE of form V. -/
def ty (f : Fields) : Option VType := VType.dec (f.hi % 8)

end Fields

/-- Accept an instruction when a test of its fields holds. -/
def okIf (b : Bool) (i : Instr) : Except DecodeErr Instr := if b then .ok i else .error .malformed

/-- Accept an instruction when it could be formed. -/
def okSome : Option Instr → Except DecodeErr Instr
  | some i => .ok i
  | none => .error .malformed

/-- Form A of major 0x01 of map A, the register ALU instructions, by MINOR: S2 is 0 for CLZ, CTZ and POP, and MINOR 25 to 63 are
illegal (R46, R92, R93). -/
def decodeAlu (f : Fields) : Except DecodeErr Instr :=
  let d := f.xd; let a := f.xs1; let b := f.xs2
  match f.hi with
  | 0 => .ok (.add d a b) | 1 => .ok (.sub d a b) | 2 => .ok (.mul d a b) | 3 => .ok (.mulh d a b)
  | 4 => .ok (.mulhu d a b) | 5 => .ok (.and d a b) | 6 => .ok (.or d a b) | 7 => .ok (.xor d a b)
  | 8 => .ok (.andn d a b) | 9 => .ok (.orn d a b) | 10 => .ok (.sll d a b) | 11 => .ok (.srl d a b)
  | 12 => .ok (.sra d a b) | 13 => .ok (.min d a b) | 14 => .ok (.max d a b) | 15 => .ok (.minu d a b)
  | 16 => .ok (.maxu d a b) | 17 => .ok (.slt d a b) | 18 => .ok (.sltu d a b) | 19 => .ok (.seq d a b)
  | 20 => .ok (.sne d a b) | 21 => .ok (.addp d a b)
  | 22 => okIf (f.s2 == 0) (.clz d a) | 23 => okIf (f.s2 == 0) (.ctz d a)
  | 24 => okIf (f.s2 == 0) (.pop d a)
  | _ => .error .malformed

/-- Major 0x2D of map A by MINOR (R46). -/
def decodeSys (f : Fields) : Except DecodeErr Instr :=
  let none3 := f.d == 0 && f.s1 == 0 && f.s2 == 0
  match f.hi with
  | 0 => okIf none3 .tret | 1 => okIf none3 .brk | 2 => okIf none3 .wfe | 3 => okIf none3 .retire
  | 4 => okIf none3 .yield
  | 5 => okIf (f.d == 0 && f.s2 == 0) (.hexit f.xs1)
  | 6 => okIf (f.s1 == 0 && f.s2 == 0) (.gtime f.xd)
  | 7 => okIf (f.s1 == 0 && f.s2 == 0) (.cid f.xd)
  | 8 => .ok (.hstart f.xd f.xs1 f.xs2)
  | 9 => okIf (f.s2 == 0) (.hjoin f.xd f.xs1)
  | 10 => .ok (.dhop f.xd f.xs1 f.xs2)
  | _ => .error .malformed

/-- Major 0x3A of map A by MINOR (R46). -/
def decodePush (f : Fields) : Except DecodeErr Instr :=
  match f.hi with
  | 0 => if h : f.s1 < 48 then okIf (f.s2 == 0 && 52 ≤ f.d && f.d ≤ 55) (.tcmd (Fin.ofNat 4 f.d) ⟨f.s1, h⟩)
         else .error .malformed
  | 1 => okIf (f.s2 == 0 && 52 ≤ f.d && f.d ≤ 55) (.tcmdm (Fin.ofNat 4 f.d) f.xs1)
  | 2 => okIf (f.d == 0 && f.s1 == 0 && f.s2 == 0) .unlease
  | 3 => okIf (f.s1 == 0 && f.s2 == 0) (.slotq f.xd)
  | 4 => okIf (f.s2 == 0) (.launch f.xd f.xs1)
  | 5 => okIf (f.d == 0) (.tkput f.xs1 f.xs2)
  | _ => .error .malformed

/-- Map A (R46). Majors 0x03 to 0x0F are form I: IMM12, S1 and D (R98, R100). -/
def decodeA (f : Fields) : Except DecodeErr Instr :=
  let imm := f.imm12
  match f.maj with
  | 0x01 => decodeAlu f
  | 0x02 => match f.sub with
    | 0 => .ok (.div f.xd f.xs1 f.xs2 f.la32) | 1 => .ok (.divu f.xd f.xs1 f.xs2 f.la32)
    | 2 => .ok (.rem f.xd f.xs1 f.xs2 f.la32) | _ => .ok (.remu f.xd f.xs1 f.xs2 f.la32)
  | 0x03 => .ok (.addi f.xd f.xs1 imm) | 0x04 => .ok (.andi f.xd f.xs1 imm)
  | 0x05 => .ok (.ori f.xd f.xs1 imm) | 0x06 => .ok (.xori f.xd f.xs1 imm)
  | 0x07 => .ok (.slti f.xd f.xs1 imm) | 0x08 => .ok (.sltui f.xd f.xs1 imm)
  | 0x09 => match f.hi with
    | 0 => .ok (.slli f.xd f.xs1 (BitVec.ofNat 6 f.s2))
    | 16 => .ok (.srli f.xd f.xs1 (BitVec.ofNat 6 f.s2))
    | 32 => .ok (.srai f.xd f.xs1 (BitVec.ofNat 6 f.s2))
    | _ => .error .malformed
  | 0x0A => .ok (.addpi f.xd f.xs1 imm)
  | 0x0B => .ok (.bfx f.xd f.xs1 (BitVec.ofNat 6 f.s2) (BitVec.ofNat 6 f.hi))
  | 0x0C => .ok (.bfxu f.xd f.xs1 (BitVec.ofNat 6 f.s2) (BitVec.ofNat 6 f.hi))
  | 0x0D => .ok (.bfi f.xd f.xs1 (BitVec.ofNat 6 f.s2) (BitVec.ofNat 6 f.hi))
  | 0x0E => okIf (f.hi / 4 == 0) (.pfmt f.xd f.xs1 (BitVec.ofNat 5 (8 * f.hi + f.s2 / 8)) (BitVec.ofNat 3 (f.s2 % 8)))
  | 0x0F => okIf (f.hi == 0 && f.s2 / 16 == 0) (.pkey f.xd f.xs1 (BitVec.ofNat 4 f.s2))
  | 0x10 => .ok (.beq f.xd f.xs1 imm) | 0x11 => .ok (.bne f.xd f.xs1 imm)
  | 0x12 => .ok (.blt f.xd f.xs1 imm) | 0x13 => .ok (.bge f.xd f.xs1 imm)
  | 0x14 => .ok (.bltu f.xd f.xs1 imm) | 0x15 => .ok (.bgeu f.xd f.xs1 imm)
  | 0x16 => .ok (.jl f.xd (BitVec.ofNat 18 (4096 * f.hi + 64 * f.s2 + f.s1)))
  | 0x17 => .ok (.jlr f.xd f.xs1 imm)
  | 0x18 => .ok (.ldS8 f.xd f.xs1 f.imm8 f.la32) | 0x19 => .ok (.ldZ8 f.xd f.xs1 f.imm8 f.la32)
  | 0x1A => .ok (.ldS16 f.xd f.xs1 f.imm8 f.la32) | 0x1B => .ok (.ldZ16 f.xd f.xs1 f.imm8 f.la32)
  | 0x1C => .ok (.ldS32 f.xd f.xs1 f.imm8 f.la32) | 0x1D => .ok (.ldZ32 f.xd f.xs1 f.imm8 f.la32)
  | 0x1E => .ok (.ld f.xd f.xs1 f.imm8 f.la32) | 0x1F => .ok (.ldFe f.xd f.xs1 f.imm8 f.la32)
  | 0x20 => .ok (.ldFec f.xd f.xs1 f.imm8 f.la32)
  | 0x21 => .ok (.st8 f.xd f.xs1 imm) | 0x22 => .ok (.st16 f.xd f.xs1 imm)
  | 0x23 => .ok (.st32 f.xd f.xs1 imm) | 0x24 => .ok (.st f.xd f.xs1 imm)
  | 0x25 => .ok (.stSf f.xd f.xs1 imm)
  | 0x26 => okSome ((VOp.dec f.d).map fun d => .ldv d f.xs1 f.imm8 f.la32)
  | 0x27 => okSome ((VOp.dec f.d).map fun d => .ldvFe d f.xs1 f.imm8 f.la32)
  | 0x28 => okSome ((VOp.dec f.d).map fun d => .ldvFec d f.xs1 f.imm8 f.la32)
  | 0x29 => okSome ((VOp.dec f.d).map fun d => .stv d f.xs1 imm)
  | 0x2A => okSome ((VOp.dec f.d).map fun d => .stvSf d f.xs1 imm)
  | 0x2B => okIf (f.sub == 0) (.lde f.xd f.xs1 f.xs2 f.la32)
  | 0x2C => okIf (f.hi == 0) (.ste f.xd f.xs1 f.xs2)
  | 0x2D => decodeSys f
  | 0x2E => okIf (f.d == 0 && f.s1 == 0) (.sys imm)
  | 0x2F => okIf (f.s1 == 0) (.csrr f.xd imm)
  | 0x30 => .ok (.csrw f.xd f.xs1 imm) | 0x31 => .ok (.csrs f.xd f.xs1 imm)
  | 0x32 => .ok (.csrc f.xd f.xs1 imm)
  | 0x33 => okIf (f.hi == 0 && f.d == 0 && f.s1 == 0) (.bara (BitVec.ofNat 6 f.s2))
  | 0x34 => okIf (f.hi == 0 && f.d == 0 && f.s1 == 0) (.barw (BitVec.ofNat 6 f.s2))
  | 0x35 => okIf (f.hi == 0 && f.s2 / 8 == 0 && f.d == 0 && f.s1 == 0) (.phase (BitVec.ofNat 3 f.s2))
  | 0x36 => okIf (f.hi / 4 == 0 && f.d == 0) (.farm f.imm8 f.xs1)
  | 0x37 => okIf (f.hi / 4 == 0 && f.d == 0 && f.s1 == 0) (.fwait f.imm8)
  | 0x38 => okIf (f.hi / 4 == 0 && f.s1 == 0) (.fread f.xd f.imm8)
  | 0x39 => okIf (f.hi / 4 == 0 && f.d == 0 && f.s1 == 0) (.fclr f.imm8)
  | 0x3A => decodePush f
  | 0x3B => okIf (f.hi / 2 == 0 && f.d == 0 && f.s1 == 0) (.lease (BitVec.ofNat 7 (64 * f.hi + f.s2)))
  | 0x3C => match f.hi with
    | 0 => .ok (.pack f.xd f.xs1 f.xs2) | 1 => .ok (.unpack f.xd f.xs1 f.xs2)
    | 2 => .ok (.pext f.xd f.xs1 f.xs2) | _ => .error .malformed
  | 0x3D => okIf (f.hi == 0 && f.d == 0 && f.s1 == 0) (.gwid (BitVec.ofNat 6 f.s2))
  | 0x3E => okIf (f.sub == 0 && f.s2 == 0) (.tkget f.xd f.xs1 f.la32)
  | _ => .error .unassigned

/-- The three-operand constructor of a major of map B (R47). -/
def vec3 : Nat → Option (VType → Fin 8 → VOp → VOp → VOp → Instr)
  | 0x01 => some .vadd | 0x02 => some .vsub | 0x03 => some .vmul | 0x04 => some .vfma
  | 0x05 => some .vfms | 0x06 => some .vnfma | 0x07 => some .vmin | 0x08 => some .vmax
  | 0x0B => some .vsel | 0x0C => some .vand | 0x0D => some .vor | 0x0E => some .vxor
  | 0x0F => some .vshl | 0x10 => some .vshr | 0x11 => some .vshra | _ => none

/-- The two-operand constructor of a major of map B (R47). -/
def vec2 : Nat → Option (VType → Fin 8 → VOp → VOp → Instr)
  | 0x09 => some .vabs | 0x0A => some .vneg | 0x12 => some .vreds | 0x13 => some .vredm | _ => none

/-- Map B (R47). -/
def decodeB (f : Fields) : Except DecodeErr Instr :=
  match f.ty with
  | none => .error .malformed
  | some t =>
    match vec3 f.maj with
    | some c =>
      match VOp.dec f.d, VOp.dec f.s1, VOp.dec f.s2 with
      | some d, some a, some b => .ok (c t f.mask d a b)
      | _, _, _ => .error .malformed
    | none =>
      match vec2 f.maj with
      | some c =>
        match VOp.dec f.d, VOp.dec f.s1 with
        | some d, some a => okIf (f.s2 == 0) (c t f.mask d a)
        | _, _ => .error .malformed
      | none =>
        if f.maj = 0x14 then
          match VOp.dec f.d with
          | some d => okIf (f.s2 == 0) (.vbcast t f.mask d f.xs1)
          | none => .error .malformed
        else .error .unassigned

/-- Word 1 is zero but for LA and IMM16. -/
def Fields.noXqS3 (f : Fields) : Bool := f.xq == 0 && f.s3 == 0

/-- Word 1 is zero. -/
def Fields.noWord1 (f : Fields) : Bool := f.imm == 0 && f.xq == 0 && f.s3 == 0 && f.la == 0

/-- Major 0x01 of the 64-bit map: loads (R48). -/
def decodeLoad64 (f : Fields) : Except DecodeErr Instr :=
  if f.s2 == 0 && f.noXqS3 then
    match f.hi with
    | 0 => .ok (.ldS8Long f.xd f.xs1 f.imm16 f.la64) | 1 => .ok (.ldZ8Long f.xd f.xs1 f.imm16 f.la64)
    | 2 => .ok (.ldS16Long f.xd f.xs1 f.imm16 f.la64) | 3 => .ok (.ldZ16Long f.xd f.xs1 f.imm16 f.la64)
    | 4 => .ok (.ldS32Long f.xd f.xs1 f.imm16 f.la64) | 5 => .ok (.ldZ32Long f.xd f.xs1 f.imm16 f.la64)
    | 6 => .ok (.ldLong f.xd f.xs1 f.imm16 f.la64) | 7 => .ok (.ldFeLong f.xd f.xs1 f.imm16 f.la64)
    | 8 => .ok (.ldFecLong f.xd f.xs1 f.imm16 f.la64)
    | 9 => okSome ((VOp.dec f.d).map fun d => .ldvLong d f.xs1 f.imm16 f.la64)
    | 10 => okSome ((VOp.dec f.d).map fun d => .ldvFeLong d f.xs1 f.imm16 f.la64)
    | 11 => okSome ((VOp.dec f.d).map fun d => .ldvFecLong d f.xs1 f.imm16 f.la64)
    | _ => .error .malformed
  else .error .malformed

/-- Major 0x02 of the 64-bit map: stores (R48). -/
def decodeStore64 (f : Fields) : Except DecodeErr Instr :=
  if f.d == 0 && f.noXqS3 && f.la == 0 then
    match f.hi with
    | 0 => .ok (.st8Long f.xs2 f.xs1 f.imm16) | 1 => .ok (.st16Long f.xs2 f.xs1 f.imm16)
    | 2 => .ok (.st32Long f.xs2 f.xs1 f.imm16) | 3 => .ok (.stLong f.xs2 f.xs1 f.imm16)
    | 4 => .ok (.stSfLong f.xs2 f.xs1 f.imm16)
    | 5 => okSome ((VOp.dec f.s2).map fun d => .stvLong d f.xs1 f.imm16)
    | 6 => okSome ((VOp.dec f.s2).map fun d => .stvSfLong d f.xs1 f.imm16)
    | _ => .error .malformed
  else .error .malformed

/-- XQ of AMO, RAMO and RAMOR: operation in [3:0], size in [5:4] (R48, R49). -/
def Fields.atomic (f : Fields) : Option (AmoOp × Bool) :=
  match AmoOp.dec (f.xq % 16), f.xq / 16 with
  | some op, 0 => some (op, false)
  | some op, 1 => some (op, true)
  | _, _ => none

/-- Major 0x04 of the 64-bit map: posted stores (R48). -/
def decodeRst (f : Fields) : Except DecodeErr Instr :=
  if f.d == 0 && f.noXqS3 && f.imm / 256 == 0 then
    let flag := BitVec.ofNat 8 f.imm
    match f.hi with
    | 0 => .ok (.rst8 f.xs2 f.xs1 flag f.la64) | 1 => .ok (.rst16 f.xs2 f.xs1 flag f.la64)
    | 2 => .ok (.rst32 f.xs2 f.xs1 flag f.la64) | 3 => .ok (.rst f.xs2 f.xs1 flag f.la64)
    | 4 => okSome ((VOp.dec f.s2).map fun d => .rstv d f.xs1 flag f.la64)
    | _ => .error .malformed
  else .error .malformed

/-- Major 0x05 of the 64-bit map: remote loads (R48). -/
def decodeRld (f : Fields) : Except DecodeErr Instr :=
  if f.s2 == 0 && f.noXqS3 then
    match f.hi with
    | 0 => .ok (.rldS8 f.xd f.xs1 f.imm16 f.la64) | 1 => .ok (.rldZ8 f.xd f.xs1 f.imm16 f.la64)
    | 2 => .ok (.rldS16 f.xd f.xs1 f.imm16 f.la64) | 3 => .ok (.rldZ16 f.xd f.xs1 f.imm16 f.la64)
    | 4 => .ok (.rldS32 f.xd f.xs1 f.imm16 f.la64) | 5 => .ok (.rldZ32 f.xd f.xs1 f.imm16 f.la64)
    | 6 => .ok (.rld f.xd f.xs1 f.imm16 f.la64)
    | 7 => okSome ((VOp.dec f.d).map fun d => .rldv d f.xs1 f.imm16 f.la64)
    | _ => .error .malformed
  else .error .malformed

/-- Majors 0x06 and 0x07: posted and returning atomics (R48, R179). -/
def decodeRamo (f : Fields) : Except DecodeErr Instr :=
  match f.atomic with
  | none => .error .malformed
  | some (op, wide) =>
    if f.maj = 0x06 then
      okIf (f.hi == 0 && f.d == 0 && f.imm / 256 == 0)
        (.ramo op wide f.xs1 f.xs2 f.xs3 (BitVec.ofNat 8 f.imm) f.la64)
    else okIf (f.hi == 0 && f.imm == 0) (.ramor op wide f.xd f.xs1 f.xs2 f.xs3 f.la64)

/-- IMM16 of VCVT and VCVTEF (R48, R135). -/
def Fields.conv (f : Fields) : Option (CvtFmt × CvtFmt × CvtRnd) :=
  match CvtFmt.dec (f.imm % 32), CvtFmt.dec (f.imm / 32 % 32), CvtRnd.dec (f.imm / 1024 % 4) with
  | some a, some b, some r => if f.imm / 4096 = 0 then some (a, b, r) else none
  | _, _, _ => none

/-- The vector majors of the 64-bit map (R48, R126). -/
def decodeVec64 (f : Fields) : Except DecodeErr Instr :=
  match f.ty with
  | none => .error .malformed
  | some t =>
    match f.maj with
    | 0x10 =>
      match CmpOp.dec f.xq, VOp.dec f.s1, VOp.dec f.s2 with
      | some p, some a, some b =>
        okIf (f.d < 8 && f.imm == 0 && f.s3 == 0 && f.la == 0) (.vcmp p t f.mask (Fin.ofNat 8 f.d) a b)
      | _, _, _ => .error .malformed
    | 0x11 =>
      match VOp.dec f.d, VOp.dec f.s1, VOp.dec f.s2, VOp.dec f.s3 with
      | some d, some a, some b, some c => okIf (f.imm == 0 && f.xq == 0 && f.la == 0) (.vshuf t f.mask d a b c)
      | _, _, _, _ => .error .malformed
    | 0x12 =>
      match VOp.dec f.d with
      | some d => okIf (f.hi / 8 == 0 && f.s2 == 0 && f.noXqS3 && f.la == 0 && f.imm / 16 == 0)
          (.vins t d f.xs1 (BitVec.ofNat 4 f.imm))
      | none => .error .malformed
    | 0x13 =>
      match VOp.dec f.s1 with
      | some a => okIf (f.hi / 8 == 0 && f.s2 == 0 && f.noXqS3 && f.la == 0 && f.imm / 16 == 0)
          (.vext t f.xd a (BitVec.ofNat 4 f.imm))
      | none => .error .malformed
    | 0x14 =>
      match VOp.dec f.s1 with
      | some a => okIf (f.s2 == 0 && f.imm == 0 && f.xq == 0 && f.la == 0) (.vmaxi t f.mask f.xd f.xs3 a)
      | none => .error .malformed
    | 0x15 =>
      match VOp.dec f.s1 with
      | some a => okIf (f.s2 == 0 && f.imm == 0 && f.xq == 0 && f.la == 0) (.vmini t f.mask f.xd f.xs3 a)
      | none => .error .malformed
    | 0x16 =>
      match f.conv, VOp.dec f.d, VOp.dec f.s1 with
      | some (x, y, r), some d, some a =>
        okIf (f.hi % 8 == 0 && f.s2 == 0 && f.noXqS3 && f.la == 0) (.vcvt x y r f.mask d a)
      | _, _, _ => .error .malformed
    | 0x17 =>
      match f.conv, VOp.dec f.d, VOp.dec f.s1, VOp.dec f.s3 with
      | some (x, y, r), some d, some a, some e =>
        okIf (f.hi % 8 == 0 && f.s2 == 0 && f.xq == 0 && f.la == 0) (.vcvtef x y r f.mask d e a)
      | _, _, _, _ => .error .malformed
    | 0x1E =>
      match DotSign.dec f.xq, VOp.dec f.d, VOp.dec f.s1, VOp.dec f.s2 with
      | some g, some d, some a, some b =>
        okIf (f.hi % 8 == 3 && f.imm == 0 && f.s3 == 0 && f.la == 0) (.vdot4 g f.mask d a b)
      | _, _, _, _ => .error .malformed
    | m =>
      match VOp.dec f.d, VOp.dec f.s1, VOp.dec f.s2 with
      | some d, some a, some b =>
        if f.hi / 8 == 0 && f.noXqS3 && f.imm == 0 then
          match m with
          | 0x18 => okIf (f.s2 == 0) (.vrcp t d a f.la64)
          | 0x19 => okIf (f.s2 == 0) (.vrsq t d a f.la64)
          | 0x1A => .ok (.vrcps t d a b f.la64)
          | 0x1B => .ok (.vrsqs t d a b f.la64)
          | 0x1C => okIf (f.s2 == 0) (.vexp2 t d a f.la64)
          | 0x1D => okIf (f.s2 == 0) (.vlog2 t d a f.la64)
          | _ => .error .unassigned
        else .error .malformed
      | _, _, _ => .error .malformed

/-- The 64-bit map (R48). -/
def decode64 (f : Fields) : Except DecodeErr Instr :=
  match f.maj with
  | 0x01 => decodeLoad64 f
  | 0x02 => decodeStore64 f
  | 0x03 =>
    match f.atomic with
    | some (op, wide) => okIf (f.hi == 0) (.amo op wide f.xd f.xs1 f.xs2 f.xs3 f.imm16 f.la64)
    | none => .error .malformed
  | 0x04 => decodeRst f
  | 0x05 => decodeRld f
  | 0x06 => decodeRamo f
  | 0x07 => decodeRamo f
  | 0x08 => okIf (f.hi == 0 && f.imm == 0 && f.xq == 0 && f.la == 0) (.sel f.xd f.xs1 f.xs2 f.xs3)
  | 0x09 =>
    match f.hi with
    | 0 =>
      match VOp.dec f.s2 with
      | some b => okIf (f.d == 0 && f.noWord1) (.meet f.xs1 b)
      | none => .error .malformed
    | 1 =>
      match VOp.dec f.d with
      | some d => okIf (f.s2 == 0 && f.noXqS3 && f.imm == 0) (.meetr d f.xs1 f.la64)
      | none => .error .malformed
    | _ => .error .malformed
  | _ => if 0x10 ≤ f.maj ∧ f.maj ≤ 0x1E then decodeVec64 f else .error .unassigned

/-- The 96-bit map (R50). -/
def decode96 (f : Fields) : Except DecodeErr Instr :=
  let plain := f.hi == 0 && f.s1 == 0 && f.s2 == 0 && f.noWord1
  match f.maj with
  | 0x01 => okIf plain (.lit f.xd (BitVec.ofNat 32 f.lit))
  | 0x02 => okIf plain (.lith f.xd (BitVec.ofNat 32 f.lit))
  | _ => .error .unassigned

/-- Decode the fields by their map, without the test of `wellFormed`. -/
def decodeRaw (f : Fields) : Except DecodeErr Instr :=
  match f.len with
  | 0 => decodeA f
  | 1 => decodeB f
  | 2 => decode64 f
  | _ => decode96 f

/-- Decode the fields of an instruction (R51). -/
def decodeFields (f : Fields) : Except DecodeErr Instr :=
  match decodeRaw f with
  | .ok i => if wellFormed i then .ok i else .error .illFormed
  | .error e => .error e

/-- The little-endian number of a list of bytes (R6). -/
def leBytes : List Byte → Nat
  | [] => 0
  | b :: r => b.toNat + 256 * leBytes r

/-- The `k` little-endian bytes of a number (R6). -/
def toLeBytes : Nat → Nat → List Byte
  | 0, _ => []
  | k + 1, n => BitVec.ofNat 8 n :: toLeBytes k (n / 256)

/-- Decode the instruction at the head of a list of bytes; the answer names its length in bytes. -/
def decodeBytes (bs : List Byte) : Except DecodeErr (Instr × Nat) :=
  let w0 := leBytes (bs.take 4)
  let n := 4 * lengthOf w0
  if bs.length < 4 ∨ bs.length < n then .error .short
  else
    match decodeFields (Fields.ofWords w0 (leBytes ((bs.drop 4).take 4)) (leBytes ((bs.drop 8).take 4))) with
    | .ok i => .ok (i, n)
    | .error e => .error e

/-- The instruction the decoder reads from an instruction whose bits are `w`, bit 0 the least
significant bit of the first word; every bit above `nbits` is zero. -/
def decodeTableWord (nbits w : Nat) : Option Instr :=
  match decodeBytes (toLeBytes 12 (w % 2 ^ nbits)) with
  | .ok (i, _) => some i
  | .error _ => none

/-! The encoder of instructions. -/

/-- Form A in map A. -/
def fA (maj hi : Nat) (d s1 s2 : Nat) : Fields := { len := 0, maj := maj, d := d, s1 := s1, s2 := s2, hi := hi }

/-- Form I. -/
def fI (maj : Nat) (d s1 imm : Nat) : Fields :=
  { len := 0, maj := maj, d := d, s1 := s1, s2 := imm % 64, hi := imm / 64 }

/-- Form K. -/
def fK (maj sub la : Nat) (d s1 s2 : Nat) : Fields :=
  { len := 0, maj := maj, d := d, s1 := s1, s2 := s2, hi := 4 * la + sub }

/-- Form M. -/
def fM (maj : Nat) (d s1 : Nat) (off : BitVec 8) (la : BitVec 4) : Fields :=
  { len := 0, maj := maj, d := d, s1 := s1, s2 := off.toNat % 64, hi := 4 * la.toNat + off.toNat / 64 }

/-- Form V of map B. -/
def fV (maj : Nat) (t : VType) (m : Fin 8) (d s1 s2 : Nat) : Fields :=
  { len := 1, maj := maj, d := d, s1 := s1, s2 := s2, hi := 8 * m.val + t.enc }

/-- The 64-bit map with a scalar word 0. -/
def f64 (maj hi : Nat) (d s1 s2 : Nat) (imm xq s3 la : Nat) : Fields :=
  { len := 2, maj := maj, d := d, s1 := s1, s2 := s2, hi := hi, imm := imm, xq := xq, s3 := s3, la := la }

/-- The 64-bit map with a vector word 0. -/
def f64V (maj : Nat) (t : Nat) (m : Fin 8) (d s1 s2 : Nat) (imm xq s3 la : Nat) : Fields :=
  f64 maj (8 * m.val + t) d s1 s2 imm xq s3 la

/-- IMM16 of a conversion. -/
def convImm (dst src : CvtFmt) (r : CvtRnd) : Nat := dst.enc + 32 * src.enc + 1024 * r.enc

/-- The fields of an instruction; none for an event or an engine command. -/
def encodeFields : Instr → Option Fields
  | .add d a b => some (fA 1 0 d.enc a.enc b.enc) | .sub d a b => some (fA 1 1 d.enc a.enc b.enc)
  | .mul d a b => some (fA 1 2 d.enc a.enc b.enc) | .mulh d a b => some (fA 1 3 d.enc a.enc b.enc)
  | .mulhu d a b => some (fA 1 4 d.enc a.enc b.enc) | .and d a b => some (fA 1 5 d.enc a.enc b.enc)
  | .or d a b => some (fA 1 6 d.enc a.enc b.enc) | .xor d a b => some (fA 1 7 d.enc a.enc b.enc)
  | .andn d a b => some (fA 1 8 d.enc a.enc b.enc) | .orn d a b => some (fA 1 9 d.enc a.enc b.enc)
  | .sll d a b => some (fA 1 10 d.enc a.enc b.enc) | .srl d a b => some (fA 1 11 d.enc a.enc b.enc)
  | .sra d a b => some (fA 1 12 d.enc a.enc b.enc) | .min d a b => some (fA 1 13 d.enc a.enc b.enc)
  | .max d a b => some (fA 1 14 d.enc a.enc b.enc) | .minu d a b => some (fA 1 15 d.enc a.enc b.enc)
  | .maxu d a b => some (fA 1 16 d.enc a.enc b.enc) | .slt d a b => some (fA 1 17 d.enc a.enc b.enc)
  | .sltu d a b => some (fA 1 18 d.enc a.enc b.enc) | .seq d a b => some (fA 1 19 d.enc a.enc b.enc)
  | .sne d a b => some (fA 1 20 d.enc a.enc b.enc) | .addp d a b => some (fA 1 21 d.enc a.enc b.enc)
  | .clz d a => some (fA 1 22 d.enc a.enc 0) | .ctz d a => some (fA 1 23 d.enc a.enc 0)
  | .pop d a => some (fA 1 24 d.enc a.enc 0)
  | .div d a b la => some (fK 2 0 la.toNat d.enc a.enc b.enc) | .divu d a b la => some (fK 2 1 la.toNat d.enc a.enc b.enc)
  | .rem d a b la => some (fK 2 2 la.toNat d.enc a.enc b.enc) | .remu d a b la => some (fK 2 3 la.toNat d.enc a.enc b.enc)
  | .addi d a i => some (fI 3 d.enc a.enc i.toNat) | .andi d a i => some (fI 4 d.enc a.enc i.toNat)
  | .ori d a i => some (fI 5 d.enc a.enc i.toNat) | .xori d a i => some (fI 6 d.enc a.enc i.toNat)
  | .slti d a i => some (fI 7 d.enc a.enc i.toNat) | .sltui d a i => some (fI 8 d.enc a.enc i.toNat)
  | .slli d a s => some (fA 9 0 d.enc a.enc s.toNat) | .srli d a s => some (fA 9 16 d.enc a.enc s.toNat)
  | .srai d a s => some (fA 9 32 d.enc a.enc s.toNat) | .addpi d a i => some (fI 10 d.enc a.enc i.toNat)
  | .bfx d a p l => some (fA 11 l.toNat d.enc a.enc p.toNat) | .bfxu d a p l => some (fA 12 l.toNat d.enc a.enc p.toNat)
  | .bfi d a p l => some (fA 13 l.toNat d.enc a.enc p.toNat)
  | .pfmt d a fm bl => some (fI 14 d.enc a.enc (8 * fm.toNat + bl.toNat))
  | .pkey d a k => some (fA 15 0 d.enc a.enc k.toNat)
  | .beq a b o => some (fI 0x10 a.enc b.enc o.toNat) | .bne a b o => some (fI 0x11 a.enc b.enc o.toNat)
  | .blt a b o => some (fI 0x12 a.enc b.enc o.toNat) | .bge a b o => some (fI 0x13 a.enc b.enc o.toNat)
  | .bltu a b o => some (fI 0x14 a.enc b.enc o.toNat) | .bgeu a b o => some (fI 0x15 a.enc b.enc o.toNat)
  | .jl d o => some (fA 0x16 (o.toNat / 4096) d.enc (o.toNat % 64) (o.toNat / 64 % 64))
  | .jlr d a i => some (fI 0x17 d.enc a.enc i.toNat)
  | .ldS8 d a o l => some (fM 0x18 d.enc a.enc o l) | .ldZ8 d a o l => some (fM 0x19 d.enc a.enc o l)
  | .ldS16 d a o l => some (fM 0x1A d.enc a.enc o l) | .ldZ16 d a o l => some (fM 0x1B d.enc a.enc o l)
  | .ldS32 d a o l => some (fM 0x1C d.enc a.enc o l) | .ldZ32 d a o l => some (fM 0x1D d.enc a.enc o l)
  | .ld d a o l => some (fM 0x1E d.enc a.enc o l) | .ldFe d a o l => some (fM 0x1F d.enc a.enc o l)
  | .ldFec d a o l => some (fM 0x20 d.enc a.enc o l)
  | .st8 d a o => some (fI 0x21 d.enc a.enc o.toNat) | .st16 d a o => some (fI 0x22 d.enc a.enc o.toNat)
  | .st32 d a o => some (fI 0x23 d.enc a.enc o.toNat) | .st d a o => some (fI 0x24 d.enc a.enc o.toNat)
  | .stSf d a o => some (fI 0x25 d.enc a.enc o.toNat)
  | .ldv d a o l => some (fM 0x26 d.enc a.enc o l) | .ldvFe d a o l => some (fM 0x27 d.enc a.enc o l)
  | .ldvFec d a o l => some (fM 0x28 d.enc a.enc o l)
  | .stv d a o => some (fI 0x29 d.enc a.enc o.toNat) | .stvSf d a o => some (fI 0x2A d.enc a.enc o.toNat)
  | .ldS8Long d a o l => some (f64 1 0 d.enc a.enc 0 o.toNat 0 0 l.toNat)
  | .ldZ8Long d a o l => some (f64 1 1 d.enc a.enc 0 o.toNat 0 0 l.toNat)
  | .ldS16Long d a o l => some (f64 1 2 d.enc a.enc 0 o.toNat 0 0 l.toNat)
  | .ldZ16Long d a o l => some (f64 1 3 d.enc a.enc 0 o.toNat 0 0 l.toNat)
  | .ldS32Long d a o l => some (f64 1 4 d.enc a.enc 0 o.toNat 0 0 l.toNat)
  | .ldZ32Long d a o l => some (f64 1 5 d.enc a.enc 0 o.toNat 0 0 l.toNat)
  | .ldLong d a o l => some (f64 1 6 d.enc a.enc 0 o.toNat 0 0 l.toNat)
  | .ldFeLong d a o l => some (f64 1 7 d.enc a.enc 0 o.toNat 0 0 l.toNat)
  | .ldFecLong d a o l => some (f64 1 8 d.enc a.enc 0 o.toNat 0 0 l.toNat)
  | .ldvLong d a o l => some (f64 1 9 d.enc a.enc 0 o.toNat 0 0 l.toNat)
  | .ldvFeLong d a o l => some (f64 1 10 d.enc a.enc 0 o.toNat 0 0 l.toNat)
  | .ldvFecLong d a o l => some (f64 1 11 d.enc a.enc 0 o.toNat 0 0 l.toNat)
  | .st8Long d a o => some (f64 2 0 0 a.enc d.enc o.toNat 0 0 0)
  | .st16Long d a o => some (f64 2 1 0 a.enc d.enc o.toNat 0 0 0)
  | .st32Long d a o => some (f64 2 2 0 a.enc d.enc o.toNat 0 0 0)
  | .stLong d a o => some (f64 2 3 0 a.enc d.enc o.toNat 0 0 0)
  | .stSfLong d a o => some (f64 2 4 0 a.enc d.enc o.toNat 0 0 0)
  | .stvLong d a o => some (f64 2 5 0 a.enc d.enc o.toNat 0 0 0)
  | .stvSfLong d a o => some (f64 2 6 0 a.enc d.enc o.toNat 0 0 0)
  | .lde d a b l => some (fK 0x2B 0 l.toNat d.enc a.enc b.enc)
  | .ste d a b => some (fA 0x2C 0 d.enc a.enc b.enc)
  | .amo op w d a b c o l =>
    some (f64 3 0 d.enc a.enc b.enc o.toNat (op.enc + (if w then 16 else 0)) c.enc l.toNat)
  | .tret => some (fA 0x2D 0 0 0 0) | .brk => some (fA 0x2D 1 0 0 0) | .wfe => some (fA 0x2D 2 0 0 0)
  | .retire => some (fA 0x2D 3 0 0 0) | .yield => some (fA 0x2D 4 0 0 0)
  | .hexit a => some (fA 0x2D 5 0 a.enc 0) | .gtime d => some (fA 0x2D 6 d.enc 0 0)
  | .cid d => some (fA 0x2D 7 d.enc 0 0) | .hstart d a b => some (fA 0x2D 8 d.enc a.enc b.enc)
  | .hjoin d a => some (fA 0x2D 9 d.enc a.enc 0) | .dhop d a b => some (fA 0x2D 10 d.enc a.enc b.enc)
  | .sys c => some (fI 0x2E 0 0 c.toNat)
  | .csrr d n => some (fI 0x2F d.enc 0 n.toNat) | .csrw d a n => some (fI 0x30 d.enc a.enc n.toNat)
  | .csrs d a n => some (fI 0x31 d.enc a.enc n.toNat) | .csrc d a n => some (fI 0x32 d.enc a.enc n.toNat)
  | .bara b => some (fA 0x33 0 0 0 b.toNat) | .barw b => some (fA 0x34 0 0 0 b.toNat)
  | .phase l => some (fA 0x35 0 0 0 l.toNat)
  | .farm g a => some (fM 0x36 0 a.enc g 0) | .fwait g => some (fM 0x37 0 0 g 0)
  | .fread d g => some (fM 0x38 d.enc 0 g 0) | .fclr g => some (fM 0x39 0 0 g 0)
  | .tcmd q a => some (fA 0x3A 0 (52 + q.val) a.val 0) | .tcmdm q a => some (fA 0x3A 1 (52 + q.val) a.enc 0)
  | .unlease => some (fA 0x3A 2 0 0 0) | .slotq d => some (fA 0x3A 3 d.enc 0 0)
  | .launch d a => some (fA 0x3A 4 d.enc a.enc 0) | .tkput a b => some (fA 0x3A 5 0 a.enc b.enc)
  | .lease b => some (fI 0x3B 0 0 b.toNat)
  | .pack d a b => some (fA 0x3C 0 d.enc a.enc b.enc) | .unpack d a b => some (fA 0x3C 1 d.enc a.enc b.enc)
  | .pext d a b => some (fA 0x3C 2 d.enc a.enc b.enc)
  | .gwid w => some (fA 0x3D 0 0 0 w.toNat) | .tkget d a l => some (fK 0x3E 0 l.toNat d.enc a.enc 0)
  | .lit d i => some { len := 3, maj := 1, d := d.enc, lit := i.toNat }
  | .lith d i => some { len := 3, maj := 2, d := d.enc, lit := i.toNat }
  | .sel d a b c => some (f64 8 0 d.enc a.enc b.enc 0 0 c.enc 0)
  | .vadd t m d a b => some (fV 0x01 t m d.enc a.enc b.enc) | .vsub t m d a b => some (fV 0x02 t m d.enc a.enc b.enc)
  | .vmul t m d a b => some (fV 0x03 t m d.enc a.enc b.enc) | .vfma t m d a b => some (fV 0x04 t m d.enc a.enc b.enc)
  | .vfms t m d a b => some (fV 0x05 t m d.enc a.enc b.enc) | .vnfma t m d a b => some (fV 0x06 t m d.enc a.enc b.enc)
  | .vmin t m d a b => some (fV 0x07 t m d.enc a.enc b.enc) | .vmax t m d a b => some (fV 0x08 t m d.enc a.enc b.enc)
  | .vabs t m d a => some (fV 0x09 t m d.enc a.enc 0) | .vneg t m d a => some (fV 0x0A t m d.enc a.enc 0)
  | .vsel t m d a b => some (fV 0x0B t m d.enc a.enc b.enc) | .vand t m d a b => some (fV 0x0C t m d.enc a.enc b.enc)
  | .vor t m d a b => some (fV 0x0D t m d.enc a.enc b.enc) | .vxor t m d a b => some (fV 0x0E t m d.enc a.enc b.enc)
  | .vshl t m d a b => some (fV 0x0F t m d.enc a.enc b.enc) | .vshr t m d a b => some (fV 0x10 t m d.enc a.enc b.enc)
  | .vshra t m d a b => some (fV 0x11 t m d.enc a.enc b.enc) | .vreds t m d a => some (fV 0x12 t m d.enc a.enc 0)
  | .vredm t m d a => some (fV 0x13 t m d.enc a.enc 0) | .vbcast t m d a => some (fV 0x14 t m d.enc a.enc 0)
  | .vcmp p t m d a b => some (f64V 0x10 t.enc m d.val a.enc b.enc 0 p.enc 0 0)
  | .vshuf t m d a b c => some (f64V 0x11 t.enc m d.enc a.enc b.enc 0 0 c.enc 0)
  | .vins t d a l => some (f64V 0x12 t.enc 0 d.enc a.enc 0 l.toNat 0 0 0)
  | .vext t d a l => some (f64V 0x13 t.enc 0 d.enc a.enc 0 l.toNat 0 0 0)
  | .vmaxi t m d c a => some (f64V 0x14 t.enc m d.enc a.enc 0 0 0 c.enc 0)
  | .vmini t m d c a => some (f64V 0x15 t.enc m d.enc a.enc 0 0 0 c.enc 0)
  | .vcvt x y r m d a => some (f64V 0x16 0 m d.enc a.enc 0 (convImm x y r) 0 0 0)
  | .vcvtef x y r m d e a => some (f64V 0x17 0 m d.enc a.enc 0 (convImm x y r) 0 e.enc 0)
  | .vrcp t d a l => some (f64V 0x18 t.enc 0 d.enc a.enc 0 0 0 0 l.toNat)
  | .vrsq t d a l => some (f64V 0x19 t.enc 0 d.enc a.enc 0 0 0 0 l.toNat)
  | .vrcps t d a b l => some (f64V 0x1A t.enc 0 d.enc a.enc b.enc 0 0 0 l.toNat)
  | .vrsqs t d a b l => some (f64V 0x1B t.enc 0 d.enc a.enc b.enc 0 0 0 l.toNat)
  | .vexp2 t d a l => some (f64V 0x1C t.enc 0 d.enc a.enc 0 0 0 0 l.toNat)
  | .vlog2 t d a l => some (f64V 0x1D t.enc 0 d.enc a.enc 0 0 0 0 l.toNat)
  | .vdot4 g m d a b => some (f64V 0x1E 3 m d.enc a.enc b.enc 0 g.enc 0 0)
  | .rst8 b a g l => some (f64 4 0 0 a.enc b.enc g.toNat 0 0 l.toNat)
  | .rst16 b a g l => some (f64 4 1 0 a.enc b.enc g.toNat 0 0 l.toNat)
  | .rst32 b a g l => some (f64 4 2 0 a.enc b.enc g.toNat 0 0 l.toNat)
  | .rst b a g l => some (f64 4 3 0 a.enc b.enc g.toNat 0 0 l.toNat)
  | .rstv b a g l => some (f64 4 4 0 a.enc b.enc g.toNat 0 0 l.toNat)
  | .rldS8 d a o l => some (f64 5 0 d.enc a.enc 0 o.toNat 0 0 l.toNat)
  | .rldZ8 d a o l => some (f64 5 1 d.enc a.enc 0 o.toNat 0 0 l.toNat)
  | .rldS16 d a o l => some (f64 5 2 d.enc a.enc 0 o.toNat 0 0 l.toNat)
  | .rldZ16 d a o l => some (f64 5 3 d.enc a.enc 0 o.toNat 0 0 l.toNat)
  | .rldS32 d a o l => some (f64 5 4 d.enc a.enc 0 o.toNat 0 0 l.toNat)
  | .rldZ32 d a o l => some (f64 5 5 d.enc a.enc 0 o.toNat 0 0 l.toNat)
  | .rld d a o l => some (f64 5 6 d.enc a.enc 0 o.toNat 0 0 l.toNat)
  | .rldv d a o l => some (f64 5 7 d.enc a.enc 0 o.toNat 0 0 l.toNat)
  | .ramo op w a b c g l =>
    some (f64 6 0 0 a.enc b.enc g.toNat (op.enc + (if w then 16 else 0)) c.enc l.toNat)
  | .ramor op w d a b c l =>
    some (f64 7 0 d.enc a.enc b.enc 0 (op.enc + (if w then 16 else 0)) c.enc l.toNat)
  | .meet a b => some (f64 9 0 0 a.enc b.enc 0 0 0 0)
  | .meetr d a l => some (f64 9 1 d.enc a.enc 0 0 0 0 l.toNat)
  | _ => none

/-- The 32-bit words of an instruction's fields (R39). -/
def Fields.words (f : Fields) : List Nat :=
  match f.len with
  | 2 => [f.word0, f.word1]
  | 3 => [f.word0, f.word1, f.lit]
  | _ => [f.word0]

/-- The words of a well-formed instruction; none for events and commands. -/
def encode (i : Instr) : List Nat :=
  match encodeFields i with
  | some f => f.words
  | none => []

/-- The bytes of a well-formed instruction, each word little-endian (R39). -/
def encodeBytes (i : Instr) : List Byte := (encode i).flatMap (toLeBytes 4)

/-! Command words (R52 to R54). -/

/-- Bits [hi:lo] of a number, as a number. -/
def bitsOf (w hi lo : Nat) : Nat := w / 2 ^ lo % 2 ^ (hi + 1 - lo)

/-- The header of a command word (R52). -/
def CmdHdr.ofNat (w : Nat) : CmdHdr :=
  { tag := BitVec.ofNat 16 (bitsOf w 47 32), result := bitsOf w 25 25 == 1, flagen := bitsOf w 24 24 == 1,
    flag := BitVec.ofNat 8 (bitsOf w 23 16), ext := BitVec.ofNat 16 (bitsOf w 63 48) }

/-- The header word of an opcode. -/
def CmdHdr.toNat (h : CmdHdr) (opcode : Nat) : Nat :=
  opcode + 2 ^ 16 * h.flag.toNat + 2 ^ 24 * (if h.flagen then 1 else 0) + 2 ^ 25 * (if h.result then 1 else 0)
    + 2 ^ 32 * h.tag.toNat + 2 ^ 48 * h.ext.toNat

/-- Opcodes listed for each engine queue (R53). -/
def opcodeListed (q op : Nat) : Bool :=
  match q with
  | 0 => 0x01 ≤ op && op ≤ 0x0B
  | 1 => (0x20 ≤ op && op ≤ 0x26) || (0x28 ≤ op && op ≤ 0x2A)
  | 2 => op == 0x40 || op == 0x41
  | _ => 0x60 ≤ op && op ≤ 0x62

/-- Commands for which the header's FLAG has a use (R194, R198, R241, R321). -/
def opcodeFlag (op : Nat) : Bool :=
  (0x01 ≤ op && op ≤ 0x06) || op == 0x0B || op == 0x24 || op == 0x25 || op == 0x2A

/-- The zero bits of SROUTE's W2 (R375): bits [15:12] of each set, and every bit of a set at or above NSETS. -/
def srouteZeros (w1 w2 : Nat) : Bool :=
  (List.range 4).all fun i =>
    let set := w2 / 2 ^ (16 * i) % 2 ^ 16
    if i < bitsOf w1 14 13 + 1 then set / 2 ^ 12 == 0 else set == 0

/-- The operand bits a command does not define are zero, and so are the bits of EXT without a use
(R54, R192, R243, R287, R297, R320, R368, R375). SROUTE load tests its zero bits itself, with its paths (R375).
DESIGN CHOICE (log entry 31): a CFLAG whose VALUE is 0 is rejected here, with status 0x02; R192 asks for at least 1
and names no status. -/
def operandsClean (op : Nat) (w1 w2 w3 ext : Nat) : Bool :=
  let copyExt := ext / 4 == 0
  match op with
  | 0x01 | 0x04 => copyExt && w3 / 2 ^ 32 == 0
  | 0x02 | 0x03 => copyExt
  | 0x05 | 0x06 => copyExt && w3 / 2 ^ 55 == 0
  | 0x07 => copyExt && w3 / 8 == 0
  | 0x08 => copyExt && w1 / 2 ^ 52 == 0 && w2 / 2 ^ 40 == 0 && w2 != 0 && w3 == 0
  | 0x09 => copyExt && w2 == 0 && w3 == 0
  | 0x0A => copyExt && w1 == 0 && w2 == 0 && w3 == 0
  | 0x0B => copyExt
  | 0x20 | 0x21 => ext == 0 && w2 / 2 ^ 34 == 0 && w3 == 0
  | 0x22 => w1 / 2 ^ 17 == 0 && w2 == 0 && w3 == 0
  | 0x23 => w1 / 2 ^ 18 == 0 && w2 == 0 && w3 == 0
  | 0x24 | 0x25 => w1 / 2 ^ 16 == 0 && w3 / 2 ^ 32 == 0
  | 0x26 => w1 / 2 ^ 16 == 0 && w2 == 0 && w3 == 0
  | 0x28 | 0x29 => w1 / 2 ^ 17 == 0
  | 0x2A => bitsOf w1 31 18 == 0 && w3 == 0
  | 0x40 => ext == 0 && w1 / 2 ^ 37 == 0 && w3 == 0 && (bitsOf w1 9 8 == 0 || srouteZeros w1 w2)
  | 0x41 => ext / 2 == 0 && w2 % 2 ^ 23 == 0 && w2 / 2 ^ 42 == 0 && bitsOf w3 22 1 == 0 && w3 / 2 ^ 48 == 0
  | 0x60 => ext == 0 && w1 / 2 ^ 18 == 0 && bitsOf w1 17 16 != 3 && w2 / 2 ^ 52 == 0 && w3 / 2 ^ 32 == 0 && w3 != 0
  | 0x61 => ext == 0 && w1 / 2 ^ 52 == 0 && w2 == 0 && w3 == 0
  | _ => ext == 0 && w1 == 0 && w2 == 0 && w3 == 0

/-- The command of a clean command word. -/
def commandOf (op : Nat) (h : CmdHdr) (w1 w2 w3 : Word) : Instr :=
  let slot := BitVec.ofNat 16 w1.toNat
  match op with
  | 0x01 => .ccopy h w1 w2 (BitVec.ofNat 32 w3.toNat)
  | 0x02 => .ccopy2 h w1 w2 w3
  | 0x03 => .ccopy3 h w1 w2 w3
  | 0x04 => .cfill h w1 w2 (BitVec.ofNat 32 w3.toNat)
  | 0x05 => .cgather h w1 w2 (BitVec.ofNat 32 (bitsOf w3.toNat 54 23)) (BitVec.ofNat 4 (bitsOf w3.toNat 22 19)) (BitVec.ofNat 19 w3.toNat)
  | 0x06 => .cscatter h w1 w2 (BitVec.ofNat 32 (bitsOf w3.toNat 54 23)) (BitVec.ofNat 4 (bitsOf w3.toNat 22 19)) (BitVec.ofNat 19 w3.toNat)
  | 0x07 => .cstream h w1 w2 (bitsOf w3.toNat 2 2 == 1) (BitVec.ofNat 2 w3.toNat)
  | 0x08 => .cflag h (BitVec.ofNat 52 w1.toNat) (BitVec.ofNat 40 w2.toNat)
  | 0x09 => .clink h w1
  | 0x0A => .cend h
  | 0x0B => .ngemv h w1 w2 w3
  | 0x20 => .tlda h w1 (BitVec.ofNat 32 w2.toNat) (BitVec.ofNat 2 (bitsOf w2.toNat 33 32))
  | 0x21 => .tldb h w1 (BitVec.ofNat 32 w2.toNat) (BitVec.ofNat 2 (bitsOf w2.toNat 33 32))
  | 0x22 => .tmma h slot (bitsOf w1.toNat 16 16 == 1)
  | 0x23 => .tzps h slot (BitVec.ofNat 2 (bitsOf w1.toNat 17 16))
  | 0x24 => .tsto h slot w2 (BitVec.ofNat 32 w3.toNat)
  | 0x25 => .tadds h slot w2 (BitVec.ofNat 32 w3.toNat)
  | 0x26 => .trel h slot
  | 0x28 => .pmul h slot (bitsOf w1.toNat 16 16 == 1) w2 w3
  | 0x29 => .pmac h slot (bitsOf w1.toNat 16 16 == 1) w2 w3
  | 0x2A => .pextb h slot (BitVec.ofNat 2 (bitsOf w1.toNat 17 16)) (BitVec.ofNat 16 (bitsOf w1.toNat 47 32))
      (BitVec.ofNat 16 (bitsOf w1.toNat 63 48)) w2
  | 0x40 =>
    match bitsOf w1.toNat 9 8 with
    | 0 => .srouteLoad h w1 w2
    | 1 => .srouteStep h w1 w2
    | _ => .srouteClear h w1 w2
  | 0x41 => if h.ext = 0 then .mdefDefine h w1 w2 w3 else .mdefDestroy h w1 w2 w3
  | 0x60 => .frsave h slot (BitVec.ofNat 2 (bitsOf w1.toNat 17 16)) (BitVec.ofNat 52 w2.toNat) (BitVec.ofNat 32 w3.toNat)
  | 0x61 => .frload h (BitVec.ofNat 52 w1.toNat)
  | _ => .kcard h

/-- The command of a 256-bit word in queue `q`, or the status of R54 that rejects it. A word that falls under both lists of R54, of an
opcode that is not listed and with a header field that is not allowed, gets 0x01: R54 gives no order (log entry 31, DESIGN CHOICE). -/
def decodeCmd (q : Nat) (w : BitVec 256) : Except Nat Instr :=
  let n := w.toNat
  let op := n % 256
  let h := CmdHdr.ofNat n
  let w1 := bitsOf n 127 64
  let w2 := bitsOf n 191 128
  let w3 := bitsOf n 255 192
  if !opcodeListed q op then .error 1
  else if bitsOf n 31 26 != 0 || bitsOf n 15 8 != 0 then .error 2
  else if !h.flagen && h.flag != 0 then .error 2
  else if h.flagen && !opcodeFlag op then .error 2
  else if !operandsClean op w1 w2 w3 h.ext.toNat then .error 2
  else if op = 0x40 && bitsOf w1 9 8 == 3 then .error 2
  else .ok (commandOf op h (BitVec.ofNat 64 w1) (BitVec.ofNat 64 w2) (BitVec.ofNat 64 w3))

/-- Four operand words as a command word. -/
def cmdWord (h w1 w2 w3 : Nat) : BitVec 256 := BitVec.ofNat 256 (h + 2 ^ 64 * w1 + 2 ^ 128 * w2 + 2 ^ 192 * w3)

/-- The command word of an engine command (R52, R53); none for every other step. -/
def encodeCmd : Instr → Option (BitVec 256)
  | .ccopy h s d n => some (cmdWord (h.toNat 1) s.toNat d.toNat n.toNat)
  | .ccopy2 h s d p => some (cmdWord (h.toNat 2) s.toNat d.toNat p.toNat)
  | .ccopy3 h s d p => some (cmdWord (h.toNat 3) s.toNat d.toNat p.toNat)
  | .cfill h v d n => some (cmdWord (h.toNat 4) v.toNat d.toNat n.toNat)
  | .cgather h s d n k l => some (cmdWord (h.toNat 5) s.toNat d.toNat (l.toNat + 2 ^ 19 * k.toNat + 2 ^ 23 * n.toNat))
  | .cscatter h s d n k l => some (cmdWord (h.toNat 6) s.toNat d.toNat (l.toNat + 2 ^ 19 * k.toNat + 2 ^ 23 * n.toNat))
  | .cstream h m p r t => some (cmdWord (h.toNat 7) m.toNat p.toNat (t.toNat + 4 * (if r then 1 else 0)))
  | .cflag h a v => some (cmdWord (h.toNat 8) a.toNat v.toNat 0)
  | .clink h n => some (cmdWord (h.toNat 9) n.toNat 0 0)
  | .cend h => some (cmdWord (h.toNat 10) 0 0 0)
  | .ngemv h m v p => some (cmdWord (h.toNat 11) m.toNat v.toNat p.toNat)
  | .tlda h s r k => some (cmdWord (h.toNat 0x20) s.toNat (r.toNat + 2 ^ 32 * k.toNat) 0)
  | .tldb h s r k => some (cmdWord (h.toNat 0x21) s.toNat (r.toNat + 2 ^ 32 * k.toNat) 0)
  | .tmma h s f => some (cmdWord (h.toNat 0x22) (s.toNat + 2 ^ 16 * (if f then 1 else 0)) 0 0)
  | .tzps h s t => some (cmdWord (h.toNat 0x23) (s.toNat + 2 ^ 16 * t.toNat) 0 0)
  | .tsto h s d r => some (cmdWord (h.toNat 0x24) s.toNat d.toNat r.toNat)
  | .tadds h s d r => some (cmdWord (h.toNat 0x25) s.toNat d.toNat r.toNat)
  | .trel h s => some (cmdWord (h.toNat 0x26) s.toNat 0 0)
  | .pmul h s p a b => some (cmdWord (h.toNat 0x28) (s.toNat + 2 ^ 16 * (if p then 1 else 0)) a.toNat b.toNat)
  | .pmac h s p a b => some (cmdWord (h.toNat 0x29) (s.toNat + 2 ^ 16 * (if p then 1 else 0)) a.toNat b.toNat)
  | .pextb h s p f n d => some (cmdWord (h.toNat 0x2A) (s.toNat + 2 ^ 16 * p.toNat + 2 ^ 32 * f.toNat + 2 ^ 48 * n.toNat) d.toNat 0)
  | .srouteLoad h a b | .srouteStep h a b | .srouteClear h a b => some (cmdWord (h.toNat 0x40) a.toNat b.toNat 0)
  | .mdefDefine h a b p | .mdefDestroy h a b p => some (cmdWord (h.toNat 0x41) a.toNat b.toNat p.toNat)
  | .kcard h => some (cmdWord (h.toNat 0x62) 0 0 0)
  | .frsave h l m a n => some (cmdWord (h.toNat 0x60) (l.toNat + 2 ^ 16 * m.toNat) a.toNat n.toNat)
  | .frload h a => some (cmdWord (h.toNat 0x61) a.toNat 0 0)
  | _ => none

end Sys2Proof
end

