-- ==== Sys2Proof/Machine/Num.lean ====
section
/-! DEFINITION. The number formats, roundings and exact sums of spec/01 (R14 to R35). Values are exact
integers and dyadic numbers; every narrowing is one of the named functions of R18. -/

namespace Sys2Proof.Machine

/-- The scalar floating-point formats of R14. -/
inductive FFmt where
  | fp32 | fp16 | bf16 | e4m3 | e5m2 | e2m1
  deriving DecidableEq, Repr

/-- Exponent bits. -/
def FFmt.ebits : FFmt → Nat
  | .fp32 | .bf16 => 8 | .fp16 | .e5m2 => 5 | .e4m3 => 4 | .e2m1 => 2

/-- Mantissa bits. -/
def FFmt.mbits : FFmt → Nat
  | .fp32 => 23 | .fp16 => 10 | .bf16 => 7 | .e4m3 => 3 | .e5m2 => 2 | .e2m1 => 1

/-- Width in bits. -/
def FFmt.width (f : FFmt) : Nat := 1 + f.ebits + f.mbits

/-- Exponent bias. -/
def FFmt.bias : FFmt → Nat
  | .fp32 | .bf16 => 127 | .fp16 | .e5m2 => 15 | .e4m3 => 7 | .e2m1 => 1

/-- The format has infinities. -/
def FFmt.hasInf : FFmt → Bool
  | .e4m3 | .e2m1 => false | _ => true

/-- Code of the largest finite value. -/
def FFmt.maxCode : FFmt → Nat
  | .fp32 => 0x7F7FFFFF | .fp16 => 0x7BFF | .bf16 => 0x7F7F | .e4m3 => 0x7E | .e5m2 => 0x7B | .e2m1 => 7

/-- Code of the canonical NaN; E2M1 has none and takes +0 (R18). -/
def FFmt.nanCode : FFmt → Nat
  | .fp32 => 0x7FC00000 | .fp16 => 0x7E00 | .bf16 => 0x7FC0 | .e4m3 => 0x7F | .e5m2 => 0x7E | .e2m1 => 0

/-- The formats whose subnormal results version 1 flushes (R38). -/
def FFmt.flushes : FFmt → Bool
  | .fp32 | .fp16 | .bf16 => true | _ => false

/-- A number: NaN, a signed infinity, or (−1)^neg · m · 2^e. -/
inductive FVal where
  | nan
  | inf (neg : Bool)
  | fin (neg : Bool) (m : Nat) (e : Int)
  deriving DecidableEq, Repr

/-- The value of a code (R14). -/
def FFmt.decode (f : FFmt) (code : Nat) : FVal :=
  let m := code % 2 ^ f.mbits
  let e := code / 2 ^ f.mbits % 2 ^ f.ebits
  let neg := code / 2 ^ (f.mbits + f.ebits) % 2 == 1
  let top := 2 ^ f.ebits - 1
  if e = top ∧ f.hasInf then (if m = 0 then .inf neg else .nan)
  else if f = .e4m3 ∧ e = top ∧ m = 7 then .nan
  else if e = 0 then .fin neg m (1 - (f.bias : Int) - f.mbits)
  else .fin neg (2 ^ f.mbits + m) ((e : Int) - f.bias - f.mbits)

/-- Multiply by a power of two given as an integer exponent, truncating. -/
def shiftFloor (n : Nat) (e : Int) : Nat := if 0 ≤ e then n * 2 ^ e.toNat else n / 2 ^ (-e).toNat

/-- The part a truncation drops is zero. -/
def shiftExact (n : Nat) (e : Int) : Bool := if 0 ≤ e then true else n % 2 ^ (-e).toNat == 0

/-- n·2^e rounded to the nearest integer, ties to even. -/
def shiftNE (n : Nat) (e : Int) : Nat :=
  if 0 ≤ e then n * 2 ^ e.toNat
  else
    let d := 2 ^ (-e).toNat
    let k := n / d
    let r := n % d
    if d < 2 * r ∨ (2 * r = d ∧ k % 2 = 1) then k + 1 else k

/-- Position of the top bit: floor(log2 (m·2^e)) for nonzero m. -/
def topBit (m : Nat) (e : Int) : Int := (Nat.log2 m : Int) + e

/-- Exact sum; a zero sum is +0 unless both addends are −0 (R18). -/
def FVal.add : FVal → FVal → FVal
  | .nan, _ | _, .nan => .nan
  | .inf a, .inf b => if a = b then .inf a else .nan
  | .inf a, _ => .inf a
  | _, .inf b => .inf b
  | .fin a m e, .fin b n f =>
    let g := min e f
    let x : Int := (m * 2 ^ (e - g).toNat : Nat)
    let y : Int := (n * 2 ^ (f - g).toNat : Nat)
    let s := (if a then -x else x) + (if b then -y else y)
    if s = 0 then .fin (m = 0 && n = 0 && a && b) 0 0 else .fin (s < 0) s.natAbs g

/-- Exact product; 0 × ∞ is NaN. -/
def FVal.mul : FVal → FVal → FVal
  | .nan, _ | _, .nan => .nan
  | .inf a, .inf b => .inf (a != b)
  | .inf a, .fin b n _ => if n = 0 then .nan else .inf (a != b)
  | .fin a m _, .inf b => if m = 0 then .nan else .inf (a != b)
  | .fin a m e, .fin b n f => .fin (a != b) (m * n) (e + f)

/-- Change of sign. -/
def FVal.neg : FVal → FVal
  | .nan => .nan
  | .inf a => .inf (!a)
  | .fin a m e => .fin (!a) m e

/-- The value is NaN. -/
def FVal.isNan : FVal → Bool
  | .nan => true
  | _ => false

/-- The value is infinite. -/
def FVal.isInf : FVal → Bool
  | .inf _ => true
  | _ => false

/-- The value is a zero of either sign. -/
def FVal.isZero : FVal → Bool
  | .fin _ 0 _ => true
  | _ => false

/-- The sign. -/
def FVal.sign : FVal → Bool
  | .nan => false
  | .inf a => a
  | .fin a _ _ => a

/-- The numeric order of two values that are not NaN, the two zeros equal. -/
def FVal.lt : FVal → FVal → Bool
  | .nan, _ | _, .nan => false
  | .inf a, .inf b => a && !b
  | .inf a, .fin _ _ _ => a
  | .fin _ _ _, .inf b => !b
  | .fin a m e, .fin b n f =>
    let g := min e f
    let x : Int := (m * 2 ^ (e - g).toNat : Nat)
    let y : Int := (n * 2 ^ (f - g).toNat : Nat)
    (if a then -x else x) < (if b then -y else y)

/-- An integer as a value. -/
def FVal.ofInt (i : Int) : FVal := .fin (i < 0) i.natAbs 0

/-- The exception flags of R19: NV 16, DZ 8, OF 4, UF 2, NX 1. -/
abbrev FFlags := BitVec 5

def flagNV : FFlags := 16
def flagDZ : FFlags := 8
def flagOF : FFlags := 4
def flagUF : FFlags := 2
def flagNX : FFlags := 1

/-- A signed code. -/
def FFmt.signed (f : FFmt) (neg : Bool) (code : Nat) : Nat :=
  if neg then 2 ^ (f.mbits + f.ebits) + code else code

/-- The code of an infinity, or of what stands for it in a format without infinities. -/
def FFmt.infCode (f : FFmt) (neg : Bool) : Nat :=
  f.signed neg (if f.hasInf then (2 ^ f.ebits - 1) * 2 ^ f.mbits else f.maxCode)

/-- The code of k·2^q, where q is the quantum of its place in the format: a carry into the next power
of two is taken up by the exponent field. -/
def FFmt.place (f : FFmt) (k : Nat) (q : Int) : Nat :=
  let emin : Int := 1 - (f.bias : Int) - f.mbits
  if k < 2 ^ f.mbits then k
  else (q - emin).toNat * 2 ^ f.mbits + k

/-- The three roundings into a floating-point format (R18). -/
inductive FRound where
  | ne | z | sat
  deriving DecidableEq, Repr

/-- RoundNE, RoundZ or SatNE of a value into a format (R18), with the flags of R19. `v1` asks for the
flush of subnormal results of R38. -/
def FFmt.round (f : FFmt) (r : FRound) (v1 : Bool) : FVal → Nat × FFlags
  | .nan => (f.nanCode, flagNV)
  | .inf neg =>
    match r with
    | .sat => (f.signed neg f.maxCode, flagNV)
    | _ => (f.infCode neg, if f.hasInf then 0 else flagNV)
  | .fin neg 0 _ => (f.signed neg 0, 0)
  | .fin neg m e =>
    let emin : Int := 1 - (f.bias : Int)
    let top := max (topBit m e) emin
    let q := top - f.mbits
    let k := match r with
      | .z => shiftFloor m (e - q)
      | _ => shiftNE m (e - q)
    let exact := shiftExact m (e - q)
    let nx : FFlags := if exact then 0 else flagNX
    let code := f.place k q
    if f.maxCode < code then
      (match r with
        | .ne => f.infCode neg
        | _ => f.signed neg f.maxCode, flagOF ||| flagNX)
    else if code < 2 ^ f.mbits && code != 0 then
      if v1 && f.flushes then (f.signed neg 0, flagUF ||| flagNX)
      else (f.signed neg code, if exact then 0 else flagUF ||| flagNX)
    else (f.signed neg code, nx)

/-- RoundNE without flags. -/
def FFmt.ne (f : FFmt) (v : FVal) : Nat := (f.round .ne false v).1

/-- SatInt (R18). -/
def satInt (x : Int) (width : Nat) (signed : Bool) : Int :=
  if signed then max (-(2 ^ (width - 1) : Nat)) (min x ((2 ^ (width - 1) : Nat) - 1))
  else max 0 (min x ((2 ^ width : Nat) - 1))

/-- SatInt with NV for a value it clamps (R19). -/
def satIntF (x : Int) (width : Nat) (signed : Bool) : Int × FFlags :=
  let y := satInt x width signed
  (y, if y = x then 0 else flagNV)

/-- ToIntNE and ToIntZ (R18), with the flags of R19. -/
def toInt (nearest : Bool) (v : FVal) (width : Nat) (signed : Bool) : Int × FFlags :=
  match v with
  | .nan => (0, flagNV)
  | .inf neg =>
    (if neg then (if signed then -(2 ^ (width - 1) : Nat) else 0)
     else (if signed then (2 ^ (width - 1) : Nat) - 1 else (2 ^ width : Nat) - 1), flagNV)
  | .fin neg m e =>
    let k := if nearest then shiftNE m e else shiftFloor m e
    let i : Int := if neg then -(k : Int) else k
    let y := satInt i width signed
    (y, if y ≠ i then flagNV else if shiftExact m e then 0 else flagNX)

/-- The low `w` bits of an integer as a number. -/
def lowBits (x : Int) (w : Nat) : Nat := (x % (2 ^ w : Nat)).toNat

/-- sext of R12 on a number. -/
def sextN (n w : Nat) : Int :=
  let k := n % 2 ^ w
  if 2 ^ (w - 1) ≤ k ∧ 0 < w then (k : Int) - (2 ^ w : Nat) else k

/-- sext of R12 on an integer: the bits are taken modulo 2^w. -/
def sextI (x : Int) (w : Nat) : Int := sextN (lowBits x w) w

/-! Fat pointers (R24 to R26). -/

/-- The address, key, format byte and fields of a fat pointer (R24). -/
def ptrAddr (p : Word) : Nat := p.toNat % 2 ^ 52
def ptrKey (p : Word) : Nat := p.toNat / 2 ^ 52 % 16
def ptrFmt (p : Word) : Nat := p.toNat / 2 ^ 59
def ptrBlog (p : Word) : Nat := p.toNat / 2 ^ 56 % 8
def ptrTop (p : Word) : Nat := p.toNat / 2 ^ 56

/-- The formats of R25. -/
inductive EFmt where
  | int (w : Nat)
  | flt (f : FFmt)
  | mx (f : FFmt)
  | grp (w : Nat)
  deriving DecidableEq, Repr

/-- The format of a FORMAT and BLOCKLOG pair, if R25 lists it; NONE is not an element format. -/
def eFmtOf (fmt blog : Nat) : Option EFmt :=
  let plain (e : EFmt) := if blog = 0 then some e else none
  match fmt with
  | 0x01 => plain (.int 8) | 0x02 => plain (.int 16) | 0x03 => plain (.int 32) | 0x04 => plain (.int 64)
  | 0x05 => plain (.flt .fp32) | 0x06 => plain (.flt .fp16) | 0x07 => plain (.flt .bf16)
  | 0x08 => plain (.flt .e4m3) | 0x09 => plain (.flt .e5m2) | 0x0A => plain (.flt .e2m1)
  | 0x0B => plain (.int 4)
  | 0x10 => if blog = 5 then some (.mx .e4m3) else none
  | 0x11 => if blog = 5 then some (.mx .e5m2) else none
  | 0x12 => if blog = 5 then some (.mx .e2m1) else none
  | 0x14 => if 5 ≤ blog ∧ blog ≤ 7 then some (.grp 8) else none
  | 0x15 => if 5 ≤ blog ∧ blog ≤ 7 then some (.grp 4) else none
  | _ => none

/-- The format a fat pointer names. -/
def ptrE (p : Word) : Option EFmt := eFmtOf (ptrFmt p) (ptrBlog p)

/-- Element width in bits (R25). -/
def EFmt.width : EFmt → Nat
  | .int w => w | .flt f => f.width | .mx f => f.width | .grp w => w

/-- Metadata bytes per block (R25). -/
def EFmt.meta : EFmt → Nat
  | .mx _ => 1 | .grp _ => 4 | _ => 0

/-- A block format. -/
def EFmt.isBlock : EFmt → Bool
  | .mx _ | .grp _ => true | _ => false

/-- Block length of a format with this BLOCKLOG; 1 for a plain format. -/
def EFmt.blockLen (e : EFmt) (blog : Nat) : Nat := if e.isBlock then 2 ^ blog else 1

/-- Base alignment in bytes (R25). -/
def EFmt.align : EFmt → Nat
  | .mx _ | .grp _ => 16
  | e => (e.width + 7) / 8

/-- Where an element lies (R26): its byte, its bit offset in it, its size in bytes, its metadata. -/
structure ELoc where
  byte : Nat
  bit : Nat
  size : Nat
  metaAt : Option Nat
  deriving DecidableEq, Repr

/-- ElementLocation (R26). -/
def elementLoc (e : EFmt) (blog base index : Nat) : ELoc :=
  let w := e.width
  let size := (w + 7) / 8
  if !e.isBlock then
    let bits := 8 * base + index * w
    { byte := bits / 8, bit := bits % 8, size := size, metaAt := none }
  else
    let len := 2 ^ blog
    let block := index / len
    let super := 16 * e.meta + 16 * len * w / 8
    let sb := base + block / 16 * super
    let pos := block % 16
    let bits := 8 * (sb + 16 * e.meta) + (pos * len + index % len) * w
    { byte := bits / 8, bit := bits % 8, size := size, metaAt := some (sb + pos * e.meta) }

/-- The value of an E8M0 scale code (R14); none for NaN. -/
def e8m0 (c : Nat) : Option Int := if c = 255 then none else some ((c : Int) - 127)

/-- What an element decodes to: an integer or a value (R27). -/
inductive EVal where
  | i (x : Int)
  | f (v : FVal)
  deriving DecidableEq, Repr

/-- The exact value of an MX or grouped element before rounding (R20, R22). DESIGN CHOICE (log entry 31): a grouped
element with q = z takes the sign of its scale, so a negative scale gives −0; R22 states no sign. -/
def EFmt.exact (e : EFmt) (code metab : Nat) : FVal :=
  match e with
  | .int w => .ofInt (sextN code w)
  | .flt f => f.decode code
  | .mx f =>
    match e8m0 (metab % 256) with
    | none => .nan
    | some s => (f.decode code).mul (.fin false 1 s)
  | .grp b =>
    let z : Int := (metab / 65536 % 2 ^ b : Nat)
    (FFmt.fp16.decode (metab % 65536)).mul (.ofInt ((code % 2 ^ b : Nat) - z))

/-- Decoding of R27. -/
def EFmt.decode (e : EFmt) (code metab : Nat) : EVal :=
  match e with
  | .int w => .i (sextN code w)
  | .flt f => .f (f.decode code)
  | _ => .f (FFmt.fp32.decode (FFmt.fp32.ne (e.exact code metab)))

/-- x / s rounded to the nearest integer, ties to even; s = ±n·2^f is nonzero. -/
def divNE (neg : Bool) (m : Nat) (e : Int) (n : Nat) (f : Int) : Int :=
  let d := e - f
  let num := if 0 ≤ d then m * 2 ^ d.toNat else m
  let den := if 0 ≤ d then n else n * 2 ^ (-d).toNat
  let k := num / den
  let r := num % den
  let k := if den < 2 * r ∨ (2 * r = den ∧ k % 2 = 1) then k + 1 else k
  if neg then -(k : Int) else k

/-- Encoding of a value into one element by R27 (R21, R22), with flags. An integer enters an integer
format by SatInt; `v1` is the flush of R38. A NaN or an infinity that meets a block whose scale is NaN, zero or infinite sets no flag:
no rule says whether an R18 function is applied then (R19, log entry 31). -/
def EFmt.encode (e : EFmt) (metab : Nat) (v1 : Bool) : EVal → Nat × FFlags
  | .i x =>
    match e with
    | .int w => let (y, fl) := satIntF x w true; (lowBits y w, fl)
    | .flt f => f.round .ne v1 (.ofInt x)
    | .mx f =>
      match e8m0 (metab % 256) with
      | none => (0, 0)
      | some s => f.round .sat false ((FVal.ofInt x).mul (.fin false 1 (-s)))
    | .grp b => grp b (.ofInt x)
  | .f v =>
    match e with
    | .int w => let (y, fl) := toInt true v w true; (lowBits y w, fl)
    | .flt f => f.round .ne v1 v
    | .mx f =>
      match e8m0 (metab % 256) with
      | none => (0, 0)
      | some s => f.round .sat false (v.mul (.fin false 1 (-s)))
    | .grp b => grp b v
where
  /-- The grouped rule of R22. -/
  grp (b : Nat) (v : FVal) : Nat × FFlags :=
    let z := metab / 65536 % 2 ^ b
    match FFmt.fp16.decode (metab % 65536) with
    | .fin sn n f =>
      if n = 0 then (z, 0)
      else
        match v with
        | .nan => (z % 2 ^ b, flagNV)
        | .inf neg =>
          let q : Int := if neg != sn then -(2 ^ 63 : Nat) else (2 ^ 63 : Nat) - 1
          (lowBits (satInt (q + z) b false) b, flagNV)
        | .fin neg m e =>
          let q0 := divNE (neg != sn) m e n f
          let q := satInt q0 64 true
          let y := satInt (q + z) b false
          let exact := (divNE false m e n f).natAbs * n * 2 ^ (f - min e f).toNat == m * 2 ^ (e - min e f).toNat
          (lowBits y b, if q ≠ q0 ∨ y ≠ q + z then flagNV else if exact then 0 else flagNX)
    | _ => (z, 0)

/-! Sums of tile products (R28 to R31). -/

/-- BlockSum (R28). -/
def blockSum (window : Nat) (ps : List FVal) : FVal :=
  let pinf := ps.any fun p => p == .inf false
  let ninf := ps.any fun p => p == .inf true
  if ps.any FVal.isNan || (pinf && ninf) then .nan
  else if pinf then .inf false
  else if ninf then .inf true
  else if ps.all FVal.isZero then .fin false 0 0
  else
    let top := ps.foldl (fun (t : Option Int) p =>
      match p with
      | .fin _ m e => if m = 0 then t else
          let b := topBit m e
          match t with
          | none => some b
          | some c => some (max b c)
      | _ => t) none
    let q := top.getD 0 - window + 1
    let total : Int := ps.foldl (fun (s : Int) p =>
      match p with
      | .fin neg m e =>
        let k : Int := (shiftFloor m (e - q) : Nat)
        if neg then s - k else s + k
      | _ => s) 0
    if total = 0 then .fin false 0 0 else .fin (total < 0) total.natAbs q

/-- One block of a floating-point accumulation (R29) on an FP32 accumulator code. -/
def accBlock (v2 : Bool) (acc : Nat) (ps : List FVal) : Nat :=
  let s := blockSum (if v2 then 24 else 20) ps
  let term := (FFmt.fp32.round (if v2 then .ne else .z) false s).1
  FFmt.fp32.ne ((FFmt.fp32.decode acc).add (FFmt.fp32.decode term))

/-- One grouped scale step (R31): acc + RoundNE(sa·sb·I). -/
def accGroup (acc : Nat) (sa sb : FVal) (i : Int) : Nat :=
  let term := FFmt.fp32.ne ((sa.mul sb).mul (.ofInt i))
  FFmt.fp32.ne ((FFmt.fp32.decode acc).add (FFmt.fp32.decode term))

/-- FP32 addition of two codes (R49): canonical NaN, subnormals kept. -/
def faddCode (a b : Nat) : Nat := FFmt.fp32.ne ((FFmt.fp32.decode a).add (FFmt.fp32.decode b))

/-! Polynomial packing (R32 to R35). -/

/-- The guard range of R32. -/
def inGuard (x : Int) (w : Nat) : Bool := -((2 ^ (w - 1) : Nat) - 1 : Int) ≤ x && x ≤ (2 ^ (w - 1) : Nat) - 1

/-- Packing (R33): the sum of a_i·2^(i·w). -/
def polyPack (w : Nat) (l : List Int) : Int := l.foldr (fun a acc => a + acc * (2 ^ w : Nat)) 0

/-- Bit n of an integer in two's complement. -/
def intBit (p : Int) (n : Nat) : Nat := (p / (2 ^ n : Nat) % 2).toNat

/-- Extraction of coefficient j (R35). -/
def polyExtract (p : Int) (w j : Nat) : Int :=
  let r : Int := if j * w = 0 then 0 else intBit p (j * w - 1)
  sextI (p / (2 ^ (j * w) : Nat) + r) w

/-- Coefficients of a product of two polynomials (R34). -/
def polyMul (a b : List Int) : List Int :=
  match a with
  | [] => []
  | x :: r =>
    let t := polyMul r b
    let h := b.map (x * ·)
    addL h (0 :: t)
where
  /-- Sum of two coefficient lists. -/
  addL : List Int → List Int → List Int
    | [], m => m
    | l, [] => l
    | x :: l, y :: m => (x + y) :: addL l m

/-! Lanes (R118). -/

/-- Lane i of width w of a vector. -/
def lane (v : VWord) (w i : Nat) : Nat := v.toNat / 2 ^ (w * i) % 2 ^ w

/-- The first n lanes of width w. -/
def lanesOf (v : VWord) (w n : Nat) : List Nat := (List.range n).map (lane v w)

/-- A vector from its lanes, lane 0 first. -/
def ofLanes (w : Nat) (l : List Nat) : VWord := BitVec.ofNat 128 (l.foldr (fun a acc => a % 2 ^ w + acc * 2 ^ w) 0)

/-- The floating-point format of a lane type. -/
def vFmt : VType → FFmt
  | .bf16 => .bf16 | .f16 => .fp16 | _ => .fp32

end Sys2Proof.Machine
end

