-- ==== Sys2Proof/Config.lean ====
section
/-! DEFINITION. What one device fixes and what the manual leaves open.
The opaque constants have no body, so no proof can lean on a value of them. -/

namespace Sys2Proof.Config

/-- A fresh value the manual leaves open (a latency, a clock skew, another package's answer),
applied to the counter State.free and to a label of its use. Log entry 3. -/
opaque freeNat : Nat → Nat → Nat

/-- The serial number and the certificate of a device (R353): byte `i` of item `k`. Log entry 13. -/
opaque secretByte : Nat → Nat → Nat

/-- Grains of time in one count of package time (log entry 4). -/
def grainsPerCount : Nat := 504

/-- Length in grains of a core clock at each performance state (R329). -/
def clockGrains : Nat → Nat
  | 0 => 280 | 1 => 315 | 2 => 360 | 3 => 420 | 4 => 504 | 5 => 630 | 6 => 840 | _ => 1680

/-- Supply voltage in millivolts at each performance state (R329). -/
def supplyMillivolts : Nat → Nat
  | 0 => 800 | 1 => 750 | 2 => 700 | 3 => 650 | 4 => 600 | 5 => 550 | 6 => 500 | _ => 420

/-- Grains in a microsecond of package time. -/
def microsecond : Nat := 504000

/-- Mapped capacity in GiB of a full stack, and its pseudo-channels (R2, R311). -/
def fullStack : Nat := 64

/-- The fused security version (R351, R352); the spec gives no number. Log entry 13. -/
opaque fusedSvn : Nat

/-- The fused hash of a key slot, and whether the slot is revoked by fuse (R352). Log entry 13. -/
opaque keyHash : Nat → Nat

@[inherit_doc keyHash]
opaque keyRevoked : Nat → Bool

/-- The bytes of the fuse block, whose digest is M3 (R352). Log entry 13. -/
opaque fuseBlock : List Byte

/-- The bytes that an image's signature covers: its body and its security version, in an order and a form the spec leaves open
(R352). Log entry 13. -/
opaque signedBytes : List Byte → Nat → List Byte

/-- The private attestation key that the fused secret and the digest M1 give (R353). Log entry 13. -/
opaque attestationKey : Nat → Nat

end Sys2Proof.Config
end

