-- ==== Sys2Proof/Machine/State.lean ====
section
/-! DEFINITION. The state of the whole package as plain data, its value after module reset, and the
reasons a step can stop. Every structure's field defaults are its values at reset (R11). -/

namespace Sys2Proof.Machine

/-- Bytes by address: addresses strictly rising, and no listed byte is zero, which is what an
unlisted byte reads as (log entry 1). -/
abbrev Memory := List Host.Cell

/-- The states of a context slot (R69). -/
inductive CtxStatus where
  | free | live | exited | killed
  deriving DecidableEq, Repr

/-- The two modes of R83. -/
inductive Mode where
  | job | runtime
  deriving DecidableEq, Repr

/-- The trap registers of one level (R87). -/
structure TrapBank where
  tvec : Word := 0
  tcause : Word := 0
  tvalue : Word := 0
  tepc : Word := 0
  tstat : Word := 0
  tscratch : Word := 0
  deriving DecidableEq, Repr

/-- What taking a raised trap does besides the sequence of R86: TFDETAIL (R319), or the removal
of the report it delivers (R163, R182) or of the imprecise hit (R225). -/
inductive TrapNote where
  | plain
  | tfdetail (w : Word)
  | tagReport
  | failReport
  | impHit
  deriving DecidableEq, Repr

/-- A trap raised in a context and waiting for its pending instructions (R86). `fault` marks the fault of a completed
instruction: the instant of its completion and the identity of the instruction. -/
structure TrapReq where
  cause : Nat
  value : Word
  pc : Nat
  defer : Bool := false
  win : Nat := 0
  note : TrapNote := .plain
  ilen : Option Nat := none
  fault : Option (Nat × Nat) := none
  deriving DecidableEq, Repr

/-- An undelivered tag report (R163): TVALUE and the fields of TAGREP (R167) but for DROPPED. -/
structure TagReport where
  addr : Nat
  detail : Word
  deriving DecidableEq, Repr

/-- An undelivered failure report (R182). -/
structure FailReport where
  cause : Nat
  value : Word
  deriving DecidableEq, Repr

/-- Where a long-latency instruction writes (R79). -/
inductive PDst where
  | none
  | s (d : SOp)
  | v (d : VOp)
  deriving DecidableEq, Repr

/-- The full/empty action of a local access (R154). -/
inductive FeAct where
  | plain | fe | fec
  deriving DecidableEq, Repr

/-- A pending local load-type instruction (R154 to R156). -/
inductive LocalAcc where
  | load (addr size : Nat) (sgn : Bool) (act : FeAct)
  | lde (ptr : Word) (index : Nat)
  | amo (op : AmoOp) (wide : Bool) (addr : Nat) (v cmp : Word)
  deriving DecidableEq, Repr

/-- What a remote message does at its home (R173 to R181, R194, R198, R285, R368, R369). -/
inductive MsgAct where
  | load (size : Nat) (sgn : Bool)
  | store (data : List Byte)
  | nibble (byte : Byte) (mask : Byte)
  | atomic (op : AmoOp) (wide : Bool) (v cmp : Word) (returns : Bool)
  | flagSub (value : Nat)
  | tkget (handle : Word) (dst key : Nat)
  | tkput (handle : Word) (packet : List Byte)
  | mdef (handle : Word) (defn : Nat) (parent : Word) (destroy : Bool)
  | meet (handle : Word) (data : VWord)
  | meetr (handle : Word)
  | reject (ident member : Nat)
  deriving DecidableEq, Repr

/-- Who issued a message. A context is named with the generation its slot had, so that a later
context of the slot never receives its reports. -/
inductive Issuer where
  | ctx (core slot gen pend : Nat)
  | chan (core ch slot gen : Nat)
  | arr (core id slot gen : Nat)
  | coll (core slot gen : Nat)
  | trace (core : Nat)
  | dump (core : Nat)
  | frsave (launch die : Nat)
  | engine (plain number : Nat)
  | foreign
  deriving DecidableEq, Repr

/-- The home location of a message (R173). -/
inductive Home where
  | spad (core off : Nat)
  | flagw (core f : Nat)
  | hbm (pa : Nat)
  | host (pa : Nat)
  | fabric (fpa : Nat)
  | meeting (plain number : Nat)
  | queue (home number : Nat)
  | core (c : Nat)
  | lost
  deriving DecidableEq, Repr

/-- What came of a message at its home. -/
inductive Reply where
  | ack
  | data (v : VWord)
  | packet (bytes : List Byte)
  | unchanged
  | failed (status : Nat)
  deriving DecidableEq, Repr

/-- Where a message is on its way. -/
inductive MsgPhase where
  | outbound
  | translating
  | going (due : Nat)
  | coming (r : Reply) (due : Nat)
  | held (partition : Nat)
  | refused (die due : Nat)
  deriving DecidableEq, Repr

/-- A message between units (R172, R277). `va` is the address as the accessor issued it, `elem` the place of its access in its
command or instruction, `half` a half whose other half has reported, `direct` an access of a copy engine to its own banks
(R144), `port` the port by which a message of another package has come (R356), `ackHere` a named flag that stands at the issuer, as a fabric message found it when it left (R360, R361),
and `cut` says that the port by which it had left has gone down since (R364). -/
structure Msg where
  issuer : Issuer
  act : MsgAct
  home : Home
  va : Nat
  key : Nat := 0
  flag : Option Nat := none
  launch : Nat := 0
  job : Nat := 0
  elem : Nat := 0
  half : Bool := false
  direct : Bool := false
  port : Nat := 0
  ackHere : Bool := false
  cut : Bool := false
  phase : MsgPhase := .outbound
  deriving DecidableEq, Repr

/-- What a pending long-latency instruction waits for; a remote one keeps the statuses of the halves that have failed. A `query` asks
a queue or a meeting (TKGET, MEETR), and takes no place of the outbound unit's 32 (R172). -/
inductive PendKind where
  | divide
  | approx
  | loc (a : LocalAcc) (key : Nat)
  | posted (ms : List Msg)
  | remote (fails : List (Nat × Nat))
  | query (fails : List (Nat × Nat))
  deriving DecidableEq, Repr

/-- The outcome a pending instruction will write or report at completion. -/
inductive PendRes where
  | value (v : VWord)
  | unchanged
  | fault (cause : Nat) (value : Word) (note : TrapNote)
  deriving DecidableEq, Repr

/-- A pending long-latency instruction (R79, R81). `uses` are its pending registers, `due` is the clock of its die from
which it can be performed or complete (R8). -/
structure Pend where
  id : Nat
  l : Nat
  n : Nat := 0
  pc : Nat
  uses : List (Nat × Nat)
  dst : PDst
  kind : PendKind
  due : Nat
  res : Option PendRes := none
  got : List (Nat × VWord) := []
  deriving DecidableEq, Repr

/-- The instruction a context is blocked in (R77): what it has popped, the pushes it still has to
make, the stage and value its own rules keep, and the NBVER of its issue (R37). -/
structure Blk where
  instr : Instr
  pc : Nat
  len : Nat
  held : List VWord := []
  outs : List (Port × VWord × Bool) := []
  stage : Nat := 0
  aux : Word := 0
  exempt : Bool := false
  nbv2 : Bool := true
  since : Nat := 0
  deriving DecidableEq, Repr

/-- The kill record of R89. -/
structure KillRecord where
  cause : Nat
  value : Word
  pc : Nat
  slot : Nat
  core : Nat
  deriving DecidableEq, Repr

/-- A store of the store queue (R152, R154, R155). -/
inductive StoreAct where
  | bytes (addr size : Nat) (data : VWord) (sf : Bool)
  | elem (ptr : Word) (index : Nat) (value : Word)
  deriving DecidableEq, Repr

/-- An entry of the store queue. -/
structure StoreEnt where
  id : Nat
  slot : Nat
  gen : Nat
  key : Nat
  act : StoreAct
  nbv2 : Bool := true
  deriving DecidableEq, Repr

/-- One context slot (R63 to R68, R395). -/
structure Ctx where
  status : CtxStatus := .free
  gen : Nat := 0
  x : Vector Word 48 := Vector.replicate 48 0
  v : Vector VWord 32 := Vector.replicate 32 0
  k : Vector (BitVec 16) 8 := Vector.replicate 8 0
  pc : Nat := 0
  nbv2 : Bool := true
  lkchk : Bool := false
  mode : Mode := .job
  tl : Nat := 0
  t1 : TrapBank := {}
  t2 : TrapBank := {}
  fpstat : BitVec 5 := 0
  tagsel : Word := 0
  tlogsel : Word := 0
  wmsel : Word := 0
  barsel : Word := 0
  slotsel : Word := 0
  sqsel : Word := 0
  stksel : Word := 0
  tagrep : Word := 0
  tfdetail : Word := 0
  pwidth : Nat := 16
  tqresult : Nat := 0
  evt : Bool := false
  barWaiting : BitVec 64 := 0
  barReleased : BitVec 64 := 0
  fbuf : List Byte := []
  ffault : Option TrapReq := none
  pend : List Pend := []
  blk : Option Blk := none
  trap : Option TrapReq := none
  tagQ : List TagReport := []
  tagDropped : Nat := 0
  failQ : List FailReport := []
  asm : Vector (List Word) 4 := Vector.replicate 4 []
  lastIssue : Option Nat := none
  yieldSet : Option (List Nat) := none
  notBefore : Nat := 0
  exitValue : Word := 0
  killCause : Nat := 0
  killRec : Option KillRecord := none
  heldFault : Option TrapReq := none
  halted : Bool := false
  hcause : Nat := 0
  step : Bool := false
  stepping : Option Nat := none
  exempt : Bool := false
  impTrap : Option (Nat × Nat) := none
  lastTime : Nat := 0
  icount : Nat := 0
  hist : List Bool := []
  jlrTarget : Nat := 0
  syncCount : Nat := 0
  needSync : Bool := false
  walking : Option Nat := none
  deriving DecidableEq, Repr

/-- A counted-write flag (R183, R184): its entry now, its entry at the start of the clock, and the
changes of this clock by class: additions and subtractions after every set. -/
structure Flag where
  count : Int := 0
  ovs : Bool := false
  count0 : Int := 0
  ovs0 : Bool := false
  instrSet : Option (Int × Bool) := none
  sets : List Int := []
  adds : List Int := []
  subs : List Int := []
  deriving DecidableEq, Repr

/-- A named barrier (R212). -/
structure Bar where
  expect : Nat := 1
  arrived : Nat := 0
  releases : Nat := 0
  deriving DecidableEq, Repr

/-- A result queue (R55, R56): its 64-bit halves, low half of the oldest record first, and the
places reserved for records still to arrive. -/
structure ResQ where
  halves : List Word := []
  reserved : Nat := 0
  deriving DecidableEq, Repr

/-- A 128-bit record on its way to a result queue, with the group it belongs to. -/
structure RecordFly where
  q : Nat
  recd : VWord
  group : Nat
  launch : Nat
  slot : Nat := 0
  gen : Nat := 0
  due : Nat
  deriving DecidableEq, Repr

/-- A command word in a queue (R52, R191, R239): who pushed it and the versions of the push. -/
structure CmdEnt where
  word : BitVec 256
  addr : Option Nat := none
  key : Nat := 0
  nbv2 : Bool := true
  width : Nat := 16
  slot : Nat := 0
  gen : Nat := 0
  group : Nat := 0
  launch : Nat := 0
  job : Nat := 0
  core : Nat := 0
  leased : Bool := false
  held : Bool := false
  id : Nat := 0
  deriving DecidableEq, Repr

/-- What a copy channel does with the elements of its command (R194, R199, R320). -/
inductive CopyOp where
  | affine | fill | gather | scatter | stream | near
  deriving DecidableEq, Repr

/-- Elements a channel has issued the reads of (R194): `n` of them from `idx` on, their list entries, the reads that have not
returned, and what was read, by role, which carries the element it was read for, counted from `idx`. -/
structure CopyStep where
  idx : Nat
  n : Nat
  entries : List Nat := []
  waits : List Nat := []
  reads : List (Nat × VWord) := []
  deriving DecidableEq, Repr

/-- Elements from `idx` on whose writes a channel has issued, and the highest byte they end at (R195). -/
structure CopyWrite where
  idx : Nat
  waits : List Nat := []
  high : Nat
  deriving DecidableEq, Repr

/-- A command being performed by a channel (R194 to R197, R320). The reads of the elements below `ridx` and the writes of those
below `idx` have been issued; those from `limit` on are not moved. After a `fault` no access is issued any more, unless the fault is
a list entry's (`drains`): then the elements before it are still moved. Of an NGEMV, `probe` counts the rows of the matrix whose
translations have been found good, and `served` those that a unit had served before a gang switch took the command from it (R321,
R325). -/
structure CopyRun where
  h : CmdHdr
  opcode : Nat
  op : CopyOp
  src : Word := 0
  dst : Word := 0
  counts : List Nat := []
  sstr : List Nat := []
  dstr : List Nat := []
  total : Nat := 0
  limit : Nat := 0
  idx : Nat := 0
  ridx : Nat := 0
  lists : Nat := 0
  lkey : Nat := 0
  steps : List CopyStep := []
  writes : List CopyWrite := []
  outstanding : List Nat := []
  bytes : Nat := 0
  fault : Option (Nat × Nat) := none
  drains : Bool := false
  stream : Nat := 0
  wdir : Bool := false
  vptr : Word := 0
  stack : Nat := 0
  vec : List Nat := []
  vmeta : List Nat := []
  asked : Bool := false
  flush : Bool := false
  probe : Nat := 0
  served : Nat := 0
  deriving DecidableEq, Repr

/-- A copy channel (R191, R195). -/
structure Chan where
  startQ : List CmdEnt := []
  active : Bool := false
  ent : Option CmdEnt := none
  word : Option (BitVec 256) := none
  addr : Nat := 0x7FFFF
  next : Option Nat := none
  key : Nat := 0
  first : Bool := true
  run : Option CopyRun := none
  wm : Option (Nat × Nat) := none
  recd : Option VWord := none
  ending : Bool := false
  deriving DecidableEq, Repr

/-- A stream register (R171). MODE 0 unbound, 1 read, 2 write. -/
structure Stream where
  mode : Nat := 0
  chan : Nat := 0
  words : List Word := []
  left : Nat := 0
  deriving DecidableEq, Repr

/-- The states of a lease (R239). -/
inductive LeaseState where
  | none | waiting | held
  deriving DecidableEq, Repr

/-- A core's lease (R237, R239). -/
structure Lease where
  state : LeaseState := .none
  limit : Nat := 0
  left : Nat := 0
  pass : Nat := 0
  weight : Nat := 8
  releasing : Bool := false
  groupEnding : Bool := false
  stall : Nat := 0
  deriving DecidableEq, Repr

/-- An operand buffer (R248): format code, block length log, K-blocks, and for each row its
elements as fat-pointer element codes with the metadata of their blocks. -/
structure OpBuf where
  fmt : Nat
  blog : Nat
  kb : Nat
  codes : List (List Nat)
  metas : List (List Nat)
  deriving DecidableEq, Repr

/-- A comparator (R222). -/
structure Comparator where
  ctl : Word := 0
  deriving DecidableEq, Repr

/-- An imprecise hit that has not acted yet (R225), with the clock in which it acts. -/
structure ImpHit where
  due : Nat
  ctl : Word
  offset : Nat
  deriving DecidableEq, Repr

/-- The trace encoder (R227 to R229). -/
structure Trace where
  ctl : Word := 0x3000000000#64
  base : Word := 0
  seq : Nat := 0
  lost : Nat := 0
  flying : List Nat := []
  unsynced : List Nat := []
  deriving DecidableEq, Repr

/-- A performance counter (R231). -/
structure Pmc where
  ctl : Word := 0
  val : Nat := 0
  bump : Nat := 0
  wrote : Option Nat := none
  deriving DecidableEq, Repr

/-- The dump writer (R233). -/
structure Dump where
  ctl : Word := 0
  base : Word := 0
  stat : Word := 0
  pos : Nat := 0
  flying : Option Nat := none
  kill : Option KillRecord := none
  fresh : Bool := false
  deriving DecidableEq, Repr

/-- A cached leaf translation (R315). -/
structure TlbEnt where
  job : Nat
  page : Nat
  size : Nat
  phys : Nat
  perms : Nat
  deriving DecidableEq, Repr

/-- A translation that a core's context waits for, or its failure (R176, R316). -/
structure WalkRes where
  id : Nat
  va : Nat
  fail : Option (Nat × Nat)
  deriving DecidableEq, Repr

/-- The group a core holds (R275). -/
structure Group where
  id : Nat
  launch : Nat
  job : Nat
  lin : Nat
  coord : Nat × Nat × Nat
  kind : Nat
  deriving DecidableEq, Repr

/-- A work item that HOLDDISP holds back, with the slot that stepped it (R220). -/
inductive HeldWork where
  | launch (owner num : Nat)
  | helper (owner slot : Nat)
  deriving DecidableEq, Repr

/-- A write of RW fields that the units outside the context see from the next clock (R109): the register, what the
selection register of its writer selected, and the new value. -/
structure LateWrite where
  num : Nat
  sel : Nat
  value : Word
  deriving DecidableEq, Repr

/-- One core (R143, R172, R183, R187, R191, R212, R217, R237, R373). -/
structure Core where
  group : Option Group := none
  ready : Bool := true
  ctxs : Map Ctx := []
  spad : Memory := []
  fulls : Map Nat := []
  tags : Map Nat := []
  retagLog : List Word := []
  eccCount : Nat := 0
  eccNow : Nat := 0
  storeQ : List StoreEnt := []
  feTable : List (Nat × Nat × Nat) := []
  feOnce : List Nat := []
  flags : Map Flag := []
  bars : Map Bar := []
  linkQ : Map (List Word) := []
  linkFly : List (Nat × Word × Nat) := []
  resQ : Map ResQ := []
  recFly : List RecordFly := []
  outAt : Nat := 0
  chans : Map Chan := []
  streams : Map Stream := []
  tlb : List TlbEnt := []
  walks : List WalkRes := []
  rejects : List (Nat × Nat) := []
  lastJob : Nat := 0
  lastImage : Option (Nat × Nat) := none
  domm : Word := 0xFFFFFFFFFFFFFFFF#64
  domArrived : BitVec 8 := 0
  domPhase : BitVec 8 := 0
  frstat : Word := 0
  issueSeq : Nat := 0
  lease : Lease := {}
  eq1 : List CmdEnt := []
  last : Option Nat := none
  bufA : Option OpBuf := none
  bufB : Option OpBuf := none
  dbgsel : Word := 0
  dbgrnum : Word := 0
  holdDisp : Bool := false
  brkHalt : Bool := false
  held : List HeldWork := []
  wpsel : Word := 0
  comps : Map Comparator := []
  wphit : Word := 0
  impHits : List ImpHit := []
  pmcsel : Word := 0
  pmcs : Map Pmc := []
  trace : Trace := {}
  dump : Dump := {}
  pulse : Nat := 0
  stopped : Bool := false
  late : List LateWrite := []
  events : List Nat := []
  bankLast : Map Nat := []
  bankWin : Map Nat := []
  bankUsed : List Nat := []
  deriving DecidableEq, Repr

/-- The types of an accumulator slot (R237). -/
inductive SlotTy where
  | fp32 | int32 | poly
  deriving DecidableEq, Repr

/-- An accumulator slot (R237, R245, R246, R260); `alloc` is clear while it is on the free list. -/
structure Slot where
  alloc : Bool := true
  owner : Nat
  ty : SlotTy
  version : Nat := 0
  sat : Bool := false
  guard : Bool := false
  split : Bool := false
  width : Nat := 0
  elems : List Nat := []
  prods : List Nat := []
  coeffs : List (List Int) := []
  deriving DecidableEq, Repr

/-- A read of an array command: bytes of its core's scratchpad, read with a key, the bits of them that it takes, and whether they
go to its second list: metadata of a block, or words of image B. -/
structure ArrRead where
  addr : Nat
  size : Nat
  key : Nat
  bit : Nat := 0
  width : Nat
  block : Bool := false
  deriving DecidableEq, Repr

/-- An array command that has started (R241): the slot it names, the clocks from its busy phase to its end, the reads it has still to
make and the codes and metadata it has read, the writes it has still to issue and how many of them it issues in a clock, the fault
it meets after them, and what its record will hold. -/
structure ArrRun where
  ent : CmdEnt
  h : CmdHdr
  opcode : Nat
  slot : Option Nat := none
  fresh : Bool := false
  frees : Bool := false
  endAt : Nat := 0
  after : Nat := 0
  nextAt : Nat := 0
  reads : List ArrRead := []
  codes : List Nat := []
  metas : List Nat := []
  parts : List Msg := []
  rate : Nat := 0
  bad : Option (Nat × Nat) := none
  outstanding : List Nat := []
  status : Nat := 0
  bytes : Nat := 0
  aux : Nat := 0
  report : Option Word := none
  deriving DecidableEq, Repr

/-- A record of the array that waits for room, with the group and launch it belongs to (R242). -/
structure ArrRec where
  group : Nat
  launch : Nat
  recd : VWord
  deriving DecidableEq, Repr

/-- A square (R235, R240, R241, R333): `busyTill` is the end of the last busy phase, `startAt` the time
before which nothing is granted or started. -/
structure Square where
  slots : Map Slot := []
  runs : List ArrRun := []
  everBusy : Bool := false
  busyTill : Nat := 0
  startAt : Nat := 0
  token : Bool := false
  wantToken : Bool := false
  recs : Map (List ArrRec) := []
  deriving DecidableEq, Repr

/-- One undealt or unstarted group (R270, R273). -/
structure GroupReq where
  launch : Nat
  lin : Nat
  deriving DecidableEq, Repr

/-- A batch at a die dispatcher (R271, R273). -/
structure Batch where
  prio : Nat
  seq : Nat
  groups : List GroupReq
  deriving DecidableEq, Repr

/-- A miss of an engine, dispatcher or trace encoder (R316): the unit it is for, the job, the address and the kind of the access. -/
structure Miss where
  die : Nat
  job : Nat
  va : Nat
  kind : Nat
  deriving DecidableEq, Repr

/-- A walk of an engine that has failed (R314, R316): its page, its reason and level, and the clock in which it ended, in which and
in the next the engines that wait for it learn of it. -/
structure WalkFail where
  job : Nat
  page : Nat
  reason : Nat
  level : Nat
  clk : Nat
  deriving DecidableEq, Repr

/-- A page walk of a plain, or one that waits in its miss queue and has not begun (R316): the core, the identity and the
address of the miss that began it, and the same of the misses that have joined it. A core number of 2^14 and a die stands for the
engines of that die. -/
structure Walk where
  id : Nat
  job : Nat
  va : Nat
  kind : Nat
  core : Nat
  slot : Nat
  due : Nat
  begun : Bool := true
  joined : List (Nat × Nat × Nat) := []
  res : Option TlbEnt := none
  stale : Bool := false
  deriving DecidableEq, Repr

/-- A task queue or pipe at its home (R282, R286). -/
structure TQueue where
  job : Nat
  scope : Nat
  square : Nat
  depth : Nat
  pipe : Option Nat := none
  packets : List (List Byte) := []
  words : List Word := []
  deriving DecidableEq, Repr

/-- A publication of a meeting (R371). -/
structure Pub where
  tag : Nat
  result : VWord
  lateacc : VWord
  ontime : BitVec 64
  count : Nat
  byDeadline : Bool
  latemap : BitVec 64
  latecount : Nat
  deriving DecidableEq, Repr

/-- A meeting at its home (R368, R370). -/
structure Meeting where
  job : Nat
  n : Nat
  k : Nat
  op : Nat
  lag : Nat
  weight : Nat
  deadline : Nat
  parent : Option Word := none
  c : Nat
  seen : Map Nat := []
  early : Map (Nat × VWord) := []
  ontime : Map VWord := []
  late : List (Nat × Nat × VWord) := []
  latemap : BitVec 64 := 0
  latecount : Nat := 0
  timer : Option Nat := none
  pubs : List Pub := []
  waiting : List Nat := []
  deriving DecidableEq, Repr

/-- A stream router entry (R374). -/
structure StreamEnt where
  src : Nat
  dst : Nat
  level : Nat
  sets : List Nat
  cur : Nat := 0
  deriving DecidableEq, Repr

/-- A plain: its die dispatcher, last-level TLB, task queues, collective engine (R271, R282, R315, R366, R374). -/
structure Plain where
  batches : List Batch := []
  tlb : List TlbEnt := []
  walks : List Walk := []
  fails : List WalkFail := []
  queues : Map TQueue := []
  coll : List CmdEnt := []
  meetings : Map Meeting := []
  streams : Map StreamEnt := []
  frStore : Nat := 0
  retired : Bool := false
  deriving DecidableEq, Repr

/-- The phases of a performance-state or width change (R331). -/
inductive Change where
  | ramp (till target : Nat)
  | relock (till target : Nat) (thenRamp : Bool)
  deriving DecidableEq, Repr

/-- A physical die: its clock, performance state and temperature (R329 to R332, R355); `wnext` is the width that the change of `wchange`
brings. -/
structure Die where
  edge : Nat := 0
  clk : Nat := 0
  target : Nat := 0
  current : Nat := 0
  milliv : Nat := 800
  linkw : Nat := 0
  width : Nat := 0
  change : Option Change := none
  wchange : Option Nat := none
  wnext : Nat := 0
  wantWidth : Bool := false
  gated : Bool := false
  ungate : Option Nat := none
  temp : Nat := 0
  throttling : Bool := false
  throttleAt : Nat := 0
  throttleTo : Nat := 0
  gtime : Nat := 0
  deriving DecidableEq, Repr

/-- The states of a frontier launch (R295, R298, R300). -/
inductive FrState where
  | firing | draining | parked | finished | abandoned
  deriving DecidableEq, Repr

/-- The image of a save whose launch ended before it was written (R298), as the launch left it: the frontier home's die, the bytes, their
length and the points. -/
structure LateImage where
  die : Nat
  bytes : List Byte
  units : Nat
  points : Nat
  deriving DecidableEq, Repr

/-- An FRSAVE in progress (R298). -/
structure FrSave where
  ent : CmdEnt
  h : CmdHdr
  mode : Nat
  image : Nat
  limit : Nat
  written : Bool := false
  length : Nat := 0
  points : Nat := 0
  failed : Option Nat := none
  outstanding : List Nat := []
  late : Option LateImage := none
  deriving DecidableEq, Repr

/-- The frontier home's state of a launch (R291 to R295). -/
structure Frontier where
  zero : Bool
  added : Nat
  neff : Nat
  reloaded : Bool := false
  stair : Map Nat := []
  pending : List Nat := []
  offered : List Nat := []
  intake : List Nat := []
  state : FrState := .firing
  home : Option Nat := none
  reserve : Nat := 0
  saves : List FrSave := []
  tookAt : Nat := 0
  firedAt : Nat := 0
  deriving DecidableEq, Repr

/-- A live launch at the global dispatcher (R264 to R278). `sent` and `recv` count its messages at each die, `homed` says
that the first group of its gang has started (R286). -/
structure Launch where
  job : Nat
  addr : Nat
  words : List Word
  kind : Nat
  dims : Nat
  prio : Nat
  ext : Nat × Nat × Nat
  afters : List Nat := []
  gang : Nat := 0
  member : Nat := 0
  next : Nat := 0
  returned : List Nat := []
  total : Nat := 0
  running : Nat := 0
  killed : Nat := 0
  sent : Map Nat := []
  recv : Map Nat := []
  cardDealt : Nat := 0
  frontier : Option Frontier := none
  sweepSent : Option Nat := none
  pipes : List Word := []
  started : Bool := false
  homed : Bool := false
  seq : Nat := 0
  heldBack : Bool := false
  queued : Bool := false
  deriving DecidableEq, Repr

/-- A sweep in progress (R278): the dies it has still to read with the times it reads them, and for each launch it found live
its idleness and its totals SENT and RECEIVED so far. -/
structure Sweep where
  due : Map Nat := []
  found : Map (Bool × Nat × Nat) := []
  deriving DecidableEq, Repr

/-- A request waiting at the global dispatcher in arrival order (R268, R287, R301). -/
structure DispReq where
  id : Nat
  kind : Nat
  core : Nat
  slot : Nat
  gen : Nat
  job : Nat
  addr : Nat
  ent : Option CmdEnt := none
  due : Nat := 0
  held : Bool := false
  loading : Option Launch := none
  deriving DecidableEq, Repr

/-- An installed job (R306, R348); before `sliceEnd` its partition does not stop again after a restore (R328). `lqAt` is when
the record at the head of its launch queue was read, where that waits for places among the live launches (R268). -/
structure Job where
  partition : BitVec 8
  vdtlo : Word
  vdthi : Word
  root : Nat
  vec1 : Word
  vec2 : Word
  faultq : Nat
  logn : Nat
  launchq : Nat
  dropped : Nat := 0
  lqPending : Bool := false
  lqLimit : Option Nat := none
  lqAt : Option Nat := none
  stopped : Bool := false
  sliceEnd : Nat := 0
  deriving DecidableEq, Repr

/-- A domain round waiting for its members, or being delivered (R280, R334). -/
structure Round where
  launch : Nat
  level : Nat
  b : Nat
  block : Nat
  arrived : List Nat := []
  released : Option Nat := none
  members : List Nat := []
  deriving DecidableEq, Repr

/-- An entry that the north pass die owes a job's fault queue (R290), with the time of its event. -/
structure FaultNote where
  job : Nat
  ty : Nat
  cause : Nat
  slot : Nat
  core : Nat
  launch : Nat
  value : Nat
  pc : Nat
  time : Nat
  deriving DecidableEq, Repr

/-- An invalidation in progress (R318), of a TLBINV or of the directory (R317): the range of the job it names (a length of 0
for all), the registered pages that overlap it, the dies that have still to acknowledge, and for each that has removed its
entries the identity it waits up to. -/
structure Inval where
  id : Nat
  core : Nat
  slot : Nat
  gen : Nat
  job : Nat
  lo : Nat
  len : Nat
  pages : List (Nat × Nat) := []
  dies : List Nat
  removed : Map Nat := []
  deriving DecidableEq, Repr

/-- A registration of the translation directory (R317). -/
structure Reg where
  job : Nat
  page : Nat
  size : Nat
  dies : List Nat
  deriving DecidableEq, Repr

/-- A partition block of the package control block (R323), with what its switch in progress uses. -/
structure GangBlk where
  op : Nat := 0
  plains : Nat := 0
  time : Nat := 0
  save : Nat := 0
  rest : Nat := 0
  slice : Nat := 0
  cost : Nat := 0
  reason : Nat := 0
  short : Bool := false
  refused : Bool := false
  state : Nat := 0
  stopTime : Nat := 0
  due : Nat := 0
  job : Nat := 0
  stopped : List Nat := []
  runOp : Nat := 0
  runPlains : Nat := 0
  runSave : Nat := 0
  runRest : Nat := 0
  deriving DecidableEq, Repr

/-- A reply of a task-queue home, of the dispatcher or of a debug read, on its way to a context. -/
structure CtxReply where
  core : Nat
  slot : Nat
  gen : Nat
  value : Word
  due : Nat
  deriving DecidableEq, Repr

/-- What a save image holds of a partition (R325 to R327), kept by its place in device memory: `routers` are the mesh nodes
that held its spilled messages. -/
structure Image where
  addr : Nat
  job : Nat
  plains : Nat
  time : Nat
  cores : Map Core
  squares : Map Square
  plainSt : Map Plain
  frontiers : Map Frontier
  msgs : Map Msg
  replies : List CtxReply
  routers : List (Nat × Nat) := []
  retired : Bool := false
  deriving DecidableEq, Repr

/-- Job shrinking (R335): the fields of SHRCTL and SHRSTAT, and the sequence in progress: its phase (1 draining, 2 waiting
for parking), job, plains and GATE. -/
structure Shrink where
  job : Nat := 0
  remove : Nat := 0
  gate : Bool := false
  state : Nat := 0
  reason : Nat := 0
  phase : Nat := 0
  runJob : Nat := 0
  runRemove : Nat := 0
  runGate : Bool := false
  deriving DecidableEq, Repr

/-- A scale-up port (R363). -/
structure SPort where
  ctl : Nat := 0
  up : Bool := false
  harvest : Nat := 0
  resends : Nat := 0
  resumeAt : Option Nat := none
  retryAt : Option Nat := none
  found : Bool := false
  deriving DecidableEq, Repr

/-- An Ultra Ethernet port (R363). -/
structure UPort where
  down : Bool := false
  speed : Nat := 0
  resends : Nat := 0
  resumeAt : Option Nat := none
  deriving DecidableEq, Repr

/-- A physical failure of a unit that the outside has put there (R337): `kind` 1 scratchpad word, 2 accumulator, 3 HBM
word, 4 operand buffer, 5 full/empty parity, 6 single-bit error, 7 mesh link, 8 tag parity, 9 TLB entry, 10 lane of a port. -/
structure Upset where
  kind : Nat
  unit : Nat
  addr : Nat
  lasting : Bool
  deriving DecidableEq, Repr

/-- The management window and the package control block (R343 to R355, R357). -/
structure Mgmt where
  stage : Nat := 0
  error : Nat := 0
  lqerr : Bool := false
  thermal : Bool := false
  featreq : Nat := 0
  featon : Nat := 0
  featDone : Bool := false
  featRefused : Bool := false
  jobResult : Nat := 0
  linkMode : Nat := 0
  linkOrder : Nat := 0
  linkFlit256 : Bool := false
  linkSpeed : Nat := 0
  linkLanes : Nat := 0
  retrains : Nat := 0
  sptime : Word := 0xFFFFFFFFFFFFFFFF#64
  spperiod : Nat := 0
  pulseNo : Nat := 0
  pulseAt : Option Nat := none
  pulsesAt : List Nat := []
  limit : Nat := 95
  crit : Nat := 110
  dbgdata : Word := 0
  attBusy : Option Nat := none
  attBytes : Nat := 0
  attNonce : Nat := 0
  attBuf : Nat := 0
  attNew : Nat := 0
  attLen : Nat := 0
  hdmBase : Nat := 0
  hdmEnable : Bool := false
  apBase : Nat := 0
  intstat : BitVec 13 := 0
  intmask : BitVec 13 := 0
  msix : Map Nat := []
  msixPending : BitVec 16 := 0
  msixEnable : Bool := false
  msixMaskAll : Bool := false
  sentIrqs : List Nat := []
  limRamp : Nat := 0
  limSpread : Nat := 0
  tokens : Nat := 0
  lastDie : Nat := 7
  tokenAt : Nat := 0
  errLasting : Nat := 0
  errTransient : Nat := 0
  errlast : Word := 0
  errUnit : Option Upset := none
  measures : Map Nat := []
  attKey : Nat := 0
  package : Nat := 0
  inDomain : Bool := false
  fjob : Map Nat := []
  ueept : Word := 0
  deriving DecidableEq, Repr

/-- What the fuses of a part fix (R2, R309, R346): the harvested squares as die·256 + square, the enabled pseudo-channels and
the mapped GiB of the stacks that have fewer than 64, the disabled lanes of the scale-up ports, and the features offered. -/
structure Fuses where
  squares : List Nat := []
  channels : Map Nat := []
  sizes : Map Nat := []
  lanes : Map Nat := []
  offer : Nat := 0x7FF
  deriving DecidableEq, Repr

/-- An NGEMV at a near-memory unit (R321); `row` is the next to be read. -/
structure NearReq where
  core : Nat
  ch : Nat
  vec : List Nat
  vmeta : List Nat
  rows : Nat
  cols : Nat
  stride : Nat
  matrix : Word
  vptr : Word
  dst : Word
  nbv2 : Bool
  row : Nat := 0
  deriving DecidableEq, Repr

/-- What the running step is for: the core (or plain, die, square, port), the context slot or channel,
the item, and for what comes from outside the word, bytes, message or firmware image it brings. -/
structure Cur where
  core : Nat := 0
  slot : Nat := 0
  id : Nat := 0
  word : Word := 0
  flag : Bool := false
  bytes : Option (List Byte) := none
  fab : Option FabMsg := none
  fw : Option Firmware := none
  deriving DecidableEq, Repr

/-- The units that act, in the order in which one clock takes them (log entry 4). -/
inductive Agent where
  | gang
  | north
  | control
  | mesh (d : Nat)
  | die (d : Nat)
  | clocked (d : Nat)
  | dispatch (p : Nat)
  | collective (p : Nat)
  | square (s : Nat)
  | bank (c : Nat)
  | count (c : Nat)
  | issue (c : Nat)
  | complete (c : Nat)
  | fullEmpty (c : Nat)
  | storeQ (c : Nat)
  | chan (c ch : Nat)
  | engines (c : Nat)
  | flagsEnd (c : Nat)
  | cont (c : Nat)
  | release (c : Nat)
  | trap (c : Nat)
  | wake (c : Nat)
  | debug (c : Nat)
  | fetch (c : Nat)
  | done (c : Nat)
  deriving DecidableEq, Repr

/-- The state of the package. `todo` lists the units that have still to act at this instant, `inputs`
what the outside will do next, `free` counts the open values used so far (log entries 3, 4, 11), and `held` is set within a
meaning whose engine must wait for a translation (R316), in no state that a step answers. -/
structure State where
  now : Nat := 0
  free : Nat := 0
  nextId : Nat := 1
  todo : List Agent := []
  cur : Cur := {}
  inputs : List (Instr × Cur) := []
  dies : Map Die := []
  cores : Map Core := []
  squares : Map Square := []
  plains : Map Plain := []
  north : Plain := {}
  msgs : Map Msg := []
  hbm : Memory := []
  host : Memory := []
  jobs : Map Job := []
  launches : Map Launch := []
  lastLaunch : Nat := 0
  lastDealt : Map Nat := []
  requests : List DispReq := []
  rounds : List Round := []
  invals : List Inval := []
  regs : List Reg := []
  gangs : Map GangBlk := []
  images : List Image := []
  shrink : Shrink := {}
  ports : Map SPort := []
  ueports : Map UPort := []
  mgmt : Mgmt := {}
  upsets : List Upset := []
  near : Map (List NearReq) := []
  replies : List CtxReply := []
  sweepAt : Nat := 0
  sweep : Option Sweep := none
  lateSaves : List (Nat × FrSave) := []
  hostReply : Option (List Byte) := none
  hostError : Bool := false
  regReply : Word := 0
  halt : Bool := false
  retiredSquares : List Nat := []
  retireDue : List Upset := []
  spares : Map Nat := []
  fuses : Fuses := {}
  held : Option Miss := none
  faultsDue : List FaultNote := []
  deriving DecidableEq, Repr

/-- The machine right after module reset (R11): every structure at its field defaults, the package at
boot stage 0 (R351), no job installed and no core holding a group (log entries 2, 9). Package time starts at 0: no rule gives its
value at module reset (log entry 2, DESIGN CHOICE). -/
def State.reset : State := {}

/-- Why a step stops with a fault. -/
inductive Fault where
  /-- Every clock of the package has stopped at the critical temperature (R355); raised by step. Safe. -/
  | thermalShutdown
  deriving DecidableEq, Repr

/-- Why a step is refused. -/
inductive Refusal where
  /-- An instruction the model gives no meaning yet; raised by exec. Safe. -/
  | notModelled (mnemonic : String)
  /-- An event asked for in a state in which its unit has no such event; raised by the meanings of
  events, never by step, which only performs enabled events. Safe. -/
  | notEnabled
  deriving DecidableEq, Repr

end Sys2Proof.Machine
end

