-- ==== Sys2Proof/Machine/Maps.lean ====
section
/-! DEFINITION. Maps and memories as sorted lists, and the accessors of the state's parts. -/

namespace Sys2Proof.Machine

/-- The value of a key. -/
def mget {α : Type} : Map α → Nat → Option α
  | [], _ => none
  | (a, v) :: r, k => if a = k then some v else mget r k

/-- The value of a key, or a default. -/
def mgetD {α : Type} (m : Map α) (k : Nat) (d : α) : α := (mget m k).getD d

/-- Insert or replace a key, keeping the order. -/
def mset {α : Type} : Map α → Nat → α → Map α
  | [], k, v => [(k, v)]
  | (a, b) :: r, k, v =>
    if k < a then (k, v) :: (a, b) :: r else if k = a then (k, v) :: r else (a, b) :: mset r k v

/-- Remove a key. -/
def mdel {α : Type} : Map α → Nat → Map α
  | [], _ => []
  | (a, b) :: r, k => if a = k then mdel r k else (a, b) :: mdel r k

/-- Change the value of a key, starting from a default. -/
def mupd {α : Type} (m : Map α) (k : Nat) (d : α) (f : α → α) : Map α := mset m k (f (mgetD m k d))

/-- The byte at an address: zero where nothing is listed (log entry 1). -/
def memGet (m : Memory) (a : Nat) : Byte := mgetD m a 0

/-- Write one byte, keeping the canonical form. -/
def memSet (m : Memory) (a : Nat) (b : Byte) : Memory := if b = 0 then mdel m a else mset m a b

/-- Read n bytes. -/
def memRead (m : Memory) (a : Nat) : Nat → List Byte
  | 0 => []
  | n + 1 => memGet m a :: memRead m (a + 1) n

/-- Write bytes in ascending order. -/
def memWrite (m : Memory) (a : Nat) : List Byte → Memory
  | [] => m
  | b :: r => memWrite (memSet m a b) (a + 1) r

/-- The canonical form of a memory: addresses strictly rising, no zero byte listed. -/
def Memory.wf : Memory → Bool
  | [] => true
  | [(_, b)] => b != 0
  | (a, b) :: (c, d) :: r => b != 0 && a < c && Memory.wf ((c, d) :: r)

/-- A little-endian number of n bytes (R6). -/
def memNat (m : Memory) (a n : Nat) : Nat :=
  match n with
  | 0 => 0
  | k + 1 => (memGet m a).toNat + 256 * memNat m (a + 1) k

/-- The little-endian bytes of a number. -/
def natBytes : Nat → Nat → List Byte
  | 0, _ => []
  | k + 1, n => BitVec.ofNat 8 n :: natBytes k (n / 256)

/-- The number of a list of little-endian bytes. -/
def bytesNat : List Byte → Nat
  | [] => 0
  | b :: r => b.toNat + 256 * bytesNat r

/-- Cut a list into pieces of n elements, on fuel. -/
def chunksOf {α : Type} (n : Nat) : Nat → List α → List (List α)
  | 0, _ => []
  | _, [] => []
  | fuel + 1, l => l.take n :: chunksOf n fuel (l.drop n)

/-! Places (R3 to R5). -/

/-- Die, row, column of a core id. -/
def coreDie (c : Nat) : Nat := c / 2048
def coreRow (c : Nat) : Nat := c % 2048 / 64
def coreCol (c : Nat) : Nat := c % 64

/-- Core id of a place (R4). -/
def coreAt (die row col : Nat) : Nat := die * 2048 + row * 64 + col

/-- Square of a core: die·256 + its number within the plain (R4). -/
def coreSquare (c : Nat) : Nat := coreDie c * 256 + coreRow c / 2 * 16 + coreCol c / 4

/-- Core number within the square (R4). -/
def coreInSquare (c : Nat) : Nat := coreRow c % 2 * 4 + coreCol c % 4

/-- The core of a square by its number within it. -/
def squareCore (sq n : Nat) : Nat :=
  coreAt (sq / 256) (sq % 256 / 16 * 2 + n / 4) (sq % 16 * 4 + n % 4)

/-- The neighbour of a core on a side; none where the link points off the mesh (R187). -/
def neighbour (c : Nat) (d : Dir) : Option Nat :=
  let die := coreDie c; let row := coreRow c; let col := coreCol c
  match d with
  | .n => if 0 < row then some (coreAt die (row - 1) col) else if 4 ≤ die then some (coreAt (die - 4) 31 col) else none
  | .s => if row < 31 then some (coreAt die (row + 1) col) else if die < 4 then some (coreAt (die + 4) 0 col) else none
  | .w => if 0 < col then some (coreAt die row (col - 1)) else if die % 4 ≠ 0 then some (coreAt (die - 1) row 63) else none
  | .e => if col < 63 then some (coreAt die row (col + 1)) else if die % 4 ≠ 3 then some (coreAt (die + 1) row 0) else none

/-- The opposite side. -/
def opposite : Dir → Dir
  | .n => .s | .s => .n | .e => .w | .w => .e

/-! Parts of the state. -/

namespace State

/-- A core. -/
def core (s : State) (c : Nat) : Core := mgetD s.cores c {}
/-- Replace a core. -/
def setCore (s : State) (c : Nat) (k : Core) : State := { s with cores := mset s.cores c k }
/-- Change a core. -/
def updCore (s : State) (c : Nat) (f : Core → Core) : State := s.setCore c (f (s.core c))

/-- A context slot. -/
def ctx (s : State) (c t : Nat) : Ctx := mgetD (s.core c).ctxs t {}
/-- Replace a context slot. -/
def setCtx (s : State) (c t : Nat) (x : Ctx) : State :=
  s.setCore c { s.core c with ctxs := mset (s.core c).ctxs t x }
/-- Change a context slot. -/
def updCtx (s : State) (c t : Nat) (f : Ctx → Ctx) : State := s.setCtx c t (f (s.ctx c t))

/-- The issuing context. -/
def me (s : State) : Ctx := s.ctx s.cur.core s.cur.slot
/-- Change the issuing context. -/
def updMe (s : State) (f : Ctx → Ctx) : State := s.updCtx s.cur.core s.cur.slot f
/-- The issuing core. -/
def myCore (s : State) : Core := s.core s.cur.core
/-- Change the issuing core. -/
def updMyCore (s : State) (f : Core → Core) : State := s.updCore s.cur.core f

/-- A die, a plain, a square, a launch, a channel. -/
def die (s : State) (d : Nat) : Die := mgetD s.dies d {}
def updDie (s : State) (d : Nat) (f : Die → Die) : State := { s with dies := mupd s.dies d {} f }
def plain (s : State) (p : Nat) : Plain := mgetD s.plains p {}
def updPlain (s : State) (p : Nat) (f : Plain → Plain) : State := { s with plains := mupd s.plains p {} f }
def square (s : State) (q : Nat) : Square := mgetD s.squares q {}
def updSquare (s : State) (q : Nat) (f : Square → Square) : State := { s with squares := mupd s.squares q {} f }
def launch? (s : State) (l : Nat) : Option Launch := mget s.launches l
def updLaunch (s : State) (l : Nat) (f : Launch → Launch) : State :=
  match mget s.launches l with
  | some x => { s with launches := mset s.launches l (f x) }
  | none => s
def chan (s : State) (c ch : Nat) : Chan := mgetD (s.core c).chans ch {}
def updChan (s : State) (c ch : Nat) (f : Chan → Chan) : State :=
  s.updCore c fun k => { k with chans := mupd k.chans ch {} f }

/-- Package time (R8). -/
def ptime (s : State) : Nat := s.now / Config.grainsPerCount

/-- Clock number of a core's die. -/
def clk (s : State) (c : Nat) : Nat := (s.die (coreDie c)).clk

/-- An open value (log entry 3): the next free value under a label. -/
def fresh (s : State) (label : Nat) : Nat × State := (Config.freeNat label s.free, { s with free := s.free + 1 })

/-- The next identity. -/
def newId (s : State) : Nat × State := (s.nextId, { s with nextId := s.nextId + 1 })

end State

/-- Change the elements of a list that meet a test. -/
def updWhere {α : Type} (p : α → Bool) (f : α → α) (l : List α) : List α := l.map fun a => if p a then f a else a

/-- Put bits [hi:lo] of a number into a word. -/
def field (v hi lo : Nat) : Nat := v % 2 ^ (hi + 1 - lo) * 2 ^ lo

/-- A bit as a number. -/
def b2n (b : Bool) : Nat := if b then 1 else 0

/-- Saturating count. -/
def satAdd (n k top : Nat) : Nat := min (n + k) top

end Sys2Proof.Machine
end

