-- ==== Sys2Proof/Machine/Region.lean ====
section
/-! DEFINITION. The address map (R148 to R150), page tables and TLBs (R310 to R317). -/

namespace Sys2Proof.Machine

/-- The regions of R148; every core's parts of the peer windows count as regions of their own (R150). -/
inductive Reg148 where
  | spad
  | flagw
  | unassigned (n : Nat)
  | peerSpad (window : Nat)
  | peerFlag (window : Nat)
  | peerHole (window : Nat)
  | device
  | host
  | fabric
  deriving DecidableEq, Repr

/-- The region of an address below 2^52 (R148, R149). -/
def regionOf (a : Nat) : Reg148 :=
  if a < 0x80000 then .spad
  else if a < 0x80800 then .flagw
  else if a < 0x1000000000 then .unassigned 0
  else if a < 0x1800000000 then
    let w := (a - 0x1000000000) / 0x100000
    let o := a % 0x100000
    if o < 0x80000 then .peerSpad w else if o < 0x80800 then .peerFlag w else .peerHole w
  else if a < 0x10000000000 then .unassigned 1
  else if a < 0x800000000000 then .device
  else if a < 0x1000000000000 then .host
  else .fabric

/-- The region is unassigned. -/
def Reg148.hole : Reg148 → Bool
  | .unassigned _ | .peerHole _ => true
  | _ => false

/-- What RegionCheck finds (R150): nothing, a translation fault or a straddle. -/
inductive RegionRes where
  | ok
  | xlate (addr : Nat)
  | straddle (addr : Nat)
  deriving DecidableEq, Repr

/-- RegionCheck (R150). An address below zero is given as an integer. -/
def regionCheck (first last : Int) : RegionRes :=
  if first < 0 ∨ (2 ^ 52 : Nat) ≤ last then .xlate (first % (2 ^ 52 : Nat)).toNat
  else
    let f := first.toNat
    if regionOf f ≠ regionOf last.toNat then .straddle f
    else if (regionOf f).hole then .xlate f
    else .ok

/-- The kinds of a translation (R314). -/
inductive XKind where
  | read | write | atomic
  deriving DecidableEq, Repr

/-- The number of a kind in TFDETAIL (R319). -/
def XKind.num : XKind → Nat
  | .read => 0 | .write => 1 | .atomic => 2

/-- TFDETAIL (R319). -/
def tfWord (reason level kind : Nat) : Word := BitVec.ofNat 64 (level + 16 * reason + 256 * kind)

/-- What responds from FEATCTL.DONE on responds (R343): the boot has not failed (R351). -/
def managed (s : State) : Bool := s.mgmt.featDone && s.mgmt.error == 0

/-- A feature is on (R347). -/
def featureOn (s : State) (f : Nat) : Bool := s.mgmt.featon / 2 ^ f % 2 == 1

/-- A region's feature is on: without it the region acts as an unassigned one (R347). -/
def regionOn (s : State) : Reg148 → Bool
  | .host => featureOn s 1
  | .fabric => featureOn s 2
  | _ => true

/-- Mapped capacity in GiB of a stack (R309 to R311). -/
def stackSize (s : State) (stack : Nat) : Nat := if stack < 12 then mgetD s.fuses.sizes stack Config.fullStack else 0

/-- Enabled pseudo-channels of a stack (R309, R311). -/
def stackChannels (s : State) (stack : Nat) : Nat := if stack < 12 then mgetD s.fuses.channels stack Config.fullStack else 0

/-- The valley die of a stack (R304). -/
def stackDie (stack : Nat) : Nat := if stack < 6 then 8 else 9

/-- A physical address is mapped (R310), and its stack is not gated (R332). -/
def paMapped (s : State) (pa : Nat) : Bool :=
  let stack := pa / 2 ^ 36
  stack < 12 && pa % 2 ^ 36 / 2 ^ 30 < stackSize s stack && !(s.die (stackDie stack)).gated

/-- A fabric physical address is mapped at the issuing package (R359). -/
def fpaMapped (s : State) (fpa : Nat) : Bool :=
  let pkg := fpa / 2 ^ 42 % 2 ^ 9
  let kind := fpa / 2 ^ 40 % 4
  fpa / 2 ^ 51 == 0 &&
    (if pkg = 0x1FF then true
     else pkg < 288 && (s.mgmt.inDomain || pkg == s.mgmt.package) &&
       (kind == 0 || (kind == 1 && fpa / 2 ^ 35 % 32 == 0)))

/-- A physical word fails its read (R337): the kind of failing word, its unit and its address. -/
def upsetAt (s : State) (kind unit addr : Nat) : Option Upset :=
  s.upsets.find? fun u => u.kind == kind && u.unit == unit && u.addr == addr

/-- A read of HBM bytes meets a lasting failure. -/
def hbmBad (s : State) (pa n : Nat) : Bool :=
  s.upsets.any fun u => u.kind == 3 && u.lasting && u.addr / 8 * 8 < pa + n && pa < u.addr / 8 * 8 + 8

/-- A job is stopped for a gang switch (R325); 0 is no job. -/
def jobHeld (s : State) (job : Nat) : Bool :=
  match mget s.jobs job with
  | some j => j.stopped
  | none => false

/-! Interrupts (R345). -/

/-- A vector is masked, by the Function Mask or by its entry's vector control word; an entry is so after reset, as PCI Express
has it (log entry 25). -/
def msixMasked (m : Mgmt) (e : Nat) : Bool := m.msixMaskAll || mgetD m.msix (2 * e + 1) (2 ^ 32) / 2 ^ 32 % 2 == 1

/-- Send the message of a vector; a masked one becomes pending, and with MSI-X not enabled nothing is sent (log entry 25). -/
def Mgmt.signal (m : Mgmt) (e : Nat) : Mgmt :=
  if !m.msixEnable then m
  else if msixMasked m e then { m with msixPending := m.msixPending ||| BitVec.ofNat 16 (2 ^ e) }
  else { m with sentIrqs := m.sentIrqs ++ [e] }

/-- The event of vector e: the status bit is set, and the message is sent when it becomes 1 unmasked. -/
def raiseIrq (s : State) (e : Nat) : State :=
  let m := { s.mgmt with intstat := s.mgmt.intstat ||| BitVec.ofNat 13 (2 ^ e) }
  { s with mgmt := if !s.mgmt.intstat.getLsbD e && s.mgmt.intmask.getLsbD e then m.signal e else m }

/-- A plain belongs to some job's partition (R306). -/
def inPartition (s : State) (p : Nat) : Bool := s.jobs.any fun j => j.2.partition.getLsbD p

/-- A save image records the units of a plain (R327). -/
def Image.holdsPlain (i : Image) (p : Nat) : Bool := i.plains / 2 ^ p % 2 == 1

/-- Retire a square and its eight cores, as harvested (R309, R337). -/
def retireSquare (s : State) (sq : Nat) : State :=
  let mark (i : Image) : Image := if i.holdsPlain (sq / 256) then { i with retired := true } else i
  let gone (u : Upset) : Bool :=
    if u.kind = 2 then u.unit == sq else [1, 4, 5, 6, 8].contains u.kind && coreSquare u.unit == sq
  { s with
    retiredSquares := if s.retiredSquares.contains sq then s.retiredSquares else s.retiredSquares ++ [sq]
    cores := s.cores.filter fun p => coreSquare p.1 != sq
    squares := mdel s.squares sq
    upsets := s.upsets.filter fun u => !gone u
    images := s.images.map mark }

/-- Bytes of an HBM4E row (log entry 23). -/
def rowBytes : Nat := 1024

/-- Retire an HBM4E row (R337): a spare row of its pseudo-channel takes its place and reads zero, while one is left. -/
def retireRow (s : State) (pa : Nat) : State :=
  let row := pa / rowBytes
  let ch := 64 * (pa / 2 ^ 36) + row % 64
  let used := mgetD s.spares ch 0
  if 64 ≤ used then s
  else
    { s with
      spares := mset s.spares ch (used + 1)
      hbm := s.hbm.filter fun c => c.1 / rowBytes != row
      upsets := s.upsets.filter fun u => !(u.kind == 3 && u.addr / rowBytes == row) }

/-- The plain a failing unit belongs to. -/
def Upset.plain (u : Upset) : Option Nat :=
  match u.kind with
  | 1 | 4 | 5 | 8 => some (coreDie u.unit)
  | 2 => some (u.unit / 256)
  | 7 => if u.unit < 8 then some u.unit else none
  | _ => none

/-- Retire a unit that failed for good (R337); a link runs on at half width. -/
def retireUnit (s : State) (u : Upset) : State :=
  match u.kind with
  | 1 | 4 | 5 | 8 => retireSquare s (coreSquare u.unit)
  | 2 => retireSquare s u.unit
  | 3 => retireRow s u.addr
  | _ => s

/-- Record a lasting failure of a kind of R337 at a place (R339); its unit waits for the gang switch of its partition, and
outside every partition it is retired at once. -/
def noteLasting (s : State) (row die place : Nat) (u : Upset) : State :=
  let s := { s with
    mgmt := { s.mgmt with
      errLasting := satAdd s.mgmt.errLasting 1 (2 ^ 32 - 1)
      errlast := BitVec.ofNat 64 (2 ^ 60 * row + 2 ^ 56 * die + place % 2 ^ 40), errUnit := some u } }
  let s := raiseIrq s 9
  match u.plain with
  | some p =>
    if inPartition s p then
      { s with retireDue := if s.retireDue.contains u then s.retireDue else s.retireDue ++ [u] }
    else retireUnit s u
  | none => retireUnit s u

/-- Record a transient failure (R339). -/
def noteTransient (s : State) : State :=
  { s with mgmt := { s.mgmt with errTransient := satAdd s.mgmt.errTransient 1 (2 ^ 32 - 1) } }

/-- Remove a failing word. -/
def clearUpset (s : State) (u : Upset) : State := { s with upsets := s.upsets.filter (· != u) }

/-- Read the codes of device memory (R337): a transient failure is retried, a lasting one recorded. -/
def hbmCheck (s : State) (pa n : Nat) : Bool × State :=
  let bad := s.upsets.filter fun u => u.kind == 3 && u.addr / 8 * 8 < pa + n && pa < u.addr / 8 * 8 + 8
  bad.foldl (fun (r : Bool × State) u =>
    if u.lasting then (false, noteLasting r.2 3 (stackDie (pa / 2 ^ 36)) (u.addr / 8 * 8) u)
    else (r.1, noteTransient (clearUpset r.2 u))) (true, s)

/-- The page size of a leaf at a level (R312). -/
def levelSize : Nat → Nat
  | 1 => 2 ^ 37 | 2 => 2 ^ 26 | _ => 2 ^ 15

/-- The level whose leaves have a page size. -/
def sizeLevel (size : Nat) : Nat := if size = 2 ^ 37 then 1 else if size = 2 ^ 26 then 2 else 3

/-- The table index of a level (R312). -/
def levelIndex (va level : Nat) : Nat :=
  match level with
  | 1 => va / 2 ^ 37 % 2 ^ 15
  | 2 => va / 2 ^ 26 % 2 ^ 11
  | _ => va / 2 ^ 15 % 2 ^ 11

/-- The walk of R314 up to its leaf, on fuel: a leaf entry, or a reason and level. -/
def walkFrom (s : State) (job va : Nat) : Nat → Nat → Nat → Except (Nat × Nat) TlbEnt
  | 0, _, level => .error (1, level)
  | fuel + 1, table, level =>
    let at_ := table + 8 * levelIndex va level
    if !paMapped s table then .error (4, level)
    else if hbmBad s at_ 8 then .error (5, level)
    else
      let e := memNat s.hbm at_ 8
      let leaf := e / 2 % 2 == 1
      let addr := e / 2 ^ 14 % 2 ^ 38 * 2 ^ 14
      if e % 2 = 0 then .error (0, level)
      else if e / 2 ^ 52 ≠ 0 ∨ e / 64 % 256 ≠ 0 ∨ e / 4 % 2 ≠ 0 ∨ (level = 3 ∧ !leaf) then .error (1, level)
      else if leaf then
        let size := levelSize level
        if addr % size ≠ 0 then .error (2, level)
        else .ok { job := job, page := va / size * size, size := size, phys := addr, perms := e / 8 % 8 }
      else if 2 ^ 40 ≤ addr then .error (2, level)
      else walkFrom s job va fuel addr (level + 1)

/-- The table entries a walk reads, on fuel. -/
def walkPath (s : State) (va : Nat) : Nat → Nat → Nat → List Nat
  | 0, _, _ => []
  | fuel + 1, table, level =>
    let at_ := table + 8 * levelIndex va level
    let e := memNat s.hbm at_ 8
    if !paMapped s table then []
    else if hbmBad s at_ 8 || e % 4 != 1 then [at_]
    else at_ :: walkPath s va fuel (e / 2 ^ 14 % 2 ^ 38 * 2 ^ 14) (level + 1)

/-- The root of a job's tables. -/
def jobRoot (s : State) (job : Nat) : Nat :=
  match mget s.jobs job with
  | some j => j.root
  | none => 2 ^ 40

/-- The test of a leaf for one access (R313, R314): permissions and the mapping of the physical address. -/
def leafCheck (s : State) (e : TlbEnt) (va : Nat) (k : XKind) : Except (Nat × Nat) Nat :=
  let level := sizeLevel e.size
  let r := e.perms % 2 == 1
  let w := e.perms / 2 % 2 == 1
  let a := e.perms / 4 % 2 == 1
  let allowed := match k with
    | .read => r
    | .write => w
    | .atomic => r && w && a
  let phys := e.phys + va % e.size
  if !allowed then .error (3, level)
  else
    match regionOf va with
    | .device => if paMapped s phys then .ok phys else .error (4, level)
    | .fabric =>
      if !fpaMapped s phys then .error (4, level)
      else if k = .atomic ∧ phys / 2 ^ 42 % 2 ^ 9 = 0x1FF then .error (3, level)
      else .ok phys
    | _ => .ok phys

/-- An entry translates an address of a job. -/
def TlbEnt.covers (e : TlbEnt) (job va : Nat) : Bool := e.job == job && e.page == va / e.size * e.size

/-- Look a translation up. -/
def tlbFind (l : List TlbEnt) (job va : Nat) : Option TlbEnt := l.find? fun e => e.covers job va

/-- Add a translation, dropping the oldest beyond the capacity. -/
def tlbAdd (l : List TlbEnt) (cap : Nat) (e : TlbEnt) : List TlbEnt :=
  if l.contains e then l else (e :: l).take cap

/-- The unit a translation is made for: a plain by its number, 10 for the north pass die. -/
def unitPlain (s : State) (die : Nat) : Plain := if die < 8 then s.plain die else s.north

/-- Change a plain or the north pass die. -/
def updUnit (s : State) (die : Nat) (f : Plain → Plain) : State :=
  if die < 8 then s.updPlain die f else { s with north := f s.north }

/-- Capacity of a last-level TLB (R315). -/
def tlbCap (die : Nat) : Nat := if die < 8 then 4096 else 256

/-- Remove the core TLB entries of a plain whose last-level entry is gone (R315). -/
def pruneCores (s : State) (die : Nat) : State :=
  let keep := (unitPlain s die).tlb
  { s with cores := s.cores.map fun p =>
      if coreDie p.1 = die then (p.1, { p.2 with tlb := p.2.tlb.filter keep.contains }) else p }

/-- A registration names the page of a translation. -/
def Reg.names (r : Reg) (e : TlbEnt) : Bool := r.job == e.job && r.page == e.page && r.size == e.size

/-- A translation lies in a range of a job's addresses; a length of 0 takes them all (R318). -/
def TlbEnt.within (e : TlbEnt) (job lo len : Nat) : Bool :=
  e.job == job && (len == 0 || (e.page < lo + len && lo < e.page + e.size))

/-- A registration lies in a range. -/
def Reg.within (r : Reg) (job lo len : Nat) : Bool :=
  r.job == job && (len == 0 || (r.page < lo + len && lo < r.page + r.size))

/-- A die's translations of some pages are gone (R315, R317): their directory bits are cleared, and every core TLB of the plain
loses them. -/
def evicted (s : State) (die : Nat) (gone : List TlbEnt) : State :=
  if gone.isEmpty then s
  else
    let clear (r : Reg) : Reg := if gone.any r.names then { r with dies := r.dies.filter (· != die) } else r
    pruneCores { s with regs := (s.regs.map clear).filter fun r => !r.dies.isEmpty } die

/-- A die forgets the translations of a range (R318): its last-level TLB and its cores' TLBs. The directory keeps the registrations
until every die has acknowledged. -/
def forget (s : State) (die job lo len : Nat) : State :=
  pruneCores (updUnit s die fun p => { p with tlb := p.tlb.filter fun e => !e.within job lo len }) die

/-- The directory has no room for a further page (R317). -/
def directoryFull (s : State) : Bool := 65536 ≤ s.regs.length

/-- A translation overlaps the range of an invalidation in progress (R318). -/
def overtaken (s : State) (e : TlbEnt) : Bool := s.invals.any fun v => e.within v.job v.lo v.len

/-- An address lies in the range of an invalidation in progress, or in a page it removes (R318). -/
def Inval.covers (v : Inval) (job va : Nat) : Bool :=
  v.job == job && (v.len == 0 || (v.lo ≤ va && va < v.lo + v.len) || v.pages.any fun p => p.1 ≤ va && va < p.1 + p.2)

@[inherit_doc Inval.covers]
def invalidating (s : State) (job va : Nat) : Bool := s.invals.any fun v => v.covers job va

/-- The walk, in progress or in the miss queue, of a page that holds an address (R316). -/
def Walk.serves (w : Walk) (job va : Nat) : Bool := w.job == job && w.va / levelSize 3 == va / levelSize 3

/-- Walks a unit runs at once, and those its miss queue holds besides (R316). -/
def walkLimit : Nat := 64
@[inherit_doc walkLimit]
def missLimit : Nat := 512

/-- A miss to an address has a place: it joins a walk of its page, or the miss queue has room (R316). -/
def missPlace (s : State) (die job va : Nat) : Bool :=
  let ws := (unitPlain s die).walks
  ws.any (·.serves job va) || ws.length < walkLimit + missLimit

/-- The number under which the failing entries of a unit's TLB stand (R337): a core's its id, a last-level TLB's 2^14 and its
die. -/
def lastUnit (die : Nat) : Nat := 2 ^ 14 + die

/-- A TLB entry fails its parity (R337). -/
def tlbParity (s : State) (unit : Nat) (e : TlbEnt) : Bool := (upsetAt s 9 unit e.page).isSome

/-- Look a translation up; an entry that fails its parity is a miss (R337). -/
def tlbLook (s : State) (unit : Nat) (l : List TlbEnt) (job va : Nat) : Option TlbEnt :=
  (tlbFind l job va).filter fun e => !tlbParity s unit e

/-- The dropping of an entry that fails its parity counts as a transient failure (R337). -/
def parityDropped (s : State) (unit : Nat) (e : TlbEnt) : State :=
  match upsetAt s 9 unit e.page with
  | some u => noteTransient (clearUpset s u)
  | none => s

/-- Drop the entry of a core TLB that fails its parity (R337). -/
def dropCoreParity (s : State) (c job va : Nat) : State :=
  match tlbFind (s.core c).tlb job va with
  | some e => if tlbParity s c e then parityDropped (s.updCore c fun k => { k with tlb := k.tlb.filter (· != e) }) c e else s
  | none => s

/-- Drop the entry of a last-level TLB that fails its parity (R337). -/
def dropLastParity (s : State) (die job va : Nat) : State :=
  match tlbFind (unitPlain s die).tlb job va with
  | some e =>
    if tlbParity s (lastUnit die) e then
      parityDropped (evicted (updUnit s die fun p => { p with tlb := p.tlb.filter (· != e) }) die [e]) (lastUnit die) e
    else s
  | none => s

/-- Register a translation with the directory (R317): the die's bit of its page is set. -/
def register (s : State) (die : Nat) (e : TlbEnt) : State :=
  match s.regs.find? (·.names e) with
  | some r =>
    if r.dies.contains die then s
    else { s with regs := s.regs.filter (!·.names e) ++ [{ r with dies := r.dies ++ [die] }] }
  | none => { s with regs := s.regs ++ [{ job := e.job, page := e.page, size := e.size, dies := [die] }] }

/-- Enter a translation into a last-level TLB after its registration (R316, R317): the entry that falls
out clears its die's bit and leaves every core TLB of the plain. -/
def enterTlb (s : State) (die : Nat) (e : TlbEnt) : State :=
  let s := register s die e
  let old := (unitPlain s die).tlb
  let new := tlbAdd old (tlbCap die) e
  let gone := old.filter fun x => !new.contains x
  evicted (updUnit s die fun p => { p with tlb := new }) die gone

/-- A page walk (R314, R316): the codes of the entries it reads are checked (R337). -/
def walk (s : State) (job va : Nat) : Except (Nat × Nat) TlbEnt × State :=
  let r := walkFrom s job va 3 (jobRoot s job) 1
  (r, (walkPath s va 3 (jobRoot s job) 1).foldl (fun s a => (hbmCheck s a 8).2) s)

/-- A failed walk of an address that the engines of a unit learn of in this clock (R316). -/
def walkFailed (s : State) (die job va : Nat) : Option WalkFail :=
  (unitPlain s die).fails.find? fun f => f.job == job && f.page == va / levelSize 3 && (s.die die).clk ≤ f.clk + 1

/-- A translation for an engine or dispatcher of a die: a last-level hit, or the failure of its walk. A miss stands in `held`, for the
meaning that asked to wait on its walk (R316). -/
def engXlate (s : State) (die job va : Nat) (k : XKind) : Except (Nat × Nat) Nat × State :=
  match tlbLook s (lastUnit die) (unitPlain s die).tlb job va with
  | some e => (leafCheck s e va k, s)
  | none =>
    match walkFailed s die job va with
    | some f => (.error (f.reason, f.level), s)
    | none => (.error (0, 0), { s with held := some { die := die, job := job, va := va, kind := k.num } })

/-- The action from s to t needs a translation that must wait. -/
def mustWait (s t : State) : Bool := t.held.isSome && s.held.isNone

/-- A miss of an engine enters the walks of its unit (R316): it joins a walk of its page, or waits for one of its own, which begins at
once while fewer than 64 are in progress. None where an engine of the unit waits for the page already, or where the miss queue is
full. An entry of the TLB that fails its parity is dropped (R337). -/
def startMiss (s : State) (m : Miss) : Option State :=
  let unit := lastUnit m.die
  let mine (w : Walk) : Bool := w.core == unit || w.joined.any fun x => x.1 == unit
  let ws := (unitPlain s m.die).walks
  match ws.find? (·.serves m.job m.va) with
  | some w =>
    if mine w then none
    else
      let join (w : Walk) : Walk := { w with joined := w.joined ++ [(unit, 0, m.va)] }
      some (updUnit s m.die fun p => { p with walks := updWhere (·.serves m.job m.va) join p.walks })
  | none =>
    if walkLimit + missLimit ≤ ws.length then none
    else
      let (id, s) := s.newId
      let (n, s) := s.fresh 0
      let w : Walk := { id := id, job := m.job, va := m.va, kind := m.kind, core := unit, slot := 0, due := s.now + 1 + n
                        begun := ws.length < walkLimit }
      some (updUnit (dropLastParity s m.die m.job m.va) m.die fun p => { p with walks := p.walks ++ [w] })

/-- The meaning of an engine's action from s to t: where it needs a translation that must wait, its miss enters the walks instead,
and the action is tried again (R316). -/
def engineGoes (s t : State) : Host.Outcome State Fault Refusal :=
  match if s.held.isSome then none else t.held with
  | none => .next t
  | some m =>
    match startMiss s m with
    | some u => .next u
    | none => .refused .notEnabled

/-- A translation of the north pass die for an access that it performs in the same step (log entry 20): a hit, or a walk whose leaf
is registered and entered. During an invalidation of the address, or while the directory has no room, nothing is kept, and `held`
says that the access should wait. -/
def freeXlate (s : State) (die job va : Nat) (k : XKind) : Except (Nat × Nat) Nat × State :=
  match tlbLook s (lastUnit die) (unitPlain s die).tlb job va with
  | some e => (leafCheck s e va k, s)
  | none =>
    let held : Option Miss := some { die := die, job := job, va := va, kind := k.num }
    match walk (dropLastParity s die job va) job va with
    | (.error r, s) => (.error r, if invalidating s job va then { s with held := held } else s)
    | (.ok e, s) =>
      (leafCheck s e va k, if invalidating s job va || overtaken s e || directoryFull s then { s with held := held } else enterTlb s die e)

/-- The meaning of an action of the north pass die: it waits for an invalidation, or for room in the directory (R317, R318). -/
def northGoes (t : State) : Host.Outcome State Fault Refusal := if t.held.isSome then .refused .notEnabled else .next t

/-- The virtual die table entry of a job: the plain it names, if present (R307). -/
def vdtEntry (s : State) (job v : Nat) : Option Nat :=
  match mget s.jobs job with
  | none => none
  | some j =>
    if v < 16 then
      let e := (if v < 8 then j.vdtlo.toNat / 2 ^ (8 * v) else j.vdthi.toNat / 2 ^ (8 * (v - 8))) % 256
      if 128 ≤ e then some (e % 8) else none
    else none

/-- The virtual die number of a plain in a job's table (R116). -/
def vdieOf (s : State) (job plain : Nat) : Nat :=
  ((List.range 16).find? fun v => vdtEntry s job v == some plain).getD 0

/-- The core a peer address names in a job, and its offset in the window (R149). -/
def peerCore (s : State) (job a : Nat) : Option (Nat × Nat) :=
  let r := a - 0x1000000000
  match vdtEntry s job (r / 2 ^ 31) with
  | none => none
  | some p => some (coreAt p (r / 2 ^ 26 % 32) (r / 2 ^ 20 % 64), r % 2 ^ 20)

/-- A core is resident for a launch (R174): it holds a group of it. -/
def residentFor (s : State) (c launch : Nat) : Bool :=
  match (s.core c).group with
  | some g => g.launch == launch
  | none => false

end Sys2Proof.Machine
end

