-- ==== Sys2Proof/Machine/Ops.lean ====
section
/-! DEFINITION. The operations every unit shares: device memory, interrupts, messages and their counts,
events, flags, trace records, the taking of a trap (R86), kills (R89) and the end of a group (R276). -/

namespace Sys2Proof.Machine

/-- The cause codes of R84. -/
inductive Cause where
  | illegal | privileged | fetch | misaligned | straddle | formatInvalid | translation | tagMismatch
  | tagReport | uncorrectable | peerAbsent | linkAbsent | divideByZero | lookahead | overshoot | guard
  | scope | watchpoint | resync | syscall | breakpoint | helperInvalid | helperKilled | groupEnded
  deriving DecidableEq, Repr

/-- The code of a cause (R84). -/
def Cause.code : Cause → Nat
  | .illegal => 0x01 | .privileged => 0x02 | .fetch => 0x03 | .misaligned => 0x04 | .straddle => 0x05
  | .formatInvalid => 0x06 | .translation => 0x07 | .tagMismatch => 0x08 | .tagReport => 0x09
  | .uncorrectable => 0x0A | .peerAbsent => 0x0B | .linkAbsent => 0x0C | .divideByZero => 0x0D
  | .lookahead => 0x0E | .overshoot => 0x0F | .guard => 0x10 | .scope => 0x11 | .watchpoint => 0x12
  | .resync => 0x13 | .syscall => 0x14 | .breakpoint => 0x15 | .helperInvalid => 0x16
  | .helperKilled => 0x17 | .groupEnded => 0x18

/-! Device memory. -/

/-- Write bytes to device memory; a full 8-byte write rewrites the word's code (R337). -/
def hbmWrite (s : State) (pa : Nat) (bs : List Byte) : State :=
  { s with
    hbm := memWrite s.hbm pa bs
    upsets := s.upsets.filter fun u => !(u.kind == 3 && pa ≤ u.addr / 8 * 8 && u.addr / 8 * 8 + 8 ≤ pa + bs.length) }

/-- Read a number of n bytes of one page of a job's device memory as the north pass die; none on a failure. -/
def northPart (s : State) (job va n : Nat) : Option Nat × State :=
  match freeXlate s 10 job va .read with
  | (.ok pa, s) =>
    let (ok, s) := hbmCheck s pa n
    (if regionOf va = .device && ok then some (memNat s.hbm pa n) else none, s)
  | (.error _, s) => (none, s)

/-- The bytes of n from an address that lie in its page of the smallest size. -/
def inPage (va n : Nat) : Nat := min n (levelSize 3 - va % levelSize 3)

/-- Read a number of n bytes of a job's device memory as the north pass die, each page through its own translation (R349). -/
def northRead (s : State) (job va n : Nat) : Option Nat × State :=
  let k := inPage va n
  match northPart s job va k with
  | (none, s) => (none, s)
  | (some lo, s) =>
    if k = n then (some lo, s)
    else
      let (hi, s) := northPart s job (va + k) (n - k)
      (hi.map fun h => lo + 2 ^ (8 * k) * h, s)

/-- The physical address a write of the north pass die goes to; none on a failure. -/
def northPlace (s : State) (job va : Nat) : Option Nat × State :=
  match freeXlate s 10 job va .write with
  | (.ok pa, s) => (if regionOf va = .device then some pa else none, s)
  | (.error _, s) => (none, s)

/-- Write n bytes of a job's device memory as the north pass die, each page through its own translation; false on a
failure. -/
def northPut (s : State) (job va n v : Nat) : Bool × State :=
  let k := inPage va n
  match northPlace s job va with
  | (none, s) => (false, s)
  | (some pa, s) =>
    if k = n then (true, hbmWrite s pa (natBytes n v))
    else
      match northPlace s job (va + k) with
      | (none, s) => (false, s)
      | (some pb, s) => (true, hbmWrite (hbmWrite s pa (natBytes k v)) pb (natBytes (n - k) (v / 2 ^ (8 * k))))

/-! Package time (R115). -/

/-- Package time as a plain reads it: within 2 counts of the north pass die's counter, where is open (log entry 3), and not below what the
plain has read before. -/
def plainTime (s : State) (d : Nat) : Nat :=
  min (s.ptime + 2) (max (s.ptime + Config.freeNat 3 (12 * s.ptime + d) % 5 - 2) (s.die d).gtime)

/-- The sampling pulses that a core of a die finds past, by the package time that it would read as GTIME (R115, R230): those that the
north pass die has issued, without the last of them where its plain is behind them, and with the next ones where it is ahead. -/
def pulsesDue (s : State) (d : Nat) : Nat :=
  let m := s.mgmt
  let time := plainTime s d
  let ahead := match m.pulseAt with
    | some t => if time < t then 0 else if m.spperiod = 0 then 1 else (time - t) / m.spperiod + 1
    | none => 0
  m.pulseNo + ahead - (m.pulsesAt.filter fun t => time < t).length

/-! Messages (R172, R277). -/

/-- The core of a message's issuer. -/
def Issuer.core? : Issuer → Option Nat
  | .ctx c _ _ _ | .chan c _ _ _ | .arr c _ _ _ | .coll c _ _ | .trace c | .dump c => some c
  | _ => none

/-- The die an issuer of messages is on; what no core issued counts at the north pass die. -/
def Issuer.die (i : Issuer) : Nat :=
  match i.core? with
  | some c => coreDie c
  | none => 10

/-- One more message of a launch has been sent, from a die. -/
def countSent (s : State) (l d : Nat) : State := s.updLaunch l fun x => { x with sent := mupd x.sent d 0 (· + 1) }

/-- One more message of a launch has been received, at a die. -/
def countRecv (s : State) (l d : Nat) : State := s.updLaunch l fun x => { x with recv := mupd x.recv d 0 (· + 1) }

/-- A time in the future that the manual leaves open (log entry 5): at least one grain from now. -/
def later (s : State) : Nat × State :=
  let (n, s) := s.fresh 1
  (s.now + 1 + n, s)

/-- Put a message into the mesh: it is counted sent, and its arrival time is open. -/
def sendMsg (s : State) (m : Msg) : Nat × State :=
  let (due, s) := later s
  let (id, s) := s.newId
  (id, { countSent s m.launch m.issuer.die with msgs := mset s.msgs id { m with phase := .going due } })

/-- Send the reply of a message on its way back. -/
def replyMsg (s : State) (id : Nat) (r : Reply) : State :=
  match mget s.msgs id with
  | none => s
  | some m =>
    let (due, s) := later s
    { s with msgs := mset s.msgs id { m with phase := .coming r due } }

/-- Forget a message. -/
def dropMsg (s : State) (id : Nat) : State := { s with msgs := mdel s.msgs id }

/-! Events (R112). -/

/-- Set EVT in every live context of a core. -/
def setEvt (s : State) (c : Nat) : State :=
  s.updCore c fun k =>
    { k with ctxs := k.ctxs.map fun p => if p.2.status = .live then (p.1, { p.2 with evt := true }) else p }

/-! Counted-write flags (R183, R184). -/

/-- ApplyChange (R184). -/
def applyChange (c : Int × Bool) (delta : Int) : Int × Bool :=
  let n := c.1 + delta
  let n := max (-((2 ^ 39 : Nat) : Int)) (min n (((2 ^ 39 : Nat) : Int) - 1))
  (n, c.2 || n < 0)

/-- A set of R180 or FARM: COUNT takes the value, OVERSHOOT is set by a negative one. -/
def applySet (c : Int × Bool) (v : Int) : Int × Bool := (v, c.2 || v < 0)

/-- The entry after the changes of its clock in the order of R184. -/
def Flag.settle (f : Flag) : Flag :=
  let c := match f.instrSet with
    | none => (f.count0, f.ovs0)
    | some (v, clear) => if clear then (v, false) else applySet (f.count0, f.ovs0) v
  let c := f.sets.foldl applySet c
  let c := f.adds.foldl applyChange c
  let c := f.subs.foldl (fun c d => applyChange c (-d)) c
  { f with count := c.1, ovs := c.2 }

/-- Change one flag of a core and settle its entry. -/
def updFlag (s : State) (c f : Nat) (g : Flag → Flag) : State :=
  s.updCore c fun k => { k with flags := mupd k.flags f {} fun x => (g x).settle }

/-- A subtraction that arrives in this clock. -/
def flagSub (s : State) (c f n : Nat) : State := updFlag s c f fun x => { x with subs := x.subs ++ [(n : Int)] }

/-- An addition that arrives in this clock. -/
def flagAdd (s : State) (c f : Nat) (d : Int) : State := updFlag s c f fun x => { x with adds := x.adds ++ [d] }

/-- A set that arrives in this clock. -/
def flagSet (s : State) (c f : Nat) (v : Int) : State := updFlag s c f fun x => { x with sets := x.sets ++ [v] }

/-- The 64-bit entry of a flag as FREAD returns it (R183), from a COUNT and an OVERSHOOT. -/
def flagWord (count : Int) (ovs : Bool) : Word :=
  BitVec.ofNat 64 (lowBits count 40 + 2 ^ 63 * b2n ovs)

/-- A flag of a core. -/
def State.flag (s : State) (c f : Nat) : Flag := mgetD (s.core c).flags f {}

/-! Reports (R163, R182). -/

/-- The context of a generation in its slot is still live. -/
def sameCtx (s : State) (c t gen : Nat) : Bool := (s.ctx c t).gen == gen && (s.ctx c t).status == .live

/-- Queue a tag report for a context; a fifth is dropped and counted. -/
def queueTag (s : State) (c t gen : Nat) (r : TagReport) : State :=
  let s := s.updCore c fun k => { k with pmcs := k.pmcs.map fun p =>
    if p.2.ctl.toNat % 256 = 11 then (p.1, { p.2 with bump := p.2.bump + 1 }) else p }
  if sameCtx s c t gen then
    s.updCtx c t fun x =>
      if x.tagQ.length < 4 then { x with tagQ := x.tagQ ++ [r] }
      else { x with tagDropped := satAdd x.tagDropped 1 255 }
  else s

/-- Queue a failure report for a context; a fifth is dropped. -/
def queueFail (s : State) (c t gen : Nat) (r : FailReport) : State :=
  if sameCtx s c t gen then
    s.updCtx c t fun x => if x.failQ.length < 4 then { x with failQ := x.failQ ++ [r] } else x
  else s

/-! Trace records (R227 to R229). -/

/-- The trace encoder of a core is on. -/
def tracing (k : Core) : Bool := 2 ^ 63 ≤ k.trace.ctl.toNat

/-- The trace encoder follows a slot. -/
def tracesSlot (k : Core) (t : Nat) : Bool := tracing k && k.trace.ctl.toNat / 2 ^ (39 + t) % 2 == 1

/-- The ring size in bytes (R227). -/
def ringSize (ctl : Word) : Nat := 2 ^ (max 12 (min 28 (ctl.toNat / 2 ^ 34 % 32)))

/-- The home of a trace record whose address is translated; none while it waits for a walk (R228, R316). -/
def traceHome (s : State) (c job va : Nat) : Option Home × State :=
  let (x, t) := engXlate s (coreDie c) job va .write
  match x with
  | .ok pa => (some (if regionOf va = .device then .hbm pa else .lost), t)
  | .error _ =>
    if mustWait s t then (none, (t.held.bind (startMiss { t with held := none })).getD { t with held := none })
    else (some .lost, t)

/-- The trace records of a core that wait for a walk are sent once it has ended (R228, R316). -/
def traceSend (s : State) (c : Nat) : State :=
  (s.core c).trace.flying.foldl (fun s id => match mget s.msgs id with
    | some m =>
      if m.phase = .translating then
        match traceHome s c m.job m.va with
        | (some h, s) =>
          let (due, s) := later s
          { s with msgs := mset s.msgs id { m with home := h, phase := .going due } }
        | (none, s) => s
      else s
    | none => s) s

/-- Make one record; it is dropped and counted while eight are in flight (R228). `body` is bits [127:16]. HEAD wraps only where it
meets the end of the ring: one that a lower SIZELOG has left behind goes on upwards (log entry 31, DESIGN CHOICE). -/
def oneRecord (s : State) (c ty slot body : Nat) : State :=
  let k := s.core c
  let tr := k.trace
  let seq := tr.seq
  let k1 := { k with trace := { tr with seq := (seq + 1) % 256 } }
  if 8 ≤ tr.flying.length then
    s.setCore c { k1 with trace := { k1.trace with lost := satAdd tr.lost 1 65535 } }
  else
    let size := ringSize tr.ctl
    let head := tr.ctl.toNat / 16 % 2 ^ 24
    let va := tr.base.toNat % 2 ^ 52 / size * size + 16 * head
    let rec128 := ty + 16 * slot + 256 * seq + 65536 * body
    let job := match k.group with
      | some g => g.job
      | none => k.lastJob
    let head' := if 16 * (head + 1) = size then 0 else (head + 1) % 2 ^ 24
    let ctl := BitVec.ofNat 64 (tr.ctl.toNat - 16 * head + 16 * head')
    let (home, s) := traceHome s c job va
    let m : Msg := { issuer := .trace c, act := .store (natBytes 16 rec128), home := home.getD .lost, va := va, job := job }
    let (id, s) := sendMsg s m
    let s := if home.isNone then { s with msgs := mset s.msgs id { m with phase := .translating } } else s
    s.setCore c { k1 with trace := { k1.trace with ctl := ctl, flying := tr.flying ++ [id] } }

/-- A LOST record goes out at the first free place after a drop (R228), while the encoder is on. -/
def lostRecord (s : State) (c : Nat) : State :=
  let tr := (s.core c).trace
  if tracing (s.core c) ∧ tr.lost ≠ 0 ∧ tr.flying.length < 8 then
    oneRecord (s.updCore c fun k => { k with trace := { k.trace with lost := 0 } }) c 9 0 tr.lost
  else s

/-- Make one record, after the LOST record that earlier drops owe. -/
def traceRecord (s : State) (c ty slot body : Nat) : State := oneRecord (lostRecord s c) c ty slot body

/-- The FLOW record of a slot (R229): counts and history since its last record. -/
def flowRecord (s : State) (c t : Nat) : State :=
  let x := s.ctx c t
  let bits := x.hist.foldr (fun b a => b2n b + 2 * a) 0
  let body := x.icount % 65536 + 2 ^ 16 * bits + 2 ^ 48 * x.hist.length + 2 ^ 54 * (x.jlrTarget % 2 ^ 52)
  let s := traceRecord s c 2 t body
  s.updCtx c t fun x => { x with icount := 0, hist := [], jlrTarget := 0 }

/-- The SYNC record of a slot, after which ICOUNT and HIST begin anew (R229). That of a blocked slot carries the address of the next
instruction, where DEBUG, SAMPLE and DBGRNUM 136 give the blocked instruction's (log entry 31, DESIGN CHOICE). -/
def syncRecord (s : State) (c t : Nat) : State :=
  let x := s.ctx c t
  let s := traceRecord s c 1 t (x.pc % 2 ^ 52 + 2 ^ 52 * (s.ptime % 2 ^ 60))
  let s := s.updCore c fun k => { k with trace := { k.trace with unsynced := k.trace.unsynced.filter (· != t) } }
  s.updCtx c t fun x => { x with needSync := false, syncCount := 0, icount := 0, hist := [] }

/-- The first record of a slot after ENABLE is a SYNC (R229). -/
def firstSync (s : State) (c t : Nat) : State :=
  if (s.core c).trace.unsynced.contains t then syncRecord s c t else s

/-- The SYNC record a slot owes: its first, or that of 4,096 instructions behind its FLOW (R229). -/
def oweSync (s : State) (c t : Nat) : State :=
  if (s.core c).trace.unsynced.contains t then syncRecord s c t
  else if (s.ctx c t).needSync then syncRecord (flowRecord s c t) c t
  else s

/-- A record of a traced slot: its first after ENABLE is a SYNC, and a FLOW precedes any other (R229). -/
def slotRecord (s : State) (c t ty body : Nat) : State :=
  if tracesSlot (s.core c) t then traceRecord (flowRecord (oweSync s c t) c t) c ty t body else s

/-! Traps. -/

/-- The trap registers of a level (R87). -/
def Ctx.bank (x : Ctx) (level : Nat) : TrapBank := if level = 1 then x.t1 else x.t2

/-- Replace the trap registers of a level. -/
def Ctx.setBank (x : Ctx) (level : Nat) (b : TrapBank) : Ctx :=
  if level = 1 then { x with t1 := b } else { x with t2 := b }

/-- A fetch at an address meets no range, alignment or guard fault (R147). -/
def fetchable (k : Core) (a : Nat) : Bool := a < 0x80000 && a % 4 == 0 && mgetD k.tags (a / 32) 0 != 15

/-- LengthAt (R86): from the fetch buffer when it holds the word, else from the scratchpad. The fetch faults of R147 do not
name a word that is uncorrectable: its length is that of its stored bits (log entry 31). -/
def lengthAt (k : Core) (x : Ctx) (pc : Nat) : Nat :=
  if pc = x.pc ∧ 4 ≤ x.fbuf.length then lengthOf (leBytes (x.fbuf.take 4))
  else if fetchable k pc then lengthOf (memNat k.spad pc 4)
  else 0

/-- A trap's entry reads the word at its program counter from the scratchpad (R86): the fetch buffer does not hold it, and it can
be fetched; at level 2 no length is recorded. -/
def Ctx.readsLength (k : Core) (x : Ctx) (r : TrapReq) : Bool :=
  r.ilen.isNone && x.tl != 2 && !(r.pc == x.pc && 4 ≤ x.fbuf.length) && fetchable k r.pc

/-- The registers of a context after a trap is taken below level 2 (R86, R87). -/
def Ctx.enter (x : Ctx) (r : TrapReq) (ilen : Nat) : Ctx :=
  let level := x.tl + 1
  let b := x.bank level
  let stat := 256 * ilen + 1024 * b2n (x.mode == .runtime) + 2048 * b2n r.defer + 4096 * (r.win % 16)
  let b := { b with tcause := BitVec.ofNat 64 r.cause, tvalue := r.value, tepc := BitVec.ofNat 64 (r.pc % 2 ^ 52),
                    tstat := BitVec.ofNat 64 stat }
  { x.setBank level b with
    tl := level, mode := .runtime, pc := b.tvec.toNat, fbuf := [], ffault := none, trap := none, blk := none,
    walking := none }

/-- What a taken trap does to the register or queue it delivers (R163, R167, R182, R319). -/
def Ctx.note (x : Ctx) : TrapNote → Ctx
  | .plain => x
  | .tfdetail w => { x with tfdetail := w }
  | .tagReport =>
    match x.tagQ with
    | [] => x
    | r :: q => { x with tagQ := q, tagrep := r.detail ||| BitVec.ofNat 64 (x.tagDropped * 2 ^ 40), tagDropped := 0 }
  | .failReport => { x with failQ := x.failQ.drop 1 }
  | .impHit => { x with impTrap := none }

/-- A slot as group start and HSTART reset it (R64, R70). -/
def freeCtx : Ctx := {}

/-- A context that has left the live state (R69): its registers stay as they are, and its work in progress and its undelivered
reports are gone (R89, R163, R182). -/
def Ctx.ended (x : Ctx) (status : CtxStatus) : Ctx :=
  { x with
    status := status, fbuf := [], ffault := none, pend := [], blk := none, trap := none, heldFault := none, tagQ := []
    tagDropped := 0, failQ := [], asm := Vector.replicate 4 [], yieldSet := none, halted := false, hcause := 0
    stepping := none, exempt := false, impTrap := none, walking := none, evt := false }

/-- Another context of the core has issued, or has left the live state: a YIELD hold that waited for it alone ends (R78). -/
def Ctx.sawIssue (x : Ctx) (t : Nat) : Ctx :=
  { x with yieldSet := match x.yieldSet with
      | none => none
      | some l => let l := l.filter (· != t); if l.isEmpty then none else some l }

/-- An entry enters a job's fault queue (R290); a failed access drops it, and the drop is counted. -/
def putFault (s : State) (f : FaultNote) : State :=
  match mget s.jobs f.job with
  | none => s
  | some j =>
    let drop (s : State) : State :=
      { s with jobs := mupd s.jobs f.job j fun j => { j with dropped := satAdd j.dropped 1 255 } }
    match northRead s f.job j.faultq 8 with
    | (none, s) => drop s
    | (some wr, s) =>
      match northRead s f.job (j.faultq + 8) 8 with
      | (none, s) => drop s
      | (some rd, s) =>
        if (wr + 2 ^ 64 - rd) % 2 ^ 64 = 2 ^ j.logn then drop s
        else
          let at_ := j.faultq + 64 + 32 * (wr % 2 ^ j.logn)
          let w0 := f.ty + 256 * f.cause + 2 ^ 16 * f.slot + 2 ^ 20 * f.core + 2 ^ 34 * f.launch + 2 ^ 50 * j.dropped
          let entry := w0 + 2 ^ 64 * (f.value % 2 ^ 64) + 2 ^ 128 * (f.pc % 2 ^ 64) + 2 ^ 192 * (f.time % 2 ^ 64)
          match northPut s f.job at_ 32 entry with
          | (false, s) => drop s
          | (true, s) =>
            match northPut s f.job j.faultq 8 ((wr + 1) % 2 ^ 64) with
            | (false, s) => drop s
            | (true, s) =>
              raiseIrq { s with jobs := mupd s.jobs f.job j fun j => { j with dropped := 0 } } 3

/-- The next entry for a job's fault queue is written, or waits: for those of the job before it, for an invalidation of its address or
for room in the directory (R317, R318). -/
def faultTurn (s : State) (f : FaultNote) : State :=
  let t := putFault { s with held := none } f
  if t.held.isSome || s.faultsDue.any (·.job == f.job) then { s with faultsDue := s.faultsDue ++ [f] } else { t with held := s.held }

/-- An entry for a job's fault queue (R290). -/
def faultEntry (s : State) (job ty cause slot core launch value pc : Nat) : State :=
  faultTurn s { job := job, ty := ty, cause := cause, slot := slot, core := core, launch := launch, value := value, pc := pc
                time := s.ptime }

/-- The entries that wait are tried again, but for those of a job that is stopped. -/
def faultSend (s : State) : State :=
  let (wait, go) := s.faultsDue.partition fun f => jobHeld s f.job
  go.foldl faultTurn { s with faultsDue := wait }

/-- The release of a lease asked for (R239, UNLEASE and the end of a group). -/
def askRelease (k : Core) (ending : Bool) : Core :=
  { k with lease := { k.lease with
      releasing := k.lease.releasing || k.lease.state != .none, groupEnding := k.lease.groupEnding || ending } }

/-- The slot whose step made a held work item. -/
def HeldWork.owner : HeldWork → Nat
  | .launch o _ | .helper o _ => o

/-- A held helper is resumed (R220, R224), with its DEBUG record. -/
def resumeHelper (s : State) (c t : Nat) : State :=
  let s := s.updCtx c t fun x => { x with halted := false, hcause := 0, evt := true, exempt := true }
  slotRecord s c t 4 (2 ^ 4 * ((s.ctx c t).pc % 2 ^ 52))

/-- The work that HOLDDISP held for one slot, or for every slot, is let go (R220): commands start, launches are dealt,
helpers are resumed. -/
def releaseHeld (s : State) (c : Nat) (owner : Option Nat) (killHelpers : Bool) : State :=
  let mine (t : Nat) : Bool := owner.all (· == t)
  let freed := (s.core c).held.filter fun h => mine h.owner
  let helpers := freed.filterMap fun
    | .helper _ t => some t
    | _ => none
  let launches := freed.filterMap fun
    | .launch _ r => some r
    | _ => none
  let unhold (e : CmdEnt) : CmdEnt := if e.core = c ∧ mine e.slot then { e with held := false } else e
  let s := s.updCore c fun k =>
    { k with
      held := k.held.filter fun h => !mine h.owner
      eq1 := k.eq1.map unhold
      chans := k.chans.map fun p => (p.1, { p.2 with startQ := p.2.startQ.map unhold }) }
  let s := s.updPlain (coreDie c) fun p => { p with coll := p.coll.map unhold }
  let s := { s with
    launches := s.launches.map fun p => if launches.contains p.1 then (p.1, { p.2 with heldBack := false }) else p
    requests := s.requests.map fun r => if r.core = c ∧ mine r.slot then { r with held := false } else r }
  if killHelpers then s else helpers.foldl (fun s t => resumeHelper s c t) s

/-- The group of a core ends (R276): residency ceases, every slot ends, leases follow R239, the dispatcher and the frontier
home learn of it. `killed` counts it in KILLED and leaves the control slot killed; the registers of the slots stay until the
next group start or HSTART (R64, R70). -/
def endGroup (s : State) (c : Nat) (killed : Bool) : State :=
  match (s.core c).group with
  | none => s
  | some g =>
    let s := releaseHeld s c none true
    let s := s.updCore c fun k =>
      { askRelease k true with
        group := none, ready := false, linkQ := [], linkFly := [], lastJob := g.job
        ctxs := k.ctxs.map fun p => (p.1, p.2.ended (if killed ∧ p.1 = 0 then .killed else .free))
        feTable := [], feOnce := [], walks := [], held := [] }
    let s := s.updLaunch g.launch fun l =>
      let l := { l with running := l.running - 1, killed := satAdd l.killed (b2n killed) 65535 }
      match l.frontier with
      | some f => { l with frontier := some (if f.state = .abandoned then
          { f with pending := f.pending.filter (· != g.lin) } else { f with intake := f.intake ++ [g.lin] }) }
      | none => l
    s

/-- A gang's pipes are destroyed when its last group has ended (R286): the queues whose launches are done. -/
def gangDone (s : State) (gang : Nat) : Bool :=
  s.launches.all fun p => p.2.gang != gang || (p.2.running == 0 && p.2.next == p.2.total && p.2.returned.isEmpty)

/-- Remove the pipes of a finished gang. -/
def dropPipes (s : State) (gang : Nat) : State :=
  if gang ≠ 0 ∧ gangDone s gang then
    let clean (p : Plain) : Plain := { p with queues := p.queues.filter fun q => q.2.pipe != some gang }
    { s with plains := s.plains.map fun p => (p.1, clean p.2), north := clean s.north }
  else s

/-- The gang of a core's group, 0 for none. -/
def gangOf (s : State) (c : Nat) : Nat :=
  match (s.core c).group with
  | some g => match s.launch? g.launch with
    | some l => l.gang
    | none => 0
  | none => 0

/-- Leaving the live state sets EVT in every live context of the core (R112), ends the YIELD holds that waited for the slot
(R78), and lets go what the context held while stepping (R220). -/
def leaveLive (s : State) (c t : Nat) (x : Ctx) : State :=
  let s := if (s.ctx c t).stepping.isSome then releaseHeld s c (some t) false else s
  let s := (s.setCtx c t x).updCore c fun k =>
    { k with
      feTable := k.feTable.filter fun e => e.2.1 != t
      feOnce := k.feOnce.filter fun id => k.feTable.any fun e => e.2.1 != t && e.2.2 == id
      ctxs := k.ctxs.map fun p => if p.1 = t then p else (p.1, p.2.sawIssue t) }
  setEvt s c

/-- The kills of the live helpers of a group that ends are traced (R69, R229). TEPC of the record is the address of the helper's next
instruction, also where it is blocked in one: R229 does not say (log entry 31, DESIGN CHOICE). -/
def traceHelperKills (s : State) (c : Nat) : State :=
  (s.core c).ctxs.foldl (fun s p => if p.1 ≠ 0 ∧ p.2.status = .live then
    slotRecord s c p.1 3 (0x18 + 2 ^ 8 * 3 + 2 ^ 10 * (p.2.pc % 2 ^ 52)) else s) s

/-- End a group and destroy its gang's pipes when it was the last. -/
def finishGroup (s : State) (c : Nat) (killed : Bool) : State :=
  let gang := gangOf s c
  dropPipes (endGroup (traceHelperKills s c) c killed) gang

/-- A dump starts unless one runs (R233): TRUNC, FAULT, STATUS and LENGTH are cleared, DONE stays. The dump writer sees it from
the next clock on (R109). -/
def Dump.start (d : Dump) : Dump :=
  if 2 ^ 63 ≤ d.stat.toNat then d
  else { d with stat := BitVec.ofNat 64 (2 ^ 63 + d.stat.toNat / 2 ^ 62 % 2 * 2 ^ 62), pos := 0, fresh := true }

/-- A killed context keeps its registers, the program counter its trap would have recorded, and its kill record (R89). -/
def Ctx.kill (x : Ctx) (kr : KillRecord) : Ctx :=
  { x.ended .killed with pc := kr.pc, killCause := kr.cause, killRec := some kr }

/-- Kill (R89): a helper becomes killed; a control context ends its group and is reported, with a dump when AUTO asks for
one (R233). -/
def killCtx (s : State) (c t : Nat) (r : TrapReq) : State :=
  let s := slotRecord s c t 3 (r.cause + 2 ^ 8 * 3 + 2 ^ 10 * (r.pc % 2 ^ 52))
  let kr : KillRecord := { cause := r.cause, value := r.value, pc := r.pc, slot := t, core := c }
  let s := s.updCore c fun k => { k with dump := { k.dump with kill := some kr } }
  if t = 0 then
    match (s.core c).group with
    | none => s
    | some g =>
      let s := (s.updCtx c 0 fun x => { x with pc := kr.pc, killCause := kr.cause, killRec := some kr }).updCore c fun k =>
        if k.dump.ctl.toNat / 2 % 2 = 1 then { k with dump := k.dump.start } else k
      let s := finishGroup s c true
      faultEntry s g.job 1 r.cause 0 c g.launch r.value.toNat r.pc
  else leaveLive s c t ((s.ctx c t).kill kr)

/-- The halt that ends a single step (R220). -/
def stepHalt (s : State) (c t : Nat) : State :=
  let s := s.updCtx c t fun x => { x with stepping := none, halted := true, hcause := 2 }
  slotRecord s c t 4 (2 + 2 ^ 4 * ((s.ctx c t).pc % 2 ^ 52))

/-- The trap sequence once no long-latency instruction is pending (R86): the next level's registers are written and the vector
taken, or the context is killed at TL = 2. A single step whose instruction has issued ends there (R220). -/
def takeTrap (s : State) (c t : Nat) (r : TrapReq) : State :=
  let x := s.ctx c t
  if x.tl = 2 then killCtx (s.setCtx c t (x.note r.note)) c t r
  else
    let ilen := r.ilen.getD (lengthAt (s.core c) x r.pc)
    let s := slotRecord s c t 3 (r.cause + 2 ^ 8 * (x.tl + 1) + 2 ^ 10 * (r.pc % 2 ^ 52))
    let x := s.ctx c t
    let s := s.setCtx c t { (x.note r.note).enter r ilen with notBefore := s.clk c + 1 }
    if x.stepping.any (· != 0) then stepHalt s c t else s

/-- Raise a trap: it is taken at once when nothing is pending and its entry reads no word, and otherwise waits (R86); a halted
context takes it when it resumes, and stays blocked until then in an instruction that the trap stands at (R219). -/
def raiseTrap (s : State) (c t : Nat) (r : TrapReq) : State :=
  let x := s.ctx c t
  if x.pend.isEmpty && !x.halted && !x.readsLength (s.core c) r then takeTrap s c t r
  else if x.halted && x.blk.any (·.pc == r.pc) then
    s.setCtx c t { x with trap := some (x.trap.getD r), walking := none }
  else s.setCtx c t { x with trap := some r, blk := none, walking := none }

/-- Raise a trap with issue or wait delivery at the instruction the issuing context stands in (R85). -/
def trapHere (s : State) (cause : Cause) (value : Word) (note : TrapNote := .plain) : State :=
  match s.me.blk with
  | some b => raiseTrap s s.cur.core s.cur.slot
      { cause := cause.code, value := value, pc := b.pc, note := note, ilen := some b.len }
  | none => raiseTrap s s.cur.core s.cur.slot { cause := cause.code, value := value, pc := s.me.pc, note := note }

/-- A translation fault at issue, with TFDETAIL (R319). -/
def trapXlate (s : State) (va reason level kind : Nat) : State :=
  trapHere s .translation (BitVec.ofNat 64 va) (.tfdetail (tfWord reason level kind))

/-- A word for an address or number. -/
def wordOf (n : Nat) : Word := BitVec.ofNat 64 n

/-- What RegionCheck finds, as a trap of the issuing context; none when the access may go on. -/
def trapRegion (s : State) (r : RegionRes) : Option State :=
  match r with
  | .ok => none
  | .xlate a => some (trapXlate s a 7 0 3)
  | .straddle a => some (trapHere s .straddle (wordOf a))

/-- The return from a trap level (R88): pc, mode and level, and a fetch from the scratchpad (R147). -/
def Ctx.ret (x : Ctx) : Ctx :=
  let b := x.bank x.tl
  { x with pc := b.tepc.toNat % 2 ^ 52, mode := if b.tstat.toNat / 1024 % 2 = 1 then .runtime else .job,
           tl := x.tl - 1, fbuf := [], ffault := none, exempt := b.tcause == 0x12 }

/-! Records (R55). -/

/-- A 128-bit record. -/
def record (detail value tag status opcode : Nat) : VWord :=
  BitVec.ofNat 128 (opcode + 2 ^ 8 * status + 2 ^ 16 * tag + 2 ^ 32 * (value % 2 ^ 32) + 2 ^ 64 * (detail % 2 ^ 64))

/-- A result queue of a core. -/
def Core.res (k : Core) (q : Nat) : ResQ := mgetD k.resQ q {}

/-- Records held or reserved in a result queue (R56): a record whose low half is popped still counts. -/
def ResQ.places (r : ResQ) : Nat := (r.halves.length + 1) / 2 + r.reserved

/-- Push a record into a result queue, and set EVT. -/
def pushRecord (s : State) (c q : Nat) (v : VWord) : State :=
  let halves := [BitVec.ofNat 64 v.toNat, BitVec.ofNat 64 (v.toNat / 2 ^ 64)]
  setEvt (s.updCore c fun k => { k with resQ := mupd k.resQ q {} fun r => { r with halves := r.halves ++ halves } }) c

/-- Send a record of an engine outside the core on its way (R56). -/
def sendRecord (s : State) (e : CmdEnt) (q : Nat) (v : VWord) : State :=
  let (due, s) := later s
  s.updCore e.core fun k => 
    let r : RecordFly := { q := q, recd := v, group := e.group, launch := e.launch, slot := e.slot, gen := e.gen, due := due }
    { k with recFly := k.recFly ++ [r] }

end Sys2Proof.Machine
end

