-- ==== Sys2Proof/Machine/Flags.lean ====
section
/-! DEFINITION. The flag computations: the floating-point status (R122, R123), and the counted-write
flags as FREAD, FWAIT and the end of a clock judge them (R183 to R186). -/

namespace Sys2Proof.Machine

/-- OR exception flags into the FPSTAT of a context (R122). -/
def orFp (s : State) (c t : Nat) (f : FFlags) : State := s.updCtx c t fun x => { x with fpstat := x.fpstat ||| f }

/-- OR exception flags into the FPSTAT of the issuing context. -/
def orMyFp (s : State) (f : FFlags) : State := orFp s s.cur.core s.cur.slot f

/-- The flags of several lanes together. -/
def orFlags (l : List FFlags) : FFlags := l.foldl (· ||| ·) 0

/-- A flag's change over the clock sets EVT (R112, R184): COUNT goes from nonzero to zero, or
OVERSHOOT from 0 to 1. -/
def Flag.event (f : Flag) : Bool := (f.count0 != 0 && f.count == 0) || (!f.ovs0 && f.ovs)

/-- The flag at the start of the next clock. -/
def Flag.next (f : Flag) : Flag := { count := f.count, ovs := f.ovs, count0 := f.count, ovs0 := f.ovs }

/-- A flag that changed in this clock. -/
def Flag.dirty (f : Flag) : Bool := f.instrSet.isSome || !f.sets.isEmpty || !f.adds.isEmpty || !f.subs.isEmpty

/-- FARM and FCLR set the entry before any other change of the clock (R184, R185). -/
def flagInstrSet (s : State) (c f : Nat) (v : Int) (clear : Bool) : State :=
  updFlag s c f fun x => { x with instrSet := some (v, clear) }

/-- The end of a clock at a core's flags: events are judged and every flag's changes close (R184). -/
def flagsEndOf (s : State) (c : Nat) : State :=
  let fl := (s.core c).flags
  let s' := s.updCore c fun k => { k with flags := fl.map fun p => (p.1, p.2.next) }
  if fl.any fun p => p.2.event then setEvt s' c else s'

end Sys2Proof.Machine
end

