-- ==== Sys2Proof/Machine/Uses.lean ====
section
/-! DEFINITION. What an instruction reads, writes and waits for: its sources in the order in which ports
are popped (R43), its destinations in the order in which ports are pushed (R43, R120), the registers it
touches in implied positions (R80), and the limits of R43 and R44. -/

namespace Sys2Proof.Machine

/-- An operand position: a scalar or vector specifier, or a mask register. -/
inductive Opnd where
  | s (o : SOp)
  | v (o : VOp)
  | k (n : Nat)
  deriving DecidableEq, Repr

/-- The sources of an instruction in the order S1, S2, S3, DATA (R43). -/
def srcs : Instr → List Opnd
  | .add _ a b | .sub _ a b | .mul _ a b | .mulh _ a b | .mulhu _ a b | .and _ a b | .or _ a b | .xor _ a b
  | .andn _ a b | .orn _ a b | .sll _ a b | .srl _ a b | .sra _ a b | .min _ a b | .max _ a b | .minu _ a b
  | .maxu _ a b | .slt _ a b | .sltu _ a b | .seq _ a b | .sne _ a b | .addp _ a b
  | .div _ a b _ | .divu _ a b _ | .rem _ a b _ | .remu _ a b _ => [.s a, .s b]
  | .clz _ a | .ctz _ a | .pop _ a => [.s a]
  | .addi _ a _ | .andi _ a _ | .ori _ a _ | .xori _ a _ | .slti _ a _ | .sltui _ a _ | .slli _ a _ | .srli _ a _
  | .srai _ a _ | .addpi _ a _ | .bfx _ a _ _ | .bfxu _ a _ _ | .bfi _ a _ _ | .pfmt _ a _ _ | .pkey _ a _ => [.s a]
  | .beq a b _ | .bne a b _ | .blt a b _ | .bge a b _ | .bltu a b _ | .bgeu a b _ => [.s a, .s b]
  | .jl _ _ => []
  | .jlr _ a _ => [.s a]
  | .ldS8 _ a _ _ | .ldZ8 _ a _ _ | .ldS16 _ a _ _ | .ldZ16 _ a _ _ | .ldS32 _ a _ _ | .ldZ32 _ a _ _ | .ld _ a _ _
  | .ldFe _ a _ _ | .ldFec _ a _ _ | .ldv _ a _ _ | .ldvFe _ a _ _ | .ldvFec _ a _ _ => [.s a]
  | .ldS8Long _ a _ _ | .ldZ8Long _ a _ _ | .ldS16Long _ a _ _ | .ldZ16Long _ a _ _ | .ldS32Long _ a _ _
  | .ldZ32Long _ a _ _ | .ldLong _ a _ _ | .ldFeLong _ a _ _ | .ldFecLong _ a _ _ | .ldvLong _ a _ _
  | .ldvFeLong _ a _ _ | .ldvFecLong _ a _ _ => [.s a]
  | .st8 x a _ | .st16 x a _ | .st32 x a _ | .st x a _ | .stSf x a _ => [.s a, .s x]
  | .stv x a _ | .stvSf x a _ => [.s a, .v x]
  | .st8Long x a _ | .st16Long x a _ | .st32Long x a _ | .stLong x a _ | .stSfLong x a _ => [.s a, .s x]
  | .stvLong x a _ | .stvSfLong x a _ => [.s a, .v x]
  | .lde _ a b _ => [.s a, .s b]
  | .ste x a b => [.s a, .s b, .s x]
  | .amo op _ _ a b c _ _ => if op = .cas then [.s a, .s b, .s c] else [.s a, .s b]
  | .tret | .brk | .wfe | .retire | .yield => []
  | .hexit a => [.s a]
  | .gtime _ | .cid _ => []
  | .hstart _ a b => [.s a, .s b]
  | .hjoin _ a => [.s a]
  | .dhop _ a b => [.s a, .s b]
  | .sys _ | .csrr _ _ => []
  | .csrw _ a _ | .csrs _ a _ | .csrc _ a _ => [.s a]
  | .bara _ | .barw _ | .phase _ => []
  | .farm _ a => [.s a]
  | .fwait _ | .fread _ _ | .fclr _ => []
  | .tcmd _ _ => []
  | .tcmdm _ a => [.s a]
  | .unlease | .slotq _ => []
  | .launch _ a => [.s a]
  | .tkput a b => [.s a, .s b]
  | .lease _ => []
  | .pack _ a b | .unpack _ a b | .pext _ a b => [.s a, .s b]
  | .gwid _ => []
  | .tkget _ a _ => [.s a]
  | .lit _ _ | .lith _ _ => []
  | .sel _ a b c => [.s a, .s b, .s c]
  | .vadd _ _ _ a b | .vsub _ _ _ a b | .vmul _ _ _ a b | .vfma _ _ _ a b | .vfms _ _ _ a b | .vnfma _ _ _ a b
  | .vmin _ _ _ a b | .vmax _ _ _ a b | .vsel _ _ _ a b | .vand _ _ _ a b | .vor _ _ _ a b | .vxor _ _ _ a b
  | .vshl _ _ _ a b | .vshr _ _ _ a b | .vshra _ _ _ a b | .vcmp _ _ _ _ a b => [.v a, .v b]
  | .vabs _ _ _ a | .vneg _ _ _ a | .vreds _ _ _ a | .vredm _ _ _ a => [.v a]
  | .vbcast _ _ _ a => [.s a]
  | .vshuf _ _ _ a b c => [.v a, .v b, .v c]
  | .vins _ _ a _ => [.s a]
  | .vext _ _ a _ => [.v a]
  | .vmaxi _ _ _ _ a | .vmini _ _ _ _ a => [.v a]
  | .vcvt _ _ _ _ _ a => [.v a]
  | .vcvtef _ _ _ _ _ _ a => [.v a]
  | .vrcp _ _ a _ | .vrsq _ _ a _ | .vexp2 _ _ a _ | .vlog2 _ _ a _ => [.v a]
  | .vrcps _ _ a b _ | .vrsqs _ _ a b _ => [.v a, .v b]
  | .vdot4 _ _ _ a b => [.v a, .v b]
  | .rst8 b a _ _ | .rst16 b a _ _ | .rst32 b a _ _ | .rst b a _ _ => [.s a, .s b]
  | .rstv b a _ _ => [.s a, .v b]
  | .rldS8 _ a _ _ | .rldZ8 _ a _ _ | .rldS16 _ a _ _ | .rldZ16 _ a _ _ | .rldS32 _ a _ _ | .rldZ32 _ a _ _
  | .rld _ a _ _ | .rldv _ a _ _ => [.s a]
  | .ramo op _ a b c _ _ | .ramor op _ _ a b c _ => if op = .cas then [.s a, .s b, .s c] else [.s a, .s b]
  | .meet a _ => [.s a]
  | .meetr _ a _ => [.s a]
  | _ => []

/-- The destinations of an instruction in the order in which they are pushed: S3 before D (R120). -/
def dsts : Instr → List Opnd
  | .add d _ _ | .sub d _ _ | .mul d _ _ | .mulh d _ _ | .mulhu d _ _ | .and d _ _ | .or d _ _ | .xor d _ _
  | .andn d _ _ | .orn d _ _ | .sll d _ _ | .srl d _ _ | .sra d _ _ | .min d _ _ | .max d _ _ | .minu d _ _
  | .maxu d _ _ | .slt d _ _ | .sltu d _ _ | .seq d _ _ | .sne d _ _ | .addp d _ _
  | .div d _ _ _ | .divu d _ _ _ | .rem d _ _ _ | .remu d _ _ _ => [.s d]
  | .clz d _ | .ctz d _ | .pop d _ => [.s d]
  | .addi d _ _ | .andi d _ _ | .ori d _ _ | .xori d _ _ | .slti d _ _ | .sltui d _ _ | .slli d _ _ | .srli d _ _
  | .srai d _ _ | .addpi d _ _ | .bfx d _ _ _ | .bfxu d _ _ _ | .bfi d _ _ _ | .pfmt d _ _ _ | .pkey d _ _ => [.s d]
  | .jl d _ => [.s d]
  | .jlr d _ _ => [.s d]
  | .ldS8 d _ _ _ | .ldZ8 d _ _ _ | .ldS16 d _ _ _ | .ldZ16 d _ _ _ | .ldS32 d _ _ _ | .ldZ32 d _ _ _ | .ld d _ _ _
  | .ldFe d _ _ _ | .ldFec d _ _ _ => [.s d]
  | .ldv d _ _ _ | .ldvFe d _ _ _ | .ldvFec d _ _ _ => [.v d]
  | .ldS8Long d _ _ _ | .ldZ8Long d _ _ _ | .ldS16Long d _ _ _ | .ldZ16Long d _ _ _ | .ldS32Long d _ _ _
  | .ldZ32Long d _ _ _ | .ldLong d _ _ _ | .ldFeLong d _ _ _ | .ldFecLong d _ _ _ => [.s d]
  | .ldvLong d _ _ _ | .ldvFeLong d _ _ _ | .ldvFecLong d _ _ _ => [.v d]
  | .lde d _ _ _ => [.s d]
  | .amo _ _ d _ _ _ _ _ => [.s d]
  | .gtime d | .cid d => [.s d]
  | .hstart d _ _ => [.s d]
  | .hjoin d _ => [.s d]
  | .dhop d _ _ => [.s d]
  | .csrr d _ => [.s d]
  | .csrw d _ _ | .csrs d _ _ | .csrc d _ _ => [.s d]
  | .fread d _ => [.s d]
  | .slotq d => [.s d]
  | .launch d _ => [.s d]
  | .pack d _ _ | .unpack d _ _ | .pext d _ _ => [.s d]
  | .tkget d _ _ => [.s d]
  | .lit d _ | .lith d _ => [.s d]
  | .sel d _ _ _ => [.s d]
  | .vadd _ _ d _ _ | .vsub _ _ d _ _ | .vmul _ _ d _ _ | .vfma _ _ d _ _ | .vfms _ _ d _ _ | .vnfma _ _ d _ _
  | .vmin _ _ d _ _ | .vmax _ _ d _ _ | .vsel _ _ d _ _ | .vand _ _ d _ _ | .vor _ _ d _ _ | .vxor _ _ d _ _
  | .vshl _ _ d _ _ | .vshr _ _ d _ _ | .vshra _ _ d _ _ => [.v d]
  | .vcmp _ _ _ d _ _ => [.k d.val]
  | .vabs _ _ d _ | .vneg _ _ d _ | .vreds _ _ d _ | .vredm _ _ d _ => [.v d]
  | .vbcast _ _ d _ => [.v d]
  | .vshuf _ _ d _ _ _ => [.v d]
  | .vins _ d _ _ => [.v d]
  | .vext _ d _ _ => [.s d]
  | .vmaxi _ _ d e _ | .vmini _ _ d e _ => [.s e, .s d]
  | .vcvt _ _ _ _ d _ => [.v d]
  | .vcvtef _ _ _ _ d e _ => [.v e, .v d]
  | .vrcp _ d _ _ | .vrsq _ d _ _ | .vexp2 _ d _ _ | .vlog2 _ d _ _ => [.v d]
  | .vrcps _ d _ _ _ | .vrsqs _ d _ _ _ => [.v d]
  | .vdot4 _ _ d _ _ => [.v d]
  | .rldS8 d _ _ _ | .rldZ8 d _ _ _ | .rldS16 d _ _ _ | .rldZ16 d _ _ _ | .rldS32 d _ _ _ | .rldZ32 d _ _ _
  | .rld d _ _ _ => [.s d]
  | .rldv d _ _ _ => [.v d]
  | .ramor _ _ d _ _ _ _ => [.s d]
  | .meetr d _ _ => [.v d]
  | _ => []

/-- The lane mask field of an instruction (R42), 0 for none. -/
def maskOf : Instr → Nat
  | .vadd _ m _ _ _ | .vsub _ m _ _ _ | .vmul _ m _ _ _ | .vfma _ m _ _ _ | .vfms _ m _ _ _ | .vnfma _ m _ _ _
  | .vmin _ m _ _ _ | .vmax _ m _ _ _ | .vsel _ m _ _ _ | .vand _ m _ _ _ | .vor _ m _ _ _ | .vxor _ m _ _ _
  | .vshl _ m _ _ _ | .vshr _ m _ _ _ | .vshra _ m _ _ _ | .vabs _ m _ _ | .vneg _ m _ _ | .vreds _ m _ _
  | .vredm _ m _ _ | .vbcast _ m _ _ | .vcmp _ _ m _ _ _ | .vshuf _ m _ _ _ _ | .vmaxi _ m _ _ _
  | .vmini _ m _ _ _ | .vcvt _ _ _ m _ _ | .vcvtef _ _ _ m _ _ _ | .vdot4 _ m _ _ _ => m.val
  | _ => 0

/-- What an instruction touches in implied positions (R80): its lane mask, the four registers of TCMD and
the queue TCMD and TCMDM push. -/
def implied : Instr → List Opnd
  | .tcmd q a => .s (.port (.eq q)) :: (List.range 4).map fun i => .s (.x (Fin.ofNat 48 (a.val + i)))
  | .tcmdm q _ => [.s (.port (.eq q))]
  | i => if maskOf i = 0 then [] else [.k (maskOf i)]

/-- A source an instruction takes only after a test of its own (R369). -/
def lateSrcs : Instr → List Opnd
  | .meet _ b => [.v b]
  | _ => []

/-- The key of an operand among the pending registers (R80): files 0 to 2, and 3 for the ports both
classes share. Register x0 is never pending (R64). -/
def Opnd.key : Opnd → Option (Nat × Nat)
  | .s (.x r) => if r.val = 0 then none else some (0, r.val)
  | .s (.port p) => some (3, portNum p)
  | .v (.v r) => some (1, r.val)
  | .v (.port p) => some (3, portNum p)
  | .k n => some (2, n)

/-- Everything an instruction names in a position it reads or writes (R80). -/
def touched (i : Instr) : List (Nat × Nat) := (srcs i ++ lateSrcs i ++ dsts i ++ implied i).filterMap Opnd.key

/-- An operand is a port. -/
def Opnd.port? : Opnd → Option (Port × Bool)
  | .s (.port p) => some (p, false)
  | .v (.port p) => some (p, true)
  | _ => none

/-- The lookahead value of a long-latency instruction (R45); none for every other instruction. -/
def laOf : Instr → Option Nat
  | .div _ _ _ l | .divu _ _ _ l | .rem _ _ _ l | .remu _ _ _ l => some l.toNat
  | .ldS8 _ _ _ l | .ldZ8 _ _ _ l | .ldS16 _ _ _ l | .ldZ16 _ _ _ l | .ldS32 _ _ _ l | .ldZ32 _ _ _ l | .ld _ _ _ l
  | .ldFe _ _ _ l | .ldFec _ _ _ l | .ldv _ _ _ l | .ldvFe _ _ _ l | .ldvFec _ _ _ l => some l.toNat
  | .ldS8Long _ _ _ l | .ldZ8Long _ _ _ l | .ldS16Long _ _ _ l | .ldZ16Long _ _ _ l | .ldS32Long _ _ _ l
  | .ldZ32Long _ _ _ l | .ldLong _ _ _ l | .ldFeLong _ _ _ l | .ldFecLong _ _ _ l | .ldvLong _ _ _ l
  | .ldvFeLong _ _ _ l | .ldvFecLong _ _ _ l => some l.toNat
  | .lde _ _ _ l => some l.toNat
  | .amo _ _ _ _ _ _ _ l => some l.toNat
  | .tkget _ _ l => some l.toNat
  | .vrcp _ _ _ l | .vrsq _ _ _ l | .vexp2 _ _ _ l | .vlog2 _ _ _ l => some l.toNat
  | .vrcps _ _ _ _ l | .vrsqs _ _ _ _ l => some l.toNat
  | .rst8 _ _ _ l | .rst16 _ _ _ l | .rst32 _ _ _ l | .rst _ _ _ l | .rstv _ _ _ l => some l.toNat
  | .rldS8 _ _ _ l | .rldZ8 _ _ _ l | .rldS16 _ _ _ l | .rldZ16 _ _ _ l | .rldS32 _ _ _ l | .rldZ32 _ _ _ l
  | .rld _ _ _ l | .rldv _ _ _ l => some l.toNat
  | .ramo _ _ _ _ _ _ l | .ramor _ _ _ _ _ _ l => some l.toNat
  | .meetr _ _ l => some l.toNat
  | _ => none

/-- A posted instruction, whose sources are pending until its hand-off (R79). -/
def posted : Instr → Bool
  | .rst8 _ _ _ _ | .rst16 _ _ _ _ | .rst32 _ _ _ _ | .rst _ _ _ _ | .rstv _ _ _ _ | .ramo _ _ _ _ _ _ _ => true
  | _ => false

/-- The pending registers of a long-latency instruction (R79). -/
def pendingRegs (i : Instr) : List (Nat × Nat) :=
  (if posted i then srcs i else dsts i).filterMap Opnd.key

/-- The destination of a long-latency instruction. -/
def pendDst (i : Instr) : PDst :=
  match dsts i with
  | [.s d] => .s d
  | [.v d] => .v d
  | _ => .none

/-- An instruction whose D is pushed at its completion and not as a transfer of R77: the long-latency ones (R79). -/
def lateDst (i : Instr) : Bool := (laOf i).isSome

/-- The first transfer of an instruction that pops nothing: its first push, if it makes one in its issue
clock (R77). -/
def firstPush (i : Instr) : Option (Port × Bool) :=
  if lateDst i then none
  else match (dsts i).filterMap Opnd.port? with
    | [] => none
    | p :: _ => some p

/-- The first pop of an instruction (R77). -/
def firstPop (i : Instr) : Option (Port × Bool) :=
  match (srcs i ++ lateSrcs i).filterMap Opnd.port? with
  | [] => none
  | p :: _ => some p

/-- An operand a helper does not have (R44). -/
def Opnd.beyondHelper : Opnd → Bool
  | .s (.x r) => 16 ≤ r.val
  | .v (.v r) => 8 ≤ r.val
  | .k n => 4 ≤ n
  | _ => false

/-- A link queue whose neighbour lies off the mesh (R43). -/
def Opnd.offMesh (c : Nat) (o : Opnd) : Bool :=
  match o.port? with
  | some (.ln d, _) => (neighbour c d).isNone
  | _ => false

/-- The illegal cases that depend on where an instruction runs (R43, R44): core `c`, slot `t`. -/
def illegalHere (c t : Nat) (i : Instr) : Bool :=
  (srcs i ++ lateSrcs i ++ dsts i ++ implied i).any (fun o => o.offMesh c || (t != 0 && o.beyondHelper)) ||
  (match i with
   | .hstart _ _ _ | .hjoin _ _ | .retire => t != 0
   | .hexit _ => t == 0
   | .tcmd _ a => t != 0 && 12 < a.val
   | _ => false)

/-- The bits of an instruction that TVALUE receives (R51): words 0 and 1. -/
def instrBits (i : Instr) : Word :=
  match encode i with
  | [w] => wordOf w
  | w :: w1 :: _ => wordOf (w + 2 ^ 32 * w1)
  | [] => 0

/-- Length of an instruction in words (R39). -/
def instrLen (i : Instr) : Nat := (encode i).length

end Sys2Proof.Machine
end

