-- ==== Sys2Proof/Machine/Operands.lean ====
section
/-! DEFINITION. Operands: registers and the four kinds of port (R42, R43, R55, R171, R187, R190, R286),
with the push of a command word (R190, R208). -/

namespace Sys2Proof.Machine

/-- A scalar of an operand value. -/
def w64 (v : VWord) : Word := BitVec.ofNat 64 v.toNat

/-- A scalar as an operand value. -/
def v128 (w : Word) : VWord := BitVec.ofNat 128 w.toNat

/-- Read a general register; x0 reads as zero (R64). -/
def Ctx.getX (x : Ctx) (r : Fin 48) : Word := if r.val = 0 then 0 else x.x[r.val]

/-- Write a general register; x0 discards writes (R64). -/
def Ctx.setX (x : Ctx) (r : Fin 48) (w : Word) : Ctx := if r.val = 0 then x else { x with x := x.x.set r.val w }

/-- Write a vector register. -/
def Ctx.setV (x : Ctx) (r : Fin 32) (w : VWord) : Ctx := { x with v := x.v.set r.val w }

/-- Write a mask register. -/
def Ctx.setK (x : Ctx) (r : Fin 8) (w : BitVec 16) : Ctx := { x with k := x.k.set r.val w }

/-- A mask register. -/
def Ctx.getK (x : Ctx) (n : Nat) : BitVec 16 := x.k.toList.getD n 0

/-- What a transfer through a port comes to: done, no room or no word, or a trap (R77, R188). -/
inductive XRes (α : Type) where
  | ok (a : α)
  | block
  | trap (c : Cause) (value : Word)
  deriving Repr

/-- The words a transfer takes (R120). -/
def xferWords (vec : Bool) : Nat := if vec then 2 else 1

/-- The value of one or two words, the low half first (R43). -/
def joinWords : List Word → VWord
  | [] => 0
  | w :: r => BitVec.ofNat 128 (w.toNat + 2 ^ 64 * (r.headD 0).toNat)

/-- The words of a value. -/
def splitWords (v : VWord) (vec : Bool) : List Word :=
  if vec then [w64 v, BitVec.ofNat 64 (v.toNat / 2 ^ 64)] else [w64 v]

/-- The launch of a core's group, 0 for none. -/
def coreLaunch (s : State) (c : Nat) : Nat :=
  match (s.core c).group with
  | some g => g.launch
  | none => 0

/-- The job of a core: its group's, or that of its last group. -/
def coreJob (s : State) (c : Nat) : Nat :=
  match (s.core c).group with
  | some g => g.job
  | none => (s.core c).lastJob

/-- The neighbour on a side is resident for the group's launch (R174, R188). -/
def linkPresent (s : State) (c : Nat) (d : Dir) : Bool :=
  match neighbour c d with
  | some n => (s.core c).group.isSome && residentFor s n (coreLaunch s c)
  | none => false

/-! Task queues and pipes (R282, R283, R286). -/

/-- The fields of a handle (R282). -/
def hScope (h : Word) : Nat := h.toNat / 2 ^ 62
def hPackage (h : Word) : Nat := h.toNat / 2 ^ 53 % 2 ^ 9
def hVdie (h : Word) : Nat := h.toNat / 2 ^ 49 % 16
def hSquare (h : Word) : Nat := h.toNat / 2 ^ 41 % 256
def hNumber (h : Word) : Nat := h.toNat / 2 ^ 33 % 256

/-- A handle with bits [32:0] zero (R283). -/
def hTop (h : Word) : Word := BitVec.ofNat 64 (h.toNat / 2 ^ 33 * 2 ^ 33)

/-- The home of a handle: a plain, 10 for the north pass die, 11 for another package of the domain. -/
def hHome (s : State) (job : Nat) (h : Word) : Option Nat :=
  if hScope h < 2 then vdtEntry s job (hVdie h)
  else if hScope h = 3 ∧ hPackage h ≠ (if s.mgmt.inDomain then s.mgmt.package else 0) then
    if s.mgmt.inDomain ∧ hPackage h < 288 then some 11 else none
  else some 10

/-- The core lies inside the scope of a handle whose home is `u` (R283). -/
def hInside (c u : Nat) (h : Word) : Bool :=
  match hScope h with
  | 0 => coreSquare c == u * 256 + hSquare h
  | 1 => coreDie c == u
  | _ => true

/-- The queue a handle names at its home, if it exists for the job with the same scope and square. -/
def hQueue (s : State) (job u : Nat) (h : Word) : Option TQueue :=
  match mget (unitPlain s u).queues (hNumber h) with
  | some q => if q.job = job ∧ q.scope = hScope h ∧ (hScope h ≠ 0 ∨ q.square = hSquare h) then some q else none
  | none => none

/-- A use of a task queue by a core (R283): its home, or a scope violation. A pipe's handle is one too (R286). -/
def queueUse (s : State) (c : Nat) (h : Word) : Option Nat :=
  let job := coreJob s c
  match hHome s job h with
  | none => none
  | some 11 => if hNumber h ≤ 63 then some 11 else none
  | some u =>
    if hNumber h ≤ 63 && hInside c u h && (match hQueue s job u h with
        | some q => q.pipe.isNone
        | none => false) then some u
    else none

/-- The handle of pipe p of a core's group, if its launch is a gang's that has it (R286). -/
def pipeHandle (s : State) (c p : Nat) : Option Word :=
  match s.launch? (coreLaunch s c) with
  | some l => l.pipes[p]?
  | none => none

/-- The pipes of a core's group have come to their place (R286): the first group of its gang has started. -/
def pipesHomed (s : State) (c : Nat) : Bool := (s.launch? (coreLaunch s c)).any (·.homed)

/-- The pipe behind port pp(p) of a core: its home and its queue, or a scope violation with its handle. Before the pipe has come to its
place it takes and gives no word, so that its ports wait (log entry 33). -/
def pipeAt (s : State) (c p : Nat) : Except (Option Word) (Nat × Word × TQueue) :=
  match pipeHandle s c p with
  | none => .error none
  | some h =>
    match hHome s (coreJob s c) h with
    | none => .error (some h)
    | some u =>
      match hQueue s (coreJob s c) u h with
      | none => .error (some h)
      | some q =>
        if !pipesHomed s c then .ok (u, h, { q with words := [], depth := 0 })
        else if hInside c u h then .ok (u, h, q)
        else .error (some h)

/-- Change a queue at its home. -/
def updQueue (s : State) (u n : Nat) (f : TQueue → TQueue) : State :=
  updUnit s u fun p => { p with queues := p.queues.map fun q => if q.1 = n then (q.1, f q.2) else q }

/-- A word pushed into a pipe sets EVT in the cores that hold groups of its gang (R112). -/
def pipeEvents (s : State) (h : Word) : State :=
  let cs := (s.cores.filter fun p => match p.2.group with
    | some g => match s.launch? g.launch with
      | some l => l.pipes.contains h
      | none => false
    | none => false).map Prod.fst
  cs.foldl setEvt s

/-! Command words (R52 to R56, R190, R191, R208, R239). -/

/-- Every earlier access of a context is performed (R208): its local accesses and stores, and its remote
operations, among those issued before identity `before`. -/
def released (s : State) (c t before : Nat) : Bool :=
  let x := s.ctx c t
  x.pend.all (fun p => before ≤ p.id || p.res.isSome || (match p.kind with
    | .divide | .approx => true
    | _ => false)) &&
  (s.core c).storeQ.all (fun e => e.slot != t || e.gen != x.gen || before ≤ e.id) &&
  s.msgs.all (fun m => match m.2.issuer with
    | .ctx c' t' g p => c' != c || t' != t || g != x.gen || before ≤ p
    | _ => true)

/-- The queue of a port has room for one more command word. -/
def cmdRoom (s : State) (c q : Nat) (word : BitVec 256) : Bool :=
  let k := s.core c
  match q with
  | 0 => (mgetD k.chans (word.toNat / 2 ^ 48 % 4) {}).startQ.length < 4
  | 1 => k.eq1.length < 16
  | _ => (k.res q).places < 16

/-- A command word enters its queue (R190, R191, R239; eq2 and eq3 reserve a record's place, R56). -/
def enterCmd (s : State) (c t q : Nat) (word : BitVec 256) (addr : Option Nat) (key : Nat) : State :=
  let (id, s) := s.newId
  let k := s.core c
  let x := s.ctx c t
  let e : CmdEnt :=
    { word := word, addr := addr, key := key, nbv2 := x.nbv2, width := x.pwidth, slot := t, gen := x.gen
      group := match k.group with
        | some g => g.id
        | none => 0
      launch := coreLaunch s c, job := coreJob s c, core := c
      leased := k.lease.state != .none && !k.lease.releasing
      held := x.stepping.isSome && k.holdDisp, id := id }
  match q with
  | 0 => s.updChan c (word.toNat / 2 ^ 48 % 4) fun h => { h with startQ := h.startQ ++ [e] }
  | 1 => s.updCore c fun k => { k with eq1 := k.eq1 ++ [e] }
  | _ =>
    let s := s.updCore c fun k => { k with resQ := mupd k.resQ q {} fun r => { r with reserved := r.reserved + 1 } }
    if q = 2 then s.updPlain (coreDie c) fun p => { p with coll := p.coll ++ [e] }
    else
      let (due, s) := later s
      let r : DispReq := { id := id, kind := 1, core := c, slot := t, gen := x.gen, job := e.job, addr := 0
                           ent := some e, due := due, held := e.held }
      { s with requests := s.requests ++ [r] }

/-- Four words as one command word (R190). -/
def cmdOfWords (ws : List Word) : BitVec 256 :=
  BitVec.ofNat 256 ((ws.take 4).foldr (fun w a => w.toNat + 2 ^ 64 * a) 0)

/-! Pops and pushes. -/

/-- TVALUE of a scope violation at a pipe that has no handle: an open value (log entry 3). -/
def noHandle (s : State) : Word := BitVec.ofNat 64 (Config.freeNat 2 s.free)

/-- Pop a port for a core (R55, R171, R188, R286). -/
def popPort (s : State) (c : Nat) (p : Port) (vec : Bool) : XRes (VWord × State) :=
  let n := xferWords vec
  let k := s.core c
  match p with
  | .ln d =>
    let q := mgetD k.linkQ (dirNum d) []
    if n ≤ q.length then
      .ok (joinWords (q.take n), s.setCore c { k with linkQ := mset k.linkQ (dirNum d) (q.drop n) })
    else
      if linkPresent s c d then .block
      else .trap .linkAbsent (wordOf (48 + dirNum d))
  | .eq q =>
    let r := k.res q.val
    if n ≤ r.halves.length then
      .ok (joinWords (r.halves.take n),
        s.setCore c { k with resQ := mset k.resQ q.val { r with halves := r.halves.drop n } })
    else .block
  | .st q =>
    let r := mgetD k.streams q.val {}
    if r.mode = 1 ∧ n ≤ r.words.length then
      let r' := { r with words := r.words.drop n }
      let r' := if r'.words.isEmpty && r'.left == 0 then ({} : Stream) else r'
      .ok (joinWords (r.words.take n), s.setCore c { k with streams := mset k.streams q.val r' })
    else .block
  | .pp q =>
    match pipeAt s c q.val with
    | .error h => .trap .scope (h.getD (noHandle s))
    | .ok (u, h, tq) =>
      if n ≤ tq.words.length then
        .ok (joinWords (tq.words.take n), updQueue s u (hNumber h) fun x => { x with words := x.words.drop n })
      else .block

/-- Push words into a port for context `t` of core `c`; `before` is the identity the release of R208 looks
back from. The words still on their way over a link count towards the eight that fill its queue: no rule says when they begin to (R187,
log entry 31). -/
def pushPort (s : State) (c t before : Nat) (p : Port) (vec : Bool) (v : VWord) : XRes State :=
  let n := xferWords vec
  let ws := splitWords v vec
  match p with
  | .ln d =>
    match neighbour c d with
    | none => .trap .linkAbsent (wordOf (48 + dirNum d))
    | some nb =>
      if !linkPresent s c d then .trap .linkAbsent (wordOf (48 + dirNum d))
      else
        let k := s.core nb
        let side := dirNum (opposite d)
        let used := (mgetD k.linkQ side []).length + (k.linkFly.filter fun f => f.1 == side).length
        if 8 < used + n then .block
        else
          let clocks := if coreDie nb = coreDie c then 2 else 8
          .ok (s.setCore nb { k with linkFly := k.linkFly ++ ws.map fun w => (side, w, s.clk nb + clocks) })
  | .eq q =>
    let x := s.ctx c t
    let buf := x.asm.toList.getD q.val [] ++ ws
    if buf.length < 4 then .ok (s.setCtx c t { x with asm := x.asm.set q.val buf })
    else if released s c t before && cmdRoom s c q.val (cmdOfWords buf) then
      let s := s.setCtx c t { x with asm := x.asm.set q.val (buf.drop 4) }
      .ok (enterCmd s c t q.val (cmdOfWords buf) none 0)
    else .block
  | .st q =>
    let k := s.core c
    let r := mgetD k.streams q.val {}
    if r.mode = 2 ∧ r.words.length + n ≤ 8 then
      .ok (s.setCore c { k with streams := mset k.streams q.val { r with words := r.words ++ ws } })
    else .block
  | .pp q =>
    match pipeAt s c q.val with
    | .error h => .trap .scope (h.getD (noHandle s))
    | .ok (u, h, tq) =>
      if tq.words.length + n ≤ tq.depth then
        .ok (pipeEvents (updQueue s u (hNumber h) fun x => { x with words := x.words ++ ws }) h)
      else .block

/-- Take the value of one operand of the issuing context: a register, or a pop. -/
def popOpnd (s : State) (o : Opnd) : XRes (VWord × State) :=
  match o with
  | .s (.x r) => .ok (v128 (s.me.getX r), s)
  | .v (.v r) => .ok (s.me.v[r.val], s)
  | .k n => .ok (BitVec.ofNat 128 (s.me.getK n).toNat, s)
  | .s (.port p) => popPort s s.cur.core p false
  | .v (.port p) => popPort s s.cur.core p true

/-- Write or queue a scalar result of the issuing context: a port is pushed after the instruction's pops (R43). -/
def putS (s : State) (d : SOp) (w : Word) : State :=
  match d with
  | .x r => s.updMe fun x => x.setX r w
  | .port p => s.updMe fun x => { x with blk := x.blk.map fun b => { b with outs := b.outs ++ [(p, v128 w, false)] } }

/-- Write or queue a vector result of the issuing context. -/
def putV (s : State) (d : VOp) (w : VWord) : State :=
  match d with
  | .v r => s.updMe fun x => x.setV r w
  | .port p => s.updMe fun x => { x with blk := x.blk.map fun b => { b with outs := b.outs ++ [(p, w, true)] } }

/-- A vector register that an instruction reads besides its sources (the D of VFMA and its like). -/
def getV (s : State) (d : VOp) : VWord :=
  match d with
  | .v r => s.me.v[r.val]
  | .port _ => 0

/-- A scalar register that an instruction reads besides its sources (BFI, LITH). -/
def getS (s : State) (d : SOp) : Word :=
  match d with
  | .x r => s.me.getX r
  | .port _ => 0

/-- The numeric version of the issuing context's instruction: NBVER at its issue (R37). -/
def opVer (s : State) : Bool :=
  match s.me.blk with
  | some b => b.nbv2
  | none => s.me.nbv2

/-- Value k of the popped sources, as a scalar. -/
def arg (vs : List VWord) (k : Nat) : Word := w64 (vs.getD k 0)

/-- Value k of the popped sources, as a vector. -/
def argV (vs : List VWord) (k : Nat) : VWord := vs.getD k 0

end Sys2Proof.Machine
end

