-- ==== Sys2Proof/Machine/Watch.lean ====
section
/-! DEFINITION. The comparators (R222 to R226) and the register numbers of the CSR space (R65, R108). -/

namespace Sys2Proof.Machine

/-! Comparators. -/

def wpAction (ctl : Word) : Nat := ctl.toNat / 2 ^ 62
def wpKind (ctl : Word) : Nat := ctl.toNat / 2 ^ 60 % 4
def wpSlot (ctl : Word) (t : Nat) : Bool := ctl.toNat / 2 ^ (49 + t) % 2 == 1
def wpTarget (ctl : Word) : Nat := ctl.toNat / 2 ^ 44 % 16
def wpSource (ctl : Word) (src : Nat) : Bool := ctl.toNat / 2 ^ (40 + src) % 2 == 1

/-- The word of an address is covered (R222, R223). -/
def wpCovers (ctl : Word) (a : Nat) : Bool :=
  let span := ctl.toNat / 2 ^ 35 % 32
  span ≤ 16 && a / 8 / 2 ^ span == ctl.toNat / 8 % 2 ^ 16 / 2 ^ span

/-- A byte is watched (R223). -/
def wpByte (ctl : Word) (a : Nat) : Bool := wpCovers ctl a && ctl.toNat / 2 ^ (27 + a % 8) % 2 == 1

/-- The bytes of several pieces (address, size), in order. -/
def piecesBytes (ps : List (Nat × Nat)) : List Nat := ps.flatMap fun p => (List.range p.2).map (p.1 + ·)

/-- The comparator matches a data access: `src` is the bit of SOURCES, `t` the slot of a local access. -/
def wpData (ctl : Word) (src : Nat) (t : Option Nat) (rd wr : Bool) (bytes : List Nat) : Option Nat :=
  let kind := wpKind ctl
  let kindOk : Bool := (rd && (kind == 1 || kind == 3)) || (wr && (kind == 2 || kind == 3))
  let slotOk : Bool := match t with
    | some t => wpSlot ctl t
    | none => true
  if wpAction ctl ≠ 0 ∧ kindOk ∧ wpSource ctl src ∧ slotOk then bytes.find? (wpByte ctl) else none

/-- The lowest comparator of a core that a data access hits, with its action and the first watched byte. The other comparators that match
the access are not recorded: R224 says which one acts, and R226 not whether the others are hits (log entry 31, DESIGN CHOICE). -/
def wpDataHit (k : Core) (src : Nat) (t : Option Nat) (rd wr : Bool) (bytes : List Nat) :
    Option (Nat × Word × Nat) :=
  (List.range 4).findSome? fun n =>
    let ctl := (mgetD k.comps n {}).ctl
    match wpData ctl src t rd wr bytes with
    | some b => some (n, ctl, b)
    | none => none

/-- The lowest execute comparator that an instruction at an address hits (R223). -/
def wpExecHit (k : Core) (t pc : Nat) : Option (Nat × Word) :=
  if pc < 0x80000 then
    (List.range 4).findSome? fun n =>
      let ctl := (mgetD k.comps n {}).ctl
      if wpAction ctl ≠ 0 ∧ wpKind ctl = 0 ∧ wpSlot ctl t ∧ wpCovers ctl pc then some (n, ctl) else none
  else none

/-- WPHIT of a hit (R226). -/
def wpWord (source comp slot chan core : Nat) (xpkg : Bool) (off : Nat) : Word :=
  wordOf (2 ^ 63 + source * 2 ^ 60 + comp * 2 ^ 58 + slot * 2 ^ 54 + chan * 2 ^ 52 + core * 2 ^ 38 +
    b2n xpkg * 2 ^ 37 + off % 2 ^ 19)

/-- The hardware sets a status bit of the register n in this clock: a write of the clock does not clear it (R109). -/
def Core.hasEvent (k : Core) (n : Nat) : Core := { k with events := n :: k.events }

/-- Record a hit, and emit the WATCH record of an action 3 (R226, R229). -/
def wpRecord (s : State) (c : Nat) (ctl w : Word) : State :=
  let s := s.updCore c fun k => { k with wphit := w }.hasEvent 0x036
  if wpAction ctl = 3 ∧ tracing (s.core c) then traceRecord s c 7 0 (w.toNat % 2 ^ 63) else s

/-- An imprecise access performed at a core's bank (R225): the hit is recorded and its action takes
effect three clocks later. -/
def wpImprecise (s : State) (c source slot chan core : Nat) (xpkg rd wr : Bool) (bytes : List Nat) : State :=
  match wpDataHit (s.core c) (min source 3) none rd wr bytes with
  | none => s
  | some (n, ctl, b) =>
    let s := wpRecord s c ctl (wpWord source n slot chan core xpkg b)
    if wpAction ctl = 1 ∨ wpAction ctl = 2 then
      s.updCore c fun k => { k with impHits := k.impHits ++ [{ due := s.clk c + 3, ctl := ctl, offset := b }] }
    else s

/-- Halt a context (R219), with its DEBUG record. -/
def haltCtx (s : State) (c t cause : Nat) : State :=
  let s := s.updCtx c t fun x => { x with halted := true, hcause := cause }
  let x := s.ctx c t
  let pc := match x.blk with
    | some b => b.pc
    | none => x.pc
  slotRecord s c t 4 (cause + 2 ^ 4 * (pc % 2 ^ 52))

/-! Register numbers (R65, R164, R189, R212, R217, R237, R279, R284, R293, R308, R311, R318, R319). -/

/-- The number is one that a chapter assigns. -/
def csrKnown (n : Nat) : Bool :=
  n ≤ 0x011 || (0x020 ≤ n && n ≤ 0x02D) || (0x030 ≤ n && n ≤ 0x044) || (0x048 ≤ n && n ≤ 0x053)

/-- Every field of the register is RO (R108). -/
def csrReadOnly (n : Nat) : Bool :=
  [0x002, 0x003, 0x004, 0x022, 0x023, 0x025, 0x028, 0x029, 0x02A, 0x02B, 0x040, 0x041, 0x044, 0x049, 0x04B, 0x04C,
   0x04D, 0x04F, 0x051, 0x053].contains n

/-- The register is runtime-only. -/
def csrRuntime (n : Nat) : Bool :=
  (0x004 ≤ n && n ≤ 0x010) || (0x030 ≤ n && n ≤ 0x036) ||
  [0x023, 0x026, 0x03A, 0x03B, 0x03D, 0x03E, 0x03F, 0x042, 0x04A, 0x052, 0x053].contains n

/-- The checks of R108 in their order: slot `t`, a write or not. -/
def csrCheck (t : Nat) (m : Mode) (n : Nat) (write : Bool) : Option Cause :=
  if !csrKnown n then some .illegal
  else if write && csrReadOnly n then some .illegal
  else if n == 0x003 && t != 0 then some .illegal
  else if m == .job && csrRuntime n then some .privileged
  else none

/-- The register a CSR instruction names, and whether it writes. -/
def csrOf : Instr → Option (Nat × Bool)
  | .csrr _ n => some (n.toNat, false)
  | .csrw _ _ n | .csrs _ _ n | .csrc _ _ n => some (n.toNat, true)
  | _ => none

/-- Count an event of R231 at a core's counters; `slot` for a slot-attributed event. -/
def pmcCount (k : Core) (ev : Nat) (slot : Option Nat) (n : Nat) : Core :=
  { k with pmcs := k.pmcs.map fun p =>
      let ctl := p.2.ctl.toNat
      let on : Bool := match slot with
        | some t => ctl / 2 ^ (50 + t) % 2 == 1
        | none => true
      if ctl % 256 = ev ∧ on then (p.1, { p.2 with bump := p.2.bump + n }) else p }

end Sys2Proof.Machine
end

