-- ==== Sys2Proof/Machine/Issue.lean ====
section
/-! DEFINITION. Issue (R75 to R82): whether a context may issue an instruction in this clock, the issue
itself, the transfers through ports (R77) and the end of a blocked instruction. -/

namespace Sys2Proof.Machine

/-! Remote addresses, which are translated before issue (R176). -/

/-- Base, offset, size and kind of a remote instruction (R177 to R181). -/
def remoteOf : Instr → Option (SOp × Int × Nat × XKind)
  | .rst8 _ a _ _ => some (a, 0, 1, .write)
  | .rst16 _ a _ _ => some (a, 0, 2, .write)
  | .rst32 _ a _ _ => some (a, 0, 4, .write)
  | .rst _ a _ _ => some (a, 0, 8, .write)
  | .rstv _ a _ _ => some (a, 0, 16, .write)
  | .rldS8 _ a o _ | .rldZ8 _ a o _ => some (a, o.toInt, 1, .read)
  | .rldS16 _ a o _ | .rldZ16 _ a o _ => some (a, o.toInt, 2, .read)
  | .rldS32 _ a o _ | .rldZ32 _ a o _ => some (a, o.toInt, 4, .read)
  | .rld _ a o _ => some (a, o.toInt, 8, .read)
  | .rldv _ a o _ => some (a, o.toInt, 16, .read)
  | .ramo _ wide a _ _ _ _ => some (a, 0, if wide then 8 else 4, .atomic)
  | .ramor _ wide _ a _ _ _ => some (a, 0, if wide then 8 else 4, .atomic)
  | _ => none

/-- A region whose addresses are translated (R176). -/
def Reg148.translated : Reg148 → Bool
  | .device | .host | .fabric => true
  | _ => false

/-- What the checks of R176 before the translation leave to do: the address must be translated. -/
def remoteWalkVa (a : Int) (size : Nat) (k : XKind) : Option Nat :=
  if regionCheck a (a + size - 1) ≠ .ok ∨ a.toNat % size ≠ 0 then none
  else if !(regionOf a.toNat).translated ∨ (regionOf a.toNat = .host ∧ k = .atomic) then none
  else some a.toNat

/-- Start the translation of an address for the issuing context (R176, R316): it joins a walk of its page, or waits for one of
its own, which begins at once while fewer than 64 are in progress. A hit in the last-level TLB enters the core's at once, without a
walk. An entry of the core's TLB that fails its parity is dropped (R337). -/
def startWalk (s : State) (va : Nat) (k : XKind) : State :=
  let c := s.cur.core
  let job := coreJob s c
  match tlbLook s (lastUnit (coreDie c)) (s.plain (coreDie c)).tlb job va with
  | some e => (dropCoreParity s c job va).updMyCore fun k => { k with tlb := tlbAdd k.tlb 32 e }
  | none =>
  let (id, s) := s.newId
  let (due, s) := later s
  let s := dropCoreParity s c job va
  let join (w : Walk) : Walk := { w with joined := w.joined ++ [(c, id, va)] }
  let own (l : List Walk) : Walk :=
    { id := id, job := job, va := va, kind := k.num, core := c, slot := s.cur.slot, due := due, begun := l.length < walkLimit }
  let miss (l : List Walk) : List Walk :=
    if l.any (·.serves job va) then updWhere (·.serves job va) join l else l ++ [own l]
  let s := s.updPlain (coreDie c) fun p => { p with walks := miss p.walks }
  s.updMe fun x => { x with walking := some id }

/-- The translation of an address at the issuing core: still walking, failed, or a physical address. -/
inductive XlateRes where
  | ok (pa : Nat)
  | fail (reason level : Nat)
  | waiting
  | missing
  deriving DecidableEq, Repr

/-- Look an address up for the issuing context (R315, R316); a miss in both TLBs that has no place in the miss queue waits. -/
def xlate (s : State) (va : Nat) (k : XKind) : XlateRes :=
  let c := s.myCore
  match s.me.walking with
  | some id =>
    match c.walks.find? fun w => w.id == id with
    | some w =>
      match w.fail with
      | some (r, l) => .fail r l
      | none => found c
    | none => .waiting
  | none => found c
where
  /-- The core TLB's answer. -/
  found (c : Core) : XlateRes :=
    match tlbLook s s.cur.core c.tlb (coreJob s s.cur.core) va with
    | none =>
      let d := coreDie s.cur.core
      let job := coreJob s s.cur.core
      if (tlbLook s (lastUnit d) (s.plain d).tlb job va).isSome || missPlace s d job va then .missing else .waiting
    | some e =>
      match leafCheck s e va k with
      | .ok pa => .ok pa
      | .error (r, l) => .fail r l

/-- Forget the walk the issuing context waited for. -/
def endWalk (s : State) : State :=
  match s.me.walking with
  | none => s
  | some id =>
    (s.updMyCore fun k => { k with walks := k.walks.filter fun w => w.id != id }).updMe fun x => { x with walking := none }

/-! Readiness (R75). -/

/-- A local access of a context is not performed while one of its earlier ones is not (R203). -/
def earlierLocal (s : State) (c t before : Nat) (stores : Bool) : Bool :=
  let x := s.ctx c t
  x.pend.any (fun p => p.id < before && p.res.isNone && (match p.kind with
    | .loc _ _ => true
    | _ => false)) ||
  (stores && (s.core c).storeQ.any fun e => e.slot == t && e.gen == x.gen && e.id < before)

/-- An active watermark of a channel other than `self` covers a byte of the range (R170). -/
def wmBlocks (k : Core) (self : Option Nat) (a n : Nat) : Bool :=
  k.chans.any fun p =>
    match p.2.wm with
    | some (next, limit) => some p.1 != self && a ≤ limit && next < a + n
    | none => false

/-! Tags (R161). -/

/-- The tag of the granule of a byte. -/
def tagAt (k : Core) (a : Nat) : Nat := mgetD k.tags (a / 32) 0

/-- The match of R161. -/
def tagMatch (tag key : Nat) : Bool := tag == 0 || (tag < 15 && key == tag)

/-- The first byte of a range whose granule fails a key; the granules are walked in order. -/
def tagFail (k : Core) (key : Nat) : Nat → Nat → Option Nat
  | _, 0 => none
  | a, n + 1 => if tagMatch (tagAt k a) key then tagFail k key (a + 1) n else some a

/-! Units. -/

/-- The full/empty bit of a granule (R157). -/
def isFull (k : Core) (g : Nat) : Bool := mgetD k.fulls g 0 == 1

/-- A .fe or .fec load is performed at once (R158): its granule is full and unwaited, and no earlier access
of its context or watermark holds it back. One that only those hold back waits in the table (log entry 31). -/
def feNow (s : State) (addr size : Nat) : Bool :=
  let c := s.cur.core
  let k := s.myCore
  let g := addr / 16
  isFull k g && k.feTable.all (fun e => e.1 != g) && !earlierLocal s c s.cur.slot s.nextId true &&
  !wmBlocks k none addr size

/-- The words a load of the full/empty family may wait in (R158): entries of loads that found their granule full and unwaited
wait for their bank alone, and do not count. -/
def feUsed (k : Core) : Nat := (k.feTable.filter fun e => !k.feOnce.contains e.2.2).length

/-- The divides. -/
def divides : Instr → Bool
  | .div _ _ _ _ | .divu _ _ _ _ | .rem _ _ _ _ | .remu _ _ _ _ => true
  | _ => false

/-- A context keeps the divider busy, from the issue of a divide on (R96). -/
def Ctx.divides (x : Ctx) : Bool :=
  (x.pend.any fun q => q.kind == .divide) || x.blk.any fun b => Machine.divides b.instr && b.stage == 0

/-- A functional unit can accept the instruction in this clock (R96, R123, R152, R158, R172). -/
def unitFree (i : Instr) (s : State) : Bool :=
  let c := s.myCore
  let t := s.cur.slot
  let storeFree : Bool := c.storeQ.length < 8
  match i with
  | .div _ _ _ _ | .divu _ _ _ _ | .rem _ _ _ _ | .remu _ _ _ _ =>
    c.ctxs.all fun p => (p.1 == t && p.2.pend.all fun q => q.kind != .divide) || !p.2.divides
  | .st8 _ _ _ | .st16 _ _ _ | .st32 _ _ _ | .st _ _ _ | .stSf _ _ _ | .stv _ _ _ | .stvSf _ _ _ | .st8Long _ _ _
  | .st16Long _ _ _ | .st32Long _ _ _ | .stLong _ _ _ | .stSfLong _ _ _ | .stvLong _ _ _ | .stvSfLong _ _ _
  | .ste _ _ _ => storeFree
  | .ldFe _ a o _ => feFree s 8 8 a o.toInt
  | .ldFec _ a o _ => feFree s 8 8 a o.toInt
  | .ldvFe _ a o _ => feFree s 16 16 a o.toInt
  | .ldvFec _ a o _ => feFree s 16 16 a o.toInt
  | .ldFeLong _ a o _ | .ldFecLong _ a o _ => feFree s 1 8 a o.toInt
  | .ldvFeLong _ a o _ | .ldvFecLong _ a o _ => feFree s 1 16 a o.toInt
  | .rldS8 _ _ _ _ | .rldZ8 _ _ _ _ | .rldS16 _ _ _ _ | .rldZ16 _ _ _ _ | .rldS32 _ _ _ _ | .rldZ32 _ _ _ _
  | .rld _ _ _ _ | .rldv _ _ _ _ | .ramor _ _ _ _ _ _ _ => outFree c
  | .csrr _ n | .csrw _ _ n | .csrs _ _ n | .csrc _ _ n =>
    n != 0x011 || c.storeQ.all fun e => e.slot != t || e.gen != s.me.gen || (match e.act with
      | .elem _ _ _ => false
      | _ => true)
  | _ => true
where
  /-- A .fe or .fec load finds room in the wait table, or needs no entry of it: it is performed at once, or it traps at issue
  (R158). -/
  feFree (s : State) (scale size : Nat) (a : SOp) (off : Int) : Bool :=
    if feUsed s.myCore < 16 then true
    else
      match a with
      | .x r => needsNone s size (s.me.getX r) (off * scale)
      | .port p =>
        match s.me.blk, popPort s s.cur.core p false with
        | none, .ok (v, _) => needsNone s size (w64 v) (off * scale)
        | _, _ => true
  /-- A load at an address and an offset takes no entry: it traps, or its granule is full and unwaited. -/
  needsNone (s : State) (size : Nat) (base : Word) (off : Int) : Bool :=
    let addr : Int := (ptrAddr base : Int) + off
    addr < 0 || 0x80000 < addr + size || addr.toNat % size ≠ 0 ||
      (tagFail s.myCore (ptrKey base) addr.toNat size).isSome || feNow s addr.toNat size
  /-- Fewer than 32 remote loads and returning atomics are outstanding (R172). -/
  outFree (c : Core) : Bool :=
    (c.ctxs.map fun p => (p.2.pend.filter fun q => match q.kind with
      | .remote _ => true
      | _ => false).length).foldl (· + ·) 0 < 32

/-- What becomes of an instruction that a context would issue in this clock. -/
inductive Verdict where
  | wait
  | halt (cause : Nat)
  | walk (va : Nat) (k : XKind)
  | trap (cause : Cause) (value : Word) (note : TrapNote)
  | go
  deriving DecidableEq, Repr

/-- The context may issue at all: live, running, not blocked, no trap waiting, no hold (R75, R105, R220);
a started helper waits for the accesses its starter made before (R73). -/
def mayIssue (s : State) : Bool :=
  let x := s.me
  x.status == .live && !x.halted && x.blk.isNone && x.trap.isNone && x.notBefore ≤ s.clk s.cur.core &&
  (match x.stepping with
   | some n => n == 0
   | none => true) && !s.myCore.stopped && s.myCore.group.isSome &&
  (s.cur.slot == 0 || x.lastIssue.isSome || !earlierLocal s s.cur.core 0 x.gen true)

/-- The windows and touches of R81 over the pending instructions, oldest first. Where J touches registers of several of
them the trap names the oldest (log entry 31). -/
def windowVerdict (lkchk : Bool) (keys : List (Nat × Nat)) : List Pend → Verdict
  | [] => .go
  | p :: r =>
    if p.l ≤ p.n then .wait
    else if p.uses.any keys.contains then
      if lkchk then .trap .lookahead (wordOf p.pc) .plain else .wait
    else windowVerdict lkchk keys r

/-- Beyond a window (R81), whatever the instruction is. -/
def beyondWindow (ps : List Pend) : Bool := ps.any fun p => p.l ≤ p.n

/-- HEXIT, RETIRE and TRET wait for the pending instructions (R75). -/
def drains : Instr → Bool
  | .hexit _ | .retire | .tret => true
  | _ => false

/-- The translation a remote instruction with a register base needs before issue (R176). -/
def walkVerdict (i : Instr) (s : State) : Verdict :=
  match remoteOf i with
  | some (.x r, off, size, k) =>
    match remoteWalkVa ((ptrAddr (s.me.getX r) : Int) + off) size k with
    | none => .go
    | some va =>
      if !regionOn s (regionOf va) then .go else
      match xlate s va k with
      | .ok _ => .go
      | .waiting => .wait
      | .missing => .walk va k
      | .fail r l => .trap .translation (wordOf va) (.tfdetail (tfWord r l k.num))
  | _ => .go

/-- A pipe that a long-latency instruction names as D must be one of its group: that is tested at issue, since only link
absent may come with the push at completion (R84, R141, R286). It waits until the pipe has come to its place, which decides whether
the core lies in its scope (log entry 33). -/
def lateVerdict (i : Instr) (s : State) : Verdict :=
  if !lateDst i then .go
  else
    match (dsts i).filterMap Opnd.port? with
    | (.pp q, _) :: _ =>
      (match pipeAt s s.cur.core q.val with
       | .ok _ => if pipesHomed s s.cur.core then .go else .wait
       | .error h => .trap .scope (h.getD (noHandle s)) .plain)
    | _ => .go

/-- The first transfer can proceed, or traps (R77, R188, R286); a pipe that stands as D of a long-latency instruction is tested
behind it. -/
def transferVerdict (i : Instr) (s : State) : Verdict :=
  match firstPop i with
  | some (p, vec) =>
    match popPort s s.cur.core p vec with
    | .ok _ => lateVerdict i s
    | .block => .wait
    | .trap c v => .trap c v .plain
  | none =>
    match firstPush i with
    | none => lateVerdict i s
    | some (p, vec) =>
      match pushPort s s.cur.core s.cur.slot s.nextId p vec 0 with
      | .ok _ => .go
      | .block => .wait
      | .trap c v => .trap c v .plain

/-- An imprecise watchpoint trap that is due at the context (R225). -/
def impDue (s : State) : Option Nat :=
  match s.me.impTrap with
  | some (due, off) => if due ≤ s.clk s.cur.core then some off else none
  | none => none

/-- The execute comparator that the next instruction of the context hits (R223); the first instruction after a return or a
resume is exempt (R224). -/
def execHit (s : State) : Option (Nat × Word) :=
  if s.me.exempt then none else wpExecHit s.myCore s.cur.slot s.me.pc

/-- The tests that do not depend on the decoded instruction: windows, an imprecise watchpoint trap, an
execute comparator. -/
def pcVerdict (s : State) : Verdict :=
  if !mayIssue s || beyondWindow s.me.pend then .wait
  else
    match impDue s with
    | some off => .trap .watchpoint (wordOf off) .impHit
    | none =>
      match execHit s with
      | some (_, ctl) =>
        if wpAction ctl = 1 then .trap .watchpoint (wordOf s.me.pc) .plain
        else if wpAction ctl = 2 then .halt 4
        else .go
      | none => .go

/-- The conditions of R75 that the decoded instruction decides and that no trap of its own comes before: it touches no pending
register while LKCHK is 0, and it drains. -/
def holdsBack (i : Instr) (s : State) : Bool :=
  (!s.me.lkchk && windowVerdict false (touched i) s.me.pend == .wait) || (drains i && !s.me.pend.isEmpty)

/-- The register check of a CSR instruction (R108). -/
def csrVerdict (i : Instr) (s : State) : Verdict :=
  match csrOf i with
  | some (n, w) =>
    match csrCheck s.cur.slot s.me.mode n w with
    | some c => .trap c (instrBits i) .plain
    | none => .go
  | none => .go

/-- Run a second test where the first lets the instruction go on. -/
def Verdict.andThen (v : Verdict) (w : Unit → Verdict) : Verdict :=
  match v with
  | .go => w ()
  | x => x

/-- The verdict on an instruction of the issuing context (R75): what keeps the context from being ready, then what comes
before the decode (R224), the lookahead check (R81), the checks of the instruction, and its unit and first transfer. -/
def verdict (i : Instr) (s : State) : Verdict :=
  (if holdsBack i s then .wait else .go : Verdict).andThen fun _ =>
  (pcVerdict s).andThen fun _ =>
  (windowVerdict s.me.lkchk (touched i) s.me.pend).andThen fun _ =>
  (if illegalHere s.cur.core s.cur.slot i then .trap .illegal (instrBits i) .plain else .go : Verdict).andThen fun _ =>
  (csrVerdict i s).andThen fun _ =>
  (if unitFree i s then .go else .wait : Verdict).andThen fun _ =>
  (if i = .brk ∧ s.myCore.brkHalt then .halt 3 else .go : Verdict).andThen fun _ =>
  (walkVerdict i s).andThen fun _ => transferVerdict i s

/-! The issue. -/

/-- A free value a trap may have carried is not used again (log entry 3). -/
def usedFree (s : State) : State := { s with free := s.free + 1 }

/-- A context's part of an issue: windows count, the program counter advances, the fetch buffer moves on,
the instruction is held until it completes. -/
def Ctx.issue (x : Ctx) (i : Instr) (seq step clk : Nat) : Ctx :=
  let len := instrLen i
  { x with
    lastIssue := some seq
    yieldSet := none
    pend := x.pend.map fun p => { p with n := p.n + 1 }
    blk := some { instr := i, pc := x.pc, len := len, exempt := x.exempt, nbv2 := x.nbv2, since := clk }
    pc := (x.pc + 4 * len) % 2 ^ 52
    fbuf := x.fbuf.drop (4 * len)
    exempt := false
    stepping := x.stepping.map fun _ => step + 1
    icount := satAdd x.icount 1 65535
    syncCount := if x.syncCount + 1 = 4096 then 0 else x.syncCount + 1
    needSync := x.needSync || x.syncCount + 1 == 4096 }

/-- A remote load or returning atomic, and a posted operation, for the counters (R231). -/
def loadsRemote (i : Instr) : Bool := (remoteOf i).isSome && !posted i

@[inherit_doc loadsRemote]
def posts (i : Instr) : Bool :=
  posted i || match i with
    | .meet _ _ => true
    | _ => false

/-- An execute comparator that the issuing context hits is recorded (R226). -/
def noteHit (s : State) : State :=
  match execHit s with
  | some (n, ctl) => wpRecord s s.cur.core ctl (wpWord 0 n s.cur.slot 0 s.cur.core false s.me.pc)
  | none => s

/-- The issue of an instruction (R76, R78, R81): what every instruction does when it issues. -/
def noteIssue (i : Instr) (s : State) : State :=
  let t := s.cur.slot
  let s := endWalk (noteHit s)
  let s := s.updMyCore fun k =>
    let k := pmcCount k 2 (some t) 1
    let k := if loadsRemote i then pmcCount k 7 (some t) 1 else if posts i then pmcCount k 8 (some t) 1 else k
    { k with
      issueSeq := k.issueSeq + 1
      ctxs := k.ctxs.map fun p => if p.1 = t then p else (p.1, p.2.sawIssue t) }
  s.updMe fun x => x.issue i s.myCore.issueSeq s.nextId (s.clk s.cur.core)

/-- What an instruction that traps at issue leaves of its issue: a violation of the lookahead comes before the issue, which then does
not take place (R81), so that an exemption stays for the first instruction that does issue (R224); it is the one instruction of a step
(R220). -/
def noteTrapped (i : Instr) (c : Cause) (s : State) : State :=
  if c = .lookahead then
    (endWalk (noteHit s)).updMe fun x => { x with stepping := x.stepping.map fun _ => s.nextId + 1 }
  else noteIssue i s

/-- What popping the remaining sources came to. -/
inductive PopRes where
  | done (vs : List VWord) (s : State)
  | part (vs : List VWord) (s : State)
  | trap (s : State) (c : Cause) (value : Word)

/-- Take the remaining sources in order (R43, R77). -/
def popAll : List Opnd → List VWord → State → PopRes
  | [], vs, s => .done vs s
  | o :: r, vs, s =>
    match popOpnd s o with
    | .ok (v, s) => popAll r (vs ++ [v]) s
    | .block => .part vs s
    | .trap c v => .trap s c v

/-- The stage of a blocked instruction that has only pushes left. -/
def stagePush : Nat := 99

/-- The issuing context's instruction has completed. -/
def complete (s : State) : State := s.updMe fun x => { x with blk := none }

/-- Change the blocked instruction of the issuing context. -/
def updBlk (s : State) (f : Blk → Blk) : State := s.updMe fun x => { x with blk := x.blk.map f }

/-- Make the pushes an instruction owes, in order; it completes after the last (R77). -/
def pushAll : List (Port × VWord × Bool) → State → State
  | [], s => complete s
  | (p, v, vec) :: r, s =>
    match pushPort s s.cur.core s.cur.slot s.nextId p vec v with
    | .ok s => pushAll r s
    | .block => updBlk s fun b => { b with outs := (p, v, vec) :: r, stage := stagePush }
    | .trap c v => trapHere (usedFree s) c v

/-- After an instruction's effect: its own wait goes on, or its pushes are made. -/
def settleOps (s : State) : State :=
  match s.me.blk with
  | none => s
  | some b => if b.stage = 0 ∨ b.stage = stagePush then pushAll b.outs s else s

/-- The effect has run and the instruction's own wait is over: make its pushes. -/
def doneOps (s : State) : State := settleOps (updBlk s fun b => { b with stage := 0 })

/-- The instruction waits by its own rules, in a stage of its own with a value of its own. -/
def stay (s : State) (stage : Nat) (aux : Word) : State := updBlk s fun b => { b with stage := stage, aux := aux }

/-- Pop what remains, then perform the effect and make the pushes. -/
def runOps (i : Instr) (eff : List VWord → State → State) (s : State) : State :=
  match s.me.blk with
  | none => s
  | some b =>
    match popAll ((srcs i).drop b.held.length) b.held s with
    | .part vs s => updBlk s fun b => { b with held := vs }
    | .trap s c v => trapHere (usedFree s) c v
    | .done vs s => settleOps (eff vs (updBlk s fun b => { b with held := vs }))

/-- A data comparator has halted the context (R224); the halt of a step is another (R220). -/
def watchHalted (old new : State) : Bool := new.me.halted && !old.me.halted && new.me.hcause == 4

/-- A data comparator halted the context before its instruction issued (R224): nothing of the issue stays
but the records of the hit and of that of an execute comparator before it. -/
def unissue (old new : State) : State :=
  let s := (noteHit old).updMyCore fun k => { k with wphit := new.myCore.wphit, events := new.myCore.events }
  haltCtx s s.cur.core s.cur.slot 4

/-- Issue an instruction and perform its effect, as its verdict says. -/
def issueState (i : Instr) (eff : List VWord → State → State) (s : State) : State :=
  match verdict i s with
  | .wait => s
  | .halt cause => haltCtx (noteHit s) s.cur.core s.cur.slot cause
  | .walk va k => startWalk s va k
  | .trap c v n => trapHere (usedFree (noteTrapped i c s)) c v n
  | .go =>
    let s' := runOps i eff (noteIssue i s)
    if watchHalted s s' then unissue s s' else s'

/-- The meaning of an instruction that completes by its effect and its transfers. -/
def issueOps (i : Instr) (eff : List VWord → State → State) (s : State) : Host.Outcome State Fault Refusal :=
  .next (issueState i eff s)

/-- The meaning of an instruction that also waits by rules of its own: while the context is blocked in it
at a stage of its own, the same instruction tests its wait again (R77). -/
def waitOps (i : Instr) (eff : List VWord → State → State) (cont : Blk → State → State) (s : State) :
    Host.Outcome State Fault Refusal :=
  match s.me.blk with
  | some b => .next (if b.instr = i ∧ b.stage ≠ 0 ∧ b.stage ≠ stagePush then cont b s else s)
  | none => issueOps i eff s

/-- Continue a blocked instruction with the transfers it still has to make (PORT_TRANSFER_CONTINUE). -/
def continueOps (eff : List VWord → State → State) (s : State) : State :=
  match s.me.blk with
  | none => s
  | some b =>
    if b.stage = 0 then runOps b.instr eff s
    else if b.stage = stagePush then pushAll b.outs s
    else s

/-- Make an instruction pending (R79): it leaves the block, and its result comes at completion. -/
def addPend (s : State) (i : Instr) (kind : PendKind) (due : Nat) (res : Option PendRes) : State :=
  match s.me.blk with
  | none => s
  | some b =>
    let (id, s) := s.newId
    let p : Pend := { id := id, l := (laOf i).getD 0, pc := b.pc, uses := pendingRegs i, dst := pendDst i
                      kind := kind, due := due, res := res }
    s.updMe fun x => { x with pend := x.pend ++ [p] }

/-- The clock of the issuing core n clocks after the issue of the instruction it performs (R8, R97, R141, R152). It is counted from the
issue for one that waits in a port transfer too; where it has passed when the last source is popped, as of a VRCPS or VRSQS whose second
port source comes late, the instruction completes at the next completion: R141 does not say (log entry 31, DESIGN CHOICE). -/
def inClocks (s : State) (n : Nat) : Nat :=
  match s.me.blk with
  | some b => b.since + n
  | none => s.clk s.cur.core + n

/-- A pending instruction of a context. -/
def findPend (x : Ctx) (id : Nat) : Option Pend := x.pend.find? fun p => p.id == id

/-- Remove a pending instruction. -/
def dropPend (s : State) (c t id : Nat) : State :=
  s.updCtx c t fun x => { x with pend := x.pend.filter fun p => p.id != id }

/-- A completion fault takes the place of an earlier raised trap, which it discards, and of the fault of an instruction that
completed in the same clock and stands later in program order (R86). The first of several completion faults stands, whether
or not it was itself the raised trap (log entry 31). -/
def TrapReq.yields (old r : TrapReq) : Bool :=
  match old.fault, r.fault with
  | none, _ => true
  | some (t, i), some (u, j) => t == u && j < i
  | some _, none => false

/-- Raise the fault of a completed instruction (R86). A context that is halted while blocked stays blocked, and its fault is
held until it resumes (R219). -/
def raiseFault (s : State) (c t : Nat) (r : TrapReq) : State :=
  s.updCtx c t fun x =>
    if x.halted && x.blk.isSome then
      if x.heldFault.all (·.yields r) then { x with heldFault := some r } else x
    else if x.trap.all (·.yields r) then { x with trap := some r, blk := none, walking := none }
    else x

/-- A pending instruction completes with a fault with completion delivery (R85, R86). -/
def pendFault (s : State) (c t : Nat) (p : Pend) (cause : Nat) (value : Word) (note : TrapNote) : State :=
  let s := dropPend s c t p.id
  let x := s.ctx c t
  let pc := match x.trap with
    | some r => r.pc
    | none => match x.blk with
      | some b => b.pc
      | none => x.pc
  raiseFault s c t
    { cause := cause, value := value, pc := pc, defer := true, win := p.n, note := note, fault := some (s.clk c, p.id) }

/-- Write a completed instruction's result (R79): a register now, or a push that may wait or fail. -/
def writePend (s : State) (c t : Nat) (p : Pend) (v : VWord) : State :=
  match p.dst with
  | .none => dropPend s c t p.id
  | .s (.x r) => dropPend (s.updCtx c t fun x => x.setX r (w64 v)) c t p.id
  | .v (.v r) => dropPend (s.updCtx c t fun x => x.setV r v) c t p.id
  | .s (.port q) => push s q false
  | .v (.port q) => push s q true
where
  /-- The push of a port destination. -/
  push (s : State) (q : Port) (vec : Bool) : State :=
    match pushPort s c t p.id q vec v with
    | .ok s => dropPend s c t p.id
    | .block => s
    | .trap cs w => pendFault (usedFree s) c t p cs.code w .plain

/-- Complete a pending instruction with its outcome (R79, R85). -/
def completePend (s : State) (c t : Nat) (p : Pend) (r : PendRes) : State :=
  match r with
  | .value v => writePend s c t p v
  | .unchanged => dropPend s c t p.id
  | .fault cause value note => pendFault s c t p cause value note

/-- Put an outcome on a pending instruction, to be completed when its push can be made. -/
def setPendRes (s : State) (c t id : Nat) (r : PendRes) : State :=
  s.updCtx c t fun x => { x with pend := updWhere (·.id == id) (fun p => { p with res := some r }) x.pend }

/-- A pending instruction can complete in this clock: its time has come and its push has room. -/
def pendReady (s : State) (c t : Nat) (p : Pend) : Bool :=
  p.due ≤ s.clk c &&
  (match p.res with
   | none => false
   | some (.value v) =>
     (match p.dst with
      | .s (.port q) => (match pushPort s c t p.id q false v with
        | .block => false
        | _ => true)
      | .v (.port q) => (match pushPort s c t p.id q true v with
        | .block => false
        | _ => true)
      | _ => true)
   | some _ => true)

/-- An event's meaning: its effect where the unit has it, and otherwise a refusal by name. -/
def event (on : Bool) (s : State) : Host.Outcome State Fault Refusal :=
  if on then .next s else .refused .notEnabled

/-- The completion of a pending instruction of one kind (R79), named by `cur`. -/
def completeEvent (sel : PendKind → Bool) (s : State) : Host.Outcome State Fault Refusal :=
  match findPend s.me s.cur.id with
  | some p =>
    match p.res with
    | some r => event (sel p.kind && pendReady s s.cur.core s.cur.slot p) (completePend s s.cur.core s.cur.slot p r)
    | none => .refused .notEnabled
  | none => .refused .notEnabled

end Sys2Proof.Machine
end

