-- ==== Sys2Proof/Machine/Branch.lean ====
section
/-! DEFINITION. Branches and jumps (R102 to R105). -/

namespace Sys2Proof.Machine

/-- The address of the instruction the issuing context stands in. -/
def herePc (s : State) : Nat :=
  match s.me.blk with
  | some b => b.pc
  | none => s.me.pc

/-- Go to a target: the fetch buffer empties, and the next instruction issues no earlier than three clocks
on (R105, R147). -/
def jumpTo (s : State) (target : Nat) : State :=
  let c := s.clk s.cur.core
  s.updMe fun x => { x with pc := target, fbuf := [], ffault := none, notBefore := c + 3 }

/-- An address moved by an offset, modulo 2^52. -/
def movePc (pc : Nat) (off : Int) : Nat := (((pc : Int) + off) % (2 ^ 52 : Nat)).toNat

/-- Note a conditional branch outcome for the trace (R229). -/
def noteBranch (s : State) (taken : Bool) : State :=
  if tracesSlot s.myCore s.cur.slot then s.updMe fun x => { x with hist := x.hist ++ [taken] } else s

/-- A conditional branch (R102). -/
def branchIf (off : BitVec 12) (cond : Word → Word → Bool) (vs : List VWord) (s : State) : State :=
  let t := cond (arg vs 0) (arg vs 1)
  let s := noteBranch s t
  if t then jumpTo s (movePc (herePc s) (4 * off.toInt)) else s

/-- BEQ (R102). -/
def effBeq (off : BitVec 12) : List VWord → State → State := branchIf off (fun a b => a == b)

/-- BEQ (R102). -/
def execBeq (s1 s2 : SOp) (off : BitVec 12) (s : State) : Host.Outcome State Fault Refusal :=
  issueOps (.beq s1 s2 off) (effBeq off) s

/-- BNE (R102). -/
def effBne (off : BitVec 12) : List VWord → State → State := branchIf off (fun a b => a != b)

/-- BNE (R102). -/
def execBne (s1 s2 : SOp) (off : BitVec 12) (s : State) : Host.Outcome State Fault Refusal :=
  issueOps (.bne s1 s2 off) (effBne off) s

/-- BLT (R102). -/
def effBlt (off : BitVec 12) : List VWord → State → State := branchIf off (fun a b => a.slt b)

/-- BLT (R102). -/
def execBlt (s1 s2 : SOp) (off : BitVec 12) (s : State) : Host.Outcome State Fault Refusal :=
  issueOps (.blt s1 s2 off) (effBlt off) s

/-- BGE (R102). -/
def effBge (off : BitVec 12) : List VWord → State → State := branchIf off (fun a b => !a.slt b)

/-- BGE (R102). -/
def execBge (s1 s2 : SOp) (off : BitVec 12) (s : State) : Host.Outcome State Fault Refusal :=
  issueOps (.bge s1 s2 off) (effBge off) s

/-- BLTU (R102). -/
def effBltu (off : BitVec 12) : List VWord → State → State := branchIf off (fun a b => a.ult b)

/-- BLTU (R102). -/
def execBltu (s1 s2 : SOp) (off : BitVec 12) (s : State) : Host.Outcome State Fault Refusal :=
  issueOps (.bltu s1 s2 off) (effBltu off) s

/-- BGEU (R102). -/
def effBgeu (off : BitVec 12) : List VWord → State → State := branchIf off (fun a b => !a.ult b)

/-- BGEU (R102). -/
def execBgeu (s1 s2 : SOp) (off : BitVec 12) (s : State) : Host.Outcome State Fault Refusal :=
  issueOps (.bgeu s1 s2 off) (effBgeu off) s

/-- JL (R103): the link, then the target. -/
def effJl (d : SOp) (off : BitVec 18) (_vs : List VWord) (s : State) : State :=
  let pc := herePc s
  jumpTo (putS s d (wordOf (pc + 4))) (movePc pc (4 * off.toInt))

/-- JL (R103). -/
def execJl (d : SOp) (off : BitVec 18) (s : State) : Host.Outcome State Fault Refusal :=
  issueOps (.jl d off) (effJl d off) s

/-- JLR (R104): a misaligned target traps; otherwise the link, then the target. -/
def effJlr (d : SOp) (imm : BitVec 12) (vs : List VWord) (s : State) : State :=
  let target := movePc ((arg vs 0).toNat % 2 ^ 52) imm.toInt
  if target % 4 ≠ 0 then trapHere s .misaligned (wordOf target)
  else
    let s := s.updMe fun x => { x with jlrTarget := 2 ^ 52 + target }
    jumpTo (putS s d (wordOf (herePc s + 4))) target

/-- JLR (R104). -/
def execJlr (d s1 : SOp) (imm : BitVec 12) (s : State) : Host.Outcome State Fault Refusal :=
  issueOps (.jlr d s1 imm) (effJlr d imm) s

end Sys2Proof.Machine
end

