-- ==== Sys2Proof/Machine/Spad.lean ====
section
/-! DEFINITION. The scratchpad: tags and tag reports, watermarks, full/empty bits, failing words, and the
address checks of local instructions (R143 to R170, R337, R338). -/

namespace Sys2Proof.Machine

/-! Tag reports (R163 to R168). -/

/-- The fields of a retag log entry (R168). -/
def logOld (w : Word) : Nat := w.toNat / 2 ^ 60
def logFirst (w : Word) : Nat := w.toNat / 2 ^ 26 % 2 ^ 14
def logCount (w : Word) : Nat := w.toNat / 2 ^ 44 % 2 ^ 12 + 1

/-- The detail of a tag report (R167), DROPPED left zero: the failing byte `a`, the source and the key. -/
def tagDetail (k : Core) (a source key : Nat) : Word :=
  let tag := tagAt k a
  let g := a / 32
  let prev := match k.retagLog.find? fun e => logFirst e ≤ g && g < logFirst e + logCount e with
    | some e => logOld e
    | none => tag
  wordOf (2 ^ 63 * b2n (tag == 15) + 2 ^ 60 * source + 2 ^ 56 * key + 2 ^ 52 * tag + 2 ^ 48 * prev +
    2 ^ 14 * (a / 16 % 32) + 16 * (a / 512 % 1024) + a % 16)

/-! The banks (R143, R144). Requester 0 is the pipeline, 1 the memory-side unit, 2 the copy engine. -/

/-- The banks of some pieces (address, size). -/
def banksOf (ps : List (Nat × Nat)) : List Nat :=
  (ps.flatMap fun p => (List.range ((p.1 + p.2 + 15) / 16 - p.1 / 16)).map fun i => (p.1 / 16 + i) % 32).dedup

/-- Each bank of some pieces grants an access of a requester in this clock: it has granted none, and no other requester has
its turn (R144). -/
def granted (k : Core) (r : Nat) (ps : List (Nat × Nat)) : Bool :=
  (banksOf ps).all fun b => !k.bankUsed.contains b && (match mget k.bankWin b with
    | some w => w == r
    | none => true)

/-- A requester takes its access at the banks of some pieces. -/
def takeBanks (s : State) (c r : Nat) (ps : List (Nat × Nat)) : State :=
  s.updCore c fun k =>
    { k with
      bankUsed := banksOf ps ++ k.bankUsed
      bankLast := (banksOf ps).foldl (fun m b => mset m b r) k.bankLast }

/-- The word that the entry of a trap reads (R86). -/
def trapPieces (r : TrapReq) : List (Nat × Nat) := [(r.pc, 4)]

/-! Full/empty bits (R157). -/

/-- Set the bit of a granule full; passing from empty to full sets EVT (R112). -/
def setFull (s : State) (c g : Nat) : State :=
  if isFull (s.core c) g then s
  else setEvt (s.updCore c fun k => { k with fulls := mset k.fulls g 1 }) c

/-- Set the bit of a granule empty. -/
def setEmpty (s : State) (c g : Nat) : State := s.updCore c fun k => { k with fulls := mdel k.fulls g }

/-! Failing words (R145, R337, R338). -/

/-- The bytes that a failure makes uncorrectable: its 8-byte word, or for a parity error the granule of the full/empty bit or
of the tag (R145). -/
def Upset.span (u : Upset) : Nat :=
  if u.kind = 5 then 16 else if u.kind = 8 then 32 else 8

/-- The failing or weak words a range of a unit touches, of given kinds. -/
def upsetsIn (s : State) (kinds : List Nat) (unit a n : Nat) : List Upset :=
  s.upsets.filter fun u => kinds.contains u.kind && u.unit == unit && u.addr / u.span * u.span < a + n &&
    a < u.addr / u.span * u.span + u.span

/-- Read codes of some kinds over a range of a core's scratchpad (R145, R337): single-bit errors are corrected and
counted, transient failures retried, a lasting failure reported. True when all is good. -/
def codeCheck (s : State) (kinds : List Nat) (c a n : Nat) : Bool × State :=
  (upsetsIn s kinds c a n).foldl (fun (r : Bool × State) u =>
    let s := r.2
    if u.kind = 6 then (r.1, (clearUpset s u).updCore c fun k => { pmcCount k 12 none 1 with eccNow := k.eccNow + 1 })
    else if u.lasting then (false, noteLasting s 1 (coreDie c) (c * 2 ^ 19 + u.addr) u)
    else (r.1, noteTransient (clearUpset s u))) (true, s)

/-- Read the codes of a range of a core's scratchpad: of its words, full/empty bits and tags. -/
def spadCheck (s : State) (c a n : Nat) : Bool × State := codeCheck s [1, 5, 6, 8] c a n

/-- Write bytes to a core's scratchpad; a full 8-byte write rewrites its code (R337). -/
def spadWrite (s : State) (c a : Nat) (bs : List Byte) : State :=
  let s := s.updCore c fun k => { k with spad := memWrite k.spad a bs }
  if s.upsets.isEmpty then s
  else
    { s with upsets := s.upsets.filter fun u =>
        !((u.kind == 1 || u.kind == 6) && u.unit == c && a ≤ u.addr / 8 * 8 && u.addr / 8 * 8 + 8 ≤ a + bs.length) }

/-! Local addresses (R151). -/

/-- LocalAddress (R151): the address, or the state in which the issuing context has trapped. -/
def localAddr (s : State) (base : Word) (off : Int) (size align : Nat) : Except State Nat :=
  let a : Int := (ptrAddr base : Int) + off
  match trapRegion s (regionCheck a (a + size - 1)) with
  | some s => .error s
  | none =>
    let n := a.toNat
    if n % align ≠ 0 then .error (trapHere s .misaligned (wordOf n))
    else if 0x7FFFF < n then .error (trapXlate s n 7 0 3)
    else .ok n

/-- The test of the data comparators for a local access (R224), before its tag check: the access goes on,
traps, or halts the context. -/
def withWatch (s : State) (rd wr : Bool) (pieces : List (Nat × Nat)) (go : State → State) : State :=
  let c := s.cur.core
  let exempt := match s.me.blk with
    | some b => b.exempt
    | none => false
  match if exempt then none else wpDataHit s.myCore 0 (some s.cur.slot) rd wr (piecesBytes pieces) with
  | none => go s
  | some (n, ctl, b) =>
    let s := wpRecord s c ctl (wpWord 0 n s.cur.slot 0 c false b)
    if wpAction ctl = 1 then trapHere s .watchpoint (wordOf b)
    else if wpAction ctl = 2 then s.updMe fun x => { x with halted := true, hcause := 4 }
    else go s

/-- The tag check at issue of R162 for several pieces: a failure traps at the first failing byte. -/
def withTags (s : State) (key : Nat) (pieces : List (Nat × Nat)) (go : State → State) : State :=
  match pieces.findSome? fun p => tagFail s.myCore key p.1 p.2 with
  | some a => trapHere s .tagMismatch (wordOf a)
  | none => go s

/-- The reads of a local instruction meet no uncorrectable word at issue (R338). Where an earlier access of the context, a
watermark or a wait of its own (`now` is false) comes before the read, the word is tested when it is read: a full store ahead of
it may rewrite the word (R152, R337). -/
def withGood (s : State) (now : Bool) (addr : Nat) (pieces : List (Nat × Nat)) (go : State → State) : State :=
  if !now || earlierLocal s s.cur.core s.cur.slot s.nextId true || pieces.any fun p => wmBlocks s.myCore none p.1 p.2 then go s
  else
  let (ok, s) := pieces.foldl (fun (r : Bool × State) p =>
    let (ok, s) := spadCheck r.2 s.cur.core p.1 p.2
    (r.1 && ok, s)) (true, s)
  if ok then go s else trapHere s .uncorrectable (wordOf addr)

end Sys2Proof.Machine
end

