-- ==== Sys2Proof/Machine/System.lean ====
section
/-! DEFINITION. The system instructions (R69 to R74, R88, R110 to R117) and the entry of a trap (R86). -/

namespace Sys2Proof.Machine

/-- A trap delivered after the instruction (R85): TEPC is the next instruction in program order. -/
def trapAfter (s : State) (cause : Cause) (value : Word) : State :=
  raiseTrap s s.cur.core s.cur.slot { cause := cause.code, value := value, pc := s.me.pc }

/-- TRET (R88). -/
def effTret (_vs : List VWord) (s : State) : State :=
  if s.me.mode = .job then trapHere s .privileged (instrBits .tret)
  else if s.me.tl = 0 then trapHere s .illegal (instrBits .tret)
  else s.updMe Ctx.ret

/-- TRET (R88). -/
def execTret (s : State) : Host.Outcome State Fault Refusal := issueOps .tret effTret s

/-- BRK (R111): the trap; the halt of BRKHALT is made before issue. -/
def effBrk (_vs : List VWord) (s : State) : State := trapHere s .breakpoint 0

/-- BRK (R111). -/
def execBrk (s : State) : Host.Outcome State Fault Refusal := issueOps .brk effBrk s

/-- WFE (R113): the event bit is tested behind the events of the issue clock, which a WFE of that clock sees (R112). -/
def effWfe (_vs : List VWord) (s : State) : State := stay s 1 0

/-- WFE tests the event bit, and consumes it. -/
def contWfe (_b : Blk) (s : State) : State :=
  if s.me.evt then doneOps (s.updMe fun x => { x with evt := false }) else s

/-- WFE (R113). -/
def execWfe (s : State) : Host.Outcome State Fault Refusal := waitOps .wfe effWfe contWfe s

/-- RETIRE (R74): the group ends. -/
def effRetire (_vs : List VWord) (s : State) : State := finishGroup s s.cur.core false

/-- RETIRE (R74). -/
def execRetire (s : State) : Host.Outcome State Fault Refusal := issueOps .retire effRetire s

/-- YIELD (R78): the context waits for every other live context to issue. -/
def effYield (_vs : List VWord) (s : State) : State :=
  let others := (s.myCore.ctxs.filter fun p => p.1 ≠ s.cur.slot ∧ p.2.status = .live).map Prod.fst
  s.updMe fun x => { x with yieldSet := if others.isEmpty then none else some others }

/-- YIELD (R78). -/
def execYield (s : State) : Host.Outcome State Fault Refusal := issueOps .yield effYield s

/-- HEXIT (R71): the helper exits with its value. -/
def effHexit (vs : List VWord) (s : State) : State :=
  leaveLive s s.cur.core s.cur.slot { s.me.ended .exited with exitValue := arg vs 0 }

/-- HEXIT (R71). -/
def execHexit (s1 : SOp) (s : State) : Host.Outcome State Fault Refusal := issueOps (.hexit s1) effHexit s

/-- GTIME (R115): within 2 counts of the north pass die's counter, and never decreasing on a plain and in a context. -/
def effGtime (d : SOp) (_vs : List VWord) (s : State) : State :=
  let plane := coreDie s.cur.core
  let v := min (s.ptime + 2) (max (plainTime s plane) s.me.lastTime)
  let s := s.updDie plane fun x => { x with gtime := v }
  putS (s.updMe fun x => { x with lastTime := v }) d (wordOf v)

/-- GTIME (R115). -/
def execGtime (d : SOp) (s : State) : Host.Outcome State Fault Refusal := issueOps (.gtime d) (effGtime d) s

/-- The package number of the device (R116). -/
def ownPackage (s : State) : Nat := if s.mgmt.inDomain then s.mgmt.package else 0

/-- CID (R116). -/
def effCid (d : SOp) (_vs : List VWord) (s : State) : State :=
  let c := s.cur.core
  let vdie := vdieOf s (coreJob s c) (coreDie c)
  putS s d (wordOf (ownPackage s * 2 ^ 32 + s.cur.slot * 2 ^ 16 + vdie * 2 ^ 11 + coreRow c * 2 ^ 6 + coreCol c))

/-- CID (R116). -/
def execCid (d : SOp) (s : State) : Host.Outcome State Fault Refusal := issueOps (.cid d) (effCid d) s

/-- The lowest free helper slot of a core (R70). -/
def freeSlot (k : Core) : Option Nat :=
  ((List.range 10).map (· + 1)).find? fun h => (mgetD k.ctxs h {}).status = .free

/-- A helper as HSTART sets it up from its control context (R70), with the numeric version of the HSTART (R37); STEP of the slot's
DBGCTL keeps its value (R218). -/
def startedCtx (x : Ctx) (nbv2 step : Bool) (gen entry : Nat) (a : Word) : Ctx :=
  { freeCtx with
    status := .live, gen := gen, step := step, x := (freeCtx.x).set 1 a, pc := entry, nbv2 := nbv2, lkchk := x.lkchk
    mode := x.mode
    t1 := { ({} : TrapBank) with tvec := x.t1.tvec }
    t2 := { ({} : TrapBank) with tvec := x.t2.tvec } }

/-- A helper that a stepping context started under HOLDDISP is halted before its first instruction (R220), with its DEBUG
record (R229). -/
def holdHelper (s : State) (h : Nat) : State :=
  let c := s.cur.core
  let s := s.updCtx c h fun x => { x with halted := true, hcause := 1 }
  let s := slotRecord s c h 4 (1 + 2 ^ 4 * ((s.ctx c h).pc % 2 ^ 52))
  s.updMyCore fun k => { k with held := k.held ++ [.helper s.cur.slot h] }

/-- HSTART (R70): the lowest free slot starts; a stepping context with HOLDDISP holds it (R220). -/
def effHstart (d : SOp) (vs : List VWord) (s : State) : State :=
  let a := arg vs 0
  let entry := ptrAddr a
  if entry % 4 ≠ 0 then trapHere s .misaligned a
  else
    match freeSlot s.myCore with
    | none => putS s d 0
    | some h =>
      let (gen, s) := s.newId
      let x := startedCtx s.me (opVer s) (s.ctx s.cur.core h).step gen entry (arg vs 1)
      let s' := s.setCtx s.cur.core h x
      putS (if s.me.stepping.isSome && s.myCore.holdDisp then holdHelper s' h else s') d (wordOf h)

/-- HSTART (R70). -/
def execHstart (d s1 s2 : SOp) (s : State) : Host.Outcome State Fault Refusal :=
  issueOps (.hstart d s1 s2) (effHstart d) s

/-- Free a helper slot that HJOIN has collected (R72); its registers stay until the next HSTART (R70). -/
def freeHelper (s : State) (h : Nat) : State := s.updCtx s.cur.core h fun x => { x with status := .free }

/-- HJOIN's test (R72, R73): the helper has left the live state and its stores are performed. -/
def tryJoin (d : SOp) (h : Nat) (s : State) : State :=
  let c := s.cur.core
  let x := s.ctx c h
  match x.status with
  | .exited =>
    if s.myCore.storeQ.any fun e => e.slot == h && e.gen == x.gen then stay s 1 (wordOf h)
    else doneOps (putS (freeHelper s h) d x.exitValue)
  | .killed => trapAfter (freeHelper s h) .helperKilled (wordOf (h + 256 * x.killCause))
  | _ => stay s 1 (wordOf h)

/-- HJOIN (R72). -/
def effHjoin (d : SOp) (vs : List VWord) (s : State) : State :=
  let h := (arg vs 0).toNat
  if h = 0 ∨ 10 < h ∨ (s.ctx s.cur.core h).status = .free then trapHere s .helperInvalid (arg vs 0)
  else tryJoin d h s

/-- HJOIN tests its helper again. -/
def contHjoin (d : SOp) (b : Blk) (s : State) : State := tryJoin d b.aux.toNat s

/-- HJOIN (R72). -/
def execHjoin (d s1 : SOp) (s : State) : Host.Outcome State Fault Refusal :=
  waitOps (.hjoin d s1) (effHjoin d) (contHjoin d) s

/-- The hops of R117. -/
def hops (a b : Nat) : Nat :=
  64 * (max (a % 4) (b % 4) - min (a % 4) (b % 4)) + 32 * (max (a / 4) (b / 4) - min (a / 4) (b / 4))

/-- DHOP (R117). -/
def effDhop (d : SOp) (vs : List VWord) (s : State) : State :=
  let job := coreJob s s.cur.core
  putS s d (match vdtEntry s job (arg vs 0).toNat, vdtEntry s job (arg vs 1).toNat with
    | some a, some b => wordOf (hops a b)
    | _, _ => BitVec.allOnes 64)

/-- DHOP (R117). -/
def execDhop (d s1 s2 : SOp) (s : State) : Host.Outcome State Fault Refusal := issueOps (.dhop d s1 s2) (effDhop d) s

/-- SYS (R110). -/
def effSys (code : BitVec 12) (_vs : List VWord) (s : State) : State := trapAfter s .syscall (code.setWidth 64)

/-- SYS (R110). -/
def execSys (code : BitVec 12) (s : State) : Host.Outcome State Fault Refusal := issueOps (.sys code) (effSys code) s

/-- TRAP_ENTRY (R86): a raised trap is taken when no long-latency instruction of the context is pending. Where its entry reads the
word at the program counter, it waits for the watermark that covers it (R170) and for its bank (R144), and the word's codes are
checked (R145). -/
def execTrapEntry (s : State) : Host.Outcome State Fault Refusal :=
  let x := s.me
  let c := s.cur.core
  match x.trap with
  | some r =>
    let due := x.status == .live && x.pend.isEmpty && !x.halted
    if x.readsLength s.myCore r then
      event (due && trapReady s.myCore r) (takeTrap (spadCheck (takeBanks s c 0 (trapPieces r)) c r.pc 4).2 c s.cur.slot r)
    else event due (takeTrap s c s.cur.slot r)
  | none => .refused .notEnabled
where
  /-- No watermark covers the word, and its bank grants the read. -/
  trapReady (k : Core) (r : TrapReq) : Bool := !wmBlocks k none r.pc 4 && granted k 0 (trapPieces r)

end Sys2Proof.Machine
end

