-- ==== Sys2Proof/Machine/Csr.lean ====
section
/-! DEFINITION. The control and status registers of a context and its core (R65 to R68, R87, R106 to R109,
R122, R164 to R171, R189, R212, R217 to R233, R237, R279, R284, R293, R308, R311, R318, R319) and the rows
of the table that are the actions of a register write. -/

namespace Sys2Proof.Machine

/-- A square is enabled: not harvested, not retired, of a plain that is not retired (R309, R337). -/
def squareEnabled (s : State) (sq : Nat) : Bool :=
  !s.fuses.squares.contains sq && !s.retiredSquares.contains sq && !(s.plain (sq / 256)).retired

/-- The two-bit state of a slot in HSTAT (R68). -/
def CtxStatus.num : CtxStatus → Nat
  | .free => 0 | .live => 1 | .exited => 2 | .killed => 3

/-- BARCFG of a barrier (R212). -/
def barWord (k : Core) (b : Nat) : Nat :=
  let x := mgetD k.bars b {}
  let bits (f : Ctx → BitVec 64) : Nat := k.ctxs.foldl (fun n p => n + b2n ((f p.2).getLsbD b) * 2 ^ p.1) 0
  x.releases % 2 ^ 16 * 2 ^ 48 + bits Ctx.barReleased * 2 ^ 32 + bits Ctx.barWaiting * 2 ^ 16 + x.arrived * 2 ^ 8 + x.expect

/-- TAGVAL of a granule (R166). -/
def tagWord (k : Core) (g : Nat) : Nat :=
  32 * b2n (isFull k (2 * g + 1)) + 16 * b2n (isFull k (2 * g)) + mgetD k.tags g 0

/-- DBGCTL of a slot (R218). -/
def dbgctl (k : Core) (t : Nat) : Nat :=
  if 10 < t then 0
  else
    let x := mgetD k.ctxs t {}
    x.hcause * 2 ^ 12 + 32 * b2n k.holdDisp + 16 * b2n k.brkHalt + 8 * b2n x.step + 4 * b2n x.halted

/-- LSTAT (R237). -/
def lstat (k : Core) : Nat :=
  let l := k.lease
  let st := match l.state with
    | .none => 0
    | .waiting => 1
    | .held => 2
  l.pass % 2 ^ 32 * 2 ^ 32 + ((k.res 1).halves.length + 1) / 2 * 2 ^ 22 + k.eq1.length * 2 ^ 17 + l.left * 2 ^ 10 +
    l.limit * 8 + 4 * b2n l.releasing + st

/-- SLOTSTAT of a slot of a square (R237). -/
def slotWord (q : Square) (n : Nat) : Nat :=
  match mget q.slots n with
  | none => 0
  | some x =>
    let ty := match x.ty with
      | .fp32 => 0
      | .int32 => 1
      | .poly => 2
    x.version % 2 ^ 16 * 2 ^ 48 + x.owner * 2 ^ 32 + b2n x.alloc * 2 ^ 31 + ty * 2 ^ 29 + b2n x.sat * 2 ^ 28 + b2n x.guard * 2 ^ 27 +
      b2n x.split * 2 ^ 26 + x.width * 2 ^ 20

/-- SQMASK (R308): quarter and virtual die of SQSEL. -/
def sqmask (s : State) (job sel : Nat) : Nat :=
  match vdtEntry s job (sel % 16) with
  | none => 0
  | some p => (List.range 64).foldl (fun n i => n + b2n (squareEnabled s (p * 256 + sel / 16 % 4 * 64 + i)) * 2 ^ i) 0

/-- STKINFO (R311): a stack is enabled when pseudo-channels of it are; zero until stage 3 of the boot has trained the stacks and applied the fuses (R351). -/
def stkinfo (s : State) (st : Nat) : Nat :=
  if 11 < st ∨ s.mgmt.stage < 4 then 0 else 2 ^ 16 * b2n (stackChannels s st != 0) + stackChannels s st * 2 ^ 7 + stackSize s st

/-- The virtual die table words of a job (R308). -/
def vdtWords (s : State) (job : Nat) : Word × Word :=
  match mget s.jobs job with
  | some j => (j.vdtlo, j.vdthi)
  | none => (0, 0)

/-- LNSTAT (R189), sides north, east, south, west. -/
def lnstat (s : State) (c : Nat) : Nat :=
  let sides : List Dir := [.n, .e, .s, .w]
  sides.foldl (fun n d => n + (mgetD (s.core c).linkQ (dirNum d) []).length * 16 ^ dirNum d +
    b2n (linkPresent s c d) * 2 ^ (16 + dirNum d)) 0

/-- CESTAT (R189). -/
def cestat (k : Core) : Nat :=
  ((k.res 0).halves.length + 1) / 2 * 2 ^ 20 +
  (List.range 4).foldl (fun n i =>
    let h := mgetD k.chans i {}
    n + h.startQ.length * 2 ^ (4 * i + 4) + b2n h.active * 2 ^ i) 0

/-- STRSTAT (R171). -/
def strstat (k : Core) : Nat :=
  (List.range 4).foldl (fun n i =>
    let r := mgetD k.streams i {}
    n + (r.mode * 64 + r.chan * 16 + r.words.length) * 2 ^ (8 * i)) 0

/-- WMARK of a channel (R170). A fill that has reached the end of the scratchpad reads NEXT as 0, the low bits of 0x80000 that the field
holds: the rule gives no value (log entry 31). -/
def wmark (k : Core) (ch : Nat) : Nat :=
  match (mgetD k.chans ch {}).wm with
  | some (next, limit) => 2 ^ 63 + limit * 2 ^ 32 + next % 2 ^ 19
  | none => 0

/-- DOMSTAT (R279). -/
def domstat (k : Core) : Nat := k.domArrived.toNat * 256 + k.domPhase.toNat

/-- The registers of DBGRNUM that are not CSRs (R221): none where the number selects nothing readable. -/
def dbgRead (k : Core) (t num : Nat) : Option Word :=
  let x := mgetD k.ctxs t {}
  let pending (f r : Nat) : Bool := x.pend.any fun p => p.uses.contains (f, r)
  if 10 < t || !x.halted then none
  else if num < 48 then
    if num = 0 || (t != 0 && 16 ≤ num) || pending 0 num then none else some (x.x.toList.getD num 0)
  else if 64 ≤ num ∧ num < 128 then
    let n := (num - 64) / 2
    if (t != 0 && 8 ≤ n) || pending 1 n then none
    else
      let v := x.v.toList.getD n 0
      some (if num % 2 = 0 then w64 v else BitVec.ofNat 64 (v.toNat / 2 ^ 64))
  else if 128 ≤ num ∧ num < 136 then
    if (t != 0 && 132 ≤ num) || pending 2 (num - 128) then none else some ((x.getK (num - 128)).setWidth 64)
  else if num = 136 then some (wordOf (match x.blk with
    | some b => b.pc
    | none => x.pc))
  else none

/-- The value of a register for slot `t` of core `c` before this access (R106); DBGRDATA is handled by `csrRead`. -/
def csrPeek (s : State) (c t n : Nat) : Word :=
  let k := s.core c
  let x := s.ctx c t
  let job := coreJob s c
  match n with
  | 0x000 => wordOf (32 + b2n x.nbv2)
  | 0x001 => wordOf (4 * b2n x.lkchk + 2 * b2n (x.mode == .runtime))
  | 0x002 => wordOf t
  | 0x003 => wordOf ((List.range 10).foldl (fun a i => a + (mgetD k.ctxs (i + 1) {}).status.num * 4 ^ (i + 1)) 0)
  | 0x004 => wordOf x.tl
  | 0x005 => x.t1.tvec | 0x006 => x.t2.tvec
  | 0x007 => x.t1.tcause | 0x008 => x.t2.tcause
  | 0x009 => x.t1.tvalue | 0x00A => x.t2.tvalue
  | 0x00B => x.t1.tepc | 0x00C => x.t2.tepc
  | 0x00D => x.t1.tstat | 0x00E => x.t2.tstat
  | 0x00F => x.t1.tscratch | 0x010 => x.t2.tscratch
  | 0x011 => x.fpstat.setWidth 64
  | 0x021 => x.tagsel
  | 0x022 => wordOf (tagWord k (x.tagsel.toNat / 32 % 2 ^ 14))
  | 0x023 => x.tagrep
  | 0x024 => x.tlogsel
  | 0x025 => k.retagLog.getD x.tlogsel.toNat 0
  | 0x026 => wordOf k.eccCount
  | 0x027 => x.wmsel
  | 0x028 => wordOf (wmark k x.wmsel.toNat)
  | 0x029 => wordOf (strstat k)
  | 0x02A => wordOf (lnstat s c)
  | 0x02B => wordOf (cestat k)
  | 0x02C => x.barsel
  | 0x02D => wordOf (barWord k x.barsel.toNat)
  | 0x030 => k.dbgsel
  | 0x031 => wordOf (dbgctl k k.dbgsel.toNat)
  | 0x032 => k.dbgrnum
  | 0x034 => k.wpsel
  | 0x035 => (mgetD k.comps k.wpsel.toNat {}).ctl
  | 0x036 => k.wphit
  | 0x037 => k.pmcsel
  | 0x038 => (mgetD k.pmcs k.pmcsel.toNat {}).ctl
  | 0x039 => wordOf (mgetD k.pmcs k.pmcsel.toNat {}).val
  | 0x03A => k.trace.ctl
  | 0x03B => k.trace.base
  | 0x03D => k.dump.ctl
  | 0x03E => k.dump.base
  | 0x03F => k.dump.stat
  | 0x040 => wordOf x.pwidth
  | 0x041 => wordOf (lstat k)
  | 0x042 => wordOf k.lease.weight
  | 0x043 => x.slotsel
  | 0x044 => wordOf (slotWord (s.square (coreSquare c)) x.slotsel.toNat)
  | 0x048 => k.domm
  | 0x049 => wordOf (domstat k)
  | 0x04A => wordOf (x.tqresult * 2 ^ 30)
  | 0x04B => k.frstat
  | 0x04C => (vdtWords s job).1
  | 0x04D => (vdtWords s job).2
  | 0x04E => x.sqsel
  | 0x04F => wordOf (sqmask s job x.sqsel.toNat)
  | 0x050 => x.stksel
  | 0x051 => wordOf (stkinfo s x.stksel.toNat)
  | 0x053 => x.tfdetail
  | _ => 0

/-- Reading ECCSTAT clears it; a correction of the same clock counts afterwards (R169). -/
def eccTake (s : State) (c : Nat) : State := s.updCore c fun k => { k with eccCount := 0 }

/-- Read a register (R106): its value before the access, and the state after an RC read. DBGRDATA of a
halted slot's CSR reads that CSR as the slot would (R221). DBGRNUM 256 + 0x033, by which DBGRDATA selects itself, reads 0 and
ignores writes: no rule says (log entry 31, DESIGN CHOICE). -/
def csrRead (s : State) (c t n : Nat) : Word × State :=
  let k := s.core c
  let plain (t n : Nat) : Word × State := (csrPeek s c t n, if n = 0x026 then eccTake s c else s)
  if n = 0x033 then
    let st := k.dbgsel.toNat
    let num := k.dbgrnum.toNat
    if 256 ≤ num then
      if st ≤ 10 && (s.ctx c st).halted && num != 256 + 0x033 && (csrCheck st .runtime (num - 256) false).isNone then
        plain st (num - 256)
      else (0, s)
    else ((dbgRead k st num).getD 0, s)
  else plain t n

/-- The fields of a register that a write replaces (RW of R9). -/
def csrMask : Nat → Nat
  | 0x000 => 1 | 0x001 => 4
  | 0x005 | 0x006 => 2 ^ 52 - 4
  | 0x007 | 0x008 => 0xFF
  | 0x009 | 0x00A => 2 ^ 64 - 1
  | 0x00B | 0x00C => 2 ^ 52 - 1
  | 0x00D | 0x00E => 0xFF00
  | 0x00F | 0x010 => 2 ^ 64 - 1
  | 0x011 => 0x1F
  | 0x021 => 2 ^ 19 - 32
  | 0x024 => 63 | 0x027 => 3 | 0x02C => 63 | 0x02D => 15
  | 0x030 => 15 | 0x031 => 0x38 | 0x032 => 0xFFF | 0x033 => 2 ^ 64 - 1 | 0x034 => 3
  | 0x035 => 2 ^ 64 - 1 - 2 ^ 48 - (2 ^ 27 - 2 ^ 19) - 7
  | 0x037 => 3
  | 0x038 => 2 ^ 62 + (2 ^ 61 - 2 ^ 50) + 0xFF
  | 0x039 => 2 ^ 48 - 1
  | 0x03A => 2 ^ 63 + (2 ^ 50 - 2 ^ 34)
  | 0x03B => 2 ^ 52 - 1
  | 0x03D => (2 ^ 52 - 2 ^ 32) + 2
  | 0x03E => 2 ^ 52 - 1
  | 0x042 => 15 | 0x043 => 127
  | 0x048 => 2 ^ 64 - 1
  | 0x04E => 63 | 0x050 => 15
  | _ => 0

/-- The W1C bits of a register. -/
def csrW1C : Nat → Nat
  | 0x036 | 0x038 => 2 ^ 63
  | 0x03A | 0x03F => 2 ^ 62
  | _ => 0

/-- The three ways to write (R106, R107). -/
inductive CsrOp where
  | w | s | c
  deriving DecidableEq, Repr

/-- The value of a register's RW and W1C fields after a write (R107). -/
def csrMerge (n : Nat) (op : CsrOp) (old v : Word) : Word :=
  let m := wordOf (csrMask n)
  let w1c := wordOf (csrW1C n)
  let a := match op with
    | .w => (old &&& ~~~m) ||| (v &&& m)
    | .s => old ||| (v &&& m)
    | .c => old &&& ~~~(v &&& m)
  match op with
  | .s => a
  | _ => a &&& ~~~(v &&& w1c)

/-- The status bits of a register that the hardware has set in this clock, of its bits before a write: they stand, since the write
comes first (R109). -/
def eventBits (k : Core) (n : Nat) (old : Word) : Word := if k.events.contains n then old &&& wordOf (csrW1C n) else 0

/-- The value a write carries to WO fields (R107): only CSRW performs them. -/
def woBits (op : CsrOp) (v : Word) : Word := if op = .w then v else 0

/-! The actions of register writes. -/

/-- A named barrier releases (R214). -/
def releaseBar (s : State) (c b : Nat) : State :=
  let bit : BitVec 64 := BitVec.ofNat 64 (2 ^ b)
  let s := s.updCore c fun k =>
    { k with
      bars := mupd k.bars b {} fun x => { x with arrived := 0, releases := (x.releases + 1) % 2 ^ 16 }
      ctxs := k.ctxs.map fun p =>
        if p.2.barWaiting.getLsbD b then
          (p.1, { p.2 with barWaiting := p.2.barWaiting &&& ~~~bit, barReleased := p.2.barReleased ||| bit })
        else p }
  setEvt s c

/-- EXPECT, taken as 16 when 0 (R212). -/
def expectOf (x : Bar) : Nat := if x.expect = 0 then 16 else x.expect

/-- A write of EXPECT (R212): at or below ARRIVED the barrier releases. -/
def actBarcfg (s : State) (c b expect : Nat) : State :=
  let s := s.updCore c fun k => { k with bars := mupd k.bars b {} fun x => { x with expect := expect } }
  let x := mgetD (s.core c).bars b {}
  if expectOf x ≤ x.arrived then releaseBar s c b else s

/-- HALT of a live, running slot (R219). -/
def actHalt (s : State) (c t : Nat) : State :=
  let x := s.ctx c t
  if x.status = .live ∧ !x.halted then haltCtx s c t 1 else s

/-- The fault a halted, blocked context holds is raised at the instruction it still stands in, else at the next (R85, R219), in the
place of a trap of that instruction itself; so is the trap of an imprecise hit that came while it was halted and finds it blocked (R225). -/
def Ctx.takeHeld (x : Ctx) : Ctx :=
  match x.heldFault with
  | none =>
    (match x.blk, x.trap, x.impTrap with
     | some _, some _, _ => { x with blk := none, walking := none }
     | some b, none, some (_, off) =>
       { x with
         trap := some { cause := Cause.watchpoint.code, value := wordOf off, pc := b.pc, note := .impHit, ilen := some b.len }
         blk := none, walking := none }
     | _, _, _ => x)
  | some r =>
    let pc := match x.blk with
      | some b => b.pc
      | none => match x.trap with
        | some t => t.pc
        | none => x.pc
    { x with heldFault := none, trap := some { r with pc := if r.defer then pc else r.pc }, blk := none, walking := none }

/-- RESUME of a halted slot (R219, R220): its first instruction is exempt from precise tests (R224). -/
def actResume (s : State) (c t : Nat) : State :=
  let x := s.ctx c t
  if x.halted then
    let pc := match x.blk with
      | some b => b.pc
      | none => x.pc
    let s := s.setCtx c t
      { x.takeHeld with
        halted := false, hcause := 0, evt := true, exempt := true
        stepping := if x.step then some 0 else none }
    let s := s.updCore c fun k => { k with held := k.held.filter fun h => match h with
      | .helper _ u => u != t
      | .launch _ _ => true }
    let s := slotRecord s c t 4 (2 ^ 4 * (pc % 2 ^ 52))
    if x.step then s else releaseHeld s c (some t) false
  else s

/-- HOLDDISP written to 0 releases what it held (R220). -/
def actHoldOff (s : State) (c : Nat) : State := releaseHeld (s.updCore c fun k => { k with holdDisp := false }) c none false

/-- ENABLE of the trace encoder goes from 0 to 1 (R227, R229): HEAD is 0, every slot owes a SYNC; pulses already issued
are past (R230). -/
def actTrace (s : State) (c : Nat) : State :=
  s.updCore c fun k =>
    let ctl := k.trace.ctl.toNat
    { k with
      pulse := pulsesDue s (coreDie c)
      trace := { k.trace with ctl := wordOf (ctl - ctl / 16 % 2 ^ 24 * 16), unsynced := List.range 11 }
      ctxs := k.ctxs.map fun p => (p.1, { p.2 with icount := 0, hist := [], jlrTarget := 0, syncCount := 0 }) }

/-- A MARK record (R227, R229). -/
def actMark (s : State) (c t : Nat) (v : Word) : State := slotRecord s c t 8 (v.toNat % 2 ^ 32)

/-- A dump starts (R233); while it runs the core is not reported ready (R234). -/
def actDump (s : State) (c : Nat) : State :=
  s.updCore c fun k => { k with dump := k.dump.start, ready := k.ready && k.group.isSome }

/-- The retag log entry of a completed RETAG (R168): newest first, 64 entries. -/
def logRetag (k : Core) (t old tag count first stamp : Nat) : Core :=
  { k with retagLog := (wordOf (old * 2 ^ 60 + tag * 2 ^ 56 + count * 2 ^ 44 + t * 2 ^ 40 + first * 2 ^ 26 + stamp % 2 ^ 26)
      :: k.retagLog).take 64 }

/-- Write the tags of granules first … first+n-1 in ascending order (R165). -/
def setTags (m : Map Nat) (first tag : Nat) : Nat → Map Nat
  | 0 => m
  | n + 1 => setTags (if tag = 0 then mdel m first else mset m first tag) (first + 1) tag n

/-- The fields of RETAG (R165). -/
def retagCount (w : Word) : Nat := w.toNat / 2 ^ 36 % 2 ^ 12
def retagFirst (w : Word) : Nat := w.toNat / 2 ^ 5 % 2 ^ 14
def retagTag (w : Word) : Nat := w.toNat % 16

/-- The trap registers (R87), by their numbers. -/
def trapRegs : List Nat := [0x007, 0x008, 0x009, 0x00A, 0x00B, 0x00C, 0x00D, 0x00E]

/-- A context with a trap register written. -/
def Ctx.setTrapReg (x : Ctx) (n : Nat) (v : Word) : Ctx :=
  match n with
  | 0x007 => { x with t1 := { x.t1 with tcause := v } }
  | 0x008 => { x with t2 := { x.t2 with tcause := v } }
  | 0x009 => { x with t1 := { x.t1 with tvalue := v } }
  | 0x00A => { x with t2 := { x.t2 with tvalue := v } }
  | 0x00B => { x with t1 := { x.t1 with tepc := v } }
  | 0x00C => { x with t2 := { x.t2 with tepc := v } }
  | 0x00D => { x with t1 := { x.t1 with tstat := v } }
  | 0x00E => { x with t2 := { x.t2 with tstat := v } }
  | _ => x

/-- Set the register fields of a slot and core that a write leaves (R107); HOLDDISP, which units outside the context read, changes
with the end of the clock (R109). -/
def csrSet (s : State) (c t n : Nat) (v : Word) : State :=
  let x := s.ctx c t
  let ctx (y : Ctx) : State := s.setCtx c t y
  let core (f : Core → Core) : State := s.updCore c f
  match n with
  | 0x000 => ctx { x with nbv2 := v.getLsbD 0 || !featureOn s 4 }
  | 0x001 => ctx { x with lkchk := v.getLsbD 2 }
  | 0x005 => ctx { x with t1 := { x.t1 with tvec := v } }
  | 0x006 => ctx { x with t2 := { x.t2 with tvec := v } }
  | 0x007 | 0x008 | 0x009 | 0x00A | 0x00B | 0x00C | 0x00D | 0x00E => ctx (x.setTrapReg n v)
  | 0x00F => ctx { x with t1 := { x.t1 with tscratch := v } }
  | 0x010 => ctx { x with t2 := { x.t2 with tscratch := v } }
  | 0x011 => ctx { x with fpstat := v.setWidth 5 }
  | 0x021 => ctx { x with tagsel := v }
  | 0x024 => ctx { x with tlogsel := v }
  | 0x027 => ctx { x with wmsel := v }
  | 0x02C => ctx { x with barsel := v }
  | 0x030 => core fun k => { k with dbgsel := v }
  | 0x031 =>
    let d := (s.core c).dbgsel.toNat
    if 10 < d then s
    else
      let s := s.updCore c fun k => { k with brkHalt := v.getLsbD 4 }
      s.updCtx c d fun y => { y with step := v.getLsbD 3 }
  | 0x032 => core fun k => { k with dbgrnum := v }
  | 0x034 => core fun k => { k with wpsel := v }
  | 0x035 => core fun k => { k with comps := mset k.comps k.wpsel.toNat { ctl := v } }
  | 0x036 => core fun k => { k with wphit := v }
  | 0x037 => core fun k => { k with pmcsel := v }
  | 0x038 => core fun k => { k with pmcs := mupd k.pmcs k.pmcsel.toNat {} fun p => { p with ctl := v } }
  | 0x039 => core fun k => { k with pmcs := mupd k.pmcs k.pmcsel.toNat {} fun p =>
      { p with val := v.toNat % 2 ^ 48, wrote := some (p.wrote.getD p.val) } }
  | 0x03A => core fun k => { k with trace := { k.trace with ctl := v } }
  | 0x03B => core fun k => { k with trace := { k.trace with base := v } }
  | 0x03D => core fun k => { k with dump := { k.dump with ctl := v } }
  | 0x03E => core fun k => { k with dump := { k.dump with base := v } }
  | 0x03F => core fun k => { k with dump := { k.dump with stat := v } }
  | 0x042 => core fun k => { k with lease := { k.lease with weight := v.toNat % 16 } }
  | 0x043 => ctx { x with slotsel := v }
  | 0x048 => core fun k => { k with domm := v }
  | 0x04E => ctx { x with sqsel := v }
  | 0x050 => ctx { x with stksel := v }
  | _ => s

/-- The registers whose RW fields are read by units outside the context, which see a write from the next clock (R109). -/
def csrLate (n : Nat) : Bool := [0x035, 0x038, 0x03A, 0x03B, 0x03D, 0x03E, 0x042, 0x048].contains n

/-- What the selection register of a late register selects; of a trap register, the slot `t` that writes it. -/
def lateSel (k : Core) (t n : Nat) : Nat :=
  if n = 0x035 then k.wpsel.toNat else if n = 0x038 then k.pmcsel.toNat else if trapRegs.contains n then t else 0

/-- A register write at its issue (R107, R109): at once for what the context alone reads and for status bits, of which a
hardware event of the same clock is applied afterwards; RW fields that other units read wait for the end of the clock, where
the written value stands over an event of the clock. The trap registers and HOLDDISP are written at once for the context, and at
the end of the clock over the trap that the context has taken in it, and for the units that hold work. -/
def csrStore (s : State) (c t n : Nat) (v : Word) : State :=
  let late (s : State) : State :=
    s.updCore c fun k => { k with late := k.late ++ [{ num := n, sel := lateSel k t n, value := v }] }
  if csrLate n then
    let w1c := wordOf (csrW1C n)
    late (csrSet s c t n ((csrPeek s c t n &&& ~~~w1c) ||| (v &&& w1c)))
  else if (n = 0x031 && (s.core c).dbgsel.toNat ≤ 10) || trapRegs.contains n then late (csrSet s c t n v)
  else csrSet s c t n v

/-- A late write takes effect (R109): the RW fields take their new value, whatever the selection is by now. -/
def applyWrite (k : Core) (w : LateWrite) : Core :=
  let m := wordOf (csrMask w.num)
  let mix (old : Word) : Word := (old &&& ~~~m) ||| (w.value &&& m)
  match w.num with
  | 0x035 => { k with comps := mset k.comps w.sel { ctl := w.value } }
  | 0x038 => { k with pmcs := mupd k.pmcs w.sel {} fun p => { p with ctl := mix p.ctl } }
  | 0x03A => { k with trace := { k.trace with ctl := mix k.trace.ctl } }
  | 0x03B => { k with trace := { k.trace with base := w.value } }
  | 0x03D => { k with dump := { k.dump with ctl := mix k.dump.ctl } }
  | 0x03E => { k with dump := { k.dump with base := w.value } }
  | 0x042 => { k with lease := { k.lease with weight := w.value.toNat % 16 } }
  | 0x048 => { k with domm := w.value }
  | 0x031 => { k with holdDisp := k.holdDisp || w.value.getLsbD 5 }
  | n => { k with ctxs := k.ctxs.map fun p => if p.1 = w.sel then (p.1, p.2.setTrapReg n w.value) else p }

/-- The late writes of a clock take effect at its end. -/
def applyLate (k : Core) : Core := { k.late.foldl applyWrite k with late := [] }

/-- A write that does nothing: DBGCTL with HALT and RESUME both 1 (R219). -/
def csrIdle (n : Nat) (op : CsrOp) (v : Word) : Bool := n == 0x031 && op == .w && v.toNat % 4 == 3

/-- The action a register write has left to do as a step of its own, with the value it takes: the number
says which (1 RETAG, 2 BARCFG, 3 DBGCTL, 4 DBGRDATA with the value of xs1, which acts on the fields of the register selected, 5 TRCCTL, 6 TRCMARK, 7 DUMPCTL, 8 TQCFG, 9 TLBINV). -/
def csrAction (s : State) (c n : Nat) (op : CsrOp) (old new v : Word) : Option (Nat × Word) :=
  let wo := woBits op v
  match n with
  | 0x020 => if op = .w then some (1, v) else none
  | 0x02D => some (2, new)
  | 0x031 =>
    let release := if old.getLsbD 5 && !new.getLsbD 5 && (s.core c).dbgsel.toNat ≤ 10 then 2 ^ 32 else 0
    let hr := if wo.getLsbD 0 != wo.getLsbD 1 && (s.core c).dbgsel.toNat ≤ 10 then wo.toNat % 4 else 0
    if release + hr = 0 then none else some (3, wordOf (release + hr))
  | 0x033 => some (4, v)
  | 0x03A => if !old.getLsbD 63 && new.getLsbD 63 then some (5, new) else none
  | 0x03C => if op = .w then some (6, v) else none
  | 0x03D => if wo.getLsbD 0 && (s.core c).dump.stat.toNat < 2 ^ 63 then some (7, v) else none
  | 0x04A => if op = .w ∧ (v.toNat % 4 = 1 ∨ v.toNat % 4 = 2) then some (8, v) else none
  | 0x052 => if op = .w then some (9, v) else none
  | _ => none

/-- RETAG beyond the last granule traps (R165). -/
def retagBeyond (w : Word) : Bool := 16384 < retagFirst w + retagCount w + 1

/-- A CSR instruction (R106 to R109): the old value goes to xd, the fields are written, and the action of a
register that has one is left to its own step, in which the context stays blocked. -/
def csrInstr (d : SOp) (n : Nat) (op : Option CsrOp) (vs : List VWord) (s : State) : State :=
  let c := s.cur.core
  let t := s.cur.slot
  let v := arg vs 0
  if n = 0x020 ∧ op = some .w ∧ retagBeyond v then trapHere s .straddle (wordOf (32 * retagFirst v))
  else
    let (old, s) := csrRead s c t n
    let s := putS s d old
    match op with
    | none => s
    | some op =>
      if csrIdle n op v then s
      else
        let new := csrMerge n op old v ||| eventBits s.myCore n old
        let act := csrAction s c n op old new v
        let s := csrStore s c t n new
        match act with
        | some (k, w) => stay s k w
        | none => s

/-- CSRR (R106). -/
def effCsrr (d : SOp) (csr : BitVec 12) : List VWord → State → State := csrInstr d csr.toNat none

/-- CSRR (R106). -/
def execCsrr (d : SOp) (csr : BitVec 12) (s : State) : Host.Outcome State Fault Refusal :=
  issueOps (.csrr d csr) (effCsrr d csr) s

/-- CSRW (R106). -/
def effCsrw (d : SOp) (csr : BitVec 12) : List VWord → State → State := csrInstr d csr.toNat (some .w)

/-- CSRW (R106). -/
def execCsrw (d s1 : SOp) (csr : BitVec 12) (s : State) : Host.Outcome State Fault Refusal :=
  issueOps (.csrw d s1 csr) (effCsrw d csr) s

/-- CSRS (R106). -/
def effCsrs (d : SOp) (csr : BitVec 12) : List VWord → State → State := csrInstr d csr.toNat (some .s)

/-- CSRS (R106). -/
def execCsrs (d s1 : SOp) (csr : BitVec 12) (s : State) : Host.Outcome State Fault Refusal :=
  issueOps (.csrs d s1 csr) (effCsrs d csr) s

/-- CSRC (R106). -/
def effCsrc (d : SOp) (csr : BitVec 12) : List VWord → State → State := csrInstr d csr.toNat (some .c)

/-- CSRC (R106). -/
def execCsrc (d s1 : SOp) (csr : BitVec 12) (s : State) : Host.Outcome State Fault Refusal :=
  issueOps (.csrc d s1 csr) (effCsrc d csr) s

/-! The rows that are actions of a register write: the issuing context is blocked in its CSR instruction at
the action's stage, with the value it takes. -/

/-- The value of a register action the context `cur` names is blocked in. -/
def actionOf (s : State) (k : Nat) : Option Word :=
  match s.me.blk with
  | some b => if (csrOf b.instr).isSome ∧ b.stage = k then some b.aux else none
  | none => none

/-- The way in which a CSR instruction writes (R106). -/
def csrOpOf : Instr → CsrOp
  | .csrs _ _ _ => .s
  | .csrc _ _ _ => .c
  | _ => .w

/-- The way in which the CSR instruction writes that the context `cur` names is blocked in. -/
def actingOp (s : State) : CsrOp := (s.me.blk.map fun b => csrOpOf b.instr).getD .w

/-- A register action in one step: it is done and its CSR instruction completes. -/
def doAction (s : State) (k : Nat) (act : Word → State → State) : Host.Outcome State Fault Refusal :=
  match actionOf s k with
  | some w => .next (doneOps (act w s))
  | none => .refused .notEnabled

/-- BARCFG_WRITE (R212). -/
def execBarcfgWrite (s : State) : Host.Outcome State Fault Refusal :=
  doAction s 2 fun w s => actBarcfg s s.cur.core s.me.barsel.toNat (w.toNat % 16)

/-- The slot DBGCTL acts on. -/
def dbgSlot (s : State) : Nat := s.myCore.dbgsel.toNat

/-- A part of a DBGCTL action is done; the CSR instruction completes with its last part. -/
def dbgDone (s : State) (left : Nat) : State :=
  if left = 0 then doneOps s else stay s 3 (wordOf left)

/-- DEBUG_HALT (R219): DBGCTL HALT halts the selected live slot. -/
def execDebugHalt (s : State) : Host.Outcome State Fault Refusal :=
  match actionOf s 3 with
  | some w => event (w.toNat % 4 == 1 && w.toNat < 2 ^ 32) (actHalt (doneOps s) s.cur.core (dbgSlot s))
  | none => .refused .notEnabled

/-- DEBUG_RESUME (R219, R220): DBGCTL RESUME resumes a halted slot. -/
def execDebugResume (s : State) : Host.Outcome State Fault Refusal :=
  match actionOf s 3 with
  | some w => event (w.toNat % 4 == 2 && w.toNat < 2 ^ 32) (actResume (doneOps s) s.cur.core (dbgSlot s))
  | none => .refused .notEnabled

/-- DEBUG_HOLD_RELEASE (R220): HOLDDISP written to 0 releases the held work. -/
def execDebugHoldRelease (s : State) : Host.Outcome State Fault Refusal :=
  match actionOf s 3 with
  | some w => event (2 ^ 32 ≤ w.toNat) (dbgDone (actHoldOff s s.cur.core) (w.toNat % 4))
  | none => .refused .notEnabled

/-- TRACE_ENABLE (R227). -/
def execTraceEnable (s : State) : Host.Outcome State Fault Refusal := doAction s 5 fun _ s => actTrace s s.cur.core

/-- TRCMARK (R227). -/
def execTrcmark (s : State) : Host.Outcome State Fault Refusal :=
  doAction s 6 fun w s => actMark s s.cur.core s.cur.slot w

/-- DUMP_START (R233). -/
def execDumpStart (s : State) : Host.Outcome State Fault Refusal := doAction s 7 fun _ s => actDump s s.cur.core

/-- A RETAG in progress of another context of the core that issued earlier (R165). -/
def retagAhead (k : Core) (t : Nat) (seq : Option Nat) : Bool :=
  k.ctxs.any fun p => p.1 != t && (match p.2.blk with
    | some b => b.stage == 10 || (b.stage == 1 && (csrOf b.instr).any (·.1 == 0x020) &&
        p.2.lastIssue.getD 0 < seq.getD 0)
    | none => false)

/-- RETAG (R165): after the context's earlier stores it starts, with the old tag of its first granule noted; the tag array
writes one granule a clock. -/
def execRetag (s : State) : Host.Outcome State Fault Refusal :=
  let x := s.me
  match actionOf s 1 with
  | some w =>
    let stores := s.myCore.storeQ.any fun e => e.slot == s.cur.slot && e.gen == x.gen
    let old := mgetD s.myCore.tags (retagFirst w) 0
    event (!stores && !retagAhead s.myCore s.cur.slot x.lastIssue)
      ((stay s 10 (wordOf (w.toNat % 2 ^ 48 + 2 ^ 60 * old))).updMe fun x =>
        { x with notBefore := s.clk s.cur.core + retagCount w + 1 })
  | none => .refused .notEnabled

/-- The granule that a RETAG in progress writes in clock `clk`, with its tag. -/
def retagGranule (x : Ctx) (clk : Nat) : Option (Nat × Nat) :=
  match x.blk with
  | some b =>
    let i := clk + retagCount b.aux + 1 - x.notBefore
    if (csrOf b.instr).isSome ∧ b.stage = 10 ∧ i ≤ retagCount b.aux then some (retagFirst b.aux + i, retagTag b.aux) else none
  | none => none

/-- The tag array writes one granule at the end of a clock (R162, R165): checks of the clock have seen the old tag. A write of a tag,
or of a full/empty bit, leaves a parity failure where it is: R337 ends failures by writes of data alone (log entry 31, DESIGN
CHOICE). -/
def retagClock (s : State) (c : Nat) : State :=
  match (s.core c).ctxs.findSome? fun p => retagGranule p.2 (s.clk c) with
  | some (g, tag) => s.updCore c fun k => { k with tags := setTags k.tags g tag 1 }
  | none => s

/-- RETAG_COMPLETE (R165, R168): the last granule is written, the log gains an entry, the CSRW completes. -/
def execRetagComplete (s : State) : Host.Outcome State Fault Refusal :=
  let c := s.cur.core
  match actionOf s 10 with
  | some w =>
    if s.me.notBefore ≤ s.clk c then
      .next (doneOps (s.updCore c fun k =>
        logRetag k s.cur.slot (w.toNat / 2 ^ 60) (retagTag w) (retagCount w) (retagFirst w) (s.ptime / 2 ^ 10)))
    else .refused .notEnabled
  | none => .refused .notEnabled

/-- Write a register of a halted slot that DBGRNUM selects, or a CSR as that slot would in runtime mode
(R221). A CSR action that would block a context is performed at once (log entry 22). A write of the program counter ends an instruction
in which the context is blocked: no rule says what becomes of it (log entry 31). -/
def dbgWrite (s : State) (c : Nat) (v : Word) : State :=
  let k := s.core c
  let t := k.dbgsel.toNat
  let num := k.dbgrnum.toNat
  let x := s.ctx c t
  if (dbgRead k t num).isSome then
    if num < 48 then s.setCtx c t { x with x := x.x.setIfInBounds num v }
    else if num < 128 then
      let n := (num - 64) / 2
      let old := x.v.toList.getD n 0
      let new := if num % 2 = 0 then old.toNat / 2 ^ 64 * 2 ^ 64 + v.toNat else old.toNat % 2 ^ 64 + v.toNat * 2 ^ 64
      s.setCtx c t { x with v := x.v.setIfInBounds n (BitVec.ofNat 128 new) }
    else if num < 136 then s.setCtx c t { x with k := x.k.setIfInBounds (num - 128) (v.setWidth 16) }
    else s.setCtx c t { x with pc := v.toNat % 2 ^ 52 / 4 * 4, fbuf := [], ffault := none, blk := none }
  else s

end Sys2Proof.Machine
end

