-- ==== Sys2Proof/Machine/Barrier.lean ====
section
/-! DEFINITION. Named barriers (R212 to R215), domain phases (R279 to R281, R334) and the counted-write flag
instructions (R185, R186). -/

namespace Sys2Proof.Machine

/-! Held reports, delivered with wait delivery (R163, R182). -/

/-- The issuing context holds a report. -/
def hasReport (s : State) : Bool := !s.me.tagQ.isEmpty || !s.me.failQ.isEmpty

/-- Deliver the oldest tag report of the issuing context, else its oldest failure report. -/
def deliverReport (s : State) : State :=
  match s.me.tagQ with
  | r :: _ => trapHere s .tagReport (wordOf r.addr) .tagReport
  | [] =>
    match s.me.failQ with
    | [] => s
    | r :: _ =>
      let (pc, len) : Nat × Option Nat := match s.me.blk with
        | some b => (b.pc, some b.len)
        | none => (s.me.pc, none)
      raiseTrap s s.cur.core s.cur.slot { cause := r.cause, value := r.value, pc := pc, note := .failReport, ilen := len }

/-! Barriers. -/

/-- BARA (R214): the context blocks until its earlier local accesses are performed. -/
def effBara (b : BitVec 6) (_vs : List VWord) (s : State) : State := stay s 1 (b.setWidth 64)

/-- BARA (R214). -/
def execBara (b : BitVec 6) (s : State) : Host.Outcome State Fault Refusal := issueOps (.bara b) (effBara b) s

/-- The issuing context arrives at a barrier (R214). -/
def arriveBar (s : State) (b : Nat) : State :=
  let c := s.cur.core
  let s := s.updMe fun x => { x with
    barWaiting := x.barWaiting ||| BitVec.ofNat 64 (2 ^ b), barReleased := x.barReleased &&& ~~~(BitVec.ofNat 64 (2 ^ b)) }
  let s := s.updCore c fun k => { k with bars := mupd k.bars b {} fun x => { x with arrived := x.arrived + 1 } }
  let x := mgetD (s.core c).bars b {}
  if x.arrived = expectOf x then releaseBar s c b else s

/-- BARA_ARRIVE (R214): the block of a BARA ends and its context arrives. -/
def execBaraArrive (s : State) : Host.Outcome State Fault Refusal :=
  match s.me.blk with
  | some b =>
    match b.instr with
    | .bara n =>
      event (b.stage == 1 && !earlierLocal s s.cur.core s.cur.slot s.nextId true) (complete (arriveBar s n.toNat))
    | _ => .refused .notEnabled
  | none => .refused .notEnabled

/-- The tests of a BARW that is blocked (R215). -/
def tryBarw (b : BitVec 6) (s : State) : State :=
  if hasReport s then deliverReport s
  else if s.me.barWaiting.getLsbD b.toNat then s
  else doneOps (s.updMe fun x => { x with barReleased := x.barReleased &&& ~~~(BitVec.ofNat 64 (2 ^ b.toNat)) })

/-- BARW (R215) at issue. -/
def effBarw (b : BitVec 6) (_vs : List VWord) (s : State) : State := tryBarw b (stay s 1 0)

/-- BARW (R215). -/
def execBarw (b : BitVec 6) (s : State) : Host.Outcome State Fault Refusal :=
  waitOps (.barw b) (effBarw b) (fun _ => tryBarw b) s

/-! Flags. -/

/-- The signed value of the low 40 bits of a word. -/
def sext40 (w : Word) : Int := sextN (w.toNat % 2 ^ 40) 40

/-- FARM (R185). -/
def effFarm (flag : BitVec 8) (vs : List VWord) (s : State) : State :=
  flagInstrSet s s.cur.core flag.toNat (sext40 (arg vs 0)) false

/-- FARM (R185). -/
def execFarm (flag : BitVec 8) (s1 : SOp) (s : State) : Host.Outcome State Fault Refusal :=
  issueOps (.farm flag s1) (effFarm flag) s

/-- FREAD (R183, R184): the entry as it stood at the start of the clock. -/
def effFread (d : SOp) (flag : BitVec 8) (_vs : List VWord) (s : State) : State :=
  let f := s.flag s.cur.core flag.toNat
  putS s d (flagWord f.count0 f.ovs0)

/-- FREAD (R185). -/
def execFread (d : SOp) (flag : BitVec 8) (s : State) : Host.Outcome State Fault Refusal :=
  issueOps (.fread d flag) (effFread d flag) s

/-- FCLR (R185). -/
def effFclr (flag : BitVec 8) (_vs : List VWord) (s : State) : State := flagInstrSet s s.cur.core flag.toNat 0 true

/-- FCLR (R185). -/
def execFclr (flag : BitVec 8) (s : State) : Host.Outcome State Fault Refusal :=
  issueOps (.fclr flag) (effFclr flag) s

/-- FWAIT (R186) at issue: the tests read the entry after every change of their clock, so they are made
when the clock's changes have been. -/
def effFwait (_vs : List VWord) (s : State) : State := stay s 1 0

/-- The tests of FWAIT (R186) in their order. -/
def contFwait (flag : BitVec 8) (s : State) : State :=
  let f := s.flag s.cur.core flag.toNat
  if hasReport s then deliverReport s
  else if f.ovs then trapHere s .overshoot (flag.setWidth 64)
  else if f.count = 0 then doneOps s
  else s

/-- FWAIT (R186). -/
def execFwait (flag : BitVec 8) (s : State) : Host.Outcome State Fault Refusal :=
  waitOps (.fwait flag) effFwait (fun _ => contFwait flag) s

/-! Phases. -/

/-- The field B of a level (R279). -/
def dommField (k : Core) (level : Nat) : Nat := k.domm.toNat / 2 ^ (8 * level) % 256

/-- The launch of a core takes no part in domains at any level: frontier and card launches (R279). -/
def noDomains (s : State) (c : Nat) : Bool :=
  match s.launch? (coreLaunch s c) with
  | some l => l.kind == 1 || l.kind == 2
  | none => true

/-- PHASE (R280) at issue: reports, then completion where the group is no member, else the drain; the level's
B is read now. -/
def effPhase (level : BitVec 3) (_vs : List VWord) (s : State) : State :=
  if hasReport s then deliverReport s
  else
    let b := dommField s.myCore level.toNat
    if 63 < b ∨ noDomains s s.cur.core then s else stay s 1 (wordOf b)

/-- PHASE delivers a report that has come while it is blocked (R280). -/
def contPhase (s : State) : State := if hasReport s then deliverReport s else s

/-- PHASE (R280). -/
def execPhase (level : BitVec 3) (s : State) : Host.Outcome State Fault Refusal :=
  waitOps (.phase level) (effPhase level) (fun _ => contPhase) s

/-- Count one arrival of a group for its domain; the round releases when all members have arrived (R280). -/
def countArrival (s : State) (g : Group) (level b : Nat) : State :=
  let block := g.lin / 2 ^ b
  let total := match s.launch? g.launch with
    | some l => l.total
    | none => 0
  let same (r : Round) : Bool :=
    r.launch == g.launch && r.level == level && r.b == b && r.block == block && r.released.isNone
  let old := s.rounds.find? same
  let arrived := (match old with
    | some r => r.arrived
    | none => []) ++ [g.lin]
  let full : Bool := arrived.length == min (2 ^ b) (total - block * 2 ^ b)
  let r : Round :=
    { launch := g.launch, level := level, b := b, block := block, arrived := arrived
      released := if full then some s.ptime else none
      members := if full then arrived else [] }
  { s with rounds := s.rounds.filter (!same ·) ++ [r] }

/-- PHASE_ARRIVE (R280): the drain has ended, and the group arrives unless it has already. -/
def execPhaseArrive (s : State) : Host.Outcome State Fault Refusal :=
  let c := s.cur.core
  match s.me.blk, s.myCore.group with
  | some b, some g =>
    match b.instr with
    | .phase level =>
      if b.stage = 1 ∧ !hasReport s ∧ released s c s.cur.slot s.nextId then
        let l := level.toNat
        let s := stay s 2 b.aux
        .next (if s.myCore.domArrived.getLsbD l then s
          else countArrival (s.updCore c fun k => { k with domArrived := k.domArrived ||| BitVec.ofNat 8 (2 ^ l) })
            g l b.aux.toNat)
      else .refused .notEnabled
    | _ => .refused .notEnabled
  | _, _ => .refused .notEnabled

/-- The delivery of a release that is due at a core (R334). -/
def roundDue (s : State) (c : Nat) : Option Round :=
  match (s.core c).group with
  | none => none
  | some g => s.rounds.find? fun r =>
    r.launch == g.launch && r.members.contains g.lin &&
    (match r.released with
     | some t => t + s.mgmt.limSpread * coreDie c / 8 ≤ s.ptime
     | none => false)

/-- A context that waits for the release of a level. -/
def waitsPhase (x : Ctx) (level : Nat) : Bool :=
  match x.blk with
  | some b => b.stage == 2 && (match b.instr with
    | .phase l => l.toNat == level
    | _ => false)
  | none => false

/-- DOMAIN_RELEASE_DELIVER (R280, R334): the group's ARRIVED bit clears, its PHASEBIT inverts and its waiting
contexts complete. -/
def execDomainReleaseDeliver (s : State) : Host.Outcome State Fault Refusal :=
  let c := s.cur.core
  match roundDue s c, (s.core c).group with
  | some r, some g =>
    let bit : BitVec 8 := BitVec.ofNat 8 (2 ^ r.level)
    let s := s.updCore c fun k =>
      { k with
        domArrived := k.domArrived &&& ~~~bit
        domPhase := k.domPhase ^^^ bit
        ctxs := k.ctxs.map fun p => if waitsPhase p.2 r.level then (p.1, { p.2 with blk := none }) else p }
    let rest := s.rounds.map fun q => if q = r then { q with members := q.members.filter (· != g.lin) } else q
    .next { s with rounds := rest.filter fun q => q.released.isNone || !q.members.isEmpty }
  | _, _ => .refused .notEnabled

end Sys2Proof.Machine
end

