-- ==== Sys2Proof/Machine/Push.lean ====
section
/-! DEFINITION. The pushes of command words (R190, R208), the lease instructions (R238, R239), and GWID (R256). -/

namespace Sys2Proof.Machine

/-! TCMD and TCMDM. -/

/-- The queue a push instruction names. -/
def pushQueue : Instr → Option Nat
  | .tcmd q _ => some q.val
  | .tcmdm q _ => some q.val
  | _ => none

/-- The word of a push instruction, with where a TCMDM read it: the registers it took at issue, or the
scratchpad bytes at its pointer (R190). -/
def pushWord (s : State) (b : Blk) : BitVec 256 × Option Nat × Nat :=
  match b.instr with
  | .tcmdm _ _ =>
    let p := arg b.held 0
    (BitVec.ofNat 256 (memNat s.myCore.spad (ptrAddr p) 32), some (ptrAddr p), ptrKey p)
  | _ => (cmdOfWords (b.held.map w64), none, 0)

/-- The buffer of a queue of the issuing context (R190). -/
def asmBuf (s : State) (q : Nat) : List Word := s.me.asm.toList.getD q []

/-- Empty the buffer of a queue. -/
def clearAsm (s : State) (q : Nat) : State := s.updMe fun x => { x with asm := x.asm.setIfInBounds q [] }

/-- The bytes a blocked TCMDM reads when its word enters the queue (R190). -/
def pushPieces (b : Blk) : List (Nat × Nat) :=
  match b.instr with
  | .tcmdm _ _ => if b.stage = 1 then [] else [(ptrAddr (arg b.held 0), 32)]
  | _ => []

/-- The word a blocked push instruction has to push next can enter its queue, the grant of its banks apart (R170, R190, R208). -/
def enterDue (s : State) : Bool :=
  match s.me.blk with
  | none => false
  | some b =>
    match pushQueue b.instr with
    | none => false
    | some q =>
      released s s.cur.core s.cur.slot s.nextId &&
      (if b.stage = 1 then cmdRoom s s.cur.core q (cmdOfWords (asmBuf s q))
       else b.stage == 2 && (pushPieces b).all (fun p => !wmBlocks s.myCore none p.1 p.2) && cmdRoom s s.cur.core q (pushWord s b).1)

/-- The word a blocked push instruction has to push next enters its queue: its banks grant the read of a TCMDM (R144). -/
def enterReady (s : State) : Bool :=
  enterDue s && s.me.blk.all fun b => granted s.myCore 0 (pushPieces b)

/-- The next word of a blocked push instruction enters its queue: first the buffer completed with zero words,
then the instruction's own word. A TCMDM reads its word now: no rule says when between its issue and the entry (R190, log
entry 31). -/
def enterNext (s : State) : State :=
  match s.me.blk with
  | none => s
  | some b =>
    match pushQueue b.instr with
    | none => s
    | some q =>
      let c := s.cur.core
      let t := s.cur.slot
      if b.stage = 1 then stay (enterCmd (clearAsm s q) c t q (cmdOfWords (asmBuf s q)) none 0) 2 0
      else
        let (ok, s) : Bool × State := match b.instr with
          | .tcmdm _ _ => spadCheck (takeBanks s c 0 (pushPieces b)) c (ptrAddr (arg b.held 0)) 32
          | _ => (true, s)
        if !ok then trapHere s .uncorrectable (wordOf (ptrAddr (arg b.held 0)))
        else
          let (w, addr, key) := pushWord s b
          doneOps (enterCmd s c t q w addr key)

/-- Start a push: the context is blocked until its words have entered, which they do at once where they can. -/
def startPush (q : Nat) (s : State) : State :=
  let s := stay s (if (asmBuf s q).isEmpty then 2 else 1) 0
  if enterReady s then enterNext s else s

/-- TCMD (R190): the four registers are taken at issue. -/
def effTcmd (q : Fin 4) (s1 : Fin 48) (_vs : List VWord) (s : State) : State :=
  let ws := (List.range 4).map fun i => v128 (s.me.getX (Fin.ofNat 48 (s1.val + i)))
  startPush q.val (updBlk s fun b => { b with held := ws })

/-- TCMD (R190). -/
def execTcmd (q : Fin 4) (s1 : Fin 48) (s : State) : Host.Outcome State Fault Refusal :=
  issueOps (.tcmd q s1) (effTcmd q s1) s

/-- TCMDM (R190): the checks of its local read are made at issue. The comparators test it there like a local load, and so the accesses of
TKPUT, PACK, UNPACK and PEXT: R224 and R225 name none of them (log entry 31, DESIGN CHOICE). -/
def effTcmdm (q : Fin 4) (vs : List VWord) (s : State) : State :=
  let p := arg vs 0
  match localAddr s p 0 32 32 with
  | .error s => s
  | .ok a =>
    withWatch s true false [(a, 32)] fun s =>
    withTags s (ptrKey p) [(a, 32)] fun s =>
    withGood s true a [(a, 32)] fun s => startPush q.val s

/-- TCMDM (R190). -/
def execTcmdm (q : Fin 4) (s1 : SOp) (s : State) : Host.Outcome State Fault Refusal :=
  issueOps (.tcmdm q s1) (effTcmdm q) s

/-- COMMAND_QUEUE_ENTER (R190, R208). -/
def execCommandQueueEnter (s : State) : Host.Outcome State Fault Refusal := event (enterReady s) (enterNext s)

/-! Leases. -/

/-- PASS values are compared by their difference modulo 2^32 as a signed number (R240). -/
def passLt (a b : Nat) : Bool := sextI ((a : Int) - b) 32 < 0

/-- The cores of a square with their leases. -/
def squareLeases (s : State) (sq : Nat) : List (Nat × Lease) :=
  (List.range 8).map fun n => (n, (s.core (squareCore sq n)).lease)

/-- The least of some PASS values. -/
def leastPass : List Nat → Option Nat
  | [] => none
  | a :: r =>
    match leastPass r with
    | none => some a
    | some b => some (if passLt b a then b else a)

/-- LEASE (R239). -/
def effLease (budget : BitVec 7) (_vs : List VWord) (s : State) : State :=
  let c := s.cur.core
  let l := s.myCore.lease
  let n := budget.toNat
  s.updMyCore fun k =>
    { k with lease :=
        match l.state with
        | .none =>
          let others := (squareLeases s (coreSquare c)).filterMap fun p => if p.2.state = .none then none else some p.2.pass
          let pass := match leastPass others with
            | some p => if passLt l.pass p then p else l.pass
            | none => l.pass
          { l with state := .waiting, limit := n, pass := pass }
        | _ => { l with limit := n, releasing := false } }

/-- LEASE (R238). -/
def execLease (budget : BitVec 7) (s : State) : Host.Outcome State Fault Refusal :=
  issueOps (.lease budget) (effLease budget) s

/-- UNLEASE (R239). -/
def effUnlease (_vs : List VWord) (s : State) : State := s.updMyCore fun k => askRelease k false

/-- UNLEASE (R238). -/
def execUnlease (s : State) : Host.Outcome State Fault Refusal := issueOps .unlease effUnlease s

/-- The word of SLOTQ (R238). -/
def slotqWord (s : State) (c : Nat) : Word :=
  let sq := coreSquare c
  let me := coreInSquare c
  let slots := (s.square sq).slots.filter fun p => p.2.alloc
  let holder := (squareLeases s sq).find? fun p => p.2.state = .held
  let owned := (slots.filter fun p => p.2.owner = me).length
  wordOf ((match holder with
    | some p => 2 ^ 27 + p.1 * 2 ^ 24
    | none => 0) + (s.core c).last.getD 0xFF * 2 ^ 16 + owned * 2 ^ 8 + (128 - slots.length))

/-- SLOTQ (R238). -/
def effSlotq (d : SOp) (_vs : List VWord) (s : State) : State := putS s d (slotqWord s s.cur.core)

/-- SLOTQ (R238). -/
def execSlotq (d : SOp) (s : State) : Host.Outcome State Fault Refusal := issueOps (.slotq d) (effSlotq d) s

/-- GWID (R256). -/
def effGwid (width : BitVec 6) (_vs : List VWord) (s : State) : State :=
  s.updMe fun x => { x with pwidth := width.toNat }

/-- GWID (R256). -/
def execGwid (width : BitVec 6) (s : State) : Host.Outcome State Fault Refusal :=
  issueOps (.gwid width) (effGwid width) s

end Sys2Proof.Machine
end

