-- ==== Sys2Proof/Machine/Vector.lean ====
section
/-! DEFINITION. The packed SIMD instructions (R118 to R137, R142). -/

namespace Sys2Proof.Machine

/-! Lanes and masks. -/

/-- Lane i is active under a mask field (R119). -/
def laneOn (s : State) (m : Fin 8) (i : Nat) : Bool := m.val == 0 || (s.me.getK m.val).getLsbD i

/-- The flush of subnormal results at numeric-behaviour version 1 (R124). -/
def flushV1 (s : State) : Bool := !opVer s

/-- Lane i of a vector of a type, as a code. -/
def laneT (t : VType) (v : VWord) (i : Nat) : Nat := lane v t.width i

/-- A floating-point lane's value. -/
def fval (t : VType) (code : Nat) : FVal := (vFmt t).decode code

/-- A signed integer lane's value. -/
def ival (t : VType) (code : Nat) : Int := sextN code t.width

/-- A signed integer wrapped into a lane. -/
def wrapT (t : VType) (x : Int) : Nat := lowBits x t.width

/-- Write the lanes of a vector result: active lanes by a function that gives a code and its flags, inactive
lanes as R119 says; the flags of active lanes are set. -/
def lanewise (t : VType) (m : Fin 8) (d : VOp) (f : Nat → Nat × FFlags) (s : State) : State :=
  let old := getV s d
  let rs := (List.range t.lanes).map fun i => if laneOn s m i then f i else (laneT t old i, 0)
  putV (orMyFp s (orFlags (rs.map Prod.snd))) d (ofLanes t.width (rs.map Prod.fst))

/-- A lanewise operation on two sources: integers by one function, floating point by another. -/
def arith2 (t : VType) (m : Fin 8) (d : VOp) (fi : Int → Int → Int) (ff : FVal → FVal → FVal) (vs : List VWord)
    (s : State) : State :=
  lanewise t m d (fun i =>
    let a := laneT t (argV vs 0) i
    let b := laneT t (argV vs 1) i
    if t.isFloat then (vFmt t).round .ne (flushV1 s) (ff (fval t a) (fval t b))
    else (wrapT t (fi (ival t a) (ival t b)), 0)) s

/-- A fused operation on two sources and the destination (R127). -/
def fused (t : VType) (m : Fin 8) (d : VOp) (ff : FVal → FVal → FVal → FVal) (vs : List VWord) (s : State) : State :=
  let c := getV s d
  lanewise t m d (fun i =>
    (vFmt t).round .ne (flushV1 s) (ff (fval t (laneT t (argV vs 0) i)) (fval t (laneT t (argV vs 1) i)) (fval t (laneT t c i)))) s

/-- A change of the sign bit of a floating-point lane, or an integer function (R127). -/
def signOp (t : VType) (m : Fin 8) (d : VOp) (fi : Int → Int) (fs : Bool → Bool) (vs : List VWord) (s : State) : State :=
  lanewise t m d (fun i =>
    let a := laneT t (argV vs 0) i
    if t.isFloat then
      if (fval t a).isNan then ((vFmt t).nanCode, 0)
      else
        let half := 2 ^ (t.width - 1)
        (a % half + half * b2n (fs (half ≤ a)), 0)
    else (wrapT t (fi (ival t a)), 0)) s

/-- A bitwise lane operation that sets no flag (R129). -/
def bits2 (t : VType) (m : Fin 8) (d : VOp) (f : Nat → Nat → Nat) (vs : List VWord) (s : State) : State :=
  lanewise t m d (fun i => (f (laneT t (argV vs 0) i) (laneT t (argV vs 1) i), 0)) s

/-! Ranking (R128). -/

/-- A lane is a NaN. -/
def laneNan (t : VType) (a : Nat) : Bool := t.isFloat && (fval t a).isNan

/-- The ranking of two lanes that are not NaN. -/
def rankLt (t : VType) (a b : Nat) : Bool :=
  if t.isFloat then
    let x := fval t a
    let y := fval t b
    x.lt y || (x.isZero && y.isZero && x.sign && !y.sign)
  else ival t a < ival t b

/-- VMIN or VMAX of two lanes. -/
def pickLane (t : VType) (top : Bool) (a b : Nat) : Nat × FFlags :=
  let fl : FFlags := if laneNan t a || laneNan t b then flagNV else 0
  if laneNan t a then (a, fl)
  else if laneNan t b then (b, fl)
  else if top then (if rankLt t a b then b else a, fl)
  else (if rankLt t b a then b else a, fl)

/-- The first of some lanes (index, code) that no other outranks, for the highest or the lowest rank. -/
def bestLane (t : VType) (top : Bool) : List (Nat × Nat) → Option (Nat × Nat)
  | [] => none
  | p :: r =>
    match bestLane t top r with
    | none => some p
    | some q => some (if (if top then rankLt t p.2 q.2 else rankLt t q.2 p.2) then q else p)

/-- The active lanes of a source, with their numbers. -/
def activeLanes (t : VType) (m : Fin 8) (v : VWord) (s : State) : List (Nat × Nat) :=
  ((List.range t.lanes).filter (laneOn s m)).map fun i => (i, laneT t v i)

/-- The lane VREDM, VMAXI and VMINI find: the first NaN, else the first of best rank. -/
def findLane (t : VType) (top : Bool) (ls : List (Nat × Nat)) : Option (Nat × Nat) :=
  match ls.find? fun p => laneNan t p.2 with
  | some p => some p
  | none => bestLane t top ls

/-- NV for an active NaN. -/
def nanFlag (t : VType) (ls : List (Nat × Nat)) : FFlags := if ls.any fun p => laneNan t p.2 then flagNV else 0

/-! Lanewise arithmetic (R127). -/

/-- Vadd (R127). -/
def effVadd (t : VType) (m : Fin 8) (d : VOp) : List VWord → State → State :=
  arith2 t m d (· + ·) (FVal.add)

/-- VADD (R127). -/
def execVadd (t : VType) (m : Fin 8) (d s1 s2 : VOp) (s : State) : Host.Outcome State Fault Refusal :=
  issueOps (.vadd t m d s1 s2) (effVadd t m d) s

/-- Vsub (R127). -/
def effVsub (t : VType) (m : Fin 8) (d : VOp) : List VWord → State → State :=
  arith2 t m d (· - ·) (fun a b => a.add b.neg)

/-- VSUB (R127). -/
def execVsub (t : VType) (m : Fin 8) (d s1 s2 : VOp) (s : State) : Host.Outcome State Fault Refusal :=
  issueOps (.vsub t m d s1 s2) (effVsub t m d) s

/-- Vmul (R127). -/
def effVmul (t : VType) (m : Fin 8) (d : VOp) : List VWord → State → State :=
  arith2 t m d (· * ·) (FVal.mul)

/-- VMUL (R127). -/
def execVmul (t : VType) (m : Fin 8) (d s1 s2 : VOp) (s : State) : Host.Outcome State Fault Refusal :=
  issueOps (.vmul t m d s1 s2) (effVmul t m d) s

/-- Vfma (R127). -/
def effVfma (t : VType) (m : Fin 8) (d : VOp) : List VWord → State → State :=
  fused t m d fun a b c => (a.mul b).add c

/-- VFMA (R127). -/
def execVfma (t : VType) (m : Fin 8) (d s1 s2 : VOp) (s : State) : Host.Outcome State Fault Refusal :=
  issueOps (.vfma t m d s1 s2) (effVfma t m d) s

/-- Vfms (R127). -/
def effVfms (t : VType) (m : Fin 8) (d : VOp) : List VWord → State → State :=
  fused t m d fun a b c => (a.mul b).add c.neg

/-- VFMS (R127). -/
def execVfms (t : VType) (m : Fin 8) (d s1 s2 : VOp) (s : State) : Host.Outcome State Fault Refusal :=
  issueOps (.vfms t m d s1 s2) (effVfms t m d) s

/-- Vnfma (R127). -/
def effVnfma (t : VType) (m : Fin 8) (d : VOp) : List VWord → State → State :=
  fused t m d fun a b c => c.add (a.mul b).neg

/-- VNFMA (R127). -/
def execVnfma (t : VType) (m : Fin 8) (d s1 s2 : VOp) (s : State) : Host.Outcome State Fault Refusal :=
  issueOps (.vnfma t m d s1 s2) (effVnfma t m d) s

/-- Vabs (R127). -/
def effVabs (t : VType) (m : Fin 8) (d : VOp) : List VWord → State → State :=
  signOp t m d (fun a => (a.natAbs : Int)) fun _ => false

/-- VABS (R127). -/
def execVabs (t : VType) (m : Fin 8) (d s1 : VOp) (s : State) : Host.Outcome State Fault Refusal :=
  issueOps (.vabs t m d s1) (effVabs t m d) s

/-- Vneg (R127). -/
def effVneg (t : VType) (m : Fin 8) (d : VOp) : List VWord → State → State :=
  signOp t m d (fun a => -a) Bool.not

/-- VNEG (R127). -/
def execVneg (t : VType) (m : Fin 8) (d s1 : VOp) (s : State) : Host.Outcome State Fault Refusal :=
  issueOps (.vneg t m d s1) (effVneg t m d) s

/-! Minimum, maximum, bitwise and movement (R128, R129). -/

/-- Vmin (R128). -/
def effVmin (t : VType) (m : Fin 8) (d : VOp) : List VWord → State → State :=
  fun vs => lanewise t m d fun i => pickLane t false (laneT t (argV vs 0) i) (laneT t (argV vs 1) i)

/-- VMIN (R128). -/
def execVmin (t : VType) (m : Fin 8) (d s1 s2 : VOp) (s : State) : Host.Outcome State Fault Refusal :=
  issueOps (.vmin t m d s1 s2) (effVmin t m d) s

/-- Vmax (R128). -/
def effVmax (t : VType) (m : Fin 8) (d : VOp) : List VWord → State → State :=
  fun vs => lanewise t m d fun i => pickLane t true (laneT t (argV vs 0) i) (laneT t (argV vs 1) i)

/-- VMAX (R128). -/
def execVmax (t : VType) (m : Fin 8) (d s1 s2 : VOp) (s : State) : Host.Outcome State Fault Refusal :=
  issueOps (.vmax t m d s1 s2) (effVmax t m d) s

/-- Vsel (R129). -/
def effVsel (t : VType) (m : Fin 8) (d : VOp) : List VWord → State → State :=
  fun vs s => putV s d (ofLanes t.width ((List.range t.lanes).map fun i =>
    laneT t (if (s.me.getK m.val).getLsbD i then argV vs 0 else argV vs 1) i))

/-- VSEL (R129). -/
def execVsel (t : VType) (m : Fin 8) (d s1 s2 : VOp) (s : State) : Host.Outcome State Fault Refusal :=
  issueOps (.vsel t m d s1 s2) (effVsel t m d) s

/-- Vand (R129). -/
def effVand (t : VType) (m : Fin 8) (d : VOp) : List VWord → State → State :=
  bits2 t m d Nat.land

/-- VAND (R129). -/
def execVand (t : VType) (m : Fin 8) (d s1 s2 : VOp) (s : State) : Host.Outcome State Fault Refusal :=
  issueOps (.vand t m d s1 s2) (effVand t m d) s

/-- Vor (R129). -/
def effVor (t : VType) (m : Fin 8) (d : VOp) : List VWord → State → State :=
  bits2 t m d Nat.lor

/-- VOR (R129). -/
def execVor (t : VType) (m : Fin 8) (d s1 s2 : VOp) (s : State) : Host.Outcome State Fault Refusal :=
  issueOps (.vor t m d s1 s2) (effVor t m d) s

/-- Vxor (R129). -/
def effVxor (t : VType) (m : Fin 8) (d : VOp) : List VWord → State → State :=
  bits2 t m d Nat.xor

/-- VXOR (R129). -/
def execVxor (t : VType) (m : Fin 8) (d s1 s2 : VOp) (s : State) : Host.Outcome State Fault Refusal :=
  issueOps (.vxor t m d s1 s2) (effVxor t m d) s

/-- Vshl (R129). -/
def effVshl (t : VType) (m : Fin 8) (d : VOp) : List VWord → State → State :=
  bits2 t m d (fun a c => if t.width ≤ c then 0 else a * 2 ^ c % 2 ^ t.width)

/-- VSHL (R129). -/
def execVshl (t : VType) (m : Fin 8) (d s1 s2 : VOp) (s : State) : Host.Outcome State Fault Refusal :=
  issueOps (.vshl t m d s1 s2) (effVshl t m d) s

/-- Vshr (R129). -/
def effVshr (t : VType) (m : Fin 8) (d : VOp) : List VWord → State → State :=
  bits2 t m d (fun a c => if t.width ≤ c then 0 else a / 2 ^ c)

/-- VSHR (R129). -/
def execVshr (t : VType) (m : Fin 8) (d s1 s2 : VOp) (s : State) : Host.Outcome State Fault Refusal :=
  issueOps (.vshr t m d s1 s2) (effVshr t m d) s

/-- Vshra (R129). -/
def effVshra (t : VType) (m : Fin 8) (d : VOp) : List VWord → State → State :=
  bits2 t m d (fun a c => wrapT t (ival t a / (2 ^ min c t.width : Nat)))

/-- VSHRA (R129). -/
def execVshra (t : VType) (m : Fin 8) (d s1 s2 : VOp) (s : State) : Host.Outcome State Fault Refusal :=
  issueOps (.vshra t m d s1 s2) (effVshra t m d) s

/-- Vbcast (R129). -/
def effVbcast (t : VType) (m : Fin 8) (d : VOp) : List VWord → State → State :=
  fun vs => lanewise t m d fun _ => ((arg vs 0).toNat % 2 ^ t.width, 0)

/-- VBCAST (R129). -/
def execVbcast (t : VType) (m : Fin 8) (d : VOp) (s1 : SOp) (s : State) : Host.Outcome State Fault Refusal :=
  issueOps (.vbcast t m d s1) (effVbcast t m d) s

/-! Comparison (R130). -/

/-- A predicate on two lanes. -/
def cmpLane (p : CmpOp) (t : VType) (a b : Nat) : Bool :=
  if t.isFloat then
    let x := fval t a
    let y := fval t b
    let un := x.isNan || y.isNan
    let eq := !un && !x.lt y && !y.lt x
    match p with
    | .eq => eq
    | .ne => !eq
    | .lt => !un && x.lt y
    | .le => !un && !y.lt x
    | .gt => !un && y.lt x
    | .ge => !un && !x.lt y
    | .ltu | .geu => false
  else
    match p with
    | .eq => a == b
    | .ne => a != b
    | .lt => ival t a < ival t b
    | .le => ival t a ≤ ival t b
    | .gt => ival t b < ival t a
    | .ge => ival t b ≤ ival t a
    | .ltu => a < b
    | .geu => b ≤ a

/-- The flag of a comparison of two lanes. -/
def cmpFlag (p : CmpOp) (t : VType) (a b : Nat) : FFlags :=
  match p with
  | .eq | .ne => 0
  | _ => if laneNan t a || laneNan t b then flagNV else 0

/-- VCMP (R130): the whole mask is written. -/
def effVcmp (p : CmpOp) (t : VType) (m : Fin 8) (d : Fin 8) (vs : List VWord) (s : State) : State :=
  let on := (List.range t.lanes).filter (laneOn s m)
  let a := laneT t (argV vs 0)
  let b := laneT t (argV vs 1)
  let bits := (on.filter fun i => cmpLane p t (a i) (b i)).foldl (fun n i => n + 2 ^ i) 0
  let fl := orFlags (on.map fun i => cmpFlag p t (a i) (b i))
  (orMyFp s fl).updMe fun x => x.setK d (BitVec.ofNat 16 bits)

/-- VCMP (R130). -/
def execVcmp (p : CmpOp) (t : VType) (m : Fin 8) (d : Fin 8) (s1 s2 : VOp) (s : State) : Host.Outcome State Fault Refusal :=
  issueOps (.vcmp p t m d s1 s2) (effVcmp p t m d) s

/-! Insertion, extraction and shuffle (R131). -/

/-- VSHUF (R131). -/
def effVshuf (t : VType) (m : Fin 8) (d : VOp) (vs : List VWord) : State → State :=
  lanewise t m d fun i =>
    let n := t.lanes
    let index := laneT t (argV vs 2) i
    (if index < n then laneT t (argV vs 0) index
     else if index < 2 * n then laneT t (argV vs 1) (index - n) else 0, 0)

/-- VSHUF (R131). -/
def execVshuf (t : VType) (m : Fin 8) (d s1 s2 s3 : VOp) (s : State) : Host.Outcome State Fault Refusal :=
  issueOps (.vshuf t m d s1 s2 s3) (effVshuf t m d) s

/-- VINS (R131). -/
def effVins (t : VType) (d : VOp) (l : BitVec 4) (vs : List VWord) (s : State) : State :=
  putV s d (ofLanes t.width ((lanesOf (getV s d) t.width t.lanes).set l.toNat ((arg vs 0).toNat % 2 ^ t.width)))

/-- VINS (R131). -/
def execVins (t : VType) (d : VOp) (s1 : SOp) (lane : BitVec 4) (s : State) : Host.Outcome State Fault Refusal :=
  issueOps (.vins t d s1 lane) (effVins t d lane) s

/-- A lane as a scalar: sign-extended for integers, zero-extended for floating point. -/
def laneWord (t : VType) (a : Nat) : Word := if t.isFloat then wordOf a else BitVec.ofInt 64 (ival t a)

/-- VEXT (R131). -/
def effVext (t : VType) (d : SOp) (l : BitVec 4) (vs : List VWord) (s : State) : State :=
  putS s d (laneWord t (laneT t (argV vs 0) l.toNat))

/-- VEXT (R131). -/
def execVext (t : VType) (d : SOp) (s1 : VOp) (lane : BitVec 4) (s : State) : Host.Outcome State Fault Refusal :=
  issueOps (.vext t d s1 lane) (effVext t d lane) s

/-! Reductions (R132 to R134). -/

/-- One level of a balanced tree: present children are summed in pairs. -/
def pairUp {α : Type} (f : α → α → α) : List (Option α) → List (Option α)
  | [] => []
  | [a] => [a]
  | a :: b :: r =>
    (match a, b with
     | some x, some y => some (f x y)
     | some x, none => some x
     | none, y => y) :: pairUp f r

/-- The root of a balanced tree, level by level. -/
def treeRoot {α : Type} (f : α → α → α) : Nat → List (Option α) → Option α
  | 0, l => l.headD none
  | n + 1, l => treeRoot f n (pairUp f l)

/-- A node's sum in FP32 with the flags so far. -/
def sumNode (v1 : Bool) (a b : FVal × FFlags) : FVal × FFlags :=
  let (code, fl) := FFmt.fp32.round .ne v1 (a.1.add b.1)
  (FFmt.fp32.decode code, a.2 ||| b.2 ||| fl)

/-- The sum VREDS finds and its flags (R132). -/
def redSum (t : VType) (v1 : Bool) (ls : List (Option Nat)) : Nat × FFlags :=
  if t.isFloat then
    match treeRoot (sumNode v1) 4 (ls.map fun o => o.map fun a => (fval t a, 0)) with
    | none => (0, 0)
    | some (v, fl) =>
      let (code, f2) := (vFmt t).round .ne (v1 && t != .f32) v
      (code, if t = .f32 ∧ !v.isNan then fl else fl ||| f2)
  else ((treeRoot (fun a b => wrapT t ((a : Int) + b)) 4 ls).getD 0, 0)

/-- VREDS (R132): the sum goes to every lane. -/
def effVreds (t : VType) (m : Fin 8) (d : VOp) (vs : List VWord) (s : State) : State :=
  let ls := (List.range t.lanes).map fun i => if laneOn s m i then some (laneT t (argV vs 0) i) else none
  let (r, fl) := redSum t (flushV1 s) ls
  putV (orMyFp s fl) d (ofLanes t.width (List.replicate t.lanes r))

/-- VREDS (R132). -/
def execVreds (t : VType) (m : Fin 8) (d s1 : VOp) (s : State) : Host.Outcome State Fault Refusal :=
  issueOps (.vreds t m d s1) (effVreds t m d) s

/-- VREDM (R133): the highest-ranked active lane goes to every lane. -/
def effVredm (t : VType) (m : Fin 8) (d : VOp) (vs : List VWord) (s : State) : State :=
  let ls := activeLanes t m (argV vs 0) s
  let r := match findLane t true ls with
    | some p => p.2
    | none => if t.isFloat then (vFmt t).infCode true else 2 ^ (t.width - 1)
  putV (orMyFp s (nanFlag t ls)) d (ofLanes t.width (List.replicate t.lanes r))

/-- VREDM (R133). -/
def execVredm (t : VType) (m : Fin 8) (d s1 : VOp) (s : State) : Host.Outcome State Fault Refusal :=
  issueOps (.vredm t m d s1) (effVredm t m d) s

/-- VMAXI and VMINI (R134): the index goes to S3 and then the value to D. -/
def bestIndex (top : Bool) (t : VType) (m : Fin 8) (d s3 : SOp) (vs : List VWord) (s : State) : State :=
  let ls := activeLanes t m (argV vs 0) s
  let (value, index) : Word × Word := match findLane t top ls with
    | some p => (laneWord t p.2, wordOf p.1)
    | none => (0, BitVec.allOnes 64)
  putS (putS (orMyFp s (nanFlag t ls)) s3 index) d value

/-- Vmaxi (R134). -/
def effVmaxi (t : VType) (m : Fin 8) (d s3 : SOp) : List VWord → State → State :=
  bestIndex true t m d s3

/-- VMAXI (R134). -/
def execVmaxi (t : VType) (m : Fin 8) (d s3 : SOp) (s1 : VOp) (s : State) : Host.Outcome State Fault Refusal :=
  issueOps (.vmaxi t m d s3 s1) (effVmaxi t m d s3) s

/-- Vmini (R134). -/
def effVmini (t : VType) (m : Fin 8) (d s3 : SOp) : List VWord → State → State :=
  bestIndex false t m d s3

/-- VMINI (R134). -/
def execVmini (t : VType) (m : Fin 8) (d s3 : SOp) (s1 : VOp) (s : State) : Host.Outcome State Fault Refusal :=
  issueOps (.vmini t m d s3 s1) (effVmini t m d s3) s

/-! Conversion (R135 to R137). -/

/-- The floating-point format of a conversion code. -/
def cvtFlt : CvtFmt → Option FFmt
  | .f32 => some .fp32
  | .f16 => some .fp16
  | .bf16 => some .bf16
  | .e4m3 => some .e4m3
  | .e5m2 => some .e5m2
  | .e2m1 => some .e2m1
  | _ => none

/-- The rounding of a conversion into a floating-point format. -/
def cvtRound : CvtRnd → FRound
  | .ne => .ne
  | .z => .z
  | .sat => .sat

/-- One converted element and its flags (R136). -/
def convert (dst src : CvtFmt) (r : CvtRnd) (v1 : Bool) (code : Nat) : Nat × FFlags :=
  let wd := dst.width
  match cvtFlt src, cvtFlt dst with
  | some f, some g => g.round (cvtRound r) v1 (f.decode code)
  | some f, none =>
    let (x, fl) := toInt (r != .z) (f.decode code) wd true
    (lowBits x wd, fl)
  | none, some g => g.round (cvtRound r) v1 (FVal.ofInt (sextN code src.width))
  | none, none =>
    let (x, fl) := satIntF (sextN code src.width) wd true
    (lowBits x wd, fl)

/-- The value a converted code stands for. -/
def cvtValue (f : CvtFmt) (code : Nat) : FVal :=
  match cvtFlt f with
  | some g => g.decode code
  | none => FVal.ofInt (sextN code f.width)

/-- VCVT (R136). -/
def effVcvt (dst src : CvtFmt) (r : CvtRnd) (m : Fin 8) (d : VOp) (vs : List VWord) (s : State) : State :=
  let n := min 16 (128 / max src.width dst.width)
  let old := getV s d
  let rs := (List.range n).map fun i =>
    if laneOn s m i then convert dst src r (flushV1 s) (lane (argV vs 0) src.width i) else (lane old dst.width i, 0)
  putV (orMyFp s (orFlags (rs.map Prod.snd))) d (ofLanes dst.width (rs.map Prod.fst))

/-- VCVT (R136). -/
def execVcvt (dst src : CvtFmt) (rnd : CvtRnd) (m : Fin 8) (d s1 : VOp) (s : State) : Host.Outcome State Fault Refusal :=
  issueOps (.vcvt dst src rnd m d s1) (effVcvt dst src rnd m d) s

/-- The part a narrowing lost (R137). DESIGN CHOICE (log entry 31): for x = −0 narrowed to an integer format, where
value(y) has no sign, the zero residual is −0; R137 states no sign. -/
def residual (dst src : CvtFmt) (v1 : Bool) (code y : Nat) : Nat :=
  match cvtFlt src with
  | none => 0
  | some f =>
    let x := f.decode code
    let z := cvtValue dst y
    if x.isNan || z.isNan then f.nanCode
    else if x.isInf then 0
    else (f.round .ne v1 (x.add z.neg)).1

/-- VCVTEF (R137): the flags are those of the narrowing. -/
def effVcvtef (dst src : CvtFmt) (r : CvtRnd) (m : Fin 8) (d s3 : VOp) (vs : List VWord) (s : State) : State :=
  let n := min 16 (128 / src.width)
  let oldY := getV s d
  let oldR := getV s s3
  let rs := (List.range n).map fun i =>
    if laneOn s m i then
      let code := lane (argV vs 0) src.width i
      let (y, fl) := convert dst src r (flushV1 s) code
      (y, residual dst src (flushV1 s) code y, fl)
    else (lane oldY dst.width i, lane oldR src.width i, 0)
  let s := orMyFp s (orFlags (rs.map fun p => p.2.2))
  let s := putV s s3 (ofLanes src.width (rs.map fun p => p.2.1))
  putV s d (ofLanes dst.width (rs.map fun p => p.1))

/-- VCVTEF (R137). -/
def execVcvtef (dst src : CvtFmt) (rnd : CvtRnd) (m : Fin 8) (d s3 s1 : VOp) (s : State) :
    Host.Outcome State Fault Refusal :=
  issueOps (.vcvtef dst src rnd m d s3 s1) (effVcvtef dst src rnd m d s3) s

/-! Four-way dot product (R142). -/

/-- A byte of a dot product, signed or not. -/
def dotByte (sgn : Bool) (v : VWord) (i : Nat) : Int := if sgn then sextN (lane v 8 i) 8 else lane v 8 i

/-- VDOT4 (R142). -/
def effVdot4 (sg : DotSign) (m : Fin 8) (d : VOp) (vs : List VWord) (s : State) : State :=
  let old := getV s d
  lanewise .i32 m d (fun j =>
    let terms := (List.range 4).map fun i =>
      dotByte (sg != .uu) (argV vs 0) (4 * j + i) * dotByte (sg == .ss) (argV vs 1) (4 * j + i)
    (lowBits (terms.foldl (· + ·) (sextN (lane old 32 j) 32)) 32, 0)) s

/-- VDOT4 (R142). -/
def execVdot4 (sg : DotSign) (m : Fin 8) (d s1 s2 : VOp) (s : State) : Host.Outcome State Fault Refusal :=
  issueOps (.vdot4 sg m d s1 s2) (effVdot4 sg m d) s

end Sys2Proof.Machine
end

