-- ==== Sys2Proof/Machine/Approx.lean ====
section
/-! DEFINITION. The approximation instructions (R138 to R141). An irrational result is held as a dyadic
number of more than 200 bits with a sticky low bit, which rounds as the exact result does. -/

namespace Sys2Proof.Machine

/-! Exact results with a sticky bit. -/

/-- A truncated magnitude with its sticky bit. -/
def sticky (neg : Bool) (q : Nat) (exact : Bool) (e : Int) : FVal := .fin neg (2 * q + b2n (!exact)) (e - 1)

/-- 1/x of a nonzero m·2^e. -/
def recip (neg : Bool) (m : Nat) (e : Int) : FVal :=
  let k := Nat.log2 m + 200
  sticky neg (2 ^ k / m) (2 ^ k % m == 0) (-e - k)

/-- The integer square root of n below 2^(2·bits), bit by bit. -/
def isqrt (n : Nat) : Nat → Nat → Nat
  | 0, r => r
  | b + 1, r =>
    let r' := r + 2 ^ b
    isqrt n b (if r' * r' ≤ n then r' else r)

/-- 1/√x of a positive m·2^e. -/
def recipSqrt (m : Nat) (e : Int) : FVal :=
  let odd := e % 2 != 0
  let m' := if odd then 2 * m else m
  let e' := if odd then e - 1 else e
  let k := Nat.log2 m' + 220
  let q := isqrt (2 ^ (2 * k) / m') (k + 1) 0
  sticky false q (q * q * m' == 2 ^ (2 * k)) (-(e' / 2) - k)

/-- Working precision of the series, in fraction bits. -/
def fracBits : Nat := 320

/-- Σ z^(2i+1)/(2i+1) from term n on, for z with `fracBits` fraction bits: `p` is z^(2n+1). -/
def atanhFrom (z2 : Nat) : Nat → Nat → Nat → Nat
  | 0, _, _ => 0
  | fuel + 1, n, p => p / (2 * n + 1) + atanhFrom z2 fuel (n + 1) (p * z2 / 2 ^ fracBits)

/-- ln((a+b)/(a−b)) for 0 ≤ b ≤ a/3, as 2·atanh(b/a). -/
def lnRatio (a b : Nat) : Nat :=
  let z := b * 2 ^ fracBits / a
  2 * atanhFrom (z * z / 2 ^ fracBits) 110 0 z

/-- ln 2. -/
def ln2Fix : Nat := lnRatio 3 1

/-- Σ y^i/i! from term n on. -/
def expFrom (y : Nat) : Nat → Nat → Nat → Nat
  | 0, _, _ => 0
  | fuel + 1, n, t => t + expFrom y fuel (n + 1) (t * y / 2 ^ fracBits / (n + 1))

/-- The bits of a series result below which its truncation errors lie. -/
def guardBits : Nat := 40

/-- 2^x of a nonzero finite x; a magnitude of 2^12 or more stands for one that overflows or vanishes. -/
def exp2 (neg : Bool) (m : Nat) (e : Int) : FVal :=
  let big : Bool := 12 ≤ topBit m e
  let i : Int := if big then 2 ^ 12 else shiftFloor m e
  let frac : Nat := if big then 0 else (if 0 ≤ e then 0 else m % 2 ^ (-e).toNat) * 2 ^ fracBits / 2 ^ (-e).toNat
  let whole : Int := if neg then (if frac = 0 then -i else -i - 1) else i
  let f : Nat := if neg ∧ frac ≠ 0 then 2 ^ fracBits - frac else frac
  if f = 0 then .fin false 1 whole
  else
    let y := f * ln2Fix / 2 ^ fracBits
    sticky false (expFrom y 90 0 (2 ^ fracBits) / 2 ^ guardBits) false (whole - (fracBits - guardBits : Nat))

/-- log2 x of a positive m·2^e. -/
def log2v (m : Nat) (e : Int) : FVal :=
  let n := Nat.log2 m
  let whole : Int := n + e
  if m = 2 ^ n then FVal.ofInt whole
  else
    let ln := lnRatio (m + 2 ^ n) (m - 2 ^ n)
    let frac := ln * 2 ^ fracBits / ln2Fix
    let x : Int := whole * (2 ^ fracBits : Nat) + frac
    sticky (x < 0) (x.natAbs / 2 ^ guardBits) false (-(fracBits - guardBits : Nat))

/-! Rounding (R138). -/

/-- Approx (R138) of a value that is not NaN, with its flags. -/
def approx (t : VType) (v1 : Bool) (z : FVal) : Nat × FFlags :=
  match t, z with
  | .f32, .fin neg m e =>
    if m = 0 then (FFmt.fp32.signed neg 0, 0)
    else
      let quantum := max (topBit m e) (-126) - 11
      let q := shiftNE m (e - quantum)
      let inexact : FFlags := if shiftExact m (e - quantum) then 0 else flagNX
      let (code, fl) := FFmt.fp32.round .ne v1 (.fin neg q quantum)
      let sub : Bool := q != 0 && topBit q quantum < -126
      (code, fl ||| inexact ||| (if sub && inexact != 0 then flagUF else 0))
  | _, z => (vFmt t).round .ne v1 z

/-- A lane of a one-operand approximation: its special cases (R139), else Approx. -/
abbrev ApproxFn := VType → Bool → Nat → Nat × FFlags

/-- NaN with NV. -/
def badLane (t : VType) : Nat × FFlags := ((vFmt t).nanCode, flagNV)

/-- VRCP (R139). -/
def rcpLane : ApproxFn := fun t v1 a =>
  match fval t a with
  | .nan => badLane t
  | .inf neg => ((vFmt t).signed neg 0, 0)
  | .fin neg 0 _ => ((vFmt t).infCode neg, flagDZ)
  | .fin neg m e => approx t v1 (recip neg m e)

/-- VRSQ (R139). -/
def rsqLane : ApproxFn := fun t v1 a =>
  match fval t a with
  | .nan => badLane t
  | .inf neg => if neg then badLane t else (0, 0)
  | .fin neg 0 _ => ((vFmt t).infCode neg, flagDZ)
  | .fin true _ _ => badLane t
  | .fin false m e => approx t v1 (recipSqrt m e)

/-- The code of 1.0. -/
def oneCode (t : VType) : Nat := (vFmt t).ne (.fin false 1 0)

/-- VEXP2 (R139). A result that rounds to zero sets UF and NX, as the statement says. -/
def exp2Lane : ApproxFn := fun t v1 a =>
  match fval t a with
  | .nan => badLane t
  | .inf neg => (if neg then 0 else (vFmt t).infCode false, 0)
  | .fin _ 0 _ => (oneCode t, 0)
  | .fin neg m e =>
    let (code, fl) := approx t v1 (exp2 neg m e)
    (code, if code = 0 then fl ||| flagUF ||| flagNX else fl)

/-- VLOG2 (R139). -/
def log2Lane : ApproxFn := fun t v1 a =>
  match fval t a with
  | .nan => badLane t
  | .inf neg => if neg then badLane t else ((vFmt t).infCode false, 0)
  | .fin _ 0 _ => ((vFmt t).infCode true, flagDZ)
  | .fin true _ _ => badLane t
  | .fin false m e => approx t v1 (log2v m e)

/-- The Newton steps of VRCPS and VRSQS (R140) at x and y. DESIGN CHOICE (log entry 31): where the result is exactly
zero (x·y = 2, or x·y·y = 3) the inner difference counts as +0, so the zero takes y's sign; R140 states no sign. -/
def newtonLane (sqrt : Bool) (t : VType) (v1 : Bool) (a b : Nat) : Nat × FFlags :=
  let x := fval t a
  let y := fval t b
  if x.isNan || y.isNan then badLane t
  else if y.isZero || y.isInf || x.isZero || x.isInf then (b, 0)
  else if sqrt then
    let r := y.mul ((FVal.fin false 3 0).add ((x.mul y).mul y).neg)
    (vFmt t).round .ne v1 (r.mul (.fin false 1 (-1)))
  else (vFmt t).round .ne v1 (y.mul ((FVal.fin false 2 0).add (x.mul y).neg))

/-! The instructions. -/

/-- An approximation: flags at issue, the result pending for its time (R123, R141). -/
def approxOp (i : Instr) (t : VType) (clocks : Nat) (f : Nat → Nat × FFlags) (s : State) : State :=
  let rs := (List.range t.lanes).map f
  let s := orMyFp s (orFlags (rs.map Prod.snd))
  addPend s i .approx (inClocks s clocks) (some (.value (ofLanes t.width (rs.map Prod.fst))))

/-- An approximation of one operand. -/
def approx1 (i : Instr) (t : VType) (clocks : Nat) (g : ApproxFn) (vs : List VWord) (s : State) : State :=
  approxOp i t clocks (fun n => g t (flushV1 s) (laneT t (argV vs 0) n)) s

/-- A Newton step. -/
def approx2 (i : Instr) (t : VType) (sqrt : Bool) (vs : List VWord) (s : State) : State :=
  approxOp i t 6 (fun n => newtonLane sqrt t (flushV1 s) (laneT t (argV vs 0) n) (laneT t (argV vs 1) n)) s

/-- VRCP (R139). -/
def effVrcp (t : VType) (d s1 : VOp) (la : BitVec 4) : List VWord → State → State := approx1 (.vrcp t d s1 la) t 8 rcpLane

/-- VRCP (R139). -/
def execVrcp (t : VType) (d s1 : VOp) (la : BitVec 4) (s : State) : Host.Outcome State Fault Refusal :=
  issueOps (.vrcp t d s1 la) (effVrcp t d s1 la) s

/-- VRSQ (R139). -/
def effVrsq (t : VType) (d s1 : VOp) (la : BitVec 4) : List VWord → State → State := approx1 (.vrsq t d s1 la) t 8 rsqLane

/-- VRSQ (R139). -/
def execVrsq (t : VType) (d s1 : VOp) (la : BitVec 4) (s : State) : Host.Outcome State Fault Refusal :=
  issueOps (.vrsq t d s1 la) (effVrsq t d s1 la) s

/-- VEXP2 (R139). -/
def effVexp2 (t : VType) (d s1 : VOp) (la : BitVec 4) : List VWord → State → State :=
  approx1 (.vexp2 t d s1 la) t 12 exp2Lane

/-- VEXP2 (R139). -/
def execVexp2 (t : VType) (d s1 : VOp) (la : BitVec 4) (s : State) : Host.Outcome State Fault Refusal :=
  issueOps (.vexp2 t d s1 la) (effVexp2 t d s1 la) s

/-- VLOG2 (R139). -/
def effVlog2 (t : VType) (d s1 : VOp) (la : BitVec 4) : List VWord → State → State :=
  approx1 (.vlog2 t d s1 la) t 12 log2Lane

/-- VLOG2 (R139). -/
def execVlog2 (t : VType) (d s1 : VOp) (la : BitVec 4) (s : State) : Host.Outcome State Fault Refusal :=
  issueOps (.vlog2 t d s1 la) (effVlog2 t d s1 la) s

/-- VRCPS (R140). -/
def effVrcps (t : VType) (d s1 s2 : VOp) (la : BitVec 4) : List VWord → State → State :=
  approx2 (.vrcps t d s1 s2 la) t false

/-- VRCPS (R140). -/
def execVrcps (t : VType) (d s1 s2 : VOp) (la : BitVec 4) (s : State) : Host.Outcome State Fault Refusal :=
  issueOps (.vrcps t d s1 s2 la) (effVrcps t d s1 s2 la) s

/-- VRSQS (R140). -/
def effVrsqs (t : VType) (d s1 s2 : VOp) (la : BitVec 4) : List VWord → State → State :=
  approx2 (.vrsqs t d s1 s2 la) t true

/-- VRSQS (R140). -/
def execVrsqs (t : VType) (d s1 s2 : VOp) (la : BitVec 4) (s : State) : Host.Outcome State Fault Refusal :=
  issueOps (.vrsqs t d s1 s2 la) (effVrsqs t d s1 s2 la) s

/-- APPROXIMATION_COMPLETE (R141). -/
def execApproximationComplete (s : State) : Host.Outcome State Fault Refusal :=
  completeEvent (fun k => k == .approx) s

end Sys2Proof.Machine
end

