-- ==== Sys2Proof/Machine/Crypto.lean ====
section
/-! DEFINITION. The digests and signatures that R352 and R353 name: SHA-256 (FIPS 180-4) and ECDSA on P-256 (FIPS 186-4).
The two standards are cited by the rules; their constants are theirs. -/

namespace Sys2Proof.Machine

/-! SHA-256. -/

/-- The first n primes that are at most `bound`. -/
def firstPrimes (n bound : Nat) : List Nat :=
  ((List.range (bound + 1)).filter fun p => 2 ≤ p && (List.range p).all fun d => d < 2 || p % d != 0).take n

/-- The first 32 bits of the fractional part of the k-th root of a small number: the root is built bit by bit, from bit 35 on. -/
def rootFraction (k p : Nat) : Nat :=
  ((List.range 36).foldr (fun b r => if (r + 2 ^ b) ^ k ≤ p * 2 ^ (32 * k) then r + 2 ^ b else r) 0) % 2 ^ 32

/-- The round constants of SHA-256: of the cube roots of the first 64 primes (FIPS 180-4). -/
def shaK : List Nat := (firstPrimes 64 311).map (rootFraction 3)

/-- The initial hash words of SHA-256: of the square roots of the first eight primes (FIPS 180-4). -/
def shaH0 : List Nat := (firstPrimes 8 19).map (rootFraction 2)

/-- Rotate a 32-bit word right. -/
def rotr32 (x n : Nat) : Nat := x / 2 ^ n + x % 2 ^ n * 2 ^ (32 - n)

/-- The message schedule after the first 16 words; the list holds the words from the newest on. -/
def shaExtend : Nat → List Nat → List Nat
  | 0, w => w
  | k + 1, w =>
    let a := w.getD 14 0
    let b := w.getD 1 0
    let s0 := rotr32 a 7 ^^^ rotr32 a 18 ^^^ a / 2 ^ 3
    let s1 := rotr32 b 17 ^^^ rotr32 b 19 ^^^ b / 2 ^ 10
    shaExtend k ((w.getD 15 0 + s0 + w.getD 6 0 + s1) % 2 ^ 32 :: w)

/-- One round over the eight working words. -/
def shaRound (v : List Nat) (kw : Nat) : List Nat :=
  match v with
  | [a, b, c, d, e, f, g, h] =>
    let t1 := h + (rotr32 e 6 ^^^ rotr32 e 11 ^^^ rotr32 e 25) + ((e &&& f) ^^^ ((2 ^ 32 - 1 - e) &&& g)) + kw
    let t2 := (rotr32 a 2 ^^^ rotr32 a 13 ^^^ rotr32 a 22) + ((a &&& b) ^^^ (a &&& c) ^^^ (b &&& c))
    [(t1 + t2) % 2 ^ 32, a, b, c, (d + t1) % 2 ^ 32, e, f, g]
  | _ => v

/-- The number bytes spell, first byte highest. -/
def bigEndian (bs : List Byte) : Nat := bs.foldl (fun n b => n * 256 + b.toNat) 0

/-- The n bytes of a number, first byte highest. -/
def bigBytes (n v : Nat) : List Byte := ((List.range n).map fun i => BitVec.ofNat 8 (v / 256 ^ i)).reverse

/-- Take one 64-byte block into a hash. -/
def shaBlock (h : List Nat) (block : List Byte) : List Nat :=
  let w := (shaExtend 48 ((chunksOf 4 16 block).map bigEndian).reverse).reverse
  let v := ((shaK.zip w).map fun p => p.1 + p.2).foldl shaRound h
  (h.zip v).map fun p => (p.1 + p.2) % 2 ^ 32

/-- A message with its padding. -/
def shaPad (m : List Byte) : List Byte :=
  m ++ [0x80#8] ++ List.replicate ((119 - m.length % 64) % 64) 0 ++ bigBytes 8 (8 * m.length)

/-- SHA-256, as a number whose highest byte is the digest's first. -/
def sha256 (m : List Byte) : Nat :=
  let p := shaPad m
  ((chunksOf 64 (p.length / 64) p).foldl shaBlock shaH0).foldl (fun n w => n * 2 ^ 32 + w) 0

/-! P-256. -/

/-- The field prime, the curve's b, the order of its base point, and that point's coordinates. -/
def p256P : Nat := 0xffffffff00000001000000000000000000000000ffffffffffffffffffffffff
@[inherit_doc p256P]
def p256B : Nat := 0x5ac635d8aa3a93e7b3ebbd55769886bc651d06b0cc53b0f63bce3c3e27d2604b
@[inherit_doc p256P]
def p256N : Nat := 0xffffffff00000000ffffffffffffffffbce6faada7179e84f3b9cac2fc632551
@[inherit_doc p256P]
def p256G : Nat × Nat :=
  (0x6b17d1f2e12c4247f8bce6e563a440f277037d812deb33a0f4a13945d898c296,
   0x4fe342e2fe1a7f9b8ee7eb4a7c0f9e162bce33576b315ececbb6406837bf51f5)

/-- A power modulo m, over the low `n` bits of the exponent. -/
def powMod (m : Nat) : Nat → Nat → Nat → Nat
  | 0, _, _ => 1 % m
  | n + 1, a, e =>
    let r := powMod m n (a * a % m) (e / 2)
    if e % 2 = 1 then r * a % m else r

/-- The inverse modulo a prime of 256 bits. -/
def invMod (m a : Nat) : Nat := powMod m 256 (a % m) (m - 2)

/-- The sum of two points of the curve; none is the point at infinity. -/
def p256Add (a b : Option (Nat × Nat)) : Option (Nat × Nat) :=
  let p := p256P
  match a, b with
  | none, x => x
  | x, none => x
  | some (x1, y1), some (x2, y2) =>
    if x1 = x2 ∧ (y1 + y2) % p = 0 then none
    else
      let l := if x1 = x2 then (3 * x1 * x1 + (p - 3)) * invMod p (2 * y1) % p
        else (y2 + p - y1) * invMod p (x2 + p - x1) % p
      let x := (l * l + 2 * p - x1 - x2) % p
      some (x, (l * (x1 + p - x) + p - y1) % p)

/-- A multiple of a point, over the low `n` bits of the scalar. -/
def p256Mul : Nat → Nat → Option (Nat × Nat) → Option (Nat × Nat)
  | 0, _, _ => none
  | n + 1, k, a =>
    let r := p256Mul n (k / 2) (p256Add a a)
    if k % 2 = 1 then p256Add a r else r

/-- A point lies on the curve. -/
def p256On (q : Nat × Nat) : Bool :=
  q.1 < p256P && q.2 < p256P && q.2 * q.2 % p256P == (q.1 * q.1 * q.1 + (p256P - 3) * q.1 + p256B) % p256P

/-- The verification of an ECDSA signature (r, s) over a digest with a public key. -/
def ecdsaVerify (q : Nat × Nat) (digest r s : Nat) : Bool :=
  let n := p256N
  let w := invMod n s
  p256On q && 1 ≤ r && r < n && 1 ≤ s && s < n &&
  (match p256Add (p256Mul 256 (digest * w % n) (some p256G)) (p256Mul 256 (r * w % n) (some q)) with
   | some p => p.1 % n == r
   | none => false)

/-- The ECDSA signature of a digest by a private key, with a secret number k below the order. -/
def ecdsaSign (key digest k : Nat) : Nat × Nat :=
  let n := p256N
  let r := match p256Mul 256 k (some p256G) with
    | some p => p.1 % n
    | none => 0
  (r, invMod n k * (digest + r * key) % n)

end Sys2Proof.Machine
end

