-- ==== Sys2Proof/Machine/LocalMem.lean ====
section
/-! DEFINITION. Local loads, stores, element accesses and atomics (R151 to R160), their completion, the
store queue and the full/empty wait table. -/

namespace Sys2Proof.Machine

/-- The data of a load, extended to its destination (R154). -/
def extend (data size : Nat) (sgn : Bool) : VWord :=
  if size = 16 then BitVec.ofNat 128 data
  else if sgn then v128 (BitVec.ofInt 64 (sextN data (8 * size))) else BitVec.ofNat 128 data

/-- The result of an atomic operation (R156): the new value from the old one, at 32 or 64 bits. -/
def amoNew (op : AmoOp) (wide : Bool) (old v cmp : Nat) : Nat :=
  let w := if wide then 64 else 32
  let m := 2 ^ w
  match op with
  | .add => (old + v) % m
  | .and => Nat.land old v
  | .or => Nat.lor old v
  | .xor => Nat.xor old v
  | .min => if sextN old w ≤ sextN v w then old else v
  | .max => if sextN v w ≤ sextN old w then old else v
  | .minu => Nat.min old v
  | .maxu => Nat.max old v
  | .swap => v
  | .cas => if old = cmp then v else old
  | .fadd => faddCode old v

/-- The value an atomic returns: the old one, sign-extended from 32 bits (R156, R179). -/
def amoOld (wide : Bool) (old : Nat) : VWord := extend old (if wide then 8 else 4) true

/-! Loads (R154). -/

/-- A load of R154 at issue: checks in their order, then pending. A .fe or .fec load stands in the order of its granule; one
that finds the granule full and unwaited waits for its bank alone (R158). -/
def localLoad (i : Instr) (scale size : Nat) (sgn : Bool) (act : FeAct) (off : Int) (vs : List VWord) (s : State) : State :=
  let base := arg vs 0
  match localAddr s base (off * scale) size size with
  | .error s => s
  | .ok addr =>
    withWatch s true false [(addr, size)] fun s =>
    withTags s (ptrKey base) [(addr, size)] fun s =>
    let once := feNow s addr size
    withGood s (act == .plain || once) addr [(addr, size)] fun s =>
    let kind := PendKind.loc (.load addr size sgn act) (ptrKey base)
    let id := s.nextId
    let s := addPend s i kind (inClocks s 4) none
    if act = .plain then s
    else
      s.updMyCore fun k =>
        { k with
          feTable := k.feTable ++ [(addr / 16, s.cur.slot, id)]
          feOnce := if once then k.feOnce ++ [id] else k.feOnce }

/-- LDS8 (R154). -/
def effLdS8 (d s1 : SOp) (off : BitVec 8) (la : BitVec 4) : List VWord → State → State :=
  localLoad (.ldS8 d s1 off la) 1 1 true .plain off.toInt

/-- LDS8 (R154). -/
def execLdS8 (d s1 : SOp) (off : BitVec 8) (la : BitVec 4) (s : State) : Host.Outcome State Fault Refusal :=
  issueOps (.ldS8 d s1 off la) (effLdS8 d s1 off la) s

/-- LDZ8 (R154). -/
def effLdZ8 (d s1 : SOp) (off : BitVec 8) (la : BitVec 4) : List VWord → State → State :=
  localLoad (.ldZ8 d s1 off la) 1 1 false .plain off.toInt

/-- LDZ8 (R154). -/
def execLdZ8 (d s1 : SOp) (off : BitVec 8) (la : BitVec 4) (s : State) : Host.Outcome State Fault Refusal :=
  issueOps (.ldZ8 d s1 off la) (effLdZ8 d s1 off la) s

/-- LDS16 (R154). -/
def effLdS16 (d s1 : SOp) (off : BitVec 8) (la : BitVec 4) : List VWord → State → State :=
  localLoad (.ldS16 d s1 off la) 2 2 true .plain off.toInt

/-- LDS16 (R154). -/
def execLdS16 (d s1 : SOp) (off : BitVec 8) (la : BitVec 4) (s : State) : Host.Outcome State Fault Refusal :=
  issueOps (.ldS16 d s1 off la) (effLdS16 d s1 off la) s

/-- LDZ16 (R154). -/
def effLdZ16 (d s1 : SOp) (off : BitVec 8) (la : BitVec 4) : List VWord → State → State :=
  localLoad (.ldZ16 d s1 off la) 2 2 false .plain off.toInt

/-- LDZ16 (R154). -/
def execLdZ16 (d s1 : SOp) (off : BitVec 8) (la : BitVec 4) (s : State) : Host.Outcome State Fault Refusal :=
  issueOps (.ldZ16 d s1 off la) (effLdZ16 d s1 off la) s

/-- LDS32 (R154). -/
def effLdS32 (d s1 : SOp) (off : BitVec 8) (la : BitVec 4) : List VWord → State → State :=
  localLoad (.ldS32 d s1 off la) 4 4 true .plain off.toInt

/-- LDS32 (R154). -/
def execLdS32 (d s1 : SOp) (off : BitVec 8) (la : BitVec 4) (s : State) : Host.Outcome State Fault Refusal :=
  issueOps (.ldS32 d s1 off la) (effLdS32 d s1 off la) s

/-- LDZ32 (R154). -/
def effLdZ32 (d s1 : SOp) (off : BitVec 8) (la : BitVec 4) : List VWord → State → State :=
  localLoad (.ldZ32 d s1 off la) 4 4 false .plain off.toInt

/-- LDZ32 (R154). -/
def execLdZ32 (d s1 : SOp) (off : BitVec 8) (la : BitVec 4) (s : State) : Host.Outcome State Fault Refusal :=
  issueOps (.ldZ32 d s1 off la) (effLdZ32 d s1 off la) s

/-- LD (R154). -/
def effLd (d s1 : SOp) (off : BitVec 8) (la : BitVec 4) : List VWord → State → State :=
  localLoad (.ld d s1 off la) 8 8 false .plain off.toInt

/-- LD (R154). -/
def execLd (d s1 : SOp) (off : BitVec 8) (la : BitVec 4) (s : State) : Host.Outcome State Fault Refusal :=
  issueOps (.ld d s1 off la) (effLd d s1 off la) s

/-- LDFE (R154). -/
def effLdFe (d s1 : SOp) (off : BitVec 8) (la : BitVec 4) : List VWord → State → State :=
  localLoad (.ldFe d s1 off la) 8 8 false .fe off.toInt

/-- LDFE (R154). -/
def execLdFe (d s1 : SOp) (off : BitVec 8) (la : BitVec 4) (s : State) : Host.Outcome State Fault Refusal :=
  issueOps (.ldFe d s1 off la) (effLdFe d s1 off la) s

/-- LDFEC (R154). -/
def effLdFec (d s1 : SOp) (off : BitVec 8) (la : BitVec 4) : List VWord → State → State :=
  localLoad (.ldFec d s1 off la) 8 8 false .fec off.toInt

/-- LDFEC (R154). -/
def execLdFec (d s1 : SOp) (off : BitVec 8) (la : BitVec 4) (s : State) : Host.Outcome State Fault Refusal :=
  issueOps (.ldFec d s1 off la) (effLdFec d s1 off la) s

/-- LDV (R154). -/
def effLdv (d : VOp) (s1 : SOp) (off : BitVec 8) (la : BitVec 4) : List VWord → State → State :=
  localLoad (.ldv d s1 off la) 16 16 false .plain off.toInt

/-- LDV (R154). -/
def execLdv (d : VOp) (s1 : SOp) (off : BitVec 8) (la : BitVec 4) (s : State) : Host.Outcome State Fault Refusal :=
  issueOps (.ldv d s1 off la) (effLdv d s1 off la) s

/-- LDVFE (R154). -/
def effLdvFe (d : VOp) (s1 : SOp) (off : BitVec 8) (la : BitVec 4) : List VWord → State → State :=
  localLoad (.ldvFe d s1 off la) 16 16 false .fe off.toInt

/-- LDVFE (R154). -/
def execLdvFe (d : VOp) (s1 : SOp) (off : BitVec 8) (la : BitVec 4) (s : State) : Host.Outcome State Fault Refusal :=
  issueOps (.ldvFe d s1 off la) (effLdvFe d s1 off la) s

/-- LDVFEC (R154). -/
def effLdvFec (d : VOp) (s1 : SOp) (off : BitVec 8) (la : BitVec 4) : List VWord → State → State :=
  localLoad (.ldvFec d s1 off la) 16 16 false .fec off.toInt

/-- LDVFEC (R154). -/
def execLdvFec (d : VOp) (s1 : SOp) (off : BitVec 8) (la : BitVec 4) (s : State) : Host.Outcome State Fault Refusal :=
  issueOps (.ldvFec d s1 off la) (effLdvFec d s1 off la) s

/-- LDS8 in its 64-bit form (R154). -/
def effLdS8Long (d s1 : SOp) (off : BitVec 16) (la : BitVec 4) : List VWord → State → State :=
  localLoad (.ldS8Long d s1 off la) 1 1 true .plain off.toInt

/-- LDS8 in its 64-bit form (R154). -/
def execLdS8Long (d s1 : SOp) (off : BitVec 16) (la : BitVec 4) (s : State) : Host.Outcome State Fault Refusal :=
  issueOps (.ldS8Long d s1 off la) (effLdS8Long d s1 off la) s

/-- LDZ8 in its 64-bit form (R154). -/
def effLdZ8Long (d s1 : SOp) (off : BitVec 16) (la : BitVec 4) : List VWord → State → State :=
  localLoad (.ldZ8Long d s1 off la) 1 1 false .plain off.toInt

/-- LDZ8 in its 64-bit form (R154). -/
def execLdZ8Long (d s1 : SOp) (off : BitVec 16) (la : BitVec 4) (s : State) : Host.Outcome State Fault Refusal :=
  issueOps (.ldZ8Long d s1 off la) (effLdZ8Long d s1 off la) s

/-- LDS16 in its 64-bit form (R154). -/
def effLdS16Long (d s1 : SOp) (off : BitVec 16) (la : BitVec 4) : List VWord → State → State :=
  localLoad (.ldS16Long d s1 off la) 1 2 true .plain off.toInt

/-- LDS16 in its 64-bit form (R154). -/
def execLdS16Long (d s1 : SOp) (off : BitVec 16) (la : BitVec 4) (s : State) : Host.Outcome State Fault Refusal :=
  issueOps (.ldS16Long d s1 off la) (effLdS16Long d s1 off la) s

/-- LDZ16 in its 64-bit form (R154). -/
def effLdZ16Long (d s1 : SOp) (off : BitVec 16) (la : BitVec 4) : List VWord → State → State :=
  localLoad (.ldZ16Long d s1 off la) 1 2 false .plain off.toInt

/-- LDZ16 in its 64-bit form (R154). -/
def execLdZ16Long (d s1 : SOp) (off : BitVec 16) (la : BitVec 4) (s : State) : Host.Outcome State Fault Refusal :=
  issueOps (.ldZ16Long d s1 off la) (effLdZ16Long d s1 off la) s

/-- LDS32 in its 64-bit form (R154). -/
def effLdS32Long (d s1 : SOp) (off : BitVec 16) (la : BitVec 4) : List VWord → State → State :=
  localLoad (.ldS32Long d s1 off la) 1 4 true .plain off.toInt

/-- LDS32 in its 64-bit form (R154). -/
def execLdS32Long (d s1 : SOp) (off : BitVec 16) (la : BitVec 4) (s : State) : Host.Outcome State Fault Refusal :=
  issueOps (.ldS32Long d s1 off la) (effLdS32Long d s1 off la) s

/-- LDZ32 in its 64-bit form (R154). -/
def effLdZ32Long (d s1 : SOp) (off : BitVec 16) (la : BitVec 4) : List VWord → State → State :=
  localLoad (.ldZ32Long d s1 off la) 1 4 false .plain off.toInt

/-- LDZ32 in its 64-bit form (R154). -/
def execLdZ32Long (d s1 : SOp) (off : BitVec 16) (la : BitVec 4) (s : State) : Host.Outcome State Fault Refusal :=
  issueOps (.ldZ32Long d s1 off la) (effLdZ32Long d s1 off la) s

/-- LD in its 64-bit form (R154). -/
def effLdLong (d s1 : SOp) (off : BitVec 16) (la : BitVec 4) : List VWord → State → State :=
  localLoad (.ldLong d s1 off la) 1 8 false .plain off.toInt

/-- LD in its 64-bit form (R154). -/
def execLdLong (d s1 : SOp) (off : BitVec 16) (la : BitVec 4) (s : State) : Host.Outcome State Fault Refusal :=
  issueOps (.ldLong d s1 off la) (effLdLong d s1 off la) s

/-- LDFE in its 64-bit form (R154). -/
def effLdFeLong (d s1 : SOp) (off : BitVec 16) (la : BitVec 4) : List VWord → State → State :=
  localLoad (.ldFeLong d s1 off la) 1 8 false .fe off.toInt

/-- LDFE in its 64-bit form (R154). -/
def execLdFeLong (d s1 : SOp) (off : BitVec 16) (la : BitVec 4) (s : State) : Host.Outcome State Fault Refusal :=
  issueOps (.ldFeLong d s1 off la) (effLdFeLong d s1 off la) s

/-- LDFEC in its 64-bit form (R154). -/
def effLdFecLong (d s1 : SOp) (off : BitVec 16) (la : BitVec 4) : List VWord → State → State :=
  localLoad (.ldFecLong d s1 off la) 1 8 false .fec off.toInt

/-- LDFEC in its 64-bit form (R154). -/
def execLdFecLong (d s1 : SOp) (off : BitVec 16) (la : BitVec 4) (s : State) : Host.Outcome State Fault Refusal :=
  issueOps (.ldFecLong d s1 off la) (effLdFecLong d s1 off la) s

/-- LDV in its 64-bit form (R154). -/
def effLdvLong (d : VOp) (s1 : SOp) (off : BitVec 16) (la : BitVec 4) : List VWord → State → State :=
  localLoad (.ldvLong d s1 off la) 1 16 false .plain off.toInt

/-- LDV in its 64-bit form (R154). -/
def execLdvLong (d : VOp) (s1 : SOp) (off : BitVec 16) (la : BitVec 4) (s : State) : Host.Outcome State Fault Refusal :=
  issueOps (.ldvLong d s1 off la) (effLdvLong d s1 off la) s

/-- LDVFE in its 64-bit form (R154). -/
def effLdvFeLong (d : VOp) (s1 : SOp) (off : BitVec 16) (la : BitVec 4) : List VWord → State → State :=
  localLoad (.ldvFeLong d s1 off la) 1 16 false .fe off.toInt

/-- LDVFE in its 64-bit form (R154). -/
def execLdvFeLong (d : VOp) (s1 : SOp) (off : BitVec 16) (la : BitVec 4) (s : State) : Host.Outcome State Fault Refusal :=
  issueOps (.ldvFeLong d s1 off la) (effLdvFeLong d s1 off la) s

/-- LDVFEC in its 64-bit form (R154). -/
def effLdvFecLong (d : VOp) (s1 : SOp) (off : BitVec 16) (la : BitVec 4) : List VWord → State → State :=
  localLoad (.ldvFecLong d s1 off la) 1 16 false .fec off.toInt

/-- LDVFEC in its 64-bit form (R154). -/
def execLdvFecLong (d : VOp) (s1 : SOp) (off : BitVec 16) (la : BitVec 4) (s : State) : Host.Outcome State Fault Refusal :=
  issueOps (.ldvFecLong d s1 off la) (effLdvFecLong d s1 off la) s

/-! Stores (R152, R154). -/

/-- A store enters the store queue and completes (R152). -/
def queueStore (s : State) (key : Nat) (act : StoreAct) : State :=
  let (id, s) := s.newId
  let e : StoreEnt := { id := id, slot := s.cur.slot, gen := s.me.gen, key := key, act := act, nbv2 := opVer s }
  s.updMyCore fun k => { k with storeQ := k.storeQ ++ [e] }

/-- A store of R154 at issue; the queue it enters performs it. -/
def localStore (scale size : Nat) (sf : Bool) (off : Int) (vs : List VWord) (s : State) : State :=
  let base := arg vs 0
  match localAddr s base (off * scale) size size with
  | .error s => s
  | .ok addr =>
    withWatch s false true [(addr, size)] fun s =>
    queueStore s (ptrKey base) (.bytes addr size (argV vs 1) sf)

/-- ST8 (R154). -/
def effSt8 (off : BitVec 12) : List VWord → State → State := localStore 1 1 false off.toInt

/-- ST8 (R154). -/
def execSt8 (data s1 : SOp) (off : BitVec 12) (s : State) : Host.Outcome State Fault Refusal :=
  issueOps (.st8 data s1 off) (effSt8 off) s

/-- ST16 (R154). -/
def effSt16 (off : BitVec 12) : List VWord → State → State := localStore 2 2 false off.toInt

/-- ST16 (R154). -/
def execSt16 (data s1 : SOp) (off : BitVec 12) (s : State) : Host.Outcome State Fault Refusal :=
  issueOps (.st16 data s1 off) (effSt16 off) s

/-- ST32 (R154). -/
def effSt32 (off : BitVec 12) : List VWord → State → State := localStore 4 4 false off.toInt

/-- ST32 (R154). -/
def execSt32 (data s1 : SOp) (off : BitVec 12) (s : State) : Host.Outcome State Fault Refusal :=
  issueOps (.st32 data s1 off) (effSt32 off) s

/-- ST (R154). -/
def effSt (off : BitVec 12) : List VWord → State → State := localStore 8 8 false off.toInt

/-- ST (R154). -/
def execSt (data s1 : SOp) (off : BitVec 12) (s : State) : Host.Outcome State Fault Refusal :=
  issueOps (.st data s1 off) (effSt off) s

/-- STSF (R154). -/
def effStSf (off : BitVec 12) : List VWord → State → State := localStore 8 8 true off.toInt

/-- STSF (R154). -/
def execStSf (data s1 : SOp) (off : BitVec 12) (s : State) : Host.Outcome State Fault Refusal :=
  issueOps (.stSf data s1 off) (effStSf off) s

/-- STV (R154). -/
def effStv (off : BitVec 12) : List VWord → State → State := localStore 16 16 false off.toInt

/-- STV (R154). -/
def execStv (data : VOp) (s1 : SOp) (off : BitVec 12) (s : State) : Host.Outcome State Fault Refusal :=
  issueOps (.stv data s1 off) (effStv off) s

/-- STVSF (R154). -/
def effStvSf (off : BitVec 12) : List VWord → State → State := localStore 16 16 true off.toInt

/-- STVSF (R154). -/
def execStvSf (data : VOp) (s1 : SOp) (off : BitVec 12) (s : State) : Host.Outcome State Fault Refusal :=
  issueOps (.stvSf data s1 off) (effStvSf off) s

/-- ST8 in its 64-bit form (R154). -/
def effSt8Long (off : BitVec 16) : List VWord → State → State := localStore 1 1 false off.toInt

/-- ST8 in its 64-bit form (R154). -/
def execSt8Long (data s1 : SOp) (off : BitVec 16) (s : State) : Host.Outcome State Fault Refusal :=
  issueOps (.st8Long data s1 off) (effSt8Long off) s

/-- ST16 in its 64-bit form (R154). -/
def effSt16Long (off : BitVec 16) : List VWord → State → State := localStore 1 2 false off.toInt

/-- ST16 in its 64-bit form (R154). -/
def execSt16Long (data s1 : SOp) (off : BitVec 16) (s : State) : Host.Outcome State Fault Refusal :=
  issueOps (.st16Long data s1 off) (effSt16Long off) s

/-- ST32 in its 64-bit form (R154). -/
def effSt32Long (off : BitVec 16) : List VWord → State → State := localStore 1 4 false off.toInt

/-- ST32 in its 64-bit form (R154). -/
def execSt32Long (data s1 : SOp) (off : BitVec 16) (s : State) : Host.Outcome State Fault Refusal :=
  issueOps (.st32Long data s1 off) (effSt32Long off) s

/-- ST in its 64-bit form (R154). -/
def effStLong (off : BitVec 16) : List VWord → State → State := localStore 1 8 false off.toInt

/-- ST in its 64-bit form (R154). -/
def execStLong (data s1 : SOp) (off : BitVec 16) (s : State) : Host.Outcome State Fault Refusal :=
  issueOps (.stLong data s1 off) (effStLong off) s

/-- STSF in its 64-bit form (R154). -/
def effStSfLong (off : BitVec 16) : List VWord → State → State := localStore 1 8 true off.toInt

/-- STSF in its 64-bit form (R154). -/
def execStSfLong (data s1 : SOp) (off : BitVec 16) (s : State) : Host.Outcome State Fault Refusal :=
  issueOps (.stSfLong data s1 off) (effStSfLong off) s

/-- STV in its 64-bit form (R154). -/
def effStvLong (off : BitVec 16) : List VWord → State → State := localStore 1 16 false off.toInt

/-- STV in its 64-bit form (R154). -/
def execStvLong (data : VOp) (s1 : SOp) (off : BitVec 16) (s : State) : Host.Outcome State Fault Refusal :=
  issueOps (.stvLong data s1 off) (effStvLong off) s

/-- STVSF in its 64-bit form (R154). -/
def effStvSfLong (off : BitVec 16) : List VWord → State → State := localStore 1 16 true off.toInt

/-- STVSF in its 64-bit form (R154). -/
def execStvSfLong (data : VOp) (s1 : SOp) (off : BitVec 16) (s : State) : Host.Outcome State Fault Refusal :=
  issueOps (.stvSfLong data s1 off) (effStvSfLong off) s

/-! Elements (R155). -/

/-- Where element and metadata of an access lie, after the checks of R155 in their order. -/
def elementAt (s : State) (p : Word) (index : Nat) : Except State (EFmt × ELoc) :=
  match ptrE p with
  | none => .error (trapHere s .formatInvalid p)
  | some e =>
    if ptrAddr p % e.align ≠ 0 then .error (trapHere s .misaligned p)
    else
      let l := elementLoc e (ptrBlog p) (ptrAddr p) index
      match localAddr s 0 l.byte l.size l.size with
      | .error s => .error s
      | .ok _ =>
        match l.metaAt with
        | none => .ok (e, l)
        | some m =>
          match localAddr s 0 m e.meta e.meta with
          | .error s => .error s
          | .ok _ => .ok (e, l)

/-- The bytes of an element and its metadata, as pieces. -/
def elementPieces (e : EFmt) (l : ELoc) : List (Nat × Nat) :=
  match l.metaAt with
  | none => [(l.byte, l.size)]
  | some m => [(l.byte, l.size), (m, e.meta)]

/-- The code of an element read from a memory, and its metadata. -/
def elementCode (m : Memory) (e : EFmt) (l : ELoc) : Nat × Nat :=
  (memNat m l.byte l.size / 2 ^ l.bit % 2 ^ e.width, match l.metaAt with
    | none => 0
    | some a => memNat m a e.meta)

/-- The register value of a decoded element (R155). -/
def elementValue (e : EFmt) (code metab : Nat) : VWord :=
  match e.decode code metab with
  | .i x => v128 (iw x)
  | .f v => BitVec.ofNat 128 (FFmt.fp32.ne v)
where
  iw (x : Int) : Word := BitVec.ofInt 64 x

/-- LDE (R155) at issue. -/
def effLde (d s1 s2 : SOp) (la : BitVec 4) (vs : List VWord) (s : State) : State :=
  let p := arg vs 0
  let index := (arg vs 1).toNat
  match elementAt s p index with
  | .error s => s
  | .ok (e, l) =>
    withWatch s true false (elementPieces e l) fun s =>
    withTags s (ptrKey p) (elementPieces e l) fun s =>
    withGood s true l.byte (elementPieces e l) fun s =>
    addPend s (.lde d s1 s2 la) (.loc (.lde p index) (ptrKey p)) (inClocks s 5) none

/-- LDE (R155). -/
def execLde (d s1 s2 : SOp) (la : BitVec 4) (s : State) : Host.Outcome State Fault Refusal :=
  issueOps (.lde d s1 s2 la) (effLde d s1 s2 la) s

/-- STE (R155) at issue: its work is done at the bank. -/
def effSte (vs : List VWord) (s : State) : State :=
  let p := arg vs 0
  let index := (arg vs 1).toNat
  match elementAt s p index with
  | .error s => s
  | .ok (e, l) =>
    withWatch s false true (elementPieces e l) fun s =>
    queueStore s (ptrKey p) (.elem p index (arg vs 2))

/-- STE (R155). -/
def execSte (data s1 s2 : SOp) (s : State) : Host.Outcome State Fault Refusal :=
  issueOps (.ste data s1 s2) effSte s

/-! Atomics (R156). -/

/-- AMO (R156) at issue. -/
def effAmo (op : AmoOp) (wide : Bool) (d s1 s2 s3 : SOp) (off : BitVec 16) (la : BitVec 4) (vs : List VWord)
    (s : State) : State :=
  let base := arg vs 0
  let size := if wide then 8 else 4
  match localAddr s base off.toInt size size with
  | .error s => s
  | .ok addr =>
    withWatch s true true [(addr, size)] fun s =>
    withTags s (ptrKey base) [(addr, size)] fun s =>
    withGood s true addr [(addr, size)] fun s =>
    let v := wordOf ((arg vs 1).toNat % 2 ^ (8 * size))
    let cmp := wordOf ((arg vs 2).toNat % 2 ^ (8 * size))
    addPend s (.amo op wide d s1 s2 s3 off la) (.loc (.amo op wide addr v cmp) (ptrKey base)) (inClocks s 6) none

/-- AMO (R156). -/
def execAmo (op : AmoOp) (wide : Bool) (d s1 s2 s3 : SOp) (off : BitVec 16) (la : BitVec 4) (s : State) :
    Host.Outcome State Fault Refusal :=
  issueOps (.amo op wide d s1 s2 s3 off la) (effAmo op wide d s1 s2 s3 off la) s

/-! Performance at the banks. -/

/-- The bytes a pending local access touches. -/
def accPieces : LocalAcc → List (Nat × Nat)
  | .load a n _ _ => [(a, n)]
  | .lde p index =>
    match ptrE p with
    | none => []
    | some e => elementPieces e (elementLoc e (ptrBlog p) (ptrAddr p) index)
  | .amo _ wide a _ _ => [(a, if wide then 8 else 4)]

/-- A pending local access can be performed now, the grant of its banks apart (R152, R170, R203). -/
def accDue (s : State) (c t : Nat) (p : Pend) (a : LocalAcc) : Bool :=
  !earlierLocal s c t p.id true && (accPieces a).all fun q => !wmBlocks (s.core c) none q.1 q.2

/-- A pending local access is performed now: its banks grant it (R144). -/
def accReady (s : State) (c t : Nat) (p : Pend) (a : LocalAcc) : Bool :=
  accDue s c t p a && granted (s.core c) 0 (accPieces a)

/-- Perform a pending local access at its bank: its outcome, and the bank afterwards. -/
def performAcc (s : State) (c : Nat) (a : LocalAcc) : PendRes × State :=
  let (ok, s) := (accPieces a).foldl (fun (r : Bool × State) q =>
    let (ok, s) := spadCheck r.2 c q.1 q.2
    (r.1 && ok, s)) (true, takeBanks s c 0 (accPieces a))
  let m := (s.core c).spad
  match a with
  | .load addr size sgn act =>
    if !ok then (.fault Cause.uncorrectable.code (wordOf addr) .plain, s)
    else
      let v := extend (memNat m addr size) size sgn
      (.value v, if act = .fec then setEmpty s c (addr / 16) else s)
  | .lde p index =>
    match ptrE p with
    | none => (.unchanged, s)
    | some e =>
      let l := elementLoc e (ptrBlog p) (ptrAddr p) index
      if !ok then (.fault Cause.uncorrectable.code (wordOf l.byte) .plain, s)
      else
        let (code, metab) := elementCode m e l
        (.value (elementValue e code metab), s)
  | .amo op wide addr v cmp =>
    if !ok then (.fault Cause.uncorrectable.code (wordOf addr) .plain, s)
    else
      let n := if wide then 8 else 4
      let old := memNat m addr n
      (.value (amoOld wide old), spadWrite s c addr (natBytes n (amoNew op wide old v.toNat cmp.toNat)))

/-- An outcome of a local access: data, or uncorrectable data delivered at the instruction (R338). -/
def finishAcc (s : State) (c t : Nat) (p : Pend) (r : PendRes) : State :=
  match r with
  | .fault cause value note =>
    raiseFault (dropPend s c t p.id) c t { cause := cause, value := value, pc := p.pc, note := note, fault := some (s.clk c, p.id) }
  | r =>
    let s := setPendRes s c t p.id r
    match findPend (s.ctx c t) p.id with
    | some q => if pendReady s c t q then completePend s c t q r else s
    | none => s

/-- LOCAL_LOAD_COMPLETE (R152, R154 to R156): the load, element load or atomic `cur` names is performed and
completes; a push that found no room is tried again. R154 gives the clocks to completion and not the one in which the bytes are read:
a plain load, an element load and an atomic ask for their banks and read them in their completion clock, a .fe load in the clock
after its issue (log entry 31, DESIGN CHOICE). -/
def execLocalLoadComplete (s : State) : Host.Outcome State Fault Refusal :=
  let c := s.cur.core
  let t := s.cur.slot
  match findPend s.me s.cur.id with
  | none => .refused .notEnabled
  | some p =>
    match p.kind, p.res with
    | .loc _ _, some r => event (pendReady s c t p) (completePend s c t p r)
    | .loc a _, none =>
      if p.due ≤ s.clk c && accReady s c t p a && s.myCore.feTable.all (fun e => e.2.2 != p.id) then
        let (r, s) := performAcc s c a
        .next (finishAcc s c t p r)
      else .refused .notEnabled
    | _, _ => .refused .notEnabled

/-- The first entry of a granule in the wait table (R159). -/
def feHead (k : Core) (g : Nat) : Option (Nat × Nat × Nat) := k.feTable.find? fun e => e.1 == g

/-- The load of a wait-table entry that can be performed (R159): the head entry of a full granule. -/
def feServed (s : State) (c t : Nat) (p : Pend) : Option LocalAcc :=
  match p.kind with
  | .loc (.load addr size sgn act) _ =>
    let g := addr / 16
    if isFull (s.core c) g && feHead (s.core c) g == some (g, t, p.id) && accDue s c t p (.load addr size sgn act) then
      some (.load addr size sgn act)
    else none
  | _ => none

/-- FULL_EMPTY_SERVE (R159): the head entry of a full granule is performed and leaves the table. It completes three clocks later,
as one that is served in the clock behind its issue completes after four: each clock it has waited adds one (R152). -/
def execFullEmptyServe (s : State) : Host.Outcome State Fault Refusal :=
  let c := s.cur.core
  let t := s.cur.slot
  match findPend s.me s.cur.id with
  | none => .refused .notEnabled
  | some p =>
    match feServed s c t p with
    | some a =>
      if granted s.myCore 0 (accPieces a) then
        let (r, s) := performAcc s c a
        let s := s.updCore c fun k =>
          { k with feTable := k.feTable.filter fun e => e.2.2 != p.id, feOnce := k.feOnce.filter (· != p.id) }
        .next (match r with
          | .fault _ _ _ => finishAcc s c t p r
          | r => s.updCtx c t fun x =>
            { x with pend := updWhere (·.id == p.id) (fun q => { q with res := some r, due := s.clk c + 3 }) x.pend })
      else .refused .notEnabled
    | none => .refused .notEnabled

/-- The store at the head of the queue can be performed, the grant of its banks apart (R152, R170, R203). -/
def storeDue (s : State) (c : Nat) (e : StoreEnt) (pieces : List (Nat × Nat)) : Bool :=
  !((s.ctx c e.slot).gen == e.gen && earlierLocal s c e.slot e.id false) &&
  pieces.all fun q => !wmBlocks (s.core c) none q.1 q.2

/-- The store at the head of the queue is performed: its banks grant it (R144). -/
def storeReady (s : State) (c : Nat) (e : StoreEnt) (pieces : List (Nat × Nat)) : Bool :=
  storeDue s c e pieces && granted (s.core c) 0 pieces

/-- The bytes a queued store touches. -/
def storePieces (e : StoreEnt) : List (Nat × Nat) :=
  match e.act with
  | .bytes a n _ _ => [(a, n)]
  | .elem p index _ => accPieces (.lde p index)

/-- The store leaves the queue and takes its banks. -/
def popStore (s : State) (c : Nat) (ps : List (Nat × Nat)) : State :=
  (takeBanks s c 0 ps).updCore c fun k => { k with storeQ := k.storeQ.drop 1 }

/-- STORE_PERFORM (R154): the head of the store queue of a core is performed at its bank. -/
def execStorePerform (s : State) : Host.Outcome State Fault Refusal :=
  let c := s.cur.core
  match (s.core c).storeQ with
  | [] => .refused .notEnabled
  | e :: _ =>
    match e.act with
    | .elem _ _ _ => .refused .notEnabled
    | .bytes addr size data sf =>
      if storeReady s c e [(addr, size)] then
        let s := popStore s c [(addr, size)]
        match tagFail (s.core c) e.key addr size with
        | some a => .next (queueTag s c e.slot e.gen { addr := addr, detail := tagDetail (s.core c) a 0 e.key })
        | none =>
          let (ok, s) := if size < 8 then spadCheck s c addr size else (true, s)
          if !ok then
            .next (queueFail s c e.slot e.gen { cause := Cause.uncorrectable.code, value := wordOf addr })
          else
            let s := spadWrite s c addr (natBytes size data.toNat)
            .next (if sf then setFull s c (addr / 16) else s)
      else .refused .notEnabled

/-- The value an STE encodes (R155): an integer for integer formats, else the FP32 value of xs[31:0]. -/
def steValue (e : EFmt) (v : Word) : EVal :=
  match e with
  | .int _ => .i v.toInt
  | _ => .f (FFmt.fp32.decode (v.toNat % 2 ^ 32))

/-- STE_PERFORM (R155): the element store at the head of the store queue reads its metadata, encodes its
value, writes its byte or nibble and sets its flags. -/
def execStePerform (s : State) : Host.Outcome State Fault Refusal :=
  let c := s.cur.core
  match (s.core c).storeQ with
  | [] => .refused .notEnabled
  | e :: _ =>
    match e.act with
    | .bytes _ _ _ _ => .refused .notEnabled
    | .elem p index v =>
      if storeReady s c e (storePieces e) then
        let s := popStore s c (storePieces e)
        match ptrE p with
        | none => .next s
        | some f =>
          let l := elementLoc f (ptrBlog p) (ptrAddr p) index
          match (elementPieces f l).findSome? fun q => tagFail (s.core c) e.key q.1 q.2 with
          | some a => .next (queueTag s c e.slot e.gen { addr := a, detail := tagDetail (s.core c) a 0 e.key })
          | none =>
            let (ok, s) := (elementPieces f l).foldl (fun (r : Bool × State) q =>
              let (ok, s) := if q.2 < 8 then spadCheck r.2 c q.1 q.2 else (true, r.2)
              (r.1 && ok, s)) (true, s)
            if !ok then
              .next (queueFail s c e.slot e.gen { cause := Cause.uncorrectable.code, value := wordOf l.byte })
            else
              let m := (s.core c).spad
              let metab := (elementCode m f l).2
              let (code, fl) := f.encode metab (!e.nbv2) (steValue f v)
              let old := memNat m l.byte l.size
              let new := old - old / 2 ^ l.bit % 2 ^ f.width * 2 ^ l.bit + code % 2 ^ f.width * 2 ^ l.bit
              let s := spadWrite s c l.byte (natBytes l.size new)
              .next (if sameCtx s c e.slot e.gen then orFp s c e.slot fl else s)
      else .refused .notEnabled

end Sys2Proof.Machine
end

