-- ==== Sys2Proof/Machine/Remote.lean ====
section
/-! DEFINITION. Remote stores, loads and atomics (R172 to R182): their issue, the homes where messages are
performed (R173 to R175, R180, R360, R361), the replies, and the words of link queues (R187). -/

namespace Sys2Proof.Machine

/-! Issue (R176 to R181). -/

/-- The statuses of R196 that a home answers with. -/
def stTag : Nat := 0x07
def stAbsent : Nat := 0x08
def stUncorrectable : Nat := 0x09

/-- The accesses a flag entry admits (R180). -/
def flagPermits : Instr → Bool
  | .rld _ _ _ _ | .rst _ _ _ _ => true
  | .ramo .add true _ _ _ _ _ | .ramor .add true _ _ _ _ _ => true
  | _ => false

/-- Where a remote access goes, or what becomes of the instruction instead (R173, R176). -/
inductive HomeRes where
  | ok (h : Home)
  | trap (s : State)
  | walk
  | waiting

/-- A fabric address of kind 1 that lies in the flag part of a core's window (R359). -/
def fabricFlag (fpa : Nat) : Bool :=
  fpa / 2 ^ 42 % 2 ^ 9 != 0x1FF && fpa / 2 ^ 40 % 4 == 1 && 0x80000 ≤ fpa % 2 ^ 20 && fpa % 2 ^ 20 < 0x80800

/-- The home of a checked remote address; a flag entry of another package's core admits what a local one does (R180, R360). -/
def remoteHome (s : State) (i : Instr) (a : Nat) (k : XKind) : HomeRes :=
  let c := s.cur.core
  let flag (core off : Nat) : HomeRes :=
    if flagPermits i then .ok (.flagw core (off / 8)) else .trap (trapXlate s a 3 0 k.num)
  let peer (f : Nat → Nat → HomeRes) : HomeRes :=
    match peerCore s (coreJob s c) a with
    | none => .trap (trapXlate s a 6 0 k.num)
    | some (d, off) => f d off
  match regionOf a with
  | .spad => .ok (.spad c a)
  | .flagw => flag c (a - 0x80000)
  | .peerSpad _ => peer fun d off => .ok (.spad d off)
  | .peerFlag _ => peer fun d off => flag d (off - 0x80000)
  | .unassigned _ | .peerHole _ => .trap (trapXlate s a 7 0 3)
  | r =>
    if !regionOn s r then .trap (trapXlate s a 7 0 3)
    else if r = .host ∧ k = .atomic then .trap (trapXlate s a 3 0 2)
    else
      match xlate s a k with
      | .ok pa => match r with
        | .device => .ok (.hbm pa)
        | .host => .ok (.host pa)
        | _ => if fabricFlag pa && !flagPermits i then .trap (trapXlate s a 3 0 k.num) else .ok (.fabric pa)
      | .fail reason level => .trap (trapXlate s a reason level k.num)
      | .missing => .walk
      | .waiting => .waiting

/-- The place 8 bytes above a home. -/
def Home.up8 : Home → Home
  | .spad d o => .spad d (o + 8)
  | .hbm p => .hbm (p + 8)
  | .host p => .host (p + 8)
  | .fabric p => .fabric (p + 8)
  | h => h

/-- The messages of a remote instruction to its home: an RSTV or RLDV is two halves (R178, R202). -/
def remoteMsgs (i : Instr) (s : State) (vs : List VWord) (a pid : Nat) (h : Home) : List Msg :=
  let c := s.cur.core
  let m (act : MsgAct) (flag : Option Nat) : Msg :=
    { issuer := .ctx c s.cur.slot s.me.gen pid, act := act, home := h, va := a, key := ptrKey (arg vs 0), flag := flag
      launch := coreLaunch s c, job := coreJob s c }
  let data := (argV vs 1).toNat
  let st (n : Nat) (f : BitVec 8) : List Msg := [m (.store (natBytes n data)) (some f.toNat)]
  let amo (op : AmoOp) (wide returns : Bool) : MsgAct :=
    let n := if wide then 8 else 4
    .atomic op wide (wordOf (data % 2 ^ (8 * n))) (wordOf ((argV vs 2).toNat % 2 ^ (8 * n))) returns
  let ld (n : Nat) (sgn : Bool) : List Msg := [m (.load n sgn) none]
  match i with
  | .rst8 _ _ f _ => st 1 f
  | .rst16 _ _ f _ => st 2 f
  | .rst32 _ _ f _ => st 4 f
  | .rst _ _ f _ => st 8 f
  | .rstv _ _ f _ =>
    [m (.store (natBytes 8 data)) (some f.toNat),
     { m (.store (natBytes 8 (data / 2 ^ 64))) (some f.toNat) with home := h.up8, va := a + 8, elem := 8 }]
  | .rldS8 _ _ _ _ => ld 1 true
  | .rldZ8 _ _ _ _ => ld 1 false
  | .rldS16 _ _ _ _ => ld 2 true
  | .rldZ16 _ _ _ _ => ld 2 false
  | .rldS32 _ _ _ _ => ld 4 true
  | .rldZ32 _ _ _ _ => ld 4 false
  | .rld _ _ _ _ => ld 8 false
  | .rldv _ _ _ _ => ld 8 false ++ [{ m (.load 8 false) none with home := h.up8, va := a + 8, elem := 8 }]
  | .ramo op wide _ _ _ f _ => [m (amo op wide false) (some f.toNat)]
  | .ramor op wide _ _ _ _ _ => [m (amo op wide true) none]
  | _ => []

/-- The outbound unit of a core has accepted no remote instruction in this clock (R172). -/
def outOpen (s : State) (c : Nat) : Bool := (s.core c).outAt != s.clk c + 1

/-- It accepts one. -/
def takeOut (s : State) (c : Nat) : State := s.updCore c fun k => { k with outAt := s.clk c + 1 }

/-- Send several messages. -/
def sendAll (s : State) (ms : List Msg) : State := ms.foldl (fun s m => (sendMsg s m).2) s

/-- The checks of R176, then the instruction is pending: a posted one until its hand-off, a load or returning
atomic until its reply. An address that needs a walk after its base came from a port waits for it, and then for a clock in
which the outbound unit accepts it and has an entry for it (R172). -/
def effRemote (i : Instr) (vs : List VWord) (s : State) : State :=
  match remoteOf i with
  | none => s
  | some (_, off, size, k) =>
    let a : Int := (ptrAddr (arg vs 0) : Int) + off
    match trapRegion s (regionCheck a (a + size - 1)) with
    | some s => s
    | none =>
      let n := a.toNat
      if n % size ≠ 0 then trapHere s .misaligned (wordOf n)
      else
        match remoteHome s i n k with
        | .trap s => s
        | .walk => stay (startWalk s n k) 1 0
        | .waiting => stay s 1 0
        | .ok h =>
          let s := endWalk s
          let ms := remoteMsgs i s vs n s.nextId h
          if posted i then doneOps (addPend s i (.posted ms) 0 none)
          else if !outOpen s s.cur.core || !unitFree i s then stay s 1 0
          else doneOps (sendAll (addPend (takeOut s s.cur.core) i (.remote []) 0 none) ms)

/-- A remote instruction whose address waits for a walk tests again. -/
def contRemote (i : Instr) (b : Blk) (s : State) : State := effRemote i b.held s

/-- RST8 (R178). -/
def effRst8 (s2 s1 : SOp) (flag : BitVec 8) (la : BitVec 4) : List VWord → State → State :=
  effRemote (.rst8 s2 s1 flag la)

/-- RST8 (R178). -/
def execRst8 (s2 s1 : SOp) (flag : BitVec 8) (la : BitVec 4) (s : State) :
    Host.Outcome State Fault Refusal :=
  waitOps (.rst8 s2 s1 flag la) (effRst8 s2 s1 flag la) (contRemote (.rst8 s2 s1 flag la)) s

/-- RST16 (R178). -/
def effRst16 (s2 s1 : SOp) (flag : BitVec 8) (la : BitVec 4) : List VWord → State → State :=
  effRemote (.rst16 s2 s1 flag la)

/-- RST16 (R178). -/
def execRst16 (s2 s1 : SOp) (flag : BitVec 8) (la : BitVec 4) (s : State) :
    Host.Outcome State Fault Refusal :=
  waitOps (.rst16 s2 s1 flag la) (effRst16 s2 s1 flag la) (contRemote (.rst16 s2 s1 flag la)) s

/-- RST32 (R178). -/
def effRst32 (s2 s1 : SOp) (flag : BitVec 8) (la : BitVec 4) : List VWord → State → State :=
  effRemote (.rst32 s2 s1 flag la)

/-- RST32 (R178). -/
def execRst32 (s2 s1 : SOp) (flag : BitVec 8) (la : BitVec 4) (s : State) :
    Host.Outcome State Fault Refusal :=
  waitOps (.rst32 s2 s1 flag la) (effRst32 s2 s1 flag la) (contRemote (.rst32 s2 s1 flag la)) s

/-- RST (R178). -/
def effRst (s2 s1 : SOp) (flag : BitVec 8) (la : BitVec 4) : List VWord → State → State :=
  effRemote (.rst s2 s1 flag la)

/-- RST (R178). -/
def execRst (s2 s1 : SOp) (flag : BitVec 8) (la : BitVec 4) (s : State) :
    Host.Outcome State Fault Refusal :=
  waitOps (.rst s2 s1 flag la) (effRst s2 s1 flag la) (contRemote (.rst s2 s1 flag la)) s

/-- RSTV (R178). -/
def effRstv (s2 : VOp) (s1 : SOp) (flag : BitVec 8) (la : BitVec 4) : List VWord → State → State :=
  effRemote (.rstv s2 s1 flag la)

/-- RSTV (R178). -/
def execRstv (s2 : VOp) (s1 : SOp) (flag : BitVec 8) (la : BitVec 4) (s : State) :
    Host.Outcome State Fault Refusal :=
  waitOps (.rstv s2 s1 flag la) (effRstv s2 s1 flag la) (contRemote (.rstv s2 s1 flag la)) s

/-- RLDS8 (R181). -/
def effRldS8 (d s1 : SOp) (off : BitVec 16) (la : BitVec 4) : List VWord → State → State :=
  effRemote (.rldS8 d s1 off la)

/-- RLDS8 (R181). -/
def execRldS8 (d s1 : SOp) (off : BitVec 16) (la : BitVec 4) (s : State) :
    Host.Outcome State Fault Refusal :=
  waitOps (.rldS8 d s1 off la) (effRldS8 d s1 off la) (contRemote (.rldS8 d s1 off la)) s

/-- RLDZ8 (R181). -/
def effRldZ8 (d s1 : SOp) (off : BitVec 16) (la : BitVec 4) : List VWord → State → State :=
  effRemote (.rldZ8 d s1 off la)

/-- RLDZ8 (R181). -/
def execRldZ8 (d s1 : SOp) (off : BitVec 16) (la : BitVec 4) (s : State) :
    Host.Outcome State Fault Refusal :=
  waitOps (.rldZ8 d s1 off la) (effRldZ8 d s1 off la) (contRemote (.rldZ8 d s1 off la)) s

/-- RLDS16 (R181). -/
def effRldS16 (d s1 : SOp) (off : BitVec 16) (la : BitVec 4) : List VWord → State → State :=
  effRemote (.rldS16 d s1 off la)

/-- RLDS16 (R181). -/
def execRldS16 (d s1 : SOp) (off : BitVec 16) (la : BitVec 4) (s : State) :
    Host.Outcome State Fault Refusal :=
  waitOps (.rldS16 d s1 off la) (effRldS16 d s1 off la) (contRemote (.rldS16 d s1 off la)) s

/-- RLDZ16 (R181). -/
def effRldZ16 (d s1 : SOp) (off : BitVec 16) (la : BitVec 4) : List VWord → State → State :=
  effRemote (.rldZ16 d s1 off la)

/-- RLDZ16 (R181). -/
def execRldZ16 (d s1 : SOp) (off : BitVec 16) (la : BitVec 4) (s : State) :
    Host.Outcome State Fault Refusal :=
  waitOps (.rldZ16 d s1 off la) (effRldZ16 d s1 off la) (contRemote (.rldZ16 d s1 off la)) s

/-- RLDS32 (R181). -/
def effRldS32 (d s1 : SOp) (off : BitVec 16) (la : BitVec 4) : List VWord → State → State :=
  effRemote (.rldS32 d s1 off la)

/-- RLDS32 (R181). -/
def execRldS32 (d s1 : SOp) (off : BitVec 16) (la : BitVec 4) (s : State) :
    Host.Outcome State Fault Refusal :=
  waitOps (.rldS32 d s1 off la) (effRldS32 d s1 off la) (contRemote (.rldS32 d s1 off la)) s

/-- RLDZ32 (R181). -/
def effRldZ32 (d s1 : SOp) (off : BitVec 16) (la : BitVec 4) : List VWord → State → State :=
  effRemote (.rldZ32 d s1 off la)

/-- RLDZ32 (R181). -/
def execRldZ32 (d s1 : SOp) (off : BitVec 16) (la : BitVec 4) (s : State) :
    Host.Outcome State Fault Refusal :=
  waitOps (.rldZ32 d s1 off la) (effRldZ32 d s1 off la) (contRemote (.rldZ32 d s1 off la)) s

/-- RLD (R181). -/
def effRld (d s1 : SOp) (off : BitVec 16) (la : BitVec 4) : List VWord → State → State :=
  effRemote (.rld d s1 off la)

/-- RLD (R181). -/
def execRld (d s1 : SOp) (off : BitVec 16) (la : BitVec 4) (s : State) :
    Host.Outcome State Fault Refusal :=
  waitOps (.rld d s1 off la) (effRld d s1 off la) (contRemote (.rld d s1 off la)) s

/-- RLDV (R181). -/
def effRldv (d : VOp) (s1 : SOp) (off : BitVec 16) (la : BitVec 4) : List VWord → State → State :=
  effRemote (.rldv d s1 off la)

/-- RLDV (R181). -/
def execRldv (d : VOp) (s1 : SOp) (off : BitVec 16) (la : BitVec 4) (s : State) :
    Host.Outcome State Fault Refusal :=
  waitOps (.rldv d s1 off la) (effRldv d s1 off la) (contRemote (.rldv d s1 off la)) s

/-- RAMO (R179). -/
def effRamo (op : AmoOp) (wide : Bool) (s1 s2 s3 : SOp) (flag : BitVec 8) (la : BitVec 4) : List VWord → State → State :=
  effRemote (.ramo op wide s1 s2 s3 flag la)

/-- RAMO (R179). -/
def execRamo (op : AmoOp) (wide : Bool) (s1 s2 s3 : SOp) (flag : BitVec 8) (la : BitVec 4) (s : State) :
    Host.Outcome State Fault Refusal :=
  waitOps (.ramo op wide s1 s2 s3 flag la) (effRamo op wide s1 s2 s3 flag la) (contRemote (.ramo op wide s1 s2 s3 flag la)) s

/-- RAMOR (R179). -/
def effRamor (op : AmoOp) (wide : Bool) (d s1 s2 s3 : SOp) (la : BitVec 4) : List VWord → State → State :=
  effRemote (.ramor op wide d s1 s2 s3 la)

/-- RAMOR (R179). -/
def execRamor (op : AmoOp) (wide : Bool) (d s1 s2 s3 : SOp) (la : BitVec 4) (s : State) :
    Host.Outcome State Fault Refusal :=
  waitOps (.ramor op wide d s1 s2 s3 la) (effRamor op wide d s1 s2 s3 la) (contRemote (.ramor op wide d s1 s2 s3 la)) s

/-! The hand-off (R172, R178). -/

/-- A posted action: its issuer waits for no value. -/
def MsgAct.posted : MsgAct → Bool
  | .store _ | .nibble _ _ | .flagSub _ | .meet _ _ | .reject _ _ | .tkput _ _ | .mdef _ _ _ _ => true
  | .atomic _ _ _ _ returns => !returns
  | .load _ _ | .tkget _ _ _ | .meetr _ => false

/-- The posted operations the outbound unit of a core holds (R172): one per instruction. -/
def outboundPosted (s : State) (c : Nat) : List Nat :=
  (s.msgs.filterMap fun p => match p.2.issuer with
    | .ctx c' _ _ pend => if c' = c ∧ p.2.act.posted then some pend else none
    | _ => none).dedup

/-- POSTED_HANDOFF (R172, R178): the outbound unit takes the address and data. -/
def execPostedHandoff (s : State) : Host.Outcome State Fault Refusal :=
  let c := s.cur.core
  match findPend s.me s.cur.id with
  | none => .refused .notEnabled
  | some p =>
    match p.kind with
    | .posted ms =>
      event ((outboundPosted s c).length < 16 && outOpen s c) (sendAll (dropPend (takeOut s c) c s.cur.slot p.id) ms)
    | _ => .refused .notEnabled

/-! Homes. -/

/-- The context that answers for a message (R163). -/
def Issuer.owner : Issuer → Option (Nat × Nat × Nat)
  | .ctx c t g _ | .chan c _ t g | .arr c _ t g | .coll c t g => some (c, t, g)
  | _ => none

/-- The SOURCE of a message in TAGREP (R167). -/
def Issuer.source : Issuer → Nat
  | .chan _ _ _ _ => 2
  | .arr _ _ _ _ => 3
  | .coll _ _ _ => 4
  | _ => 1

/-- The bytes an action touches. -/
def MsgAct.size : MsgAct → Nat
  | .load n _ => n
  | .store d => d.length
  | .nibble _ _ => 1
  | .atomic _ wide _ _ _ => if wide then 8 else 4
  | _ => 0

/-- The tag a job's messages carry in the fabric (R357, R358). -/
def fabricTag (s : State) (job : Nat) : Option Nat :=
  let w := mgetD s.mgmt.fjob job 0
  if 2 ^ 63 ≤ w then some (w % 2 ^ 16) else none

/-- The local job a fabric tag belongs to (R358): the lowest installed one with it. -/
def jobOfTag (s : State) (tag : Nat) : Option Nat :=
  (s.mgmt.fjob.find? fun p => p.2 / 2 ^ 63 == 1 && p.2 % 2 ^ 16 == tag && (mget s.jobs p.1).isSome).map Prod.fst

/-- The home of a scale-up message at this package, and the receiving job; none when it is rejected (R360). -/
def fabricHome (s : State) (tag fpa : Nat) : Option (Home × Nat) :=
  match jobOfTag s tag with
  | none => none
  | some j =>
    if fpa / 2 ^ 40 % 4 = 0 then
      if paMapped s (fpa % 2 ^ 40) then some (.hbm (fpa % 2 ^ 40), j) else none
    else
      match vdtEntry s j (fpa / 2 ^ 31 % 16) with
      | none => none
      | some p =>
        let c := coreAt p (fpa / 2 ^ 26 % 32) (fpa / 2 ^ 20 % 64)
        let off := fpa % 2 ^ 20
        let here : Bool := match (s.core c).group with
          | some g => g.job == j
          | none => false
        if !here then none
        else if off < 0x80000 then some (.spad c off, j)
        else if off < 0x80800 then some (.flagw c ((off - 0x80000) / 8), j)
        else none

/-- The endpoint entry of a scale-out address lets the access leave (R361). -/
def endpointOpen (s : State) (fpa : Nat) (wr : Bool) : Bool :=
  let u := s.mgmt.ueept.toNat
  let at_ := u % 2 ^ 40 / 64 * 64 + 32 * (fpa / 2 ^ 32 % 2 ^ 10)
  let bits := memNat s.hbm (at_ + 16) 8
  u % 2 == 1 && paMapped s at_ && bits % 2 == 1 && bits / (if wr then 2 else 4) % 2 == 1

/-- The fabric address the package at the other end applies: the address itself, and for a scale-out address BASE + OFFSET
(R359, R361). -/
def remoteFpa (s : State) (fpa : Nat) : Nat :=
  if fpa / 2 ^ 42 % 2 ^ 9 = 0x1FF then
    (memNat s.hbm (s.mgmt.ueept.toNat % 2 ^ 40 / 64 * 64 + 32 * (fpa / 2 ^ 32 % 2 ^ 10) + 8) 8 + fpa % 2 ^ 32) % 2 ^ 52
  else fpa

/-- The KIND of the place a fabric address names in the end (R359, R361). -/
def fabricKind (s : State) (fpa : Nat) : Nat := remoteFpa s fpa / 2 ^ 40 % 4

/-- An Ultra Ethernet port carries packets (R332, R363). -/
def uportUp (s : State) (x : UPort) : Bool := x.speed != 0 && !x.down && x.resumeAt.isNone && !(s.die 11).gated

/-- Some scale-up port, some Ultra Ethernet port carries messages (R363, R364). -/
def scaleUp (s : State) : Bool := s.ports.any (·.2.up)

@[inherit_doc scaleUp]
def scaleOut (s : State) : Bool := s.ueports.any fun p => uportUp s p.2

/-- Messages of a job reach another package (R358, R364). -/
def canLeave (s : State) (job : Nat) (pkg : Nat) : Bool :=
  (fabricTag s job).isSome && s.mgmt.inDomain && pkg < 288 && scaleUp s

/-- Where a message is performed: a place of this package, another package, or nowhere. -/
inductive Landing where
  | at_ (h : Home) (checked : Bool)
  | away
  | absent

/-- The place a message reaches (R173, R174, R356, R358 to R361). -/
def landing (s : State) (m : Msg) : Landing :=
  match m.home with
  | .fabric fpa =>
    match fabricTag s m.job with
    | none => .absent
    | some tag =>
      let pkg := fpa / 2 ^ 42 % 2 ^ 9
      if pkg = 0x1FF then (if scaleOut s && endpointOpen s fpa m.act.posted then .away else .absent)
      else if pkg = (if s.mgmt.inDomain then s.mgmt.package else 0) then
        match fabricHome s tag fpa with
        | some (h, _) => .at_ h true
        | none => .absent
      else if scaleUp s then .away
      else .absent
  | .lost => .absent
  | h => .at_ h (m.issuer == .foreign)

/-- An access of a core to its own local addresses. -/
def ownLocal (c : Nat) (m : Msg) : Bool :=
  m.issuer.core? == some c && (match regionOf m.va with
    | .spad | .flagw => true
    | _ => false)

/-- A core's memory-side unit performs a message (R174): one to its own local addresses, one of its group's launch, or one that
the job test of R360 has let through. -/
def admits (s : State) (c : Nat) (m : Msg) (checked : Bool) : Bool := checked || ownLocal c m || residentFor s c m.launch

/-- The message comes from another package. -/
def foreignMsg (m : Msg) : Bool := m.issuer == .foreign

/-- A tag failure at a bank (R162, R163): the responsible context gets its report. -/
def reportTag (s : State) (core off a : Nat) (m : Msg) : State :=
  match m.issuer.owner with
  | none => s
  | some (c, t, g) =>
    queueTag s c t g { addr := m.va + (a - off), detail := tagDetail (s.core core) a m.issuer.source m.key }

/-- The imprecise comparators see a message performed at a bank (R225, R226); trace and dump writes never match. An access of
another package has SOURCE 1, whatever unit issued it there (log entry 31, DESIGN CHOICE). -/
def watchMsg (s : State) (core : Nat) (m : Msg) (rd wr : Bool) (bytes : List Nat) : State :=
  match m.issuer with
  | .ctx c _ _ _ => wpImprecise s core 1 0 0 c false rd wr bytes
  | .chan _ ch t _ => wpImprecise s core 2 t ch core false rd wr bytes
  | .arr _ _ t _ => wpImprecise s core 3 t 0 core false rd wr bytes
  | .coll _ t _ => wpImprecise s core 4 t 0 core false rd wr bytes
  | .foreign =>
    let (n, s) := s.fresh 5
    wpImprecise s core 1 0 0 (n % 2 ^ 14) true rd wr bytes
  | _ => s

/-- The memory-side unit performs an access at a scratchpad (R175). -/
def spadArrive (s : State) (m : Msg) (core off : Nat) : Reply × State :=
  let n := m.act.size
  let rd : Bool := match m.act with
    | .load _ _ | .atomic _ _ _ _ _ => true
    | _ => false
  let wr : Bool := match m.act with
    | .load _ _ => false
    | _ => true
  match tagFail (s.core core) m.key off n with
  | some a => (match m.issuer with
    | .ctx _ _ _ _ => .unchanged
    | _ => .failed stTag, if m.half then s else reportTag s core off a m)
  | none =>
    let (ok, s) := if rd || n < 8 then spadCheck s core off n else (true, s)
    if !ok then (.failed stUncorrectable, s)
    else
      let s := watchMsg s core m rd wr ((List.range n).map (off + ·))
      let old := memNat (s.core core).spad off n
      let sub (s : State) : State := match m.flag with
        | some f => flagSub s core f n
        | none => s
      match m.act with
      | .load n sgn => (.data (extend old n sgn), s)
      | .store d => (.ack, sub (spadWrite s core off d))
      | .nibble b k => (.ack, sub (spadWrite s core off [(BitVec.ofNat 8 old &&& ~~~k) ||| (b &&& k)]))
      | .atomic op wide v cmp returns =>
        let s := sub (spadWrite s core off (natBytes n (amoNew op wide old v.toNat cmp.toNat)))
        (if returns then .data (amoOld wide old) else .ack, s)
      | _ => (.ack, s)

/-- The actions a flag entry admits (R180, R198). -/
def MsgAct.flagOk : MsgAct → Bool
  | .load n _ => n == 8
  | .store d => d.length == 8
  | .atomic op wide _ _ _ => op == .add && wide
  | .flagSub _ => true
  | _ => false

/-- An access to a flag entry (R180, R198). A load or a returning atomic answers with the entry as the changes that have arrived
in this clock so far leave it (log entry 31). Another action, which only another package can send, is rejected (log entry 31). -/
def flagArrive (s : State) (m : Msg) (core f : Nat) : Reply × State :=
  let own (s : State) : State := match m.flag with
    | some g => flagSub s core g 8
    | none => s
  let e := s.flag core f
  if !m.act.flagOk then (.failed stAbsent, s)
  else
  match m.act with
  | .load n sgn => (.data (extend (flagWord e.count e.ovs).toNat n sgn), s)
  | .store d => (.ack, own (flagSet s core f (sextN (bytesNat d % 2 ^ 40) 40)))
  | .atomic _ _ v _ returns =>
    (if returns then .data (v128 (flagWord e.count e.ovs)) else .ack, own (flagAdd s core f (sextN (v.toNat % 2 ^ 40) 40)))
  | .flagSub v => (.ack, flagSub s core f v)
  | _ => (.ack, s)

/-- An HBM4E controller performs an access (R173, R332). -/
def hbmArrive (s : State) (m : Msg) (pa : Nat) : Reply × State :=
  let n := m.act.size
  if !paMapped s pa then (.failed stAbsent, s)
  else
    let reads : Bool := match m.act with
      | .load _ _ | .atomic _ _ _ _ _ => true
      | _ => n < 8
    let (ok, s) := if reads then hbmCheck s pa n else (true, s)
    if !ok then (.failed stUncorrectable, s)
    else
      let old := memNat s.hbm pa n
      match m.act with
      | .load n sgn => (.data (extend old n sgn), s)
      | .store d => (.ack, hbmWrite s pa d)
      | .nibble b k => (.ack, hbmWrite s pa [(BitVec.ofNat 8 old &&& ~~~k) ||| (b &&& k)])
      | .atomic op wide v cmp returns =>
        let s := hbmWrite s pa (natBytes n (amoNew op wide old v.toNat cmp.toNat))
        (if returns then .data (amoOld wide old) else .ack, s)
      | _ => (.ack, s)

/-- The pass die's host port performs an access (R173). -/
def hostArrive (s : State) (m : Msg) (pa : Nat) : Reply × State :=
  let old := memNat s.host pa m.act.size
  match m.act with
  | .load n sgn => (.data (extend old n sgn), s)
  | .store d => (.ack, { s with host := memWrite s.host pa d })
  | .nibble b k => (.ack, { s with host := memWrite s.host pa [(BitVec.ofNat 8 old &&& ~~~k) ||| (b &&& k)] })
  | _ => (.ack, s)

/-- The tag check of a message fails at a core of another package (R163, R175, R360): the report of its responsible context
carries the granule's tags, which are open, with the source, the key and the offset of this end (R167, log entry 12). -/
def awayTagFail (s : State) (m : Msg) (off : Nat) : Reply × State :=
  let (tag, s) := s.fresh 6
  let (prev, s) := s.fresh 6
  let k : Core := { tags := mset [] (off / 32) (1 + tag % 15)
                    retagLog := [wordOf (prev % 16 * 2 ^ 60 + off / 32 * 2 ^ 26)] }
  (match m.issuer with
    | .ctx _ _ _ _ => .unchanged
    | _ => .failed stTag,
   match m.issuer.owner with
    | some (c, t, g) => if m.half then s else queueTag s c t g { addr := m.va, detail := tagDetail k off m.issuer.source m.key }
    | none => s)

/-- What another package makes of a message: its answer is open (log entry 12). The message may be rejected, and is where its kind 1
address is in the unassigned part of R149; it may fail its tag check in a scratchpad, find uncorrectable data, or be performed
(R360, R364). A scale-out message is performed at BASE + OFFSET (R361). -/
def awayArrive (s : State) (m : Msg) : Reply × State :=
  let (n, s) := s.fresh 4
  let fpa : Nat := match m.home with
    | .fabric f => remoteFpa s f
    | _ => 0
  let nowhere : Bool := fpa / 2 ^ 40 % 4 == 1 && 0x80800 ≤ fpa % 2 ^ 20
  let flag : Bool := fpa / 2 ^ 40 % 4 == 1 && 0x80000 ≤ fpa % 2 ^ 20
  let spad : Bool := fpa / 2 ^ 40 % 4 == 1 && !flag
  let reads : Bool := !m.act.posted || m.act.size < 8 || (match m.act with
    | .atomic _ _ _ _ _ => true
    | _ => false)
  if n % 4 = 0 || nowhere then (.failed stAbsent, s)
  else if n % 4 = 1 && spad then awayTagFail s m (fpa % 2 ^ 20)
  else if n % 4 = 2 && reads && !flag then (.failed stUncorrectable, s)
  else if m.act.posted then (.ack, s)
  else
    let (v, s) := s.fresh 6
    (match m.act with
      | .load n sgn => .data (extend (v % 2 ^ (8 * n)) n sgn)
      | .atomic _ wide _ _ _ => .data (amoOld wide (v % 2 ^ (if wide then 64 else 32)))
      | _ => .data (BitVec.ofNat 128 v), s)

/-- The core whose memory-side unit serves a message; the copy engine serves its own accesses to its own banks (R144). -/
def servedAt (s : State) (m : Msg) : Option Nat :=
  match landing s m with
  | .at_ (.spad c _) _ | .at_ (.flagw c _) _ => if m.direct then none else some c
  | _ => none

/-- The requester of a message at a bank (R144). -/
def Msg.requester (m : Msg) : Nat := if m.direct then 2 else 1

/-- The bytes of a scratchpad that a message asks for. -/
def msgPieces (s : State) (m : Msg) : Option (Nat × List (Nat × Nat)) :=
  match landing s m with
  | .at_ (.spad c off) _ => some (c, [(off, m.act.size)])
  | _ => none

/-- The banks grant a message its access (R144). -/
def msgGranted (s : State) (m : Msg) : Bool :=
  match msgPieces s m with
  | some (c, ps) => granted (s.core c) m.requester ps
  | none => true

/-- When a message that is on its way arrives. -/
def Msg.arrival (m : Msg) : Option Nat :=
  match m.phase with
  | .going due => some due
  | _ => none

/-- An earlier arrival at the same memory-side unit is still waiting (R172). -/
def behind (s : State) (id due c : Nat) : Bool :=
  s.msgs.any fun p => match p.2.arrival with
    | some d => (d < due || (d == due && p.1 < id)) && servedAt s p.2 == some c
    | none => false

/-- The bytes of a message at a scratchpad wait for a watermark (R170). -/
def msgBlocked (s : State) (m : Msg) : Bool :=
  match landing s m with
  | .at_ (.spad c off) ck =>
    let self : Option Nat := match m.issuer with
      | .chan c' ch _ _ => if c' = c then some ch else none
      | _ => none
    admits s c m ck && wmBlocks (s.core c) self off m.act.size
  | _ => false

/-- A message that has arrived is served but for the grant of its bank (R170, R172, R175). -/
def msgDue (s : State) (id : Nat) (m : Msg) : Bool :=
  match m.arrival with
  | none => false
  | some due =>
    due ≤ s.now && !msgBlocked s m &&
    (match servedAt s m with
     | some c => !behind s id due c
     | none => true)

/-- A message can be performed at its home now (R144, R172, R175). -/
def msgReady (s : State) (id : Nat) (m : Msg) : Bool := msgDue s id m && msgGranted s m

/-! Replies. -/

/-- The cause a status stands for (R181, R182). -/
def statusCause (st : Nat) : Nat := if st = stUncorrectable then Cause.uncorrectable.code else Cause.peerAbsent.code

/-- The acknowledgement of a device-memory, host or fabric home subtracts at the issuing core (R173, R360). -/
def ackSub (s : State) (m : Msg) : State :=
  let here : Bool := match m.home with
    | .hbm _ | .host _ => true
    | .fabric _ => m.ackHere
    | _ => false
  match m.issuer.core?, m.flag with
  | some c, some f => if here then flagSub s c f m.act.size else s
  | _, _ => s

/-- A failed half of an access of two: the other half reports no more (R163, R182). -/
def muteTwin (s : State) (c pend : Nat) : State :=
  { s with msgs := s.msgs.map fun p => match p.2.issuer with
      | .ctx c' _ _ q => if c' = c ∧ q = pend then (p.1, { p.2 with half := true }) else p
      | _ => p }

/-- An access of an element fails (R196): the command issues no more accesses, no element from it on is moved, and the first that fails
in the loop order is kept. -/
def CopyRun.fail (r : CopyRun) (i st : Nat) : CopyRun :=
  { r with
    limit := min r.limit i
    drains := false
    fault := match r.fault with
      | some (e, x) => if e ≤ i then some (e, x) else some (i, st)
      | none => some (i, st) }

/-- The place of an access in its command (R194): its element and its role. -/
def elemAt (i role : Nat) : Nat := 16 * i + role

/-- The command of a channel learns the outcome of one of its accesses (R194 to R196). -/
def CopyRun.told (old : CopyRun) (id : Nat) (m : Msg) (r : Reply) : CopyRun :=
  let drop (l : List Nat) : List Nat := l.filter (· != id)
  let read (x : CopyStep) : CopyStep :=
    if x.waits.contains id then
      { x with waits := drop x.waits, reads := match r with
        | .data v => x.reads ++ [(m.elem - elemAt x.idx 0, v)]
        | _ => x.reads }
    else x
  let run := { old with
    outstanding := drop old.outstanding
    steps := old.steps.map read
    writes := old.writes.map fun w => { w with waits := drop w.waits } }
  match r with
  | .ack => { run with bytes := run.bytes + m.act.size }
  | .failed st => run.fail (m.elem / 16) st
  | _ => run

/-- The watermark follows the longest prefix of the loop order whose writes are performed (R195). -/
def Chan.prefix_ (x : Chan) : Chan :=
  match x.run with
  | none => x
  | some r =>
    let performed (w : CopyWrite) : Bool := w.waits.isEmpty && w.idx < r.limit
    let high := ((r.writes.takeWhile performed).map (·.high)).foldl max 0
    { x with
      run := some { r with writes := r.writes.dropWhile (·.waits.isEmpty) }
      wm := x.wm.map fun w => (max w.1 high, w.2) }

/-- A channel learns the outcome of one of its accesses. -/
def chanReply (s : State) (c ch id : Nat) (m : Msg) (r : Reply) : State :=
  let s := match r with
    | .ack => s.updCore c fun k => pmcCount k 9 none m.act.size
    | _ => s
  s.updChan c ch fun h => ({ h with run := h.run.map fun x => x.told id m r } : Chan).prefix_

/-- An array command learns the outcome of one of its writes (R252 to R255). -/
def arrReply (s : State) (c arr id : Nat) (m : Msg) (r : Reply) : State :=
  s.updSquare (coreSquare c) fun q => { q with runs := q.runs.map fun old =>
    if old.ent.id = arr then
      let x := { old with outstanding := old.outstanding.filter (· != id) }
      match r with
      | .failed st =>
        if x.status = 0 then { x with status := st, aux := m.elem }
        else if m.elem < x.aux then { x with status := st, aux := m.elem }
        else x
      | .ack => { x with bytes := x.bytes + m.act.size }
      | _ => x
    else old }

/-- A dump learns the outcome of its write (R233, R234): LENGTH counts it, or FAULT and STATUS are set. -/
def dumpReply (s : State) (c : Nat) (r : Reply) : State :=
  s.updCore c fun k =>
    let d := { k.dump with flying := none }
    { k with dump := match r with
      | .failed st => { d with stat := wordOf (d.stat.toNat % 2 ^ 52 + d.stat.toNat / 2 ^ 61 * 2 ^ 61 + 2 ^ 60 + st % 256 * 2 ^ 52)
                               pos := 2 ^ 20 }
      | _ => { d with stat := wordOf (d.stat.toNat + 2 ^ 32) } }

/-- A save learns the outcome of one of its writes (R298). -/
def saveReply (s : State) (launch id : Nat) (r : Reply) : State :=
  let told (v : FrSave) : FrSave := { v with
    outstanding := v.outstanding.filter (· != id)
    failed := match r with
      | .failed st => if v.outstanding.contains id then some (v.failed.getD st) else v.failed
      | _ => v.failed }
  let s := s.updLaunch launch fun l => { l with frontier := l.frontier.map fun f => { f with saves := f.saves.map told } }
  { s with lateSaves := s.lateSaves.map fun v => (v.1, told v.2) }

/-- A pending load keeps what a half of it brings (R202). -/
def Pend.half (p : Pend) (m : Msg) (r : Reply) : Pend :=
  match r, p.kind with
  | .data v, _ => { p with got := p.got ++ [(m.elem, v)] }
  | .failed st, .remote l => { p with kind := .remote (l ++ [(m.elem, st)]) }
  | .unchanged, .remote l => { p with kind := .remote (l ++ [(m.elem, stTag)]) }
  | .failed st, .query l => { p with kind := .query (l ++ [(m.elem, st)]) }
  | .unchanged, .query l => { p with kind := .query (l ++ [(m.elem, stTag)]) }
  | _, _ => p

/-- What a remote load comes to once its halves are back, in the order of R181: peer absent, uncorrectable data, a failed tag
check, and else the data. A reply of another kind leaves the destination unchanged. -/
def Pend.outcome (p : Pend) (address : Word) (r : Reply) : PendRes :=
  let fails : List Nat := match p.kind with
    | .remote l | .query l => l.map Prod.snd
    | _ => []
  if fails.contains stAbsent then .fault (statusCause stAbsent) address .plain
  else if fails.contains stUncorrectable then .fault (statusCause stUncorrectable) address .plain
  else if !fails.isEmpty then .unchanged
  else
    match r with
    | .data _ => .value (p.got.foldl (fun (v : VWord) (g : Nat × VWord) => v ||| (g.2.shiftLeft (8 * g.1))) 0)
    | _ => .unchanged

/-- Deliver a reply to its issuer, and forget the message. Other homes than scratchpads count it received now
(R277). -/
def deliverReply (s : State) (id : Nat) (m : Msg) (r : Reply) : State :=
  let s := dropMsg s id
  let s := match m.home with
    | .spad _ _ | .flagw _ _ | .queue _ _ | .core _ | .meeting _ _ => s
    | _ => countRecv s m.launch m.issuer.die
  let s := if r = .ack then ackSub s m else s
  match m.issuer with
  | .ctx c t gen pend =>
    if m.act.posted then
      match r with
      | .failed st =>
        if m.half then s
        else muteTwin (queueFail s c t gen { cause := statusCause st, value := wordOf (m.va - m.elem) }) c pend
      | _ => s
    else if (s.ctx c t).gen ≠ gen then s
    else
      let s := s.updCtx c t fun x => { x with pend := updWhere (·.id == pend) (fun p => p.half m r) x.pend }
      -- the other half of an RLDV is still on its way
      if s.msgs.any fun p => p.2.issuer == m.issuer then s
      else
        match findPend (s.ctx c t) pend with
        | none => s
        | some q =>
          let res := q.outcome (wordOf (m.va - m.elem)) r
          let s := setPendRes s c t pend res
          match findPend (s.ctx c t) pend with
          | some q => if pendReady s c t q then completePend s c t q res else s
          | none => s
  | .chan c ch _ _ => chanReply s c ch id m r
  | .arr c arr _ _ => arrReply s c arr id m r
  | .trace c => s.updCore c fun k => { k with trace := { k.trace with flying := k.trace.flying.filter (· != id) } }
  | .dump c => dumpReply s c r
  | .frsave l _ => saveReply s l id r
  | .coll _ _ _ | .engine _ _ | .foreign => s

/-- Perform a message that has reached its home, and send its reply; the copy engine has the outcome of its own access at
once. A scratchpad home counts it received now (R277), and the kind of a fabric address is that of the moment (R361). The halves of an
RSTV each make a tag report of their own, while those of an RLDV, and of an RSTV to an absent peer, make one together: no rule says
whether a half is an access of its own (R163, R175, R182, log entry 31). -/
def performMsg (s : State) (id : Nat) (m : Msg) : State :=
  let left : Bool := match m.home with
    | .fabric fpa => fabricKind s fpa == 0
    | _ => false
  let s := match msgPieces s m with
    | some (c, ps) => takeBanks s c m.requester ps
    | none => s
  let (r, s) : Reply × State := match landing s m with
    | .absent => (.failed stAbsent, s)
    | .away => awayArrive s m
    | .at_ h ck =>
      match h with
      | .spad c off => if admits s c m ck then spadArrive s m c off else (.failed stAbsent, s)
      | .flagw c f => if admits s c m ck then flagArrive s m c f else (.failed stAbsent, s)
      | .hbm pa => hbmArrive s m pa
      | .host pa => hostArrive s m pa
      | _ => (.failed stAbsent, s)
  let s := match m.home with
    | .spad c _ | .flagw c _ => countRecv s m.launch (coreDie c)
    | _ => s
  let s := match r, m.issuer, m.act with
    | .unchanged, .ctx c _ _ pend, .load _ _ => muteTwin s c pend
    | _, _, _ => s
  let s := if left then { s with msgs := mset s.msgs id { m with ackHere := true } } else s
  if m.direct then deliverReply s id m r else replyMsg s id r

/-- The rows of the table that perform a message. -/
inductive ArriveRow where
  | store | atomic | load | flag | nibble | wide | other
  deriving DecidableEq, Repr

/-- The row that performs a message. -/
def arriveRow (s : State) (m : Msg) : ArriveRow :=
  match landing s m, m.act with
  | .at_ (.flagw _ _) _, _ => .flag
  | _, .flagSub _ => .flag
  | _, .load _ _ => .load
  | _, .atomic _ _ _ _ _ => .atomic
  | _, .nibble _ _ => .nibble
  | .at_ (.spad _ _) _, .store _ => .store
  | _, .store _ => match m.home with
    | .spad _ _ => .store
    | _ => .wide
  | _, _ => .other

/-- Perform the message `cur` names, if it is one of a row. -/
def arriveEvent (row : ArriveRow) (s : State) : Host.Outcome State Fault Refusal :=
  match mget s.msgs s.cur.id with
  | none => .refused .notEnabled
  | some m => event (arriveRow s m == row && msgReady s s.cur.id m) (performMsg s s.cur.id m)

/-- REMOTE_STORE_ARRIVE (R175). -/
def execRemoteStoreArrive (s : State) : Host.Outcome State Fault Refusal := arriveEvent .store s

/-- REMOTE_ATOMIC_ARRIVE (R179). -/
def execRemoteAtomicArrive (s : State) : Host.Outcome State Fault Refusal := arriveEvent .atomic s

/-- REMOTE_LOAD_ARRIVE (R181). -/
def execRemoteLoadArrive (s : State) : Host.Outcome State Fault Refusal := arriveEvent .load s

/-- FLAG_WINDOW_ARRIVE (R180). -/
def execFlagWindowArrive (s : State) : Host.Outcome State Fault Refusal := arriveEvent .flag s

/-- NIBBLE_MESSAGE_ARRIVE (R194). -/
def execNibbleMessageArrive (s : State) : Host.Outcome State Fault Refusal := arriveEvent .nibble s

/-- HBM4E_WRITE_ARRIVE (R173). -/
def execHbm4eWriteArrive (s : State) : Host.Outcome State Fault Refusal := arriveEvent .wide s

/-- The reply of a message that has come back. -/
def replyDue (s : State) (id : Nat) : Option (Msg × Reply) :=
  match mget s.msgs id with
  | some m =>
    match m.phase with
    | .coming r due => if due ≤ s.now then some (m, r) else none
    | _ => none
  | none => none

/-- A reply is a failure. -/
def Reply.bad : Reply → Bool
  | .failed _ => true
  | _ => false

/-- REMOTE_ACK_RETURN (R173): a posted message's acknowledgement comes back. -/
def execRemoteAckReturn (s : State) : Host.Outcome State Fault Refusal :=
  match replyDue s s.cur.id with
  | some (m, r) => event (m.act.posted && !r.bad) (deliverReply s s.cur.id m r)
  | none => .refused .notEnabled

/-- The messages whose failures other rows report. -/
def Issuer.quiet : Issuer → Bool
  | .trace _ => true
  | _ => false

/-- REMOTE_FAILURE_RETURN (R182, R196): a posted message's failure comes back. -/
def execRemoteFailureReturn (s : State) : Host.Outcome State Fault Refusal :=
  match replyDue s s.cur.id with
  | some (m, r) => event (m.act.posted && r.bad && !m.issuer.quiet) (deliverReply s s.cur.id m r)
  | none => .refused .notEnabled

/-- A message that REMOTE_LOAD_COMPLETE brings back. -/
def MsgAct.loads : MsgAct → Bool
  | .load _ _ => true
  | .atomic _ _ _ _ returns => returns
  | _ => false

/-- REMOTE_LOAD_COMPLETE (R181): the reply of a load or returning atomic comes back; a push that found no room
is tried again. -/
def execRemoteLoadComplete (s : State) : Host.Outcome State Fault Refusal :=
  match mget s.msgs s.cur.id with
  | some _ =>
    match replyDue s s.cur.id with
    | some (m, r) => event m.act.loads (deliverReply s s.cur.id m r)
    | none => .refused .notEnabled
  | none => completeEvent (fun k => match k with
    | .remote _ | .query _ => true
    | _ => false) s

/-- LINK_WORD_ARRIVE (R187): the oldest word that is due enters its inbound queue, and sets EVT (R112). -/
def execLinkWordArrive (s : State) : Host.Outcome State Fault Refusal :=
  let c := s.cur.core
  match (s.core c).linkFly.find? fun f => f.2.2 ≤ s.clk c with
  | none => .refused .notEnabled
  | some (side, w, due) =>
    .next (setEvt (s.updCore c fun k =>
      { k with linkQ := mupd k.linkQ side [] (· ++ [w]), linkFly := k.linkFly.erase (side, w, due) }) c)

end Sys2Proof.Machine
end

