-- ==== Sys2Proof/Machine/Tile.lean ====
section
/-! DEFINITION. The accumulation of tile products along K (R28 to R31, R249, R250), which the product array and
the near-memory units share. -/

namespace Sys2Proof.Machine

/-- The classes of R249. -/
inductive TileClass where
  | f8 | f16 | f4 | i8 | i4
  deriving DecidableEq, Repr

/-- The class of a format code. -/
def tileClass (fmt : Nat) : Option TileClass :=
  match fmt with
  | 0x08 | 0x09 | 0x10 | 0x11 => some .f8
  | 0x06 | 0x07 => some .f16
  | 0x0A | 0x12 => some .f4
  | 0x01 | 0x14 => some .i8
  | 0x0B | 0x15 => some .i4
  | _ => none

/-- Clocks of a class for one K-block (R249). -/
def TileClass.clocks : TileClass → Nat
  | .f8 | .i8 => 8 | .f16 => 16 | .f4 | .i4 => 4

/-- A permitted pair of formats (R249). -/
def tilePair (a b : Nat) : Bool :=
  match tileClass a, tileClass b with
  | some .f16, some .f16 => a == b
  | some .f8, some .f8 | some .f8, some .f4 | some .f4, some .f8 | some .f4, some .f4 => true
  | some .i8, some .i8 | some .i8, some .i4 | some .i4, some .i8 | some .i4, some .i4 => true
  | _, _ => false

/-- A grouped integer format. -/
def isGrouped (fmt : Nat) : Bool := fmt == 0x14 || fmt == 0x15

/-- The accumulator of a permitted pair is INT32 (R249). -/
def intPair (a b : Nat) : Bool := (a == 0x01 || a == 0x0B) && (b == 0x01 || b == 0x0B)

/-- An element's integer with its zero point taken off (R31). -/
def elemInt (e : EFmt) (code metab : Nat) : Int :=
  match e with
  | .grp b => ((code % 2 ^ b : Nat) : Int) - (metab / 65536 % 2 ^ b : Nat)
  | e => sextN code e.width

/-- The scale of an element's group (R31). -/
def elemScale (e : EFmt) (metab : Nat) : FVal :=
  match e with
  | .grp _ => FFmt.fp16.decode (metab % 65536)
  | _ => .fin false 1 0

/-- One operand of a tile product: its format and block length, and a row's codes and block metadata. -/
structure TileRow where
  e : EFmt
  len : Nat
  codes : List Nat
  metas : List Nat

/-- The codes of a row with the metadata of their blocks. -/
def TileRow.elems (r : TileRow) : List (Nat × Nat) := r.codes.zipIdx.map fun p => (p.1, r.metas.getD (p.2 / r.len) 0)

/-- Accumulate one row of A with one row of B onto an accumulator code (R28 to R31): the new code, and whether
an INT32 accumulation was clamped. -/
def tileDot (v2 : Bool) (a b : TileRow) (acc : Nat) : Nat × Bool :=
  let ps := a.elems.zip b.elems
  let n := ps.length
  match a.e, b.e with
  | .int _, .int _ =>
    (chunksOf 32 n ps).foldl (fun (r : Nat × Bool) block =>
      let total := block.foldl (fun s p => s + elemInt a.e p.1.1 p.1.2 * elemInt b.e p.2.1 p.2.2) (sextN r.1 32)
      let y := satInt total 32 true
      (lowBits y 32, r.2 || y != total)) (acc, false)
  | .flt _, _ | .mx _, _ | _, .flt _ | _, .mx _ =>
    ((chunksOf 32 n ps).foldl (fun acc block =>
      accBlock v2 acc (block.map fun p => (a.e.exact p.1.1 p.1.2).mul (b.e.exact p.2.1 p.2.2))) acc, false)
  | _, _ =>
    let g := if v2 then max a.len b.len else 32
    ((chunksOf g n ps).foldl (fun acc block =>
      let i := block.foldl (fun s p => s + elemInt a.e p.1.1 p.1.2 * elemInt b.e p.2.1 p.2.2) (0 : Int)
      match block with
      | [] => acc
      | p :: _ => accGroup acc (elemScale a.e p.1.2) (elemScale b.e p.2.2) i) acc, false)

end Sys2Proof.Machine
end

