-- ==== Sys2Proof/Machine/Engine.lean ====
section
/-! DEFINITION. What the engines of a core share: local pointers (R192), range tests (R150), the homes of their
accesses and the reads and writes they make (R170, R173, R194, R236). -/

namespace Sys2Proof.Machine

/-- The statuses of R55 besides those a home answers with. -/
def stField : Nat := 0x02
def stFormat : Nat := 0x03
def stMisaligned : Nat := 0x04
def stStraddle : Nat := 0x05
def stXlate : Nat := 0x06

/-- A local pointer's checks (R192): 0 when it is good. -/
def localPtr (p : Word) (align size : Nat) : Nat :=
  let a := ptrAddr p
  if ptrTop p ≠ 0 then stFormat
  else if a % align ≠ 0 then stMisaligned
  else if 0x7FFFF < a then stXlate
  else if 0x80000 < a + size then stStraddle
  else 0

/-- A range of an engine command (R150, R180): 0 when every access of it can be made. -/
def rangeStatus (s : State) (job first last : Nat) : Nat :=
  match regionCheck first last with
  | .straddle _ => stStraddle
  | .xlate _ => stXlate
  | .ok =>
    match regionOf first with
    | .flagw | .peerFlag _ => stXlate
    | .peerSpad _ => if (peerCore s job first).isSome then 0 else stXlate
    | r => if regionOn s r then 0 else stXlate

/-- The home of an engine's access of a core, translated now (R173, log entry 20); none fails with status 0x06, as a range that
meets a flag window does (R180). -/
def engineHome (s : State) (c job va : Nat) (k : XKind) : Option Home × State :=
  match regionOf va with
  | .spad => (some (.spad c va), s)
  | .peerSpad _ => ((peerCore s job va).map fun p => .spad p.1 p.2, s)
  | .device | .host | .fabric =>
    if !regionOn s (regionOf va) ∨ (regionOf va = .host ∧ k = .atomic) then (none, s)
    else
      let (r, s) := engXlate s (coreDie c) job va k
      (match r with
        | .ok pa => match regionOf va with
          | .device => some (.hbm pa)
          | .host => some (.host pa)
          | _ => if fabricFlag pa then none else some (.fabric pa)
        | .error _ => none, s)
  | _ => (none, s)

/-- Read bytes of the core's own scratchpad for an engine (R145, R161, R163): the number, or a status. -/
def engineRead (s : State) (issuer : Issuer) (c key a n : Nat) : Except Nat Nat × State :=
  let m : Msg := { issuer := issuer, act := .load n false, home := .spad c a, va := a, key := key }
  match tagFail (s.core c) key a n with
  | some b => (.error stTag, reportTag s c a b m)
  | none =>
    let (ok, s) := spadCheck s c a n
    if !ok then (.error stUncorrectable, s)
    else
      let s := watchMsg s c m true false ((List.range n).map (a + ·))
      (.ok (memNat (s.core c).spad a n), s)

/-- The value of a read. -/
def ArrRead.value (r : ArrRead) (m : Memory) : Nat := memNat m r.addr r.size / 2 ^ r.bit % 2 ^ r.width

/-- One access of an engine to its core's scratchpad, of the reads it makes in one aligned 8 bytes (R202): their tags and the code of
their word are checked, and the comparators see the bytes of all of them at once (R223, R226). The status of a failure. -/
def engineUnit (s : State) (issuer : Issuer) (c : Nat) (rs : List ArrRead) : Option Nat × State :=
  let msg (r : ArrRead) : Msg := { issuer := issuer, act := .load r.size false, home := .spad c r.addr, va := r.addr, key := r.key }
  match rs.findSome? fun r => (tagFail (s.core c) r.key r.addr r.size).map (r, ·) with
  | some (r, b) => (some stTag, reportTag s c r.addr b (msg r))
  | none =>
    match rs with
    | [] => (none, s)
    | r :: _ =>
      let word := r.addr / 8 * 8
      let (ok, s) := spadCheck s c word 8
      if ok then
        (none, watchMsg s c (msg r) true false
          (((List.range 8).map (word + ·)).filter fun b => rs.any fun x => x.addr ≤ b && b < x.addr + x.size))
      else (some stUncorrectable, s)

/-- An array command sends one of its writes (R173, R236). -/
def enginePost (s : State) (m : Msg) : State :=
  let (id, s) := sendMsg s m
  match m.issuer with
  | .arr c arr _ _ => s.updSquare (coreSquare c) fun q => { q with runs := q.runs.map fun x =>
      if x.ent.id = arr then { x with outstanding := x.outstanding ++ [id] } else x }
  | _ => s

/-- The lowest and highest byte of elements 0 to `top` of an array (R26). -/
def arrayRange (e : EFmt) (blog base top : Nat) : Nat × Nat :=
  let l := elementLoc e blog base top
  (base, l.byte + l.size - 1)

end Sys2Proof.Machine
end

