-- ==== Sys2Proof/Machine/Copy.lean ====
section
/-! DEFINITION. The copy engine (R191 to R200): lists, commands, the movement of elements, streams (R171, R199),
NGEMV (R320 to R322), and the records of the engines (R55, R56, R197). What a channel issues in a clock is log entry 17. -/

namespace Sys2Proof.Machine

/-! Commands and lists. -/

/-- The record of a copy-engine command (R197). -/
def copyRecord (ch addr bytes value tag status opcode : Nat) : VWord :=
  record (bytes * 2 ^ 24 + ch * 2 ^ 19 + addr % 2 ^ 19) value tag status opcode

/-- A channel whose list has nothing left is idle (R196, R198). -/
def Chan.settle (h : Chan) : Chan :=
  if h.recd.isNone && h.word.isNone && (h.ending || h.next.isNone) then { startQ := h.startQ } else h

/-- A command ends with a status: its record is made if it has one, and a fault ends the list (R196, R197). -/
def finishCmd (s : State) (c ch opcode : Nat) (h : CmdHdr) (status value bytes : Nat) : State :=
  s.updChan c ch fun x =>
    let named := if status = 1 ∨ status = 2 then h.ext.toNat % 4 else ch
    let r := copyRecord named x.addr bytes value h.tag.toNat status opcode
    ({ x with
      run := none, word := none, wm := none, ending := status != 0
      recd := if status ≠ 0 ∨ h.result then some r else none } : Chan).settle

/-- The command a channel is to start: its word decodes to this instruction. -/
def cmdReady (s : State) (c ch : Nat) (i : Instr) : Bool :=
  let x := s.chan c ch
  match x.word with
  | some w => x.run.isNone && x.recd.isNone && (match decodeCmd 0 w with
    | .ok j => j == i
    | .error _ => false)
  | none => false

/-- The entry that started a channel's list. -/
def chanEnt (s : State) (c ch : Nat) : CmdEnt := ((s.chan c ch).ent).getD { word := 0 }

/-- The issuer of a channel's accesses: the pushing context answers for them (R163). -/
def chanIssuer (s : State) (c ch : Nat) : Issuer :=
  let e := chanEnt s c ch
  .chan c ch e.slot e.gen

/-- The meaning of a copy-engine command: it starts on the channel `cur` names, as `f` says, or fails. -/
def startCmd (i : Instr) (h : CmdHdr) (opcode : Nat) (f : State → Except Nat CopyRun × State) (s : State) :
    Host.Outcome State Fault Refusal :=
  let c := s.cur.core
  let ch := s.cur.slot
  if cmdReady s c ch i then
    if h.ext.toNat % 4 ≠ ch then .next (finishCmd s c ch opcode h stField 0 0)
    else
      match f s with
      | (.ok r, s') => engineGoes s (s'.updChan c ch fun x => { x with run := some r })
      | (.error st, s') => engineGoes s (finishCmd s' c ch opcode h st 0 0)
  else .refused .notEnabled

/-- COPY_LIST_START (R191). -/
def execCopyListStart (s : State) : Host.Outcome State Fault Refusal :=
  let c := s.cur.core
  let x := s.chan c s.cur.slot
  match x.startQ with
  | [] => .refused .notEnabled
  | e :: q =>
    event (!x.active && !e.held) (s.updChan c s.cur.slot fun _ =>
      { startQ := q, active := true, ent := some e, word := some e.word, addr := e.addr.getD 0x7FFFF
        next := e.addr.map (· + 32), key := e.key })

/-- A channel can read bytes of its own scratchpad in this clock (R144, R170). -/
def chanFree (s : State) (c ch a n : Nat) : Bool := !wmBlocks (s.core c) (some ch) a n && granted (s.core c) 2 [(a, n)]

/-- A channel reads bytes of its own scratchpad: the number, or a status. -/
def chanRead (s : State) (c ch key a n : Nat) : Except Nat Nat × State :=
  engineRead (takeBanks s c 2 [(a, n)]) (chanIssuer s c ch) c key a n

/-- A channel is to read its next command word. -/
def wordDue (s : State) (c ch : Nat) : Option Nat :=
  let x := s.chan c ch
  if x.active && x.word.isNone && x.run.isNone && x.recd.isNone then x.next else none

/-- COMMAND_WORD_READ (R191, R196). -/
def execCommandWordRead (s : State) : Host.Outcome State Fault Refusal :=
  let c := s.cur.core
  let ch := s.cur.slot
  match wordDue s c ch with
  | none => .refused .notEnabled
  | some a =>
    let bad (s : State) (st : Nat) : State :=
      s.updChan c ch fun x => { x with recd := some (copyRecord ch a 0 0 0 st 0), ending := true }
    if 0x80000 ≤ a then .next (bad s stXlate)
    else if !chanFree s c ch a 32 then .refused .notEnabled
    else
      match chanRead s c ch (s.chan c ch).key a 32 with
      | (.error st, s) => .next (bad s st)
      | (.ok w, s) => .next (s.updChan c ch fun x =>
          { x with word := some (BitVec.ofNat 256 w), addr := a, next := some (a + 32), first := false })

/-- The group a command was pushed for still holds its core. -/
def groupHere (s : State) (e : CmdEnt) : Bool :=
  match (s.core e.core).group with
  | some g => g.id == e.group
  | none => false

/-- COPY_RECORD_PUSH (R56, R197): the record of a group that has ended is discarded. -/
def execCopyRecordPush (s : State) : Host.Outcome State Fault Refusal :=
  let c := s.cur.core
  let leave (s : State) : State := s.updChan c s.cur.slot fun x => ({ x with recd := none } : Chan).settle
  match (s.chan c s.cur.slot).recd with
  | none => .refused .notEnabled
  | some r =>
    if groupHere s (chanEnt s c s.cur.slot) then event (((s.core c).res 0).places < 16) (leave (pushRecord s c 0 r))
    else .next (leave s)

/-! Copies (R193, R194). -/

/-- A shape record read for a command: COUNT0 to COUNT2, SSTRIDE1 and 2, DSTRIDE1 and 2, and the last field. -/
def shapeFields (n : Nat) : List Nat := (List.range 8).map fun i => n / 2 ^ (32 * i) % 2 ^ 32

/-- The 32-byte record a local pointer names can be read in this clock, or the pointer is bad (R170, R192). -/
def recordFree (s : State) (p : Word) : Bool :=
  localPtr p 32 32 != 0 || chanFree s s.cur.core s.cur.slot (ptrAddr p) 32

/-- Read the shape record of a command (R192, R193). -/
def readShape (s : State) (c ch : Nat) (p : Word) : Except Nat (List Nat) × State :=
  let st := localPtr p 32 32
  if st ≠ 0 then (.error st, s)
  else
    match chanRead s c ch (ptrKey p) (ptrAddr p) 32 with
    | (.error st, s) => (.error st, s)
    | (.ok n, s) => if n / 2 ^ 224 ≠ 0 then (.error stField, s) else (.ok (shapeFields n), s)

/-- The highest element index of a pattern with its strides. -/
def topIndex (counts strides : List Nat) : Nat :=
  (counts.getD 0 1 - 1) + (counts.getD 1 1 - 1) * strides.getD 0 0 + (counts.getD 2 1 - 1) * strides.getD 1 0

/-- The elements of a pattern. -/
def patternTotal (counts : List Nat) : Nat := counts.getD 0 1 * counts.getD 1 1 * counts.getD 2 1

/-- The checks of a fat pointer of a copy (R25). -/
def sideStatus (p : Word) : Nat :=
  match ptrE p with
  | none => stFormat
  | some e => if ptrAddr p % e.align ≠ 0 then stMisaligned else 0

/-- The range test of the elements 0 to `top` a pointer names. -/
def sideRange (s : State) (job : Nat) (p : Word) (top : Nat) : Nat :=
  match ptrE p with
  | none => stFormat
  | some e =>
    let r := arrayRange e (ptrBlog p) (ptrAddr p) top
    rangeStatus s job r.1 r.2

/-- The first status that is not 0. -/
def firstBad (l : List Nat) : Nat := (l.find? (· != 0)).getD 0

/-- A copy moves the bits of its elements (R194). -/
def CopyRun.same (r : CopyRun) : Bool := ptrTop r.src == ptrTop r.dst && r.op != .fill && r.op != .stream

/-- The block length of the destination. -/
def dstBlock (p : Word) : Nat :=
  match ptrE p with
  | some e => e.blockLen (ptrBlog p)
  | none => 1

/-- Start the watermark of a command that fills a local range (R195). -/
def withMark (s : State) (c ch : Nat) (r : CopyRun) (top : Nat) : State :=
  match ptrE r.dst with
  | none => s
  | some e =>
    let lim := arrayRange e (ptrBlog r.dst) (ptrAddr r.dst) top
    if ptrAddr r.dst < 0x80000 then s.updChan c ch fun x => { x with wm := some lim } else s

/-- An affine copy or fill that has its pattern (R194, R195). -/
def startAffine (s : State) (c ch : Nat) (r : CopyRun) : Except Nat CopyRun × State :=
  let job := (chanEnt s c ch).job
  let total := patternTotal r.counts
  let fill := r.op == .fill
  let r := { r with total := total, limit := total }
  let l := dstBlock r.dst
  let st := firstBad [if fill then 0 else sideStatus r.src, sideStatus r.dst]
  if st ≠ 0 then (.error st, s)
  else if r.same && (r.counts.getD 0 1 :: (r.sstr ++ r.dstr)).any (fun n => n % l != 0) then (.error stMisaligned, s)
  else if total = 0 then (.ok r, s)
  else
    let st := firstBad [if fill then 0 else sideRange s job r.src (topIndex r.counts r.sstr),
      sideRange s job r.dst (topIndex r.counts r.dstr)]
    if st ≠ 0 then (.error st, s) else (.ok r, withMark s c ch r (topIndex r.counts r.dstr))

/-- CCOPY (R194). -/
def execCcopy (h : CmdHdr) (src dst : Word) (count : BitVec 32) (s : State) : Host.Outcome State Fault Refusal :=
  startCmd (.ccopy h src dst count) h 0x01 (fun s => startAffine s s.cur.core s.cur.slot
    { h := h, opcode := 0x01, op := .affine, src := src, dst := dst, counts := [count.toNat, 1, 1]
      sstr := [0, 0], dstr := [0, 0] }) s

/-- A copy with a shape record: `two` asks for the limits of CCOPY2 (R193). -/
def startShaped (two : Bool) (opcode : Nat) (h : CmdHdr) (src dst shape : Word) (s : State) :
    Except Nat CopyRun × State :=
  let c := s.cur.core
  let ch := s.cur.slot
  match readShape s c ch shape with
  | (.error st, s) => (.error st, s)
  | (.ok f, s) =>
    let g : Nat → Nat := fun i => f.getD i 0
    if two && (g 2 != 1 || g 4 != 0 || g 6 != 0) then (.error stField, s)
    else
      startAffine s c ch { h := h, opcode := opcode, op := .affine, src := src, dst := dst, counts := [g 0, g 1, g 2]
                           sstr := [g 3, g 4], dstr := [g 5, g 6] }

/-- CCOPY2 (R194). -/
def execCcopy2 (h : CmdHdr) (src dst shape : Word) (s : State) : Host.Outcome State Fault Refusal :=
  if recordFree s shape then startCmd (.ccopy2 h src dst shape) h 0x02 (startShaped true 0x02 h src dst shape) s
  else .refused .notEnabled

/-- CCOPY3 (R194). -/
def execCcopy3 (h : CmdHdr) (src dst shape : Word) (s : State) : Host.Outcome State Fault Refusal :=
  if recordFree s shape then startCmd (.ccopy3 h src dst shape) h 0x03 (startShaped false 0x03 h src dst shape) s
  else .refused .notEnabled

/-- CFILL (R194). -/
def execCfill (h : CmdHdr) (value dst : Word) (count : BitVec 32) (s : State) : Host.Outcome State Fault Refusal :=
  startCmd (.cfill h value dst count) h 0x04 (fun s => startAffine s s.cur.core s.cur.slot
    { h := h, opcode := 0x04, op := .fill, src := value, dst := dst, counts := [count.toNat, 1, 1]
      sstr := [0, 0], dstr := [0, 0] }) s

/-- A gather or scatter (R192, R194): the list and the consecutive side are tested before any access. -/
def startListed (gather : Bool) (opcode : Nat) (h : CmdHdr) (src dst : Word) (count listkey list : Nat) (s : State) :
    Except Nat CopyRun × State :=
  let c := s.cur.core
  let ch := s.cur.slot
  let job := (chanEnt s c ch).job
  let r : CopyRun :=
    { h := h, opcode := opcode, op := if gather then .gather else .scatter, src := src, dst := dst
      counts := [count, 1, 1], sstr := [0, 0], dstr := [0, 0], total := count, limit := count, lists := list, lkey := listkey }
  let l := dstBlock dst
  let st := firstBad [sideStatus src, sideStatus dst, if list % 4 ≠ 0 then stMisaligned else 0,
    if r.same && count % l != 0 then stMisaligned else 0]
  if st ≠ 0 then (.error st, s)
  else if count = 0 then (.ok r, s)
  else
    let st := firstBad [rangeStatus s job list (list + 4 * count - 1),
      sideRange s job (if gather then dst else src) (count - 1)]
    if st ≠ 0 then (.error st, s)
    else (.ok r, if gather then withMark s c ch r (count - 1) else s)

/-- CGATHER (R194). -/
def execCgather (h : CmdHdr) (src dst : Word) (count : BitVec 32) (listkey : BitVec 4) (list : BitVec 19) (s : State) :
    Host.Outcome State Fault Refusal :=
  startCmd (.cgather h src dst count listkey list) h 0x05
    (startListed true 0x05 h src dst count.toNat listkey.toNat list.toNat) s

/-- CSCATTER (R194). -/
def execCscatter (h : CmdHdr) (src dst : Word) (count : BitVec 32) (listkey : BitVec 4) (list : BitVec 19) (s : State) :
    Host.Outcome State Fault Refusal :=
  startCmd (.cscatter h src dst count listkey list) h 0x06
    (startListed false 0x06 h src dst count.toNat listkey.toNat list.toNat) s

/-! Elements. -/

/-- Where the source and destination elements of element i of the loop order lie (indices), and whether a block starts
(R194): `entry` is its list entry. -/
def CopyRun.indices (r : CopyRun) (i entry : Nat) : Nat × Nat × Bool :=
  let l := dstBlock r.dst
  match r.op with
  | .gather => (entry, i, i % l == 0)
  | .scatter => (i, entry, i % l == 0)
  | _ =>
    let c0 := r.counts.getD 0 1
    let c1 := r.counts.getD 1 1
    let i0 := i % c0
    let i1 := i / c0 % c1
    let i2 := i / (c0 * c1)
    (i0 + i1 * r.sstr.getD 0 0 + i2 * r.sstr.getD 1 0, i0 + i1 * r.dstr.getD 0 0 + i2 * r.dstr.getD 1 0, i0 % l == 0)

/-- The location of an element of a pointer. -/
def locOf (p : Word) (index : Nat) : Option (EFmt × ELoc) :=
  (ptrE p).map fun e => (e, elementLoc e (ptrBlog p) (ptrAddr p) index)

/-- The source of element i; a fill and a drained word have none. -/
def CopyRun.srcLoc (r : CopyRun) (i entry : Nat) : Option (EFmt × ELoc) :=
  if r.op = .fill ∨ (r.op = .stream ∧ r.wdir) then none else locOf r.src (r.indices i entry).1

/-- The destination of element i; an element of a refill has none. -/
def CopyRun.dstLoc (r : CopyRun) (i entry : Nat) : Option (EFmt × ELoc) :=
  if r.op = .stream ∧ !r.wdir then none else locOf r.dst (r.indices i entry).2.1

/-- The metadata an element is encoded with stands at its destination (R194). -/
def CopyRun.dstMeta (r : CopyRun) (i entry : Nat) : Option Nat :=
  if r.same then none else (r.dstLoc i entry).bind fun p => p.2.metaAt

/-- Element i begins a block whose metadata moves with it. -/
def CopyRun.startsBlock (r : CopyRun) (i entry : Nat) : Bool :=
  r.same && (r.indices i entry).2.2 && (r.dstLoc i entry).any fun p => p.2.metaAt.isSome

/-- The places an access of an element is made for: the source element, the metadata of its block, the metadata of the
destination block, a streamed word, a write. -/
def roleSrc : Nat := 0
def roleSrcMeta : Nat := 1
def roleDstMeta : Nat := 2
def roleWord : Nat := 8
def roleWrite : Nat := 15

/-- The location of an element follows another in one unit: the same aligned 8 bytes (R202), or the same byte where `byte` asks for
it. -/
def follows (byte : Bool) (a b : Option (EFmt × ELoc)) : Bool :=
  match a, b with
  | some (e, x), some (_, y) =>
    let u := if byte then 1 else 8
    8 * y.byte + y.bit == 8 * x.byte + x.bit + e.width && y.byte / u == x.byte / u
  | none, none => true
  | _, _ => false

/-- How many of some further elements join one another in turn. -/
def joined (ok : Nat → Bool) : Nat → Nat → Nat
  | 0, _ => 0
  | n + 1, i => if ok i then 1 + joined ok n (i + 1) else 0

/-- The elements that one read covers from the next one on: their source bytes lie in one aligned 8 bytes (R202), in whichever blocks
they and their destinations are. Those of a list or of a stream are read one by one. -/
def CopyRun.readSpan (r : CopyRun) : Nat :=
  let ok (i : Nat) : Bool := i < r.limit && follows false (r.srcLoc (i - 1) 0) (r.srcLoc i 0)
  match r.op with
  | .affine | .fill => 1 + joined ok 15 (r.ridx + 1)
  | _ => 1

/-- The step that read an element. -/
def CopyRun.stepOf (r : CopyRun) (i : Nat) : Option CopyStep := r.steps.find? fun x => x.idx ≤ i && i < x.idx + x.n

/-- The list entry of an element whose reads have been issued. -/
def CopyRun.entryOf (r : CopyRun) (i : Nat) : Nat :=
  match r.stepOf i with
  | some x => x.entries.getD (i - x.idx) 0
  | none => 0

/-- What an element needs has been read. -/
def CopyRun.ready (r : CopyRun) (i : Nat) : Bool := (r.stepOf i).any fun x => x.waits.isEmpty

/-- The destination has 4-bit elements. -/
def nibbled (p : Word) : Bool := (ptrE p).any fun e => e.width == 4

/-- The elements that one write covers from the next one on: their destination lies in one aligned 8 bytes (R202), or in one byte
for 4-bit elements (R194). Those of a scatter and of a stream are written one by one. -/
def CopyRun.writeSpan (r : CopyRun) : Nat :=
  let ok (i : Nat) : Bool :=
    i < r.limit && !r.startsBlock i (r.entryOf i) &&
    ((r.dstLoc (i - 1) (r.entryOf (i - 1))).bind (·.2.metaAt)) == ((r.dstLoc i (r.entryOf i)).bind (·.2.metaAt)) &&
    follows (nibbled r.dst) (r.dstLoc (i - 1) (r.entryOf (i - 1))) (r.dstLoc i (r.entryOf i))
  match r.op with
  | .scatter | .stream | .near => 1
  | _ => 1 + joined ok 15 (r.idx + 1)

/-- What a step has read for a role. -/
def CopyStep.got (x : CopyStep) (role : Nat) : Nat :=
  match x.reads.find? fun p => p.1 == role with
  | some p => p.2.toNat
  | none => 0

/-- What a step has read of the metadata of an element: at the last element of the step up to it for which it was read. -/
def CopyStep.metaOf (x : CopyStep) (role i : Nat) : Nat :=
  ((List.range (i - x.idx + 1)).reverse.findSome? fun j =>
    (x.reads.find? fun p => p.1 == 16 * j + role).map (·.2.toNat)).getD 0

/-- The metadata a step reads for a role: where those of its elements stand, `place`, changes from one element to the next. The role
carries the element, counted from the first of the step. -/
def CopyStep.headsOf (x : CopyStep) (role : Nat) (place : Nat → Option (Nat × Nat)) : List (Nat × Nat × Nat) :=
  (List.range x.n).filterMap fun j =>
    if j = 0 ∨ place j ≠ place (j - 1) then (place j).map fun p => (p.1, p.2, 16 * j + role) else none

/-- The reads of a step: address, size and role. Its source is read at once (R202), and the metadata of each block that its elements
lie in; those of a block that a copy of one format begins move with it (R194). -/
def CopyRun.readsOf (r : CopyRun) (x : CopyStep) : List (Nat × Nat × Nat) :=
  let entry (j : Nat) : Nat := x.entries.getD j 0
  let from_ (j : Nat) : Option (EFmt × ELoc) := r.srcLoc (x.idx + j) (entry j)
  let srcMeta (j : Nat) : Option (Nat × Nat) := (from_ j).bind fun p => p.2.metaAt.bind fun m =>
    if !r.same || r.startsBlock (x.idx + j) (entry j) then some (m, p.1.meta) else none
  let dstMeta (j : Nat) : Option (Nat × Nat) := (r.dstLoc (x.idx + j) (entry j)).bind fun p =>
    (r.dstMeta (x.idx + j) (entry j)).map fun m => (m, p.1.meta)
  (match from_ 0, from_ (x.n - 1) with
    | some (_, l), some (_, z) => [(l.byte, z.byte + z.size - l.byte, roleSrc)]
    | _, _ => []) ++ x.headsOf roleSrcMeta srcMeta ++ x.headsOf roleDstMeta dstMeta

/-- The bits of a source element in what its step has read. -/
def CopyRun.codeOf (r : CopyRun) (x : CopyStep) (i : Nat) : Nat :=
  match r.srcLoc x.idx (x.entries.getD 0 0), r.srcLoc i (r.entryOf i) with
  | some (e, l), some (_, z) => x.got roleSrc / 2 ^ (8 * (z.byte - l.byte) + z.bit) % 2 ^ e.width
  | _, _ => 0

/-- The code written to the destination of an element (R194). A drained word is encoded as STE does it (R199), with R38 at the version
of the list (R37); no rule flushes a subnormal result of another copy, and none is flushed: R38 speaks of a context's operations (log
entry 31). -/
def CopyRun.newCode (r : CopyRun) (x : CopyStep) (i : Nat) : Nat :=
  match r.dstLoc i (r.entryOf i) with
  | none => 0
  | some (d, _) =>
    let m := x.metaOf roleDstMeta i
    match r.op with
    | .fill => (d.encode m false (steValue d r.src)).1
    | .stream => (d.encode m r.flush (steValue d (wordOf (x.got roleWord)))).1
    | _ =>
      if r.same then r.codeOf x i
      else match r.srcLoc i (r.entryOf i) with
        | some (e, _) => (d.encode m false (e.decode (r.codeOf x i) (x.metaOf roleSrcMeta i))).1
        | none => 0

/-- Metadata as the device writes it (R23): the bits of a grouped block above its zero point are zero. -/
def metaBytes (e : EFmt) (v : Nat) : List Byte :=
  if e.meta = 4 then natBytes 4 (v % 2 ^ 16 + v / 2 ^ 16 % 2 ^ e.width * 2 ^ 16) else natBytes e.meta v

/-- The write of n elements from the next one on (R194, R202): their bytes in one access, or a byte with its mask. -/
def CopyRun.packed (r : CopyRun) (n : Nat) : Option (Nat × MsgAct) :=
  let at_ (j : Nat) : Option (ELoc × Nat) := match r.dstLoc (r.idx + j) (r.entryOf (r.idx + j)), r.stepOf (r.idx + j) with
    | some (e, l), some x => some (l, r.newCode x (r.idx + j) % 2 ^ e.width)
    | _, _ => none
  match (List.range n).filterMap at_ with
  | [] => none
  | (l, v) :: rest =>
    let all := (l, v) :: rest
    let sum (f : ELoc × Nat → Nat) : Nat := (all.map f).foldl (· + ·) 0
    let last := (all.getLastD (l, v)).1
    some (l.byte,
      if nibbled r.dst then
        .nibble (BitVec.ofNat 8 (sum fun p => p.2 * 2 ^ p.1.bit)) (BitVec.ofNat 8 (sum fun p => 15 * 2 ^ p.1.bit))
      else .store (natBytes (last.byte + last.size - l.byte) (sum fun p => p.2 * 2 ^ (8 * (p.1.byte - l.byte)))))

/-- The writes of n elements from the next one on, in order: block metadata, then the elements. -/
def CopyRun.writesOf (r : CopyRun) (n : Nat) : List (Nat × MsgAct) :=
  let entry := r.entryOf r.idx
  let mt : List (Nat × MsgAct) := match r.dstLoc r.idx entry, r.stepOf r.idx with
    | some (e, l), some x => (match l.metaAt with
      | some m => if r.startsBlock r.idx entry then [(m, .store (metaBytes e (x.metaOf roleSrcMeta r.idx)))] else []
      | none => [])
    | _, _ => []
  mt ++ (r.packed n).toList

/-- The running command of a channel. -/
def chanRun (s : State) (c ch : Nat) : Option CopyRun := (s.chan c ch).run

/-- Change the running command of a channel. -/
def updRun (s : State) (c ch : Nat) (f : CopyRun → CopyRun) : State := s.updChan c ch fun x => { x with run := x.run.map f }

/-- One access of a channel for an element of its running command: to its own scratchpad by itself (R144), elsewhere through the
mesh. `note` keeps its identity. -/
def chanAccess (s : State) (c ch va key i role : Nat) (act : MsgAct) (flag : Option Nat) (note : Nat → CopyRun → CopyRun) : State :=
  let e := chanEnt s c ch
  let own := regionOf va == .spad
  let (h, s) := engineHome s c e.job va (if act.posted then .write else .read)
  match h with
  | none => updRun s c ch fun r => r.fail i stXlate
  | some h =>
    let (id, s) := sendMsg s { issuer := chanIssuer s c ch, act := act, home := h, va := va, key := key, flag := flag
                               launch := if own then 0 else e.launch, job := e.job, elem := elemAt i role, direct := own }
    updRun s c ch (note id)

/-- Make accesses in order until one faults. -/
def chanAll {α : Type} (c ch : Nat) (f : α → State → State) : List α → State → State
  | [], s => s
  | a :: r, s =>
    let before := (chanRun s c ch).bind (·.fault)
    let s := f a s
    if (chanRun s c ch).bind (·.fault) = before then chanAll c ch f r s else s

/-- The flag of a command's writes. -/
def CopyRun.flag (r : CopyRun) : Option Nat := if r.h.flagen then some r.h.flag.toNat else none

/-- A list entry names an element that R150 does not allow (R194): the elements before it are still moved. -/
def CopyRun.badEntry (r : CopyRun) (i st : Nat) : CopyRun := { r.fail i st with drains := r.fault.isNone || r.drains }

/-- The channel issues no further access for the command (R196). -/
def CopyRun.stopped (r : CopyRun) : Bool := r.fault.isSome && !r.drains

/-- A command walks a list. -/
def CopyRun.listed (r : CopyRun) : Bool := r.op == .gather || r.op == .scatter

/-- The place of the list entry of the next element to read. -/
def CopyRun.entryAt (r : CopyRun) : Nat := r.lists + 4 * r.ridx

/-- The test of the element a list entry names, with its metadata (R194). -/
def entryStatus (s : State) (job : Nat) (p : Word) (entry : Nat) : Nat :=
  match locOf p entry with
  | some (e, l) => firstBad [rangeStatus s job l.byte (l.byte + l.size - 1), match l.metaAt with
    | some m => rangeStatus s job m (m + e.meta - 1)
    | none => 0]
  | none => stFormat

/-- The list entry of the next element, read and tested; [] for a command without a list, and on a failure its status and whether it
is that of the element the entry names. -/
def readEntry (s : State) (c ch : Nat) (r : CopyRun) : Except (Nat × Bool) (List Nat) × State :=
  if r.listed then
    match chanRead s c ch r.lkey r.entryAt 4 with
    | (.error st, s) => (.error (st, false), s)
    | (.ok m, s) =>
      let st := entryStatus s (chanEnt s c ch).job (if r.op = .gather then r.src else r.dst) m
      (if st ≠ 0 then .error (st, true) else .ok [m], s)
  else (.ok [], s)

/-- A step is appended to those of the command, and its reads are made. -/
def makeReads (s : State) (c ch : Nat) (r : CopyRun) (x : CopyStep) : State :=
  let s := updRun s c ch fun r => { r with steps := r.steps ++ [x], ridx := x.idx + x.n }
  let note (id : Nat) (r : CopyRun) : CopyRun :=
    { r with steps := updWhere (fun y => y.idx == x.idx) (fun y => { y with waits := y.waits ++ [id] }) r.steps }
  chanAll c ch (fun q s =>
    chanAccess s c ch q.1 (ptrKey (if q.2.2 % 16 = roleDstMeta then r.dst else r.src)) (x.idx + q.2.2 / 16) (q.2.2 % 16) (.load q.2.1 false) none note)
    (r.readsOf x) s

/-- The next reads of a command are issued. -/
def issueReads (s : State) (c ch : Nat) (r : CopyRun) : State :=
  match readEntry s c ch r with
  | (.error (st, named), s) => updRun s c ch fun r => if named then r.badEntry r.ridx st else r.fail r.ridx st
  | (.ok es, s) => makeReads s c ch r { idx := r.ridx, n := r.readSpan, entries := es }

/-- The next writes of a command are issued (R194). -/
def issueWrites (s : State) (c ch : Nat) (r : CopyRun) : State :=
  let n := r.writeSpan
  let ws := r.writesOf n
  let high := (ws.map fun q => q.1 + q.2.size).foldl max 0
  let s := updRun s c ch fun r =>
    { r with
      idx := r.idx + n
      steps := r.steps.filter fun x => r.idx + n < x.idx + x.n
      writes := r.writes ++ [{ idx := r.idx, high := high }] }
  let note (id : Nat) (x : CopyRun) : CopyRun :=
    { x with writes := updWhere (fun w => w.idx == r.idx) (fun w => { w with waits := w.waits ++ [id] }) x.writes }
  chanAll c ch (fun q s => chanAccess s c ch q.1 (ptrKey r.dst) r.idx roleWrite q.2 r.flag note) ws s

/-- A command can issue its next reads in this clock. -/
def canRead (s : State) (c ch : Nat) (r : CopyRun) : Bool := !r.stopped && r.ridx < r.limit && (!r.listed || chanFree s c ch r.entryAt 4)

/-- A command can issue its next writes: what they need has been read. -/
def CopyRun.canWrite (r : CopyRun) : Bool := !r.stopped && r.idx < r.limit && (List.range r.writeSpan).all fun j => r.ready (r.idx + j)

/-- What is left to read of the vector of an NGEMV: of its elements, and of the metadata of its blocks, whose first bytes lie in the same
aligned 8 as those of the next one to read. They are read at once (R202, R321); a block's metadata come before its elements. -/
def vectorReads (r : CopyRun) : List ArrRead :=
  match ptrE r.vptr with
  | none => []
  | some e =>
    let cols := r.counts.getD 0 0
    let len := e.blockLen (ptrBlog r.vptr)
    let loc (i : Nat) : List ELoc := if i < cols then [elementLoc e (ptrBlog r.vptr) (ptrAddr r.vptr) i] else []
    let elems : List ArrRead := ((List.range 16).flatMap fun j => loc (r.ridx + j)).map fun l =>
      { addr := l.byte, size := l.size, key := ptrKey r.vptr, bit := l.bit, width := e.width }
    let heads : List ArrRead := ((List.range 8).flatMap fun j => loc ((r.vmeta.length + j) * len)).filterMap fun l =>
      l.metaAt.map fun m => { addr := m, size := e.meta, key := ptrKey r.vptr, width := 8 * e.meta, block := true }
    let next := (if r.vmeta.length * len ≤ r.ridx then heads.head? else none).orElse fun _ => elems.head?
    match next with
    | none => []
    | some n =>
      let near (x : ArrRead) : Bool := x.addr / 8 == n.addr / 8
      heads.takeWhile near ++ elems.takeWhile near

/-- The bytes of the next read of the vector. -/
def vectorPieces (r : CopyRun) : List (Nat × Nat) := (vectorReads r).map fun x => (x.addr, x.size)

/-- The pieces are free for a channel. -/
def piecesFree (s : State) (c ch : Nat) (ps : List (Nat × Nat)) : Bool :=
  ps.all (fun p => !wmBlocks (s.core c) (some ch) p.1 p.2) && granted (s.core c) 2 ps

/-- A part of the vector of an NGEMV is read; a fault ends the command with no row written (R322). -/
def readVector (s : State) (c ch : Nat) (r : CopyRun) : State :=
  let rs := vectorReads r
  match engineUnit (takeBanks s c 2 (vectorPieces r)) (chanIssuer s c ch) c rs with
  | (some st, s) => updRun s c ch fun r => r.fail 0 st
  | (none, s) =>
    let values (block : Bool) : List Nat := (rs.filter (·.block == block)).map (·.value (s.core c).spad)
    updRun s c ch fun r =>
      { r with ridx := r.ridx + (values false).length, vec := r.vec ++ values false, vmeta := r.vmeta ++ values true }

/-- The request of an NGEMV that has read its vector; it waits while the unit holds 256 (R321). -/
def askNear (s : State) (c ch : Nat) (r : CopyRun) : State :=
  let q : NearReq := { core := c, ch := ch, vec := r.vec, vmeta := r.vmeta, rows := r.total, cols := r.counts.getD 0 0
                       stride := r.counts.getD 1 0, matrix := r.src, vptr := r.vptr, dst := r.dst, nbv2 := (chanEnt s c ch).nbv2, row := r.served }
  updRun { s with near := mupd s.near r.stack [] (· ++ [q]) } c ch fun r => { r with asked := true }

/-- The stack of a mapped virtual address of a job; none where the translation fails. -/
def stackOf (s : State) (die job va : Nat) : Option Nat × State :=
  match engXlate s die job va .read with
  | (.ok pa, s) => (some (pa / 2 ^ 36), s)
  | (.error _, s) => (none, s)

/-- The pages of the smallest size that hold a byte of a range: an address in each. -/
def pagesOf (first last : Nat) : List Nat :=
  let page := levelSize 3
  (List.range (last / page - first / page + 1)).map fun i => max first ((first / page + i) * page)

/-- No stack is known yet. -/
def noStack : Nat := 99

/-- The stack of some virtual addresses, and of those that gave one before: 0x06 for a failed translation, 0x05 for two stacks. -/
def oneStack (s : State) (die job : Nat) (was : Nat) (vas : List Nat) : Except Nat Nat × State :=
  vas.foldl
    (fun (r : Except Nat Nat × State) va =>
      match r.1 with
      | .error _ => r
      | .ok st =>
        match stackOf r.2 die job va with
        | (none, s) => (.error stXlate, s)
        | (some x, s) => (if st = noStack ∨ st = x then .ok x else .error stStraddle, s)) (.ok was, s)

/-- An address in each page that holds a byte of a row of a matrix, its metadata included (R321). -/
def rowPages (p : Word) (first n : Nat) : List Nat :=
  match locOf p first, locOf p (first + n - 1) with
  | some (e, a), some (_, b) =>
    let metas : List Nat := ((List.range ((n + 31) / 32 + 1)).filterMap fun i =>
      (locOf p (min (first + 32 * i) (first + n - 1))).bind fun q => q.2.metaAt).flatMap fun m => pagesOf m (m + e.meta - 1)
    (metas ++ pagesOf a.byte (b.byte + b.size - 1)).dedup
  | _, _ => []

/-- The rows of the matrix of an NGEMV, as many as n, whose pages are tested in one clock (R321): up to a miss, or to a failure of the
command. -/
def probeRows (die job : Nat) : Nat → CopyRun → State → CopyRun × State
  | 0, r, s => (r, s)
  | n + 1, r, s =>
    match oneStack s die job r.stack (rowPages r.src (r.probe * r.counts.getD 1 0) (r.counts.getD 0 0)) with
    | (.ok st, s) => probeRows die job n { r with probe := r.probe + 1, stack := st } s
    | (.error st, s) => (if s.held.isSome then r else r.fail 0 st, s)

/-- An NGEMV tests that every byte of its matrix lies in one stack (R321). What it has found stays known while a page of a later row is
walked, so that a matrix need not have all its pages in the TLB at once. -/
def probeClock (s : State) (c ch : Nat) (r : CopyRun) : State :=
  let (r', t) := probeRows (coreDie c) (chanEnt s c ch).job (r.total - r.probe) r s
  if t.held.isSome && r.probe == r'.probe then t else updRun { t with held := s.held } c ch fun _ => r'

/-- What an NGEMV does in a clock before its unit serves it. -/
def nearClock (s : State) (c ch : Nat) (r : CopyRun) : Option State :=
  if r.asked ∨ r.fault.isSome then none
  else if r.probe < r.total then some (probeClock s c ch r)
  else if r.ridx < r.counts.getD 0 0 then
    (if piecesFree s c ch (vectorPieces r) then some (readVector s c ch r) else none)
  else if (mgetD s.near r.stack []).length < 256 then some (askNear s c ch r)
  else none

/-- What a copy does in a clock (log entry 17): the writes it can make, or the next reads, where both are possible by an open
choice. -/
def copyClock (s : State) (c ch : Nat) (r : CopyRun) : Option State :=
  let (n, s') := s.fresh 14
  if r.canWrite && (n % 2 == 0 || !canRead s c ch r) then some (issueWrites s' c ch r)
  else if canRead s c ch r then some (issueReads s' c ch r)
  else none

/-- COPY_ACCESS_PERFORM (R194, R321): the channel issues accesses of its running command. -/
def execCopyAccessPerform (s : State) : Host.Outcome State Fault Refusal :=
  let c := s.cur.core
  let ch := s.cur.slot
  match chanRun s c ch with
  | none => .refused .notEnabled
  | some r =>
    let t : Option State := match r.op with
      | .stream => none
      | .near => nearClock s c ch r
      | _ => copyClock s c ch r
    match t with
    | some t => engineGoes s t
    | none => .refused .notEnabled

/-- The shape record that a channel is to read for the command it starts. -/
def shapeOf : Instr → Option Word
  | .ccopy2 _ _ _ p | .ccopy3 _ _ _ p | .cstream _ _ p _ _ | .ngemv _ _ _ p => some p
  | _ => none

/-- The bytes of its core's scratchpad that a channel asks for in this clock, besides those of its messages (R144). -/
def chanWants (s : State) (c ch : Nat) : List (Nat × Nat) :=
  match wordDue s c ch, (s.chan c ch).run, (s.chan c ch).word with
  | some a, _, _ => if a < 0x80000 then [(a, 32)] else []
  | none, some r, _ =>
    if r.op = .near then
      (if r.asked ∨ r.fault.isSome ∨ r.probe < r.total ∨ r.counts.getD 0 0 ≤ r.ridx ∨ (vectorPieces r).any fun p => wmBlocks (s.core c) (some ch) p.1 p.2 then []
        else vectorPieces r)
    else if r.listed ∧ !r.stopped ∧ r.ridx < r.limit then [(r.entryAt, 4)]
    else []
  | none, none, some w => (match decodeCmd 0 w with
    | .ok i => (match shapeOf i with
      | some p => if localPtr p 32 32 = 0 then [(ptrAddr p, 32)] else []
      | none => [])
    | .error _ => [])
  | none, none, none => []

/-! Control commands (R198). -/

/-- CFLAG (R198): the memory-side unit of the flag's core subtracts. -/
def execCflag (h : CmdHdr) (addr : BitVec 52) (value : BitVec 40) (s : State) : Host.Outcome State Fault Refusal :=
  startCmd (.cflag h addr value) h 0x08 (fun s =>
    let c := s.cur.core
    let ch := s.cur.slot
    let e := chanEnt s c ch
    let a := addr.toNat
    let place : Option (Nat × Nat) := match regionOf a with
      | .flagw => some (c, a - 0x80000)
      | .peerFlag _ => (peerCore s e.job a).map fun p => (p.1, p.2 - 0x80000)
      | _ => none
    match place with
    | none => (.error stXlate, s)
    | some (d, off) =>
      if off % 8 ≠ 0 then (.error stMisaligned, s)
      else
        let (id, s) := sendMsg s { issuer := chanIssuer s c ch, act := .flagSub value.toNat, home := .flagw d (off / 8), va := a
                                   launch := if regionOf a = .flagw then 0 else e.launch, job := e.job }
        (.ok { h := h, opcode := 0x08, op := .affine, outstanding := [id] }, s)) s

/-- CLINK (R198): the list continues at its pointer. -/
def execClink (h : CmdHdr) (next : Word) (s : State) : Host.Outcome State Fault Refusal :=
  startCmd (.clink h next) h 0x09 (fun s =>
    let st := localPtr next 32 32
    if st ≠ 0 then (.error st, s)
    else
      (.ok { h := h, opcode := 0x09, op := .affine },
        s.updChan s.cur.core s.cur.slot fun x => { x with next := some (ptrAddr next), key := ptrKey next })) s

/-- CEND (R198): the list ends. -/
def execCend (h : CmdHdr) (s : State) : Host.Outcome State Fault Refusal :=
  startCmd (.cend h) h 0x0A (fun s =>
    (.ok { h := h, opcode := 0x0A, op := .affine },
      s.updChan s.cur.core s.cur.slot fun x => { x with next := none })) s

/-! Streams (R171, R199). -/

/-- CSTREAM (R199): the register is bound once it is unbound. A command that fails its checks, or has no element, does not wait for that,
and one that waits reads and checks its record when the wait is over: no rule says in which order (log entry 31). -/
def execCstream (h : CmdHdr) (mem shape : Word) (dir : Bool) (stream : BitVec 2) (s : State) :
    Host.Outcome State Fault Refusal :=
  let c := s.cur.core
  let st := stream.toNat
  let bound : Bool := (mgetD (s.core c).streams st {}).mode != 0
  let i : Instr := .cstream h mem shape dir stream
  let go (s : State) : Except Nat CopyRun × State :=
    let ch := s.cur.slot
    match readShape s c ch shape with
    | (.error x, s) => (.error x, s)
    | (.ok f, s) =>
      let g : Nat → Nat := fun i => f.getD i 0
      let counts := [g 0, g 1, g 2]
      let strides := [g 3, g 4]
      let total := patternTotal counts
      let x := firstBad [if g 5 ≠ 0 ∨ g 6 ≠ 0 then stField else 0, sideStatus mem,
        if total = 0 then 0 else sideRange s (chanEnt s c ch).job mem (topIndex counts strides)]
      if x ≠ 0 then (.error x, s)
      else
        let r : CopyRun :=
          { h := h, opcode := 0x07, op := .stream, src := mem, dst := mem, counts := counts, sstr := strides
            dstr := strides, total := total, limit := total, stream := st, wdir := dir, flush := !(chanEnt s c ch).nbv2 }
        (.ok r, if total = 0 then s else s.updCore c fun k =>
          { k with streams := mset k.streams st { mode := if dir then 2 else 1, chan := ch, left := total } })
  -- a command that fails its checks does not wait for the register
  if !recordFree s shape then .refused .notEnabled
  else
  match go s with
  | (.ok r, _) => if bound ∧ r.total ≠ 0 then .refused .notEnabled else startCmd i h 0x07 go s
  | (.error _, _) => startCmd i h 0x07 go s

/-- The stream register of a running CSTREAM, while it is bound to the channel. -/
def boundStream (s : State) (c ch : Nat) : Option (CopyRun × Stream) :=
  match chanRun s c ch with
  | some r =>
    let x := mgetD (s.core c).streams r.stream {}
    if r.op = .stream ∧ r.total ≠ 0 ∧ x.mode ≠ 0 ∧ x.chan = ch then some (r, x) else none
  | none => none

/-- Replace a stream register. -/
def setStream (s : State) (c n : Nat) (x : Stream) : State := s.updCore c fun k => { k with streams := mset k.streams n x }

/-- The first element that a stream waits for has been read. -/
def CopyRun.headRead (r : CopyRun) : Option CopyStep := match r.steps with
  | x :: _ => if x.waits.isEmpty ∧ r.idx < r.limit then some x else none
  | [] => none

/-- An element that has been read enters the buffer as LDE decodes it (R155). -/
def refillWord (s : State) (c ch : Nat) (r : CopyRun) (x : CopyStep) : State :=
  match r.srcLoc x.idx 0 with
  | none => s
  | some (e, _) =>
    let st := mgetD (s.core c).streams r.stream {}
    let w := w64 (elementValue e (r.codeOf x x.idx) (x.got roleSrcMeta))
    let s := setStream s c r.stream { st with words := st.words ++ [w], left := r.total - r.idx - 1 }
    updRun s c ch fun r => { r with idx := r.idx + 1, steps := r.steps.drop 1 }

/-- STREAM_REFILL (R171): a word that has been read enters the buffer, or the next element is read while it has room. -/
def execStreamRefill (s : State) : Host.Outcome State Fault Refusal :=
  let c := s.cur.core
  let ch := s.cur.slot
  match boundStream s c ch with
  | none => .refused .notEnabled
  | some (r, x) =>
    if r.wdir then .refused .notEnabled
    else
      match r.headRead with
      | some y => .next (refillWord s c ch r y)
      | none =>
        if x.words.length + r.steps.length < 8 ∧ !r.stopped ∧ r.ridx < r.limit then engineGoes s (issueReads s c ch r)
        else .refused .notEnabled

/-- A drain takes its word from the buffer and reads the metadata it is encoded with. -/
def takeDrain (s : State) (c ch : Nat) (r : CopyRun) (x : Stream) : State :=
  let s := setStream s c r.stream { x with words := x.words.drop 1, left := r.total - r.ridx - 1 }
  makeReads s c ch r { idx := r.ridx, n := 1, reads := [(roleWord, v128 (x.words.headD 0))] }

/-- STREAM_DRAIN (R171): the write of a drained element is issued, or the next word is taken. -/
def execStreamDrain (s : State) : Host.Outcome State Fault Refusal :=
  let c := s.cur.core
  let ch := s.cur.slot
  match boundStream s c ch with
  | none => .refused .notEnabled
  | some (r, x) =>
    if !r.wdir then .refused .notEnabled
    else if r.canWrite then engineGoes s (issueWrites s c ch r)
    else if !x.words.isEmpty ∧ !r.stopped ∧ r.ridx < r.limit then engineGoes s (takeDrain s c ch r x)
    else .refused .notEnabled

/-! NGEMV (R320 to R322). -/

/-- The limits of an NGEMV record (R320). -/
def ngemvLimits (n : Nat) (matrix vector : Word) : Bool :=
  let rows := n / 2 ^ 64 % 2 ^ 32
  let cols := n / 2 ^ 96 % 2 ^ 32
  let stride := n / 2 ^ 128 % 2 ^ 32
  let multiple (p : Word) : Bool := !isGrouped (ptrFmt p) || cols % 2 ^ ptrBlog p == 0
  n / 2 ^ 160 == 0 && 1 ≤ rows && rows ≤ 1048576 && 32 ≤ cols && cols ≤ 65536 && cols % 32 == 0 &&
    multiple matrix && multiple vector && cols ≤ stride && stride % dstBlock matrix == 0

/-- The formats of an NGEMV (R321). -/
def ngemvFormats (matrix vector dst : Word) : Bool :=
  (ptrE matrix).isSome && (ptrE vector).isSome && tilePair (ptrFmt vector) (ptrFmt matrix) &&
    (!(isGrouped (ptrFmt matrix) && isGrouped (ptrFmt vector)) || ptrBlog matrix == ptrBlog vector) &&
    ptrBlog dst == 0 && ptrFmt dst == (if intPair (ptrFmt vector) (ptrFmt matrix) then 0x03 else 0x05)

/-- The alignment of an NGEMV's pointers (R25). -/
def aligned (p : Word) : Bool :=
  match ptrE p with
  | some e => ptrAddr p % e.align == 0
  | none => false

/-- NGEMV at the channel: its checks in the order of R321, but for the translations of the matrix, which the started command tests row
by row before it reads its vector. -/
def startNgemv (h : CmdHdr) (matrix vector shape : Word) (s : State) : Except Nat CopyRun × State :=
  let c := s.cur.core
  let ch := s.cur.slot
  let e := chanEnt s c ch
  let st := localPtr shape 32 32
  if st ≠ 0 then (.error st, s)
  else
    match chanRead s c ch (ptrKey shape) (ptrAddr shape) 32 with
    | (.error st, s) => (.error st, s)
    | (.ok n, s) =>
      let dst : Word := BitVec.ofNat 64 n
      let rows := n / 2 ^ 64 % 2 ^ 32
      let cols := n / 2 ^ 96 % 2 ^ 32
      let stride := n / 2 ^ 128 % 2 ^ 32
      if !ngemvLimits n matrix vector then (.error stField, s)
      else if !ngemvFormats matrix vector dst then (.error stFormat, s)
      else if !(aligned matrix && aligned vector && aligned dst) then (.error stMisaligned, s)
      else
        match ptrE matrix, ptrE vector, ptrE dst with
        | some em, some ev, some ed =>
          let rm := arrayRange em (ptrBlog matrix) (ptrAddr matrix) ((rows - 1) * stride + cols - 1)
          let rv := arrayRange ev (ptrBlog vector) (ptrAddr vector) (cols - 1)
          let rd := arrayRange ed 0 (ptrAddr dst) (rows - 1)
          let place : Bool := match regionOf rd.1 with
            | .spad | .peerSpad _ | .device => true
            | _ => false
          let st := firstBad [rangeStatus s e.job rm.1 rm.2, if regionOf rm.1 = .device then 0 else stXlate,
            rangeStatus s e.job rv.1 rv.2, if regionOf rv.1 = .spad then 0 else stXlate,
            rangeStatus s e.job rd.1 rd.2, if place then 0 else stXlate]
          if st ≠ 0 then (.error st, s)
          else
            (.ok { h := h, opcode := 0x0B, op := .near, total := rows, limit := rows, counts := [cols, stride]
                   src := matrix, vptr := vector, dst := dst, stack := noStack }, s)
        | _, _, _ => (.error stFormat, s)

/-- NGEMV (R321) starts on its channel. -/
def execNgemv (h : CmdHdr) (matrix vector shape : Word) (s : State) : Host.Outcome State Fault Refusal :=
  if recordFree s shape then startCmd (.ngemv h matrix vector shape) h 0x0B (startNgemv h matrix vector shape) s
  else .refused .notEnabled

/-- Read an element of the matrix in device memory for a near-memory unit: code and metadata, or a status. -/
def nearElem (s : State) (die job : Nat) (p : Word) (index : Nat) : Except Nat (Nat × Nat) × State :=
  let read (s : State) (va n : Nat) : Except Nat Nat × State :=
    match engXlate s die job va .read with
    | (.error _, s) => (.error stXlate, s)
    | (.ok pa, s) =>
      let (ok, s) := hbmCheck s pa n
      (if ok then .ok (memNat s.hbm pa n) else .error stUncorrectable, s)
  match locOf p index with
  | none => (.error stFormat, s)
  | some (e, l) =>
    match read s l.byte l.size with
    | (.error st, s) => (.error st, s)
    | (.ok v, s) =>
      let code := v / 2 ^ l.bit % 2 ^ e.width
      match l.metaAt with
      | none => (.ok (code, 0), s)
      | some m =>
        match read s m e.meta with
        | (.error st, s) => (.error st, s)
        | (.ok v, s) => (.ok (code, v), s)

/-- A row of the matrix as a tile row. -/
def nearRow (s : State) (die job : Nat) (q : NearReq) (row : Nat) : Except Nat TileRow × State :=
  let (r, s) := (List.range q.cols).foldl (fun (r : Except Nat (List (Nat × Nat)) × State) i =>
    match r.1 with
    | .error _ => r
    | .ok l =>
      match nearElem r.2 die job q.matrix (row * q.stride + i) with
      | (.error st, s) => (.error st, s)
      | (.ok x, s) => (.ok (l ++ [x]), s)) (.ok [], s)
  match r, ptrE q.matrix with
  | .ok l, some e =>
    let len := e.blockLen (ptrBlog q.matrix)
    let heads := (l.zipIdx.filter fun p => p.2 % len == 0).map fun p => p.1.2
    (.ok { e := e, len := len, codes := l.map Prod.fst, metas := heads }, s)
  | .error st, _ => (.error st, s)
  | .ok _, none => (.error stFormat, s)

/-- The next row of an NGEMV is read and its result is sent as a posted write (R321); a command that has a fault already sends no
more (R196, R322). -/
def nearServe (q : NearReq) (s : State) : State :=
  let c := q.core
  let ch := q.ch
  match chanRun s c ch, ptrE q.vptr with
  | some r, some ev =>
    let e := chanEnt s c ch
    if r.fault.isSome then s
    else
    (match nearRow s (coreDie c) e.job q q.row with
     | (.error st, s) => updRun s c ch fun r => r.fail q.row st
     | (.ok b, s) =>
       let a : TileRow := { e := ev, len := ev.blockLen (ptrBlog q.vptr), codes := q.vec, metas := q.vmeta }
       let y := (tileDot q.nbv2 a b 0).1
       let va := ptrAddr q.dst + 4 * q.row
       let (h, s) := engineHome s c e.job va .write
       match h with
       | none => updRun s c ch fun r => r.fail q.row stXlate
       | some h =>
         let own := regionOf va == .spad
         let (id, s) := sendMsg s { issuer := chanIssuer s c ch, act := .store (natBytes 4 y), home := h, va := va
                                    key := ptrKey q.dst, flag := r.flag, launch := if own then 0 else e.launch, job := e.job
                                    elem := elemAt q.row roleWrite }
         updRun s c ch fun r => { r with outstanding := r.outstanding ++ [id] })
  | _, _ => s

/-- A command of a near-memory unit belongs to a job that has stopped (R325). -/
def nearHeld (s : State) (q : NearReq) : Bool := jobHeld s (chanEnt s q.core q.ch).job

/-- NGEMV_SERVE (R321): the unit of the stack `cur` names serves the next row of its oldest command (log entry 18), of those whose job
has not stopped (R325); after the last, or a failure, it takes the next command. -/
def execNgemvServe (s : State) : Host.Outcome State Fault Refusal :=
  match (mgetD s.near s.cur.id []).span (nearHeld s) with
  | (_, []) => .refused .notEnabled
  | (wait, q :: rest) =>
    let t := nearServe q s
    let goes : Bool := q.row + 1 < q.rows && (chanRun t q.core q.ch).any fun r => r.fault.isNone
    engineGoes s (if goes then { t with near := mset t.near s.cur.id (wait ++ { q with row := q.row + 1 } :: rest) }
      else updRun { t with near := mset t.near s.cur.id (wait ++ rest) } q.core q.ch fun r => { r with idx := r.total })

/-- The commands of some plains leave the near-memory units in a gang switch: their channels keep how far they were served, and ask
again (R325). -/
def nearAway (s : State) (plains : List Nat) : State :=
  let mine (q : NearReq) : Bool := plains.contains (coreDie q.core)
  let s' := (s.near.flatMap fun n => n.2.filter mine).foldl (fun s q =>
    updRun s q.core q.ch fun r => { r with asked := false, served := q.row }) s
  { s' with near := s.near.map fun n => (n.1, n.2.filter (!mine ·)) }

/-! The end of a command (R196, R197). -/

/-- No access of a command is outstanding. -/
def CopyRun.quiet (r : CopyRun) : Bool :=
  r.outstanding.isEmpty && r.writes.all (fun w => w.waits.isEmpty) && r.steps.all fun x => x.waits.isEmpty

/-- A command has no access left to issue: an NGEMV that has asked its unit once the unit has let it go, another at its limit or after a
failure (R196); what a stream has read before a failure still enters its buffer. -/
def CopyRun.issued (r : CopyRun) : Bool :=
  if r.op == .near && r.asked then r.total ≤ r.idx
  else r.limit ≤ r.idx || (r.stopped && (r.op != .stream || r.wdir))

/-- The running command of a channel has nothing left to do: a read binding ends with the last pop (R171). -/
def runOver (s : State) (c ch : Nat) : Bool :=
  match chanRun s c ch with
  | some r => r.quiet && r.issued && (r.fault.isSome || r.op != .stream || r.wdir || (boundStream s c ch).isNone)
  | none => false

/-- The status of R54 that rejects the word a channel holds. -/
def badWord (s : State) (c ch : Nat) : Option (BitVec 256 × Nat) :=
  let x := s.chan c ch
  match x.word with
  | some w =>
    if x.run.isNone && x.recd.isNone then (match decodeCmd 0 w with
      | .error st => some (w, st)
      | .ok _ => none)
    else none
  | none => none

/-- End a running command with its record. A binding that ends so is undone, and words still in its buffer are lost: the spec
gives them no other end (log entry 31). -/
def endRun (s : State) (c ch : Nat) (r : CopyRun) : State :=
  let s := if r.op = .stream ∧ (boundStream s c ch).isSome then setStream s c r.stream {} else s
  match r.fault with
  | some (i, st) => finishCmd s c ch r.opcode r.h st i r.bytes
  | none =>
    let quiet := r.opcode = 0x07 ∨ r.opcode = 0x08 ∨ r.opcode = 0x09 ∨ r.opcode = 0x0A
    finishCmd s c ch r.opcode r.h 0 (if quiet then 0 else r.total) (if quiet then 0 else r.bytes)

/-- COPY_COMMAND_END (R196, R197): a command whose accesses have returned ends, or a malformed word is rejected
(R54). -/
def execCopyCommandEnd (s : State) : Host.Outcome State Fault Refusal :=
  let c := s.cur.core
  let ch := s.cur.slot
  match badWord s c ch with
  | some (w, st) => .next (finishCmd s c ch (w.toNat % 256) (CmdHdr.ofNat w.toNat) st 0 0)
  | none =>
    match chanRun s c ch with
    | some r => event (runOver s c ch) (endRun s c ch r)
    | none => .refused .notEnabled

end Sys2Proof.Machine
end

