-- ==== Sys2Proof/Machine/Square.lean ====
section
/-! DEFINITION. The square (R235 to R255, R260 to R263): the arbitration of leases, the commands of the product array,
accumulator slots and their versions, and the limiter's wake tokens (R333). -/

namespace Sys2Proof.Machine

/-! Leases (R239, R240). -/

/-- The status of R55 for a command without a lease, an exhausted free list and a guard overflow. -/
def stNoLease : Nat := 0x0A
def stSlots : Nat := 0x0B
def stGuard : Nat := 0x0C

/-- The head of a core's command queue, unless HOLDDISP holds it back (R220). -/
def arrHead (s : State) (c : Nat) : Option CmdEnt :=
  match (s.core c).eq1 with
  | e :: _ => if e.held then none else some e
  | [] => none

/-- A product command has made its reads and comes to its first write, where it stalls while it gets no slot (R247). -/
def ArrRun.poised (r : ArrRun) : Bool := r.reads.isEmpty && !r.codes.isEmpty

/-- A command of a core stalls at its first write: it counts as the head of the core's queue, ahead of those in it (R240, R247). -/
def poisedRun (s : State) (c : Nat) : Bool := (s.square (coreSquare c)).runs.any fun r => r.ent.core == c && r.poised

/-- A core is eligible: it waits, and its head is a leased command. -/
def eligible (s : State) (c : Nat) : Bool :=
  (s.core c).lease.state == .waiting && (poisedRun s c || (match arrHead s c with
    | some e => e.leased
    | none => false))

/-- A core of the square other than `c` is eligible. -/
def otherEligible (s : State) (c : Nat) : Bool :=
  (List.range 8).any fun n => squareCore (coreSquare c) n != c && eligible s (squareCore (coreSquare c) n)

/-- The core of a square that holds the array. -/
def holderOf (s : State) (sq : Nat) : Option Nat :=
  ((List.range 8).map (squareCore sq)).find? fun c => (s.core c).lease.state == .held

/-- A leased command is in the queue of a core, or stalls as its head. -/
def hasLeased (s : State) (c : Nat) : Bool := (s.core c).eq1.any (·.leased) || poisedRun s c

/-- Change the lease of a core. -/
def updLease (s : State) (c : Nat) (f : Lease → Lease) : State := s.updCore c fun k => { k with lease := f k.lease }

/-- The clock of a square's plain: its times are numbers of these clocks (R8, R241). -/
def sqNow (s : State) (sq : Nat) : Nat := (s.die (sq / 256)).clk

/-- The least PASS among the eligible cores of a square, the lowest core number first. -/
def grantee (s : State) (sq : Nat) : Option Nat :=
  ((List.range 8).map (squareCore sq)).foldl (fun (best : Option Nat) c =>
    if eligible s c then
      match best with
      | none => some c
      | some b => if passLt (s.core c).lease.pass (s.core b).lease.pass then some c else best
    else best) none

/-- LEASE_GRANT (R240): the square is that of the core `cur` names. -/
def execLeaseGrant (s : State) : Host.Outcome State Fault Refusal :=
  let sq := coreSquare s.cur.core
  match holderOf s sq, grantee s sq with
  | none, some c =>
    event ((s.square sq).startAt ≤ sqNow s sq)
      ((updLease s c fun l => { l with state := .held, left := l.limit, stall := 0 }).updSquare sq
        fun q => { q with startAt := sqNow s sq + 1 })
  | _, _ => .refused .notEnabled

/-- An end condition of R240 holds for the holder. -/
def turnOver (s : State) (c : Nat) : Bool :=
  let l := (s.core c).lease
  l.state == .held && otherEligible s c && (l.left == 0 || !hasLeased s c || 16 ≤ l.stall)

/-- LEASE_TURN_END (R240): the next grant is made in the next clock. -/
def execLeaseTurnEnd (s : State) : Host.Outcome State Fault Refusal :=
  let sq := coreSquare s.cur.core
  match holderOf s sq with
  | some c =>
    event (turnOver s c)
      ((updLease s c fun l => { l with state := .waiting, stall := 0 }).updSquare sq
        fun q => { q with startAt := sqNow s sq + 1 })
  | none => .refused .notEnabled

/-- Put slots back on the free list; every LAST binding to one of them ends (R244, R254). -/
def freeSlots (s : State) (sq : Nat) (ns : List Nat) : State :=
  let drop (p : Nat × Slot) : Nat × Slot := if ns.contains p.1 then (p.1, { p.2 with alloc := false }) else p
  let s := s.updSquare sq fun q => { q with slots := q.slots.map drop }
  ((List.range 8).map (squareCore sq)).foldl (fun s c => s.updCore c fun k =>
    { k with last := match k.last with
        | some n => if ns.contains n then none else some n
        | none => none }) s

/-- The allocated slots a core owns. -/
def ownedSlots (s : State) (c : Nat) : List Nat :=
  ((s.square (coreSquare c)).slots.filter fun p => p.2.alloc && p.2.owner == coreInSquare c).map Prod.fst

/-- LEASE_RELEASE_DONE (R239): a held turn ends, and after the end of the group the core's slots are freed. -/
def execLeaseReleaseDone (s : State) : Host.Outcome State Fault Refusal :=
  let c := s.cur.core
  let l := (s.core c).lease
  let s' := updLease s c fun l => { l with state := .none, releasing := false, groupEnding := false, stall := 0 }
  let s' := if l.state = .held then
      s'.updSquare (coreSquare c) (fun q => { q with startAt := sqNow s (coreSquare c) + 1 })
    else s'
  event (((l.state != .none && l.releasing) || (l.state == .none && l.groupEnding)) && !hasLeased s c)
    (if l.groupEnding then freeSlots s' (coreSquare c) (ownedSlots s c) else s')

/-! Records (R242). -/

/-- The record of an array command: HANDLE and VERSION, BYTES and AUX. -/
def arrRecord (bytes aux : Nat) (slot : Option (Nat × Nat)) (tag status opcode : Nat) : VWord :=
  record (bytes % 2 ^ 40 * 2 ^ 24 + aux % 2 ^ 24) (match slot with
    | some (n, v) => n + v % 2 ^ 16 * 2 ^ 16
    | none => 0xFFFF) tag status opcode

/-- A record waits for room in the result queue of its core. -/
def queueRecord (s : State) (e : CmdEnt) (v : VWord) : State :=
  s.updSquare (coreSquare e.core) fun q =>
    { q with recs := mupd q.recs (coreInSquare e.core) [] (· ++ [{ group := e.group, launch := e.launch, recd := v }]) }

/-- The records of a core that wait for room. -/
def waitingRecs (s : State) (c : Nat) : List ArrRec := mgetD (s.square (coreSquare c)).recs (coreInSquare c) []

/-- ARRAY_RECORD_PUSH (R56, R242): the record of a group that has ended is discarded. -/
def execArrayRecordPush (s : State) : Host.Outcome State Fault Refusal :=
  let c := s.cur.core
  match waitingRecs s c with
  | [] => .refused .notEnabled
  | r :: rest =>
    let s' := s.updSquare (coreSquare c) fun q => { q with recs := mset q.recs (coreInSquare c) rest }
    let here : Bool := match (s.core c).group with
      | some g => g.id == r.group
      | none => false
    if here then event (((s.core c).res 1).places < 16) (pushRecord s' c 1 r.recd) else .next s'

/-- UNLEASED_COMMAND_REJECT (R239). -/
def execUnleasedCommandReject (s : State) : Host.Outcome State Fault Refusal :=
  let c := s.cur.core
  match arrHead s c with
  | some e =>
    let w := e.word.toNat
    event (!e.leased) (queueRecord (s.updCore c fun k => { k with eq1 := k.eq1.drop 1 }) e
      (arrRecord 0 0 none (w / 2 ^ 32 % 2 ^ 16) stNoLease (w % 256)))
  | none => .refused .notEnabled

/-! Slots (R244 to R247). -/

/-- What a command names: an allocated slot, or a new one. -/
inductive SlotRef where
  | old (n : Nat)
  | new

/-- Resolve a SLOT field (R244); none gets status 0x02. -/
def resolveSlot (s : State) (c : Nat) (h : CmdHdr) (handle : BitVec 16) (newOk : Bool) : Option SlotRef :=
  let slots := (s.square (coreSquare c)).slots
  let old (n : Nat) : Option SlotRef := match mget slots n with
    | some x => if x.alloc then some (.old n) else none
    | none => none
  if handle = 0xFFFF then (if newOk && h.ext == 0 then some .new else none)
  else if handle = 0xFFFE then (s.core c).last.bind old
  else if handle.toNat < 128 then old handle.toNat
  else none

/-- A slot of a core's square. -/
def slotOf (s : State) (c n : Nat) : Slot := mgetD (s.square (coreSquare c)).slots n { owner := 0, ty := .fp32 }

/-- Replace a slot. -/
def setSlot (s : State) (c n : Nat) (x : Slot) : State :=
  s.updSquare (coreSquare c) fun q => { q with slots := mset q.slots n x }

/-- The elements of an empty tile. -/
def zeroTile : List Nat := List.replicate 1024 0

/-- A free slot is to be taken (R246, R247): the lowest, or the command stalls, or the core owns them all. -/
inductive TakeRes where
  | take (n : Nat)
  | stall
  | exhausted

/-- The outcome of R247 now. -/
def takeRes (s : State) (c : Nat) : TakeRes :=
  let slots := (s.square (coreSquare c)).slots
  match (List.range 128).find? fun n => match mget slots n with
      | some x => !x.alloc
      | none => true with
  | some n => .take n
  | none => if slots.any fun p => p.2.owner != coreInSquare c then .stall else .exhausted

/-- Take a slot for a core (R246), bound to its LAST handle. -/
def takeSlot (s : State) (c n : Nat) (ty : SlotTy) : State :=
  (setSlot s c n { owner := coreInSquare c, ty := ty, elems := zeroTile, prods := [0] }).updCore c fun k => { k with last := some n }

/-! The start of a command (R241). -/

/-- What a leased command at the head comes to: it waits, is rejected with a status, or runs for some busy clocks and
some clocks after them. A rejection after the version wait names the slot whose version advances. -/
inductive ArrGo where
  | stall
  | reject (status : Nat) (slot : Option Nat) (s : State)
  | run (busy after : Nat) (r : ArrRun) (s : State)

/-- A square that begins a busy phase now wakes (R333). -/
def wakes (s : State) (sq : Nat) : Bool :=
  let q := s.square sq
  !q.everBusy || q.busyTill + 256 ≤ sqNow s sq

/-- The start needs a token it does not have. -/
def needsToken (s : State) (sq : Nat) : Bool := s.mgmt.limRamp != 0 && wakes s sq && !(s.square sq).token

/-- The busy phase of a command of a core begins (R239, R241): it leaves the queue and counts as a start. -/
def beginBusy (s : State) (c busy after : Nat) (r : ArrRun) : State :=
  let sq := coreSquare c
  let till := sqNow s sq + busy
  let s := s.updCore c fun k =>
    let l := k.lease
    let left := l.left - 1
    { k with
      eq1 := k.eq1.drop 1
      lease := { l with left := if left = 0 ∧ !otherEligible s c then l.limit else left
                        pass := (l.pass + 240 / (if l.weight = 0 then 1 else l.weight)) % 2 ^ 32
                        stall := 0 } }
  s.updSquare sq fun q => { q with
    everBusy := true, busyTill := till, token := false, wantToken := false
    runs := q.runs ++ [{ r with endAt := till + after, after := after, nextAt := sqNow s sq }] }

/-- The head of a core's queue may start now, but for its own waits: its core holds the array, no busy phase goes on, no earlier
command has bytes to read, none of the core stalls, no record waits for room (R240, R241), and the core has not stopped (R325). -/
def mayStart (s : State) (c : Nat) : Option CmdEnt :=
  let sq := s.square (coreSquare c)
  let now := sqNow s (coreSquare c)
  let l := (s.core c).lease
  match arrHead s c with
  | some e =>
    if e.leased && l.state == .held && l.left != 0 && sq.startAt ≤ now && sq.busyTill ≤ now && (waitingRecs s c).isEmpty &&
      (sq.runs.all (·.reads.isEmpty)) && !poisedRun s c && !(s.core c).stopped
    then some e else none
  | none => none

/-- Issue the next writes of a command that is sending (R252, R255), in ascending order. -/
def sendParts (c id : Nat) : Nat → State → State
  | 0, s => s
  | n + 1, s =>
    match (s.square (coreSquare c)).runs.find? fun r => r.ent.id == id with
    | none => s
    | some r =>
      let upd (s : State) (f : ArrRun → ArrRun) : State :=
        s.updSquare (coreSquare c) fun q => { q with runs := updWhere (fun r => r.ent.id == id) f q.runs }
      if r.status ≠ 0 then upd s fun r => { r with parts := [] }
      else
        match r.parts with
        | [] => upd s fun r => match r.bad with
          | some (st, i) => { r with status := st, aux := i }
          | none => r
        | m :: rest =>
          let (h, s) := engineHome s c m.job m.va (match m.act with
            | .atomic _ _ _ _ _ => .atomic
            | _ => .write)
          match h with
          | none => upd s fun r => { r with status := stXlate, aux := m.elem, parts := [] }
          | some h =>
            let m := { m with home := h, launch := if regionOf m.va = .spad then 0 else m.launch }
            sendParts c id n (enginePost (upd s fun r => { r with parts := rest }) m)

/-- A command of a core that is sending can go on in this clock. -/
def sending (s : State) (c id : Nat) (i : Instr) : Bool :=
  match (s.square (coreSquare c)).runs.find? fun r => r.ent.id == id with
  | some r => r.ent.core == c && r.nextAt ≤ sqNow s (coreSquare c) && (!r.parts.isEmpty || (r.bad.isSome && r.status == 0)) &&
      (match decodeCmd 1 r.ent.word with
        | .ok j => j == i
        | .error _ => false)
  | none => false

/-- One clock of sending. -/
def sendClock (s : State) (c id : Nat) : State :=
  let rate := match (s.square (coreSquare c)).runs.find? fun r => r.ent.id == id with
    | some r => r.rate
    | none => 0
  let s := sendParts c id rate s
  s.updSquare (coreSquare c) fun q =>
    { q with runs := updWhere (fun r => r.ent.id == id) (fun r => { r with nextAt := sqNow s (coreSquare c) + 1 }) q.runs }

/-- The meaning of an array command for the core `cur` names: the head starts, waits or is rejected as `f` says; one
that is sending its writes (named by the id of `cur`) goes on. -/
def arrCmd (i : Instr) (h : CmdHdr) (opcode : Nat) (f : CmdEnt → State → ArrGo) (s : State) :
    Host.Outcome State Fault Refusal :=
  let c := s.cur.core
  let sq := coreSquare c
  if sending s c s.cur.id i then engineGoes s (sendClock s c s.cur.id)
  else
    match mayStart s c with
    | none => .refused .notEnabled
    | some e =>
      let isThis : Bool := match decodeCmd 1 e.word with
        | .ok j => j == i
        | .error _ => false
      if !isThis then .refused .notEnabled
      else
        match f e s with
        | .stall => .refused .notEnabled
        | go =>
          -- a square that needs a token asks the limiter for it and waits (R333)
          if needsToken s sq then event (!(s.square sq).wantToken) (s.updSquare sq fun q => { q with wantToken := true })
          else engineGoes s (start s go e)
where
  /-- Begin the busy phase of an outcome. -/
  start (s : State) (go : ArrGo) (e : CmdEnt) : State :=
    let blank : ArrRun := { ent := e, h := h, opcode := opcode }
    match go with
    | .stall => s
    | .reject st slot t => beginBusy t e.core 1 0 { blank with status := st, slot := slot }
    | .run busy after r t => beginBusy t e.core busy after { r with ent := e, h := h, opcode := opcode }

/-- A blank run, to be filled in at its start. -/
def noRun (e : CmdEnt) : ArrRun := { ent := e, h := CmdHdr.ofNat e.word.toNat, opcode := e.word.toNat % 256 }

/-- A word of eq1 that decodes to no command is rejected at its start (R54): its status. -/
def arrBadWord (s : State) (c : Nat) : Option (CmdEnt × Nat) :=
  match mayStart s c with
  | some e =>
    match decodeCmd 1 e.word with
    | .error st => some (e, st)
    | .ok _ => none
  | none => none

/-- Commands that name a slot wait for its version (R245). -/
def withSlot (s : State) (c : Nat) (h : CmdHdr) (handle : BitVec 16) (newOk : Bool) (go : Option Nat → ArrGo) : ArrGo :=
  match resolveSlot s c h handle newOk with
  | none => .reject stField none s
  | some .new => go none
  | some (.old n) => if (slotOf s c n).version = h.ext.toNat then go (some n) else .stall

/-- Take a slot for a command's first write (R247). -/
def withNew (s : State) (c : Nat) (ty : SlotTy) (go : Nat → State → ArrGo) : ArrGo :=
  match takeRes s c with
  | .take n => go n (takeSlot s c n ty)
  | .stall => .stall
  | .exhausted => .reject stSlots none s

/-! Failing words (R263, R337). -/

/-- Read the codes of words of a slot: a transient failure is retried. ERRLAST names a word of the accumulator memory by the id of the
square's core 0 and its byte in the 512 KiB of the square: R339 gives a core id and a local offset (log entry 31, DESIGN CHOICE). -/
def accCheck (s : State) (c slot off n : Nat) : Bool × State :=
  (upsetsIn s [2] (coreSquare c) (4096 * slot + off) n).foldl (fun (r : Bool × State) u =>
    if u.lasting then (false, noteLasting r.2 2 (coreDie c) (squareCore (coreSquare c) 0 * 2 ^ 19 + u.addr) u)
    else (r.1, noteTransient (clearUpset r.2 u))) (true, s)

/-- The parity of a core's operand buffers. -/
def bufCheck (s : State) (c : Nat) : Bool × State :=
  (s.upsets.filter fun u => u.kind == 4 && u.unit == c).foldl (fun (r : Bool × State) u =>
    if u.lasting then (false, noteLasting r.2 2 (coreDie c) (c * 2 ^ 19) u)
    else (r.1, noteTransient (clearUpset r.2 u))) (true, s)

/-! Operand loads (R248). -/

/-- The issuer of an array command's accesses. -/
def arrIssuer (e : CmdEnt) : Issuer := .arr e.core e.id e.slot e.gen

/-- The reads of a row of elements: each element, and before the first of a block its metadata. -/
def rowReads (p : Word) (first n : Nat) : List ArrRead :=
  (List.range n).flatMap fun i => match locOf p (first + i) with
    | none => []
    | some (e, l) =>
      (match l.metaAt with
        | some m =>
          if i % e.blockLen (ptrBlog p) = 0 then [{ addr := m, size := e.meta, key := ptrKey p, width := 8 * e.meta, block := true }]
          else []
        | none => []) ++ [{ addr := l.byte, size := l.size, key := ptrKey p, bit := l.bit, width := e.width }]

/-- The reads of the 32 rows of an operand, in order. -/
def operandReads (p : Word) (stride n : Nat) : List ArrRead := (List.range 32).flatMap fun row => rowReads p (row * stride) n

/-- A watermark covers a byte of some reads (R170, R236). -/
def readsBlocked (k : Core) (rs : List ArrRead) : Bool :=
  k.chans.any (fun x => x.2.wm.isSome) && rs.any fun r => wmBlocks k none r.addr r.size

/-- The bytes of some reads in order, where one read follows another in the same bytes (of two 4-bit elements) once. -/
def readBytes : Option Nat → List ArrRead → Nat
  | _, [] => 0
  | last, r :: rs => (if last = some r.addr then 0 else r.size) + readBytes (some r.addr) rs

/-- The bytes of a read. -/
def ArrRead.piece (r : ArrRead) : Nat × Nat := (r.addr, r.size)

/-- The access that a read belongs to: the aligned 8 bytes it lies in, which an array command reads at once (R202), and its list, since
the images of a product are read one after the other, though they may share bytes (R260). -/
def ArrRead.unit (r : ArrRead) : Nat × Bool := (r.addr / 8, r.block)

/-- The accesses that a clock makes, in the order of their first reads: as many as it takes to 64 bytes (R202, R241). `last`
is the address of the read before and its list, since two 4-bit elements of one byte are read once. -/
def nextUnits : Nat → Option (Nat × Bool) → List (Nat × Bool) → List ArrRead → List (Nat × Bool)
  | _, _, us, [] => us
  | room, last, us, r :: rs =>
    let left := if last = some (r.addr, r.block) then room else room - r.size
    if us.contains r.unit then nextUnits left (some (r.addr, r.block)) us rs
    else if room = 0 then us
    else nextUnits left (some (r.addr, r.block)) (us ++ [r.unit]) rs

/-- The reads of a command in some units. -/
def readsIn (us : List (Nat × Bool)) (rs : List ArrRead) : List ArrRead := rs.filter fun r => us.contains r.unit

/-- The reads of a command in some units can be made in this clock: no watermark holds them back, and their banks grant them (R144,
R170, R236). -/
def unitsFree (k : Core) (us : List (Nat × Bool)) (rs : List ArrRead) : Bool :=
  (readsIn us rs).all fun r => !wmBlocks k none r.addr r.size && granted k 1 [r.piece]

/-- The first of some units that can be read in this clock. -/
def freeUnits (k : Core) (rs : List ArrRead) (us : List (Nat × Bool)) : List (Nat × Bool) := us.takeWhile fun u => unitsFree k [u] rs

/-- Make the accesses of some units through the memory-side unit of the core, up to the first that fails: its status. -/
def takeReads (e : CmdEnt) (rs : List ArrRead) : List (Nat × Bool) → State → Option Nat × State
  | [], s => (none, s)
  | u :: us, s =>
    match engineUnit s (arrIssuer e) e.core (readsIn [u] rs) with
    | (some st, s) => (some st, s)
    | (none, s) => takeReads e rs us s

/-- The run of a core's command. -/
def runOf (s : State) (c id : Nat) : Option ArrRun := (s.square (coreSquare c)).runs.find? fun r => r.ent.id == id

/-- Change the run of a core's command. -/
def updArrRun (s : State) (c id : Nat) (f : ArrRun → ArrRun) : State :=
  s.updSquare (coreSquare c) fun q => { q with runs := updWhere (fun r => r.ent.id == id) f q.runs }

/-- A command waits for a slot at its first write (R247): a PMUL with the new-slot handle. -/
def slotWait (s : State) (r : ArrRun) : Bool :=
  r.ent.word.toNat % 256 == 0x28 && r.slot.isNone && (match takeRes s r.ent.core with
    | .stall => true
    | _ => false)

/-- A command that stalled at its first write goes on: its core holds the array and the stall is over (R245, R247). -/
def mayWrite (s : State) (r : ArrRun) : Bool := r.poised && (s.core r.ent.core).lease.state == .held && !slotWait s r

/-- A command of a core that reads can go on in this clock, or one that stalled at its first write. -/
def reading (s : State) (c id : Nat) (i : Instr) : Bool :=
  match runOf s c id with
  | some r => r.ent.core == c && r.nextAt ≤ sqNow s (coreSquare c) &&
      (mayWrite s r || r.reads.head?.any (fun x => unitsFree (s.core c) [x.unit] r.reads)) &&
      (match decodeCmd 1 r.ent.word with
        | .ok j => j == i
        | .error _ => false)
  | none => false

/-- One clock of reading, in units of an aligned 8 bytes (R202); after its last read the command does its work, unless it has to wait
for a slot. A read that fails ends the reading with its status. -/
def readClock (s : State) (c id : Nat) (fin : ArrRun → State → (ArrRun → ArrRun) × State) : State :=
  match runOf s c id with
  | none => s
  | some r =>
    let us := freeUnits (s.core c) r.reads (nextUnits 64 none [] r.reads)
    let rs := readsIn us r.reads
    let now := sqNow s (coreSquare c)
    match takeReads r.ent rs us (takeBanks s c 1 (rs.map ArrRead.piece)) with
    | (some st, s) => updArrRun s c id fun _ => { r with nextAt := now + 1, reads := [], status := st, codes := [], metas := [] }
    | (none, s) =>
      let values (block : Bool) : List Nat := (rs.filter (·.block == block)).map (·.value (s.core r.ent.core).spad)
      let r' : ArrRun := { r with
        reads := r.reads.filter fun x => !us.contains x.unit, nextAt := now + 1
        codes := r.codes ++ values false, metas := r.metas ++ values true }
      if r'.reads.isEmpty && !slotWait s r' then
        let (f, s) := fin r' s
        updArrRun s c id fun _ => { f r' with codes := [], metas := [] }
      else updArrRun s c id fun _ => r'

/-- The meaning of an array command that reads the scratchpad: it goes on with its reads, or starts as `arrCmd` says. -/
def readCmd (i : Instr) (h : CmdHdr) (opcode : Nat) (f : CmdEnt → State → ArrGo)
    (fin : ArrRun → State → (ArrRun → ArrRun) × State) (s : State) : Host.Outcome State Fault Refusal :=
  if reading s s.cur.core s.cur.id i then .next (readClock s s.cur.core s.cur.id fin) else arrCmd i h opcode f s

/-- The busy phase goes on while a command has bytes to read, or stalls at its first write with its core holding the array (R241, R245,
R247): R241's clocks are those without contention. -/
def holdBusy (s : State) (sq : Nat) : State :=
  let now := sqNow s sq
  let open_ (r : ArrRun) : Bool := !r.reads.isEmpty || r.poised
  let busy (r : ArrRun) : Bool := open_ r && (!r.poised || (s.core r.ent.core).lease.state == .held)
  if !((s.square sq).runs.any open_) then s
  else s.updSquare sq fun q => { q with
    busyTill := if q.runs.any busy then max q.busyTill (now + 1) else q.busyTill
    runs := q.runs.map fun r => if open_ r then { r with endAt := max r.endAt (now + 1 + r.after) } else r }

/-- Lists of n. -/
def operandRows (n : Nat) (l : List Nat) : List (List Nat) := (List.range 32).map fun i => (l.drop (i * n)).take n

/-- TLDA and TLDB: `set` puts the buffer in its place, which is unloaded until the last byte has been read. Of a source outside the
local scratchpad whose range leaves its region the range is tested first, with 0x05: R248 gives that 0x06 no place among its checks (log
entry 31, DESIGN CHOICE). -/
def goLoad (set : Core → Option OpBuf → Core) (h : CmdHdr) (src : Word) (stride : BitVec 32) (kbm1 : BitVec 2)
    (e : CmdEnt) (s : State) : ArrGo :=
  let c := e.core
  let k := 32 * (kbm1.toNat + 1)
  let stride := stride.toNat
  let unloaded := s.updCore c fun k => set k none
  if h.ext ≠ 0 then .reject stField none unloaded
  else
    match ptrE src, tileClass (ptrFmt src) with
    | some f, some _ =>
      let len := f.blockLen (ptrBlog src)
      let rg := arrayRange f (ptrBlog src) (ptrAddr src) (31 * stride + k - 1)
      let st := firstBad [if aligned src then 0 else stMisaligned, if stride < k ∨ stride % len ≠ 0 then stField else 0,
        rangeStatus s e.job rg.1 rg.2, if regionOf rg.1 = .spad then 0 else stXlate]
      if st ≠ 0 then .reject st none unloaded
      else if readsBlocked (s.core c) (operandReads src stride k) then .stall
      else
        let rs := operandReads src stride k
        .run ((readBytes none rs + 63) / 64) 8 { noRun e with reads := rs } unloaded
    | _, _ => .reject stFormat none unloaded

/-- The last byte of an operand has been read: the buffer is loaded (R248). -/
def finLoad (set : Core → Option OpBuf → Core) (src : Word) (kbm1 : BitVec 2) (r : ArrRun) (s : State) : (ArrRun → ArrRun) × State :=
  let kb := kbm1.toNat + 1
  let len := match ptrE src with
    | some f => f.blockLen (ptrBlog src)
    | none => 1
  let b : OpBuf := { fmt := ptrFmt src, blog := ptrBlog src, kb := kb, codes := operandRows (32 * kb) r.codes
                     metas := operandRows (if r.metas.isEmpty then 0 else (32 * kb + len - 1) / len) r.metas }
  (id, s.updCore r.ent.core fun k => set k (some b))

/-- TLDA (R248). -/
def execTlda (h : CmdHdr) (src : Word) (stride : BitVec 32) (kbm1 : BitVec 2) (s : State) :
    Host.Outcome State Fault Refusal :=
  let set (k : Core) (b : Option OpBuf) : Core := { k with bufA := b }
  readCmd (.tlda h src stride kbm1) h 0x20 (goLoad set h src stride kbm1) (finLoad set src kbm1) s

/-- TLDB (R248). -/
def execTldb (h : CmdHdr) (src : Word) (stride : BitVec 32) (kbm1 : BitVec 2) (s : State) :
    Host.Outcome State Fault Refusal :=
  let set (k : Core) (b : Option OpBuf) : Core := { k with bufB := b }
  readCmd (.tldb h src stride kbm1) h 0x21 (goLoad set h src stride kbm1) (finLoad set src kbm1) s

/-! Tile products (R249, R250). -/

/-- Row i of an operand buffer. -/
def OpBuf.row (b : OpBuf) (f : EFmt) (i : Nat) : TileRow :=
  { e := f, len := f.blockLen b.blog, codes := b.codes.getD i [], metas := b.metas.getD i [] }

/-- The new elements of a tile, and whether one was clamped. -/
def tileMul (v2 : Bool) (a b : OpBuf) (fa fb : EFmt) (acc : List Nat) : List Nat × Bool :=
  let r := (List.range 1024).zip acc |>.map fun p => tileDot v2 (a.row fa (p.1 / 32)) (b.row fb (p.1 % 32)) p.2
  (r.map Prod.fst, r.any Prod.snd)

/-- The group of an operand of a grouped format. -/
def OpBuf.group (b : OpBuf) : Option Nat := if isGrouped b.fmt then some (2 ^ b.blog) else none

/-- The checks of TMMA before its version wait (R250). -/
def tmmaStatus (a b : OpBuf) : Nat :=
  let whole (o : OpBuf) : Bool := match o.group with
    | some g => 32 * o.kb % g == 0
    | none => true
  if a.kb ≠ b.kb then stField
  else if !tilePair a.fmt b.fmt then stFormat
  else if a.group.isSome && b.group.isSome && a.group != b.group then stFormat
  else if !(whole a && whole b) then stMisaligned
  else 0

/-- Busy clocks of a TMMA (R249). -/
def tmmaClocks (a b : OpBuf) : Nat :=
  let n (f : Nat) : Nat := match tileClass f with
    | some c => c.clocks
    | none => 0
  a.kb * max (n a.fmt) (n b.fmt)

/-- TMMA: each element of a tile whose read failed keeps its value or takes its new one (R250): an open choice. FRESH
leaves SAT, GUARD, SPLIT and WIDTH of the slot (log entry 29). A tile whose read failed leaves SAT, also where a new element that it keeps
was clamped, and a parity failure of an operand buffer leaves TYPE and the elements of an existing slot, also for FRESH: no rule says what
becomes of them (R250, R263; log entry 31, DESIGN CHOICE). -/
def goTmma (h : CmdHdr) (handle : BitVec 16) (fresh : Bool) (e : CmdEnt) (s : State) : ArrGo :=
  let c := e.core
  match (s.core c).bufA, (s.core c).bufB with
  | some a, some b =>
    let st := tmmaStatus a b
    if st ≠ 0 then .reject st none s
    else
      match eFmtOf a.fmt a.blog, eFmtOf b.fmt b.blog with
      | some fa, some fb =>
        let kind : SlotTy := if intPair a.fmt b.fmt then .int32 else .fp32
        let go (n : Nat) (isNew : Bool) (s : State) : ArrGo :=
          let x := slotOf s c n
          let clear := isNew || fresh
          if !clear && x.ty != kind then .reject stField (some n) s
          else
            let (okBuf, s) := bufCheck s c
            let (okAcc, s) := if clear then (true, s) else accCheck s c n 0 4096
            if !okBuf then .run (tmmaClocks a b) 12 { noRun e with slot := some n, status := stUncorrectable } s
            else
              let old := if clear then zeroTile else x.elems
              let (new, sat) := tileMul e.nbv2 a b fa fb old
              if okAcc then
                .run (tmmaClocks a b) 12 { noRun e with slot := some n, fresh := isNew }
                  (setSlot s c n { x with ty := kind, sat := x.sat || sat, elems := new })
              else
                let (pick, s) := s.fresh 7
                let mixed := (new.zip old).zipIdx.map fun p => if pick / 2 ^ p.2 % 2 = 1 then p.1.1 else p.1.2
                .run (tmmaClocks a b) 12 { noRun e with slot := some n, status := stUncorrectable }
                  (setSlot s c n { x with elems := mixed })
        withSlot s c h handle true fun
          | none => withNew s c kind fun n s => go n true s
          | some n => go n false s
      | _, _ => .reject stFormat none s
  | _, _ => .reject stField none s

/-- TMMA (R250). -/
def execTmma (h : CmdHdr) (slot : BitVec 16) (fresh : Bool) (s : State) : Host.Outcome State Fault Refusal :=
  arrCmd (.tmma h slot fresh) h 0x22 (goTmma h slot fresh) s

/-- The slot type of a TYPE field (R251). -/
def slotTy (ty : BitVec 2) : Option SlotTy :=
  match ty.toNat with
  | 0 => some .fp32
  | 1 => some .int32
  | 2 => some .poly
  | _ => none

/-- TZPS. TYPE 3 is rejected before the handle is resolved and without the wait of R245, so the version stays: R251 does not say when
it is tested (log entry 31, DESIGN CHOICE). -/
def goTzps (h : CmdHdr) (handle : BitVec 16) (ty : BitVec 2) (e : CmdEnt) (s : State) : ArrGo :=
  let c := e.core
  match slotTy ty with
  | none => .reject stField none s
  | some t =>
    withSlot s c h handle true fun
      | none => withNew s c t fun n s => .run 16 0 { noRun e with slot := some n, fresh := true } s
      | some n =>
        let x := slotOf s c n
        .run 16 0 { noRun e with slot := some n }
          (setSlot s c n { owner := x.owner, ty := t, version := x.version, elems := zeroTile, prods := [0] })

/-- TZPS (R251). -/
def execTzps (h : CmdHdr) (slot : BitVec 16) (ty : BitVec 2) (s : State) : Host.Outcome State Fault Refusal :=
  arrCmd (.tzps h slot ty) h 0x23 (goTzps h slot ty) s

/-- TREL. -/
def goTrel (h : CmdHdr) (handle : BitVec 16) (e : CmdEnt) (s : State) : ArrGo :=
  withSlot s e.core h handle false fun
    | none => .reject stField none s
    | some n => .run 1 0 { noRun e with slot := some n, frees := true } s

/-- TREL (R254). -/
def execTrel (h : CmdHdr) (slot : BitVec 16) (s : State) : Host.Outcome State Fault Refusal :=
  arrCmd (.trel h slot) h 0x26 (goTrel h slot) s

/-! Stores (R252, R253, R255). -/

/-- A write of a command: index, address and action. -/
structure ArrPart where
  elem : Nat
  va : Nat
  act : MsgAct

/-- Two 4-bit writes of one byte travel as one (R194). -/
def joinNibbles : List ArrPart → List ArrPart
  | p :: q :: r => match p.act, q.act with
    | .nibble a m, .nibble b n =>
      if p.va = q.va then { p with act := .nibble (a ||| b) (m ||| n) } :: joinNibbles r else p :: joinNibbles (q :: r)
    | _, _ => p :: joinNibbles (q :: r)
  | l => l

/-- Elements that are stored next to each other in one aligned 8 bytes travel as one write (R202, R252, R262), which goes by the
index of the first. -/
def joinStores : List ArrPart → List ArrPart
  | [] => []
  | p :: r => match joinStores r with
    | [] => [p]
    | q :: r => match p.act, q.act with
      | .store a, .store b =>
        if q.va = p.va + a.length ∧ q.va / 8 = p.va / 8 then { p with act := .store (a ++ b) } :: r else p :: q :: r
      | _, _ => p :: q :: r

/-- Run a command that sends writes: `reads` names for each write the bytes of the slot it is made from. A write whose
slot bytes fail their read ends the command there. -/
def runParts (s : State) (e : CmdEnt) (h : CmdHdr) (n : Nat) (dst : Word) (busy rate aux : Nat) (ps : List ArrPart)
    (reads : ArrPart → Nat × Nat) : ArrGo :=
  let c := e.core
  let (good, bad, s) := ps.foldl (fun (r : List ArrPart × Option (Nat × Nat) × State) p =>
    match r.2.1 with
    | some _ => r
    | none =>
      let (ok, s) := if r.2.2.upsets.isEmpty then (true, r.2.2) else accCheck r.2.2 c n (reads p).1 (reads p).2
      if ok then (r.1 ++ [p], none, s) else (r.1, some (stUncorrectable, p.elem), s)) ([], none, s)
  let msg (p : ArrPart) : Msg :=
    { issuer := arrIssuer e, act := p.act, home := .lost, va := p.va, key := ptrKey dst
      flag := if h.flagen then some h.flag.toNat else none, launch := e.launch, job := e.job, elem := p.elem }
  .run busy 0 { noRun e with slot := some n, parts := (joinStores (joinNibbles good)).map msg, rate := rate, bad := bad, aux := aux } s

/-- The test of a destination range (R150, R252, R253). -/
def destStatus (s : State) (job : Nat) (first last : Nat) (atomic : Bool) : Nat :=
  firstBad [rangeStatus s job first last, if atomic && regionOf first == .host then stXlate else 0]

/-- The 8-byte words of a slot's images, as writes to an address (R252). -/
def imageParts (prods : List Nat) (base : Nat) : List ArrPart :=
  prods.zipIdx.flatMap fun p => (List.range 18).map fun i =>
    { elem := 18 * p.2 + i, va := base + 144 * p.2 + 8 * i, act := .store (natBytes 8 (p.1 / 2 ^ (64 * i))) }

/-- The elements of a tile as accesses of `act` to an array of a format (R252, R253). -/
def tileParts (e : EFmt) (base stride : Nat) (act : Nat → MsgAct) (elems : List Nat) : List ArrPart :=
  elems.zipIdx.map fun p =>
    let i := p.2 / 32 * stride + p.2 % 32
    { elem := i, va := (elementLoc e 0 base i).byte, act := act p.1 }

/-- What TSTO or TADDS writes of a slot of a type into a format (R252, R253); none for another combination. -/
def tileAct (add : Bool) (ty : SlotTy) (e : EFmt) : Option (Nat → MsgAct) :=
  match add, ty, e with
  | false, .fp32, .flt .fp32 | false, .int32, .int 32 => some fun v => .store (natBytes 4 v)
  | false, .fp32, .flt .bf16 => some fun v => .store (natBytes 2 (FFmt.bf16.ne (FFmt.fp32.decode v)))
  | false, .fp32, .flt .fp16 => some fun v => .store (natBytes 2 (FFmt.fp16.ne (FFmt.fp32.decode v)))
  | true, .fp32, .flt .fp32 => some fun v => .atomic .fadd false (wordOf v) 0 false
  | true, .int32, .int 32 => some fun v => .atomic .add false (wordOf v) 0 false
  | _, _, _ => none

/-- TSTO and TADDS: the checks are made after the version wait. A malformed destination pointer of a TADDS gets 0x03 as R252 gives it to
a TSTO: R253 names 0x02 alone (log entry 31, DESIGN CHOICE). -/
def goStore (add : Bool) (h : CmdHdr) (handle : BitVec 16) (dst : Word) (stride : BitVec 32) (e : CmdEnt) (s : State) :
    ArrGo :=
  let c := e.core
  let base := ptrAddr dst
  let stride := stride.toNat
  withSlot s c h handle false fun
    | none => .reject stField none s
    | some n =>
      let x := slotOf s c n
      match ptrE dst with
      | none => .reject (if ptrTop dst = 0 then stField else stFormat) (some n) s
      | some f =>
        if x.ty = .poly ∧ !add then
          let st := firstBad [if f = .int 64 then 0 else stField, if stride = 0 then 0 else stField,
            if aligned dst then 0 else stMisaligned, destStatus s e.job base (base + 144 * x.prods.length - 1) false]
          if st ≠ 0 then .reject st (some n) s
          else runParts s e h n dst 32 3 0 (imageParts x.prods base) fun p => (8 * p.elem, 8)
        else
          match tileAct add x.ty f with
          | none => .reject stField (some n) s
          | some act =>
            let rg := arrayRange f 0 base (31 * stride + 31)
            let st := firstBad [if stride < 32 then stField else 0, if aligned dst then 0 else stMisaligned,
              destStatus s e.job rg.1 rg.2 add]
            if st ≠ 0 then .reject st (some n) s
            else runParts s e h n dst 32 32 0 (tileParts f base stride act x.elems)
              fun p => (4 * (32 * (p.elem / stride) + p.elem % stride), 4)

/-- TSTO (R252). -/
def execTsto (h : CmdHdr) (slot : BitVec 16) (dst : Word) (stride : BitVec 32) (s : State) :
    Host.Outcome State Fault Refusal :=
  arrCmd (.tsto h slot dst stride) h 0x24 (goStore false h slot dst stride) s

/-- TADDS (R253). -/
def execTadds (h : CmdHdr) (slot : BitVec 16) (dst : Word) (stride : BitVec 32) (s : State) :
    Host.Outcome State Fault Refusal :=
  arrCmd (.tadds h slot dst stride) h 0x25 (goStore true h slot dst stride) s

/-! Polynomials (R260 to R262). -/

/-- The digits of an operand at a width under a capacity (R260). -/
def polyDigits (x : Int) (w cap : Nat) : List Int := (List.range (cap / w)).map (polyExtract x w)

/-- The lowest offending index of a product (R261), if its guard holds. -/
def guardIndex (w cap : Nat) (a b : Int) (coeffs : List Int) : Option Nat :=
  let da := polyDigits a w cap
  let db := polyDigits b w cap
  match coeffs.findIdx? fun x => !inGuard x w with
  | some i => some i
  | none =>
    match (List.range (cap / w)).find? fun i => !inGuard (da.getD i 0) w || !inGuard (db.getD i 0) w with
    | some i => some i
    | none => if polyPack w da = a ∧ polyPack w db = b then none else some (cap / w)

/-- The images of an operand: 72 bytes each (R257). -/
def imagesOf (n count : Nat) : List Int := (List.range count).map fun q => sextN (n / 2 ^ (576 * q)) 576

/-- The products of PMUL and PMAC, with the earlier products and running coefficients (none for PMUL). -/
def polyProducts (w cap : Nat) (as bs : List Int) (old : List (Nat × List Int)) : List (Nat × List Int × Option Nat) :=
  (as.zip bs).zipIdx.map fun p =>
    let (a, b) := p.1
    let (p0, c0) := old.getD p.2 (0, [])
    let cs := polyMul.addL c0 (polyMul (polyDigits a w cap) (polyDigits b w cap))
    (lowBits (a * b + p0) 1152, cs, guardIndex w cap a b cs)

/-- The lowest offending product and index of some products. -/
def firstGuard (l : List (Nat × List Int × Option Nat)) : Option (Nat × Nat) :=
  l.zipIdx.findSome? fun p => p.1.2.2.map fun i => (p.2, i)

/-- The failure report of a guard overflow (R261). -/
def guardValue (slot q i : Nat) : Word := wordOf (slot + q * 2 ^ 16 + i * 2 ^ 32)

/-- The words of the images that PMUL and PMAC read, A's before B's, which are kept apart as the second list. -/
def imageReads (a b : Word) (count : Nat) : List ArrRead :=
  let words (second : Bool) (p : Word) : List ArrRead := (List.range (9 * count)).map fun i =>
    { addr := ptrAddr p + 8 * i, size := 8, key := ptrKey p, width := 64, block := second }
  words false a ++ words true b

/-- PMUL and PMAC, up to their reads. Their pointers are checked before the wait for the version, which a rejection by them leaves:
R245 does not list R260 (log entry 31, DESIGN CHOICE). -/
def goPoly (mac : Bool) (h : CmdHdr) (handle : BitVec 16) (split : Bool) (a b : Word) (e : CmdEnt) (s : State) : ArrGo :=
  let c := e.core
  let count := if split then 4 else 1
  let st := firstBad [localPtr a 8 (72 * count), localPtr b 8 (72 * count)]
  if st ≠ 0 then .reject st none s
  else
    withSlot s c h handle (!mac) fun ref =>
      let x : Slot := match ref with
        | some n => slotOf s c n
        | none => { owner := 0, ty := .poly }
      let run : ArrRun := { noRun e with slot := ref, reads := imageReads a b count }
      if ref.isSome && mac && x.ty == .poly && x.width != 0 && (x.width != e.width || x.split != split) then
        match ref with
        | some n => .run 1 24 { noRun e with slot := some n, status := stGuard, report := some (guardValue n 0 0) }
            (setSlot s c n { x with guard := true })
        | none => .stall
      else if x.ty ≠ .poly then .reject stField ref s
      else if readsBlocked (s.core c) run.reads then .stall
      else .run 1 24 run s

/-- A number made of its 64-bit words. -/
def ofWords (l : List Nat) : Nat := l.foldr (fun w n => w + 2 ^ 64 * n) 0

/-- The images of PMUL and PMAC have been read: the products are written to the slot, a new one being taken now, if there is one (R246, R247,
R260). -/
def finPoly (mac split : Bool) (r : ArrRun) (s : State) : (ArrRun → ArrRun) × State :=
  let e := r.ent
  let c := e.core
  let count := if split then 4 else 1
  let cap := if split then 288 else 576
  let go (n : Nat) (isNew : Bool) (s : State) : (ArrRun → ArrRun) × State :=
    let x := slotOf s c n
    let adds := mac && !isNew && x.width != 0
    let (ok, s) := if adds then accCheck s c n 0 (144 * x.prods.length) else (true, s)
    if !ok then (fun r => { r with slot := some n, status := stUncorrectable }, s)
    else
      let l := polyProducts e.width cap (imagesOf (ofWords r.codes) count) (imagesOf (ofWords r.metas) count)
        (if adds then x.prods.zip x.coeffs else [])
      let bad := firstGuard l
      let s := setSlot s c n { x with
        ty := .poly, width := e.width, split := split, guard := bad.isSome || (mac && x.guard)
        prods := l.map Prod.fst, coeffs := l.map fun p => p.2.1 }
      (fun r => match bad with
        | none => { r with slot := some n, fresh := isNew }
        | some (q, i) => { r with slot := some n, fresh := isNew, status := stGuard, aux := q * 2 ^ 16 + i
                                  report := some (guardValue n q i) }, s)
  match r.slot, takeRes s c with
  | some n, _ => go n false s
  | none, .take n => go n true (takeSlot s c n .poly)
  | none, _ => (fun r => { r with status := stSlots }, s)

/-- PMUL (R260). -/
def execPmul (h : CmdHdr) (slot : BitVec 16) (split : Bool) (a b : Word) (s : State) :
    Host.Outcome State Fault Refusal :=
  readCmd (.pmul h slot split a b) h 0x28 (goPoly false h slot split a b) (finPoly false split) s

/-- PMAC (R260). -/
def execPmac (h : CmdHdr) (slot : BitVec 16) (split : Bool) (a b : Word) (s : State) :
    Host.Outcome State Fault Refusal :=
  readCmd (.pmac h slot split a b) h 0x29 (goPoly true h slot split a b) (finPoly true split) s

/-- The words of an image of `len` bits that hold the bits coefficient j is extracted from (R258): the first and last. -/
def coeffWords (len w j : Nat) : Nat × Nat :=
  let lo := j * w - 1
  if len ≤ lo then (len / 64 - 1, len / 64 - 1) else (lo / 64, min (j * w + w - 1) (len - 1) / 64)

/-- PEXTB (R262). A misaligned destination is rejected before COUNT is looked at: R262 gives no order (log entry 31, DESIGN CHOICE). -/
def goPextb (h : CmdHdr) (handle : BitVec 16) (product : BitVec 2) (first count : BitVec 16) (dst : Word)
    (e : CmdEnt) (s : State) : ArrGo :=
  let c := e.core
  let q := product.toNat
  let n := count.toNat
  let base := ptrAddr dst
  withSlot s c h handle false fun
    | none => .reject stField none s
    | some slot =>
      let x := slotOf s c slot
      if x.ty ≠ .poly ∨ (q ≠ 0 ∧ !x.split) then .reject stField (some slot) s
      else
        match ptrE dst with
        | some (.int wd) =>
          let f : EFmt := .int wd
          let rg := arrayRange f 0 base (n - 1)
          let st := firstBad [if aligned dst then 0 else stMisaligned, if n = 0 then 0 else destStatus s e.job rg.1 rg.2 false]
          if st ≠ 0 then .reject st (some slot) s
          else
            let p := sextN (x.prods.getD q 0) 1152
            let vals := (List.range n).map fun i => if x.width = 0 then 0 else polyExtract p x.width (first.toNat + i)
            let parts := vals.zipIdx.map fun v =>
              let l := elementLoc f 0 base v.2
              let code := lowBits (satInt v.1 wd true) wd
              let act : MsgAct := if wd = 4 then .nibble (BitVec.ofNat 8 (code * 2 ^ l.bit)) (BitVec.ofNat 8 (15 * 2 ^ l.bit))
                else .store (natBytes l.size code)
              ({ elem := v.2, va := l.byte, act := act } : ArrPart)
            let clamped := (vals.filter fun v => satInt v wd true != v).length
            runParts s e h slot dst ((n + 7) / 8) 8 clamped parts fun p =>
              if x.width = 0 then (0, 0)
              else
                let ws := coeffWords 1152 x.width (first.toNat + p.elem)
                (144 * q + 8 * ws.1, 8 * (ws.2 + 1 - ws.1))
        | _ => .reject stFormat (some slot) s

/-- PEXTB (R262). -/
def execPextb (h : CmdHdr) (slot : BitVec 16) (product : BitVec 2) (first count : BitVec 16) (dst : Word) (s : State) :
    Host.Outcome State Fault Refusal :=
  arrCmd (.pextb h slot product first count dst) h 0x2A (goPextb h slot product first count dst) s

/-! The end of a command (R241, R242, R245). -/

/-- A command of a core whose completion column is met. -/
def runEnded (s : State) (r : ArrRun) : Bool :=
  r.endAt ≤ sqNow s (coreSquare r.ent.core) && r.reads.isEmpty && !r.poised && r.parts.isEmpty && r.outstanding.isEmpty && (r.bad.isNone || r.status != 0)

/-- ARRAY_COMMAND_END (R241, R245): the oldest command of the core that has ended; or the head, when its word is no
command, is rejected at its start, which is a busy phase and takes a token as any (R333). -/
def execArrayCommandEnd (s : State) : Host.Outcome State Fault Refusal :=
  let c := s.cur.core
  let sq := coreSquare c
  match (s.square sq).runs.find? fun r => r.ent.core == c && runEnded s r with
  | some r =>
    let s := s.updSquare sq fun q => { q with runs := q.runs.filter fun x => x.ent.id != r.ent.id }
    let s := match r.slot with
      | some n => setSlot s c n { slotOf s c n with version := ((slotOf s c n).version + 1) % 2 ^ 16 }
      | none => s
    let ver := r.slot.map fun n => (n, (slotOf s c n).version)
    let s := match r.slot with
      | some n => if r.frees then freeSlots s sq [n] else s
      | none => s
    let s := match r.report with
      | some v => queueFail s c r.ent.slot r.ent.gen { cause := Cause.guard.code, value := v }
      | none => s
    let quiet := r.status = stField ∨ r.status = 1
    let v := arrRecord r.bytes (if quiet then 0 else r.aux) ver r.h.tag.toNat r.status r.opcode
    .next (if r.status ≠ 0 ∨ r.h.result ∨ r.fresh then queueRecord s r.ent v else s)
  | none =>
    match arrBadWord s c with
    | some (e, st) =>
      if needsToken s sq then event (!(s.square sq).wantToken) (s.updSquare sq fun q => { q with wantToken := true })
      else .next (beginBusy s c 1 0 { noRun e with status := st })
    | none => .refused .notEnabled

/-- A square's clock ends: the holder's head has stalled in it, or not (R240). -/
def stallClock (s : State) (sq : Nat) (stalled : Bool) : State :=
  match holderOf s sq with
  | some c => updLease s c fun l => { l with stall := if stalled then l.stall + 1 else 0 }
  | none => s

/-! The limiter (R333). -/

/-- Squares that wait for a token, in the order they are served. -/
def tokenQueue (s : State) : List Nat :=
  let waiting := (s.squares.filter fun p => p.2.wantToken).map Prod.fst
  waiting.filter (fun q => s.mgmt.lastDie < q / 256) ++ waiting.filter fun q => q / 256 ≤ s.mgmt.lastDie

/-- LIMITER_TOKEN_RENEW (R333): the tokens are renewed at each multiple of 64 counts, and the squares that wait take those that
are left, in their order. -/
def execLimiterTokenRenew (s : State) : Host.Outcome State Fault Refusal :=
  let now := s.ptime / 64
  let have_ := if s.mgmt.tokenAt < now then s.mgmt.limRamp else s.mgmt.tokens
  let q := tokenQueue s
  let served := if s.mgmt.limRamp = 0 then q else q.take have_
  let takeIn (p : Nat × Square) : Nat × Square :=
    if served.contains p.1 then (p.1, { p.2 with token := true, wantToken := false }) else p
  let s' : State := { s with
    squares := s.squares.map takeIn
    mgmt := { s.mgmt with
      tokens := have_ - served.length
      tokenAt := now
      lastDie := match served.getLast? with
        | some n => n / 256
        | none => s.mgmt.lastDie } }
  event (s.mgmt.tokenAt < now || !served.isEmpty) s'

end Sys2Proof.Machine
end

