-- ==== Sys2Proof/Machine/Poly.lean ====
section
/-! DEFINITION. The polynomial context instructions (R256 to R259). Each is blocked from its issue until its last
access: stage 1 reads, with what has been read kept behind the operands, stage 2 enters its writes in the store queue, stage 3
waits for them. -/

namespace Sys2Proof.Machine

/-- The integer format of a PACK or UNPACK pointer, or the state that has trapped (R257). -/
def polyFormat (s : State) (p : Word) : Except State EFmt :=
  match ptrE p with
  | some (.int w) => if ptrAddr p % ((w + 7) / 8) = 0 then .ok (.int w) else .error (trapHere s .misaligned p)
  | _ => .error (trapHere s .formatInvalid p)

/-- The pieces of elements 0 to n − 1 of a pointer. -/
def elemPiecesOf (f : EFmt) (p : Word) (n : Nat) : List (Nat × Nat) :=
  (List.range n).map fun i => let l := elementLoc f 0 (ptrAddr p) i; (l.byte, l.size)

/-- The address check of several pieces relative to a base (R151): the first failure traps. -/
def piecesTrap (s : State) (base : Word) (ps : List (Nat × Nat)) : Option State :=
  ps.findSome? fun p => match localAddr s base ((p.1 : Int) - ptrAddr base) p.2 1 with
    | .error s => some s
    | .ok _ => none

/-- The 8-byte words of an image at `at_` that some coefficients are read from, as pieces. -/
def wordPieces (at_ : Nat) (ks : List Nat) : List (Nat × Nat) := ks.map fun k => (at_ + 8 * k, 8)

/-- The words UNPACK reads (R258): from word 0, as coefficient 0 needs it. -/
def unpackWords (len w n : Nat) : List Nat := if n = 0 then [] else List.range ((min (n * w) len - 1) / 64 + 1)

/-- The words PEXT reads (R259). -/
def pextWords (len w j : Nat) : List Nat :=
  let ws := coeffWords len w j
  (List.range (ws.2 + 1 - ws.1)).map (ws.1 + ·)

/-- The length of an image by its LONG bit (R257). -/
def imageBits (long : Bool) : Nat := if long then 1152 else 576

/-- The operands of a blocked polynomial instruction. -/
structure PolyArgs where
  ptr : Word
  x2 : Word
  width : Nat

/-- The operands as the instruction took them. -/
def polyArgs (s : State) (vs : List VWord) : PolyArgs := { ptr := arg vs 0, x2 := arg vs 1, width := s.me.pwidth }

def PolyArgs.off (a : PolyArgs) : Nat := a.x2.toNat % 2 ^ 19
def PolyArgs.count (a : PolyArgs) : Nat := a.x2.toNat / 2 ^ 32 % 2 ^ 16
def PolyArgs.unpackLen (a : PolyArgs) : Nat := imageBits (a.x2.toNat / 2 ^ 48 % 2 == 1)
def PolyArgs.pextLen (a : PolyArgs) : Nat := imageBits (a.x2.toNat / 2 ^ 16 % 2 == 1)
def PolyArgs.index (a : PolyArgs) : Nat := a.x2.toNat % 2 ^ 16

/-- The bytes a polynomial instruction reads. -/
def polyReads (i : Instr) (a : PolyArgs) : List (Nat × Nat) :=
  match i with
  | .pack _ _ _ => match ptrE a.ptr with
    | some f => elemPiecesOf f a.ptr a.count
    | none => []
  | .unpack _ _ _ => wordPieces a.off (unpackWords a.unpackLen a.width a.count)
  | _ => wordPieces (ptrAddr a.ptr) (pextWords a.pextLen a.width a.index)

/-- An image made of the words read of it, as a signed number. -/
def readImage (len : Nat) (ks : List Nat) (got : List VWord) : Int :=
  sextN (((ks.zip got).map fun k => k.2.toNat * 2 ^ (64 * k.1)).foldl (· + ·) 0) len

/-- The bytes that a blocked polynomial instruction has still to read. -/
def polyLeft (i : Instr) (b : Blk) (s : State) : List (Nat × Nat) := (polyReads i (polyArgs s b.held)).drop (b.held.length - 2)

/-- The next read of a blocked polynomial instruction can be performed, the grant of its bank apart (R170, R203). -/
def polyDue (i : Instr) (b : Blk) (s : State) : Bool :=
  !earlierLocal s s.cur.core s.cur.slot s.nextId true &&
  (polyLeft i b s).head?.all fun p => !wmBlocks s.myCore none p.1 p.2

/-- The next read of a blocked polynomial instruction can be performed now (R144). -/
def polyReady (i : Instr) (b : Blk) (s : State) : Bool :=
  polyDue i b s && (polyLeft i b s).head?.all fun p => granted s.myCore 0 [p]

/-- The element k of a PACK from the bytes read for it, signed (R26). -/
def packElem (f : EFmt) (a : PolyArgs) (k : Nat) (v : VWord) : Int :=
  sextN (v.toNat / 2 ^ (elementLoc f 0 (ptrAddr a.ptr) k).bit) f.width

/-- What the reads of a polynomial instruction have come to in a clock. -/
inductive PolyRes where
  | done (got : List VWord) (s : State)
  | part (got : List VWord) (s : State)
  | trap (s : State)

/-- The reads of a polynomial instruction, in ascending order: as many in a clock as their banks grant, where one access of a bank
serves the reads of its granule `g` (R143, R144). An uncorrectable word, or an element of PACK outside the guard range, traps there
(R257, R338). -/
def polyTake (i : Instr) (a : PolyArgs) : Option Nat → List (Nat × Nat) → List VWord → State → PolyRes
  | _, [], got, s => .done got s
  | g, p :: r, got, s =>
    let c := s.cur.core
    let same : Bool := g == some (p.1 / 16)
    if wmBlocks s.myCore none p.1 p.2 || !(same || granted s.myCore 0 [p]) then .part got s
    else
      let (ok, s) := spadCheck (if same then s else takeBanks s c 0 [p]) c p.1 p.2
      if !ok then .trap (trapHere s .uncorrectable (wordOf p.1))
      else
        let v := BitVec.ofNat 128 (memNat s.myCore.spad p.1 p.2)
        let good : Bool := match i, ptrE a.ptr with
          | .pack _ _ _, some f => inGuard (packElem f a got.length v) a.width
          | _, _ => true
        if good then polyTake i a (some (p.1 / 16)) r (got ++ [v]) s else .trap (trapHere s .guard (wordOf got.length))

/-- The coefficients of UNPACK, from the words read. -/
def unpackCoeffs (a : PolyArgs) (got : List VWord) : List Int :=
  let p := readImage a.unpackLen (unpackWords a.unpackLen a.width a.count) got
  (List.range a.count).map (polyExtract p a.width)

/-- The writes of a polynomial instruction: address and word for PACK, the element for UNPACK. -/
def polyStores (i : Instr) (a : PolyArgs) (vals : List VWord) : List StoreAct :=
  match i with
  | .pack _ _ _ => vals.zipIdx.map fun p => .bytes (a.off + 8 * p.2) 8 p.1 false
  | .unpack _ _ _ => vals.zipIdx.map fun p => .elem a.ptr p.2 (w64 p.1)
  | _ => []

/-- A context's stores are still in the store queue. -/
def ownStores (s : State) : Bool := s.myCore.storeQ.any fun e => e.slot == s.cur.slot && e.gen == s.me.gen

/-- Enter writes in the store queue while it has room, then wait for them. -/
def enterStores (a : PolyArgs) (acts : List StoreAct) (from_ : Nat) (s : State) : State :=
  let room := 8 - s.myCore.storeQ.length
  let s := ((acts.drop from_).take room).foldl (fun s x => queueStore s (ptrKey a.ptr) x) s
  if from_ + room < acts.length then stay s 2 (wordOf (from_ + room)) else stay s 3 0

/-- The result register of a polynomial instruction. -/
def polyDst : Instr → SOp
  | .pack d _ _ | .unpack d _ _ | .pext d _ _ => d
  | _ => .x 0

/-- The instruction's last access has been performed: its result is written (R256). -/
def polyDone (i : Instr) (w : Word) (s : State) : State := doneOps (putS s (polyDst i) w)

/-- The number of values UNPACK clamped, kept beside its values. -/
def unpackVals (f : EFmt) (cs : List Int) : List VWord × Nat :=
  let vs := cs.map fun c => satInt c f.width true
  (vs.map fun v => v128 (wordOf (lowBits v 64)), (cs.zip vs |>.filter fun p => p.1 != p.2).length)

/-- The last read of a polynomial instruction has been performed: it goes on to its writes or its result. -/
def polyGot (i : Instr) (a : PolyArgs) (got : List VWord) (s : State) : State :=
  match i, ptrE a.ptr with
  | .pack _ _ _, some f =>
    let n := lowBits (polyPack a.width (got.zipIdx.map fun p => packElem f a p.2 p.1)) 576
    let words := (List.range 9).map fun k => BitVec.ofNat 128 (n / 2 ^ (64 * k) % 2 ^ 64)
    enterStores a (polyStores i a words) 0 (updBlk s fun b => { b with held := b.held.take 2 ++ words })
  | .unpack _ _ _, some f =>
    let (vals, clamped) := unpackVals f (unpackCoeffs a got)
    enterStores a (polyStores i a vals) 0
      (updBlk s fun b => { b with held := b.held.take 2 ++ vals ++ [BitVec.ofNat 128 clamped] })
  | .pext _ _ _, _ =>
    let p := readImage a.pextLen (pextWords a.pextLen a.width a.index) got
    polyDone i (wordOf (lowBits (polyExtract p a.width a.index) 64)) s
  | _, _ => s

/-- Perform the next reads of a polynomial instruction, and go on once they are all there. -/
def polyRead (i : Instr) (b : Blk) (s : State) : State :=
  let a := polyArgs s b.held
  match polyTake i a none (polyLeft i b s) (b.held.drop 2) s with
  | .done got s => polyGot i a got s
  | .part got s => updBlk s fun b => { b with held := b.held.take 2 ++ got }
  | .trap s => s

/-- The values a blocked polynomial instruction has still to write. -/
def polyVals (i : Instr) (b : Blk) : List VWord :=
  match i with
  | .unpack _ _ _ => (b.held.drop 2).dropLast
  | _ => b.held.drop 2

/-- A blocked polynomial instruction can go on. -/
def polyGoes (i : Instr) (b : Blk) (s : State) : Bool :=
  match b.stage with
  | 1 => polyReady i b s
  | 2 => s.myCore.storeQ.length < 8
  | _ => !ownStores s

/-- A blocked polynomial instruction goes on, if it can. -/
def contPoly (i : Instr) (b : Blk) (s : State) : State :=
  if !polyGoes i b s then s
  else
    match b.stage with
    | 1 => polyRead i b s
    | 2 => let a := polyArgs s b.held
           enterStores a (polyStores i a (polyVals i b)) b.aux.toNat s
    | _ => polyDone i (match i with
        | .unpack _ _ _ => w64 (b.held.getLastD 0)
        | _ => w64 (b.held.getD 2 0)) s

/-- The checks have passed: the instruction blocks, and reads at once where nothing holds it back. -/
def startPoly (i : Instr) (s : State) : State :=
  let s := stay s 1 0
  match s.me.blk with
  | some b => contPoly i b s
  | none => s

/-- PACK's checks at issue (R257). -/
def effPack (d s1 s2 : SOp) (vs : List VWord) (s : State) : State :=
  let a := polyArgs s vs
  match polyFormat s a.ptr with
  | .error s => s
  | .ok _ =>
    if a.off % 8 ≠ 0 then trapHere s .misaligned (wordOf a.off)
    else
      let i : Instr := .pack d s1 s2
      let src := polyReads i a
      match piecesTrap s 0 [(a.off, 72)], piecesTrap s a.ptr src with
      | some s, _ => s
      | none, some s => s
      | none, none =>
        withWatch s true false src fun s =>
        withWatch s false true [(a.off, 72)] fun s =>
        withTags s (ptrKey a.ptr) src fun s =>
        if 576 / a.width < a.count then trapHere s .guard (wordOf (576 / a.width)) else startPoly i s

/-- PACK (R257). -/
def execPack (d s1 s2 : SOp) (s : State) : Host.Outcome State Fault Refusal :=
  waitOps (.pack d s1 s2) (effPack d s1 s2) (contPoly (.pack d s1 s2)) s

/-- UNPACK's checks at issue (R258): those of PACK, so the whole image is range-checked (R257). -/
def effUnpack (d s1 s2 : SOp) (vs : List VWord) (s : State) : State :=
  let a := polyArgs s vs
  match polyFormat s a.ptr with
  | .error s => s
  | .ok f =>
    if a.off % 8 ≠ 0 then trapHere s .misaligned (wordOf a.off)
    else
      let i : Instr := .unpack d s1 s2
      let src := polyReads i a
      let dst := elemPiecesOf f a.ptr a.count
      match piecesTrap s 0 [(a.off, a.unpackLen / 8)], piecesTrap s a.ptr dst with
      | some s, _ => s
      | none, some s => s
      | none, none =>
        withWatch s true false src fun s =>
        withWatch s false true dst fun s =>
        withTags s (ptrKey a.ptr) src fun s => startPoly i s

/-- UNPACK (R258). -/
def execUnpack (d s1 s2 : SOp) (s : State) : Host.Outcome State Fault Refusal :=
  waitOps (.unpack d s1 s2) (effUnpack d s1 s2) (contPoly (.unpack d s1 s2)) s

/-- PEXT's checks at issue (R259). -/
def effPext (d s1 s2 : SOp) (vs : List VWord) (s : State) : State :=
  let a := polyArgs s vs
  if ptrAddr a.ptr % 8 ≠ 0 then trapHere s .misaligned (wordOf (ptrAddr a.ptr))
  else
    let i : Instr := .pext d s1 s2
    let src := polyReads i a
    match piecesTrap s a.ptr src with
    | some s => s
    | none =>
      withWatch s true false src fun s =>
      withTags s (ptrKey a.ptr) src fun s => startPoly i s

/-- PEXT (R259). -/
def execPext (d s1 s2 : SOp) (s : State) : Host.Outcome State Fault Refusal :=
  waitOps (.pext d s1 s2) (effPext d s1 s2) (contPoly (.pext d s1 s2)) s

end Sys2Proof.Machine
end

