-- ==== Sys2Proof/Machine/Scalar.lean ====
section
/-! DEFINITION. Register arithmetic and logic, division, immediates, select and literals (R91 to R101, R50). -/

namespace Sys2Proof.Machine

/-- An instruction of two scalar sources. -/
def alu2 (d : SOp) (f : Word → Word → Word) (vs : List VWord) (s : State) : State := putS s d (f (arg vs 0) (arg vs 1))

/-- An instruction of one scalar source. -/
def alu1 (d : SOp) (f : Word → Word) (vs : List VWord) (s : State) : State := putS s d (f (arg vs 0))

/-- A truth value as a word. -/
def boolWord (b : Bool) : Word := if b then 1 else 0

/-- The shift amount of R93: bits [5:0]. -/
def shAmount (w : Word) : Nat := w.toNat % 64

/-- ADDP of R99: the address field moves modulo 2^52 and the upper fields stay. -/
def addp (p off : Word) : Word := wordOf (p.toNat / 2 ^ 52 * 2 ^ 52 + (p.toNat % 2 ^ 52 + off.toNat) % 2 ^ 52)

/-- Count of zero bits above the highest 1 among bits [n-1:0] (R93). -/
def clzFrom (w : Word) : Nat → Nat
  | 0 => 0
  | n + 1 => if w.getLsbD n then 0 else clzFrom w n + 1

/-- Count of zero bits below the lowest 1, from bit `i` on, for `n` bits (R93). -/
def ctzFrom (w : Word) (i : Nat) : Nat → Nat
  | 0 => 0
  | n + 1 => if w.getLsbD i then 0 else ctzFrom w (i + 1) n + 1

/-- Count of 1 bits (R93). -/
def popCount (w : Word) : Nat := (List.range 64).foldl (fun n i => n + b2n (w.getLsbD i)) 0

/-- The low 64 bits of an integer. -/
def iword (x : Int) : Word := BitVec.ofInt 64 x

/-- ADD (R93): (xs1 + xs2)[63:0]. -/
def effAdd (d : SOp) : List VWord → State → State := alu2 d (fun a b => a + b)

/-- ADD (R93). -/
def execAdd (d s1 s2 : SOp) (s : State) : Host.Outcome State Fault Refusal := issueOps (.add d s1 s2) (effAdd d) s

/-- SUB (R93): (xs1 − xs2)[63:0]. -/
def effSub (d : SOp) : List VWord → State → State := alu2 d (fun a b => a - b)

/-- SUB (R93). -/
def execSub (d s1 s2 : SOp) (s : State) : Host.Outcome State Fault Refusal := issueOps (.sub d s1 s2) (effSub d) s

/-- MUL (R93): the low half of the signed product. -/
def effMul (d : SOp) : List VWord → State → State := alu2 d (fun a b => a * b)

/-- MUL (R93). -/
def execMul (d s1 s2 : SOp) (s : State) : Host.Outcome State Fault Refusal := issueOps (.mul d s1 s2) (effMul d) s

/-- MULH (R93): the high half of the signed product. -/
def effMulh (d : SOp) : List VWord → State → State := alu2 d (fun a b => iword (a.toInt * b.toInt / (2 ^ 64 : Nat)))

/-- MULH (R93). -/
def execMulh (d s1 s2 : SOp) (s : State) : Host.Outcome State Fault Refusal := issueOps (.mulh d s1 s2) (effMulh d) s

/-- MULHU (R93): the high half of the unsigned product. -/
def effMulhu (d : SOp) : List VWord → State → State := alu2 d (fun a b => wordOf (a.toNat * b.toNat / 2 ^ 64))

/-- MULHU (R93). -/
def execMulhu (d s1 s2 : SOp) (s : State) : Host.Outcome State Fault Refusal := issueOps (.mulhu d s1 s2) (effMulhu d) s

/-- AND (R93): xs1 AND xs2. -/
def effAnd (d : SOp) : List VWord → State → State := alu2 d (fun a b => a &&& b)

/-- AND (R93). -/
def execAnd (d s1 s2 : SOp) (s : State) : Host.Outcome State Fault Refusal := issueOps (.and d s1 s2) (effAnd d) s

/-- OR (R93): xs1 OR xs2. -/
def effOr (d : SOp) : List VWord → State → State := alu2 d (fun a b => a ||| b)

/-- OR (R93). -/
def execOr (d s1 s2 : SOp) (s : State) : Host.Outcome State Fault Refusal := issueOps (.or d s1 s2) (effOr d) s

/-- XOR (R93): xs1 XOR xs2. -/
def effXor (d : SOp) : List VWord → State → State := alu2 d (fun a b => a ^^^ b)

/-- XOR (R93). -/
def execXor (d s1 s2 : SOp) (s : State) : Host.Outcome State Fault Refusal := issueOps (.xor d s1 s2) (effXor d) s

/-- ANDN (R93): xs1 AND NOT xs2. -/
def effAndn (d : SOp) : List VWord → State → State := alu2 d (fun a b => a &&& ~~~b)

/-- ANDN (R93). -/
def execAndn (d s1 s2 : SOp) (s : State) : Host.Outcome State Fault Refusal := issueOps (.andn d s1 s2) (effAndn d) s

/-- ORN (R93): xs1 OR NOT xs2. -/
def effOrn (d : SOp) : List VWord → State → State := alu2 d (fun a b => a ||| ~~~b)

/-- ORN (R93). -/
def execOrn (d s1 s2 : SOp) (s : State) : Host.Outcome State Fault Refusal := issueOps (.orn d s1 s2) (effOrn d) s

/-- SLL (R93): shift left by xs2[5:0]. -/
def effSll (d : SOp) : List VWord → State → State := alu2 d (fun a b => a <<< shAmount b)

/-- SLL (R93). -/
def execSll (d s1 s2 : SOp) (s : State) : Host.Outcome State Fault Refusal := issueOps (.sll d s1 s2) (effSll d) s

/-- SRL (R93): logical shift right by xs2[5:0]. -/
def effSrl (d : SOp) : List VWord → State → State := alu2 d (fun a b => a >>> shAmount b)

/-- SRL (R93). -/
def execSrl (d s1 s2 : SOp) (s : State) : Host.Outcome State Fault Refusal := issueOps (.srl d s1 s2) (effSrl d) s

/-- SRA (R93): arithmetic shift right by xs2[5:0]. -/
def effSra (d : SOp) : List VWord → State → State := alu2 d (fun a b => a.sshiftRight (shAmount b))

/-- SRA (R93). -/
def execSra (d s1 s2 : SOp) (s : State) : Host.Outcome State Fault Refusal := issueOps (.sra d s1 s2) (effSra d) s

/-- MIN (R93): the smaller signed value. -/
def effMin (d : SOp) : List VWord → State → State := alu2 d (fun a b => if a.slt b then a else b)

/-- MIN (R93). -/
def execMin (d s1 s2 : SOp) (s : State) : Host.Outcome State Fault Refusal := issueOps (.min d s1 s2) (effMin d) s

/-- MAX (R93): the larger signed value. -/
def effMax (d : SOp) : List VWord → State → State := alu2 d (fun a b => if a.slt b then b else a)

/-- MAX (R93). -/
def execMax (d s1 s2 : SOp) (s : State) : Host.Outcome State Fault Refusal := issueOps (.max d s1 s2) (effMax d) s

/-- MINU (R93): the smaller unsigned value. -/
def effMinu (d : SOp) : List VWord → State → State := alu2 d (fun a b => if a.ult b then a else b)

/-- MINU (R93). -/
def execMinu (d s1 s2 : SOp) (s : State) : Host.Outcome State Fault Refusal := issueOps (.minu d s1 s2) (effMinu d) s

/-- MAXU (R93): the larger unsigned value. -/
def effMaxu (d : SOp) : List VWord → State → State := alu2 d (fun a b => if a.ult b then b else a)

/-- MAXU (R93). -/
def execMaxu (d s1 s2 : SOp) (s : State) : Host.Outcome State Fault Refusal := issueOps (.maxu d s1 s2) (effMaxu d) s

/-- SLT (R93): s(xs1) < s(xs2). -/
def effSlt (d : SOp) : List VWord → State → State := alu2 d (fun a b => boolWord (a.slt b))

/-- SLT (R93). -/
def execSlt (d s1 s2 : SOp) (s : State) : Host.Outcome State Fault Refusal := issueOps (.slt d s1 s2) (effSlt d) s

/-- SLTU (R93): u(xs1) < u(xs2). -/
def effSltu (d : SOp) : List VWord → State → State := alu2 d (fun a b => boolWord (a.ult b))

/-- SLTU (R93). -/
def execSltu (d s1 s2 : SOp) (s : State) : Host.Outcome State Fault Refusal := issueOps (.sltu d s1 s2) (effSltu d) s

/-- SEQ (R93): xs1 = xs2. -/
def effSeq (d : SOp) : List VWord → State → State := alu2 d (fun a b => boolWord (a == b))

/-- SEQ (R93). -/
def execSeq (d s1 s2 : SOp) (s : State) : Host.Outcome State Fault Refusal := issueOps (.seq d s1 s2) (effSeq d) s

/-- SNE (R93): xs1 ≠ xs2. -/
def effSne (d : SOp) : List VWord → State → State := alu2 d (fun a b => boolWord (a != b))

/-- SNE (R93). -/
def execSne (d s1 s2 : SOp) (s : State) : Host.Outcome State Fault Refusal := issueOps (.sne d s1 s2) (effSne d) s

/-- ADDP (R93): the fat-pointer addition of R99. -/
def effAddp (d : SOp) : List VWord → State → State := alu2 d (addp)

/-- ADDP (R93). -/
def execAddp (d s1 s2 : SOp) (s : State) : Host.Outcome State Fault Refusal := issueOps (.addp d s1 s2) (effAddp d) s

/-- CLZ (R93): zero bits above the highest 1; 64 for zero. -/
def effClz (d : SOp) : List VWord → State → State := alu1 d (fun a => wordOf (clzFrom a 64))

/-- CLZ (R93). -/
def execClz (d s1 : SOp) (s : State) : Host.Outcome State Fault Refusal := issueOps (.clz d s1) (effClz d) s

/-- CTZ (R93): zero bits below the lowest 1; 64 for zero. -/
def effCtz (d : SOp) : List VWord → State → State := alu1 d (fun a => wordOf (ctzFrom a 0 64))

/-- CTZ (R93). -/
def execCtz (d s1 : SOp) (s : State) : Host.Outcome State Fault Refusal := issueOps (.ctz d s1) (effCtz d) s

/-- POP (R93): count of 1 bits. -/
def effPop (d : SOp) : List VWord → State → State := alu1 d (fun a => wordOf (popCount a))

/-- POP (R93). -/
def execPop (d s1 : SOp) (s : State) : Host.Outcome State Fault Refusal := issueOps (.pop d s1) (effPop d) s

/-! Division (R95 to R97). -/

/-- The quotient truncated toward zero of R95, on integers. -/
def divQ (a b : Int) : Int :=
  let q : Int := (a.natAbs / b.natAbs : Nat)
  if (a < 0) != (b < 0) then -q else q

/-- A divide: by zero it traps at issue; otherwise it is pending for 36 clocks (R95, R97). -/
def divide (i : Instr) (f : Word → Word → Word) (vs : List VWord) (s : State) : State :=
  if arg vs 1 = 0 then trapHere s .divideByZero 0
  else addPend s i .divide (inClocks s 36) (some (.value (v128 (f (arg vs 0) (arg vs 1)))))

/-- DIV (R95): the signed quotient, at completion. -/
def effDiv (d s1 s2 : SOp) (la : BitVec 4) : List VWord → State → State :=
  divide (.div d s1 s2 la) (fun a b => iword (divQ a.toInt b.toInt))

/-- DIV (R95). -/
def execDiv (d s1 s2 : SOp) (la : BitVec 4) (s : State) : Host.Outcome State Fault Refusal :=
  issueOps (.div d s1 s2 la) (effDiv d s1 s2 la) s

/-- DIVU (R95): the unsigned quotient, at completion. -/
def effDivu (d s1 s2 : SOp) (la : BitVec 4) : List VWord → State → State :=
  divide (.divu d s1 s2 la) (fun a b => wordOf (a.toNat / b.toNat))

/-- DIVU (R95). -/
def execDivu (d s1 s2 : SOp) (la : BitVec 4) (s : State) : Host.Outcome State Fault Refusal :=
  issueOps (.divu d s1 s2 la) (effDivu d s1 s2 la) s

/-- REM (R95): the signed remainder, at completion. -/
def effRem (d s1 s2 : SOp) (la : BitVec 4) : List VWord → State → State :=
  divide (.rem d s1 s2 la) (fun a b => iword (a.toInt - b.toInt * divQ a.toInt b.toInt))

/-- REM (R95). -/
def execRem (d s1 s2 : SOp) (la : BitVec 4) (s : State) : Host.Outcome State Fault Refusal :=
  issueOps (.rem d s1 s2 la) (effRem d s1 s2 la) s

/-- REMU (R95): the unsigned remainder, at completion. -/
def effRemu (d s1 s2 : SOp) (la : BitVec 4) : List VWord → State → State :=
  divide (.remu d s1 s2 la) (fun a b => wordOf (a.toNat % b.toNat))

/-- REMU (R95). -/
def execRemu (d s1 s2 : SOp) (la : BitVec 4) (s : State) : Host.Outcome State Fault Refusal :=
  issueOps (.remu d s1 s2 la) (effRemu d s1 s2 la) s

/-- DIVIDE_COMPLETE (R97): the divide `cur` names writes or pushes its result. -/
def execDivideComplete (s : State) : Host.Outcome State Fault Refusal := completeEvent (· == .divide) s

/-! Immediates, shifts and bit fields (R100). -/

/-- The sign-extended immediate. -/
def simm (imm : BitVec 12) : Word := imm.signExtend 64

/-- The bits [pos+len-1:pos] of a word as a number. -/
def bitField (w : Word) (pos len : Nat) : Nat := w.toNat / 2 ^ pos % 2 ^ len

/-- A word with bits [pos+len-1:pos] replaced by the low bits of another. -/
def insertField (old new : Word) (pos len : Nat) : Word :=
  wordOf (old.toNat - bitField old pos len * 2 ^ pos + new.toNat % 2 ^ len * 2 ^ pos)

/-- ADDI (R100): imm added. -/
def effAddi (d : SOp) (imm : BitVec 12) : List VWord → State → State := alu1 d (fun a => a + simm imm)

/-- ADDI (R100). -/
def execAddi (d s1 : SOp) (imm : BitVec 12) (s : State) : Host.Outcome State Fault Refusal :=
  issueOps (.addi d s1 imm) (effAddi d imm) s

/-- ANDI (R100): AND. -/
def effAndi (d : SOp) (imm : BitVec 12) : List VWord → State → State := alu1 d (fun a => a &&& simm imm)

/-- ANDI (R100). -/
def execAndi (d s1 : SOp) (imm : BitVec 12) (s : State) : Host.Outcome State Fault Refusal :=
  issueOps (.andi d s1 imm) (effAndi d imm) s

/-- ORI (R100): OR. -/
def effOri (d : SOp) (imm : BitVec 12) : List VWord → State → State := alu1 d (fun a => a ||| simm imm)

/-- ORI (R100). -/
def execOri (d s1 : SOp) (imm : BitVec 12) (s : State) : Host.Outcome State Fault Refusal :=
  issueOps (.ori d s1 imm) (effOri d imm) s

/-- XORI (R100): XOR. -/
def effXori (d : SOp) (imm : BitVec 12) : List VWord → State → State := alu1 d (fun a => a ^^^ simm imm)

/-- XORI (R100). -/
def execXori (d s1 : SOp) (imm : BitVec 12) (s : State) : Host.Outcome State Fault Refusal :=
  issueOps (.xori d s1 imm) (effXori d imm) s

/-- SLTI (R100): signed comparison. -/
def effSlti (d : SOp) (imm : BitVec 12) : List VWord → State → State := alu1 d (fun a => boolWord (a.slt (simm imm)))

/-- SLTI (R100). -/
def execSlti (d s1 : SOp) (imm : BitVec 12) (s : State) : Host.Outcome State Fault Refusal :=
  issueOps (.slti d s1 imm) (effSlti d imm) s

/-- SLTUI (R100): unsigned comparison with the sign-extended immediate. -/
def effSltui (d : SOp) (imm : BitVec 12) : List VWord → State → State := alu1 d (fun a => boolWord (a.ult (simm imm)))

/-- SLTUI (R100). -/
def execSltui (d s1 : SOp) (imm : BitVec 12) (s : State) : Host.Outcome State Fault Refusal :=
  issueOps (.sltui d s1 imm) (effSltui d imm) s

/-- ADDPI (R100): the fat-pointer addition of R99. -/
def effAddpi (d : SOp) (imm : BitVec 12) : List VWord → State → State := alu1 d (fun a => addp a (simm imm))

/-- ADDPI (R100). -/
def execAddpi (d s1 : SOp) (imm : BitVec 12) (s : State) : Host.Outcome State Fault Refusal :=
  issueOps (.addpi d s1 imm) (effAddpi d imm) s

/-- SLLI (R100): as SLL of R93 with the shift of the immediate. -/
def effSlli (d : SOp) (sh : BitVec 6) : List VWord → State → State := alu1 d (fun a => a <<< sh.toNat)

/-- SLLI (R100). -/
def execSlli (d s1 : SOp) (sh : BitVec 6) (s : State) : Host.Outcome State Fault Refusal :=
  issueOps (.slli d s1 sh) (effSlli d sh) s

/-- SRLI (R100): as SRL of R93 with the shift of the immediate. -/
def effSrli (d : SOp) (sh : BitVec 6) : List VWord → State → State := alu1 d (fun a => a >>> sh.toNat)

/-- SRLI (R100). -/
def execSrli (d s1 : SOp) (sh : BitVec 6) (s : State) : Host.Outcome State Fault Refusal :=
  issueOps (.srli d s1 sh) (effSrli d sh) s

/-- SRAI (R100): as SRA of R93 with the shift of the immediate. -/
def effSrai (d : SOp) (sh : BitVec 6) : List VWord → State → State := alu1 d (fun a => a.sshiftRight sh.toNat)

/-- SRAI (R100). -/
def execSrai (d s1 : SOp) (sh : BitVec 6) (s : State) : Host.Outcome State Fault Refusal :=
  issueOps (.srai d s1 sh) (effSrai d sh) s

/-- BFX (R100): the field, sign-extended. -/
def effBfx (d : SOp) (pos lenm1 : BitVec 6) : List VWord → State → State :=
  alu1 d (fun a => iword (sextN (bitField a pos.toNat (lenm1.toNat + 1)) (lenm1.toNat + 1)))

/-- BFX (R100). -/
def execBfx (d s1 : SOp) (pos lenm1 : BitVec 6) (s : State) : Host.Outcome State Fault Refusal :=
  issueOps (.bfx d s1 pos lenm1) (effBfx d pos lenm1) s

/-- BFXU (R100): the field, zero-extended. -/
def effBfxu (d : SOp) (pos lenm1 : BitVec 6) : List VWord → State → State :=
  alu1 d (fun a => wordOf (bitField a pos.toNat (lenm1.toNat + 1)))

/-- BFXU (R100). -/
def execBfxu (d s1 : SOp) (pos lenm1 : BitVec 6) (s : State) : Host.Outcome State Fault Refusal :=
  issueOps (.bfxu d s1 pos lenm1) (effBfxu d pos lenm1) s

/-- BFI (R100): the field of xd is replaced by the low bits of xs1. -/
def effBfi (d : SOp) (pos lenm1 : BitVec 6) (vs : List VWord) (s : State) : State :=
  putS s d (insertField (getS s d) (arg vs 0) pos.toNat (lenm1.toNat + 1))

/-- BFI (R100). -/
def execBfi (d s1 : SOp) (pos lenm1 : BitVec 6) (s : State) : Host.Outcome State Fault Refusal :=
  issueOps (.bfi d s1 pos lenm1) (effBfi d pos lenm1) s

/-- PFMT (R100): bits [63:59] and [58:56] take the format and block length. -/
def effPfmt (d : SOp) (fmt : BitVec 5) (blog : BitVec 3) : List VWord → State → State :=
  alu1 d (fun a => insertField a (wordOf (fmt.toNat * 8 + blog.toNat)) 56 8)

/-- PFMT (R100). -/
def execPfmt (d s1 : SOp) (fmt : BitVec 5) (blog : BitVec 3) (s : State) : Host.Outcome State Fault Refusal :=
  issueOps (.pfmt d s1 fmt blog) (effPfmt d fmt blog) s

/-- PKEY (R100): bits [55:52] take the key. -/
def effPkey (d : SOp) (key : BitVec 4) : List VWord → State → State :=
  alu1 d (fun a => insertField a (wordOf key.toNat) 52 4)

/-- PKEY (R100). -/
def execPkey (d s1 : SOp) (key : BitVec 4) (s : State) : Host.Outcome State Fault Refusal :=
  issueOps (.pkey d s1 key) (effPkey d key) s

/-! Select and literals (R101, R50). -/

/-- SEL (R101): xs2 if xs1 is not zero, else xs3. -/
def effSel (d : SOp) (vs : List VWord) (s : State) : State :=
  putS s d (if arg vs 0 ≠ 0 then arg vs 1 else arg vs 2)

/-- SEL (R101). -/
def execSel (d s1 s2 s3 : SOp) (s : State) : Host.Outcome State Fault Refusal :=
  issueOps (.sel d s1 s2 s3) (effSel d) s

/-- LIT (R50): the literal, sign-extended. -/
def effLit (d : SOp) (imm : BitVec 32) (_vs : List VWord) (s : State) : State := putS s d (imm.signExtend 64)

/-- LIT (R50). -/
def execLit (d : SOp) (imm : BitVec 32) (s : State) : Host.Outcome State Fault Refusal :=
  issueOps (.lit d imm) (effLit d imm) s

/-- LITH (R50): the upper half of xd takes the literal. -/
def effLith (d : SOp) (imm : BitVec 32) (_vs : List VWord) (s : State) : State :=
  putS s d (insertField (getS s d) (wordOf imm.toNat) 32 32)

/-- LITH (R50). -/
def execLith (d : SOp) (imm : BitVec 32) (s : State) : Host.Outcome State Fault Refusal :=
  issueOps (.lith d imm) (effLith d imm) s

end Sys2Proof.Machine
end

