-- ==== Sys2Proof/Machine/Stair.lean ====
section
/-! DEFINITION. Launch descriptors (R264, R265) and the staircase of a frontier launch (R291, R292, R294, R299). -/

namespace Sys2Proof.Machine

/-! Descriptor fields. -/

/-- Word i of a descriptor. -/
def dWord (w : List Word) (i : Nat) : Nat := (w.getD i 0).toNat

def dKind (w : List Word) : Nat := dWord w 0 % 4
def dPrio (w : List Word) : Nat := dWord w 0 / 4 % 4
def dDims (w : List Word) : Nat := dWord w 0 / 16 % 4
def dMore (w : List Word) : Bool := dWord w 0 / 64 % 2 == 1
def dAfters (w : List Word) : Nat := dWord w 0 / 256 % 8
def dPipes (w : List Word) : Nat := dWord w 0 / 2 ^ 12 % 8
def dEntry (w : List Word) : Nat := dWord w 1 % 2 ^ 19
def dImageLen (w : List Word) : Nat := dWord w 1 / 2 ^ 32 % 2 ^ 14
def dArgs (w : List Word) : Nat := dWord w 2 % 2 ^ 52
def dExtent (w : List Word) (d : Nat) : Nat := dWord w 3 / 2 ^ (21 * d) % 2 ^ 21
def dImage (w : List Word) : Nat := dWord w 4 % 2 ^ 52
def dAfter (w : List Word) (p : Nat) : Nat := dWord w 6 / 2 ^ (16 * p) % 2 ^ 16
def dVec (w : List Word) (v d : Nat) : Nat := dWord w 5 / 2 ^ (15 * v + 5 * d) % 32
def dNvec (w : List Word) : Nat := dWord w 5 / 2 ^ 60 % 8

/-- Pipe entry p of a gang's W5. -/
def dPipe (w : List Word) (p : Nat) : Nat := dWord w 5 / 2 ^ (16 * p) % 2 ^ 16

/-- The extents, an extent beyond DIMS counting as 1. -/
def dExt (w : List Word) : Nat × Nat × Nat := (dExtent w 0, max 1 (dExtent w 1), max 1 (dExtent w 2))

/-- The groups of a launch (R274). -/
def dGroups (w : List Word) : Nat :=
  if dKind w = 2 then dExtent w 2 else (dExt w).1 * (dExt w).2.1 * (dExt w).2.2

/-- DIMS is valid for the kind. -/
def dDimsOk (w : List Word) : Bool := dDims w != 0 && (dKind w != 2 || dDims w == 3)

/-! Effective vectors (R291). -/

/-- The declared vectors, each by its components. -/
def declared (w : List Word) : List (List Nat) :=
  (List.range (min (dNvec w) 4)).map fun v => (List.range 3).map fun d => dVec w v d

/-- The unit vector of a dimension. -/
def unitVec (d : Nat) : List Nat := (List.range 3).map fun i => if i = d then 1 else 0

/-- ZERO, ADDED and NEFF of a frontier launch. -/
def effective (w : List Word) (dims : Nat) : Bool × Nat × Nat :=
  let vs := declared w
  let keep := vs.filter fun v => v.any (· != 0)
  let add := (List.range dims).filter fun d => !keep.contains (unitVec d)
  (keep.length != vs.length, (add.map (2 ^ ·)).foldl (· + ·) 0, keep.length + add.length)

/-! The staircase. -/

/-- The entries a launch reserves in the frontier store (R294). -/
def worstCase (dims : Nat) (e : Nat × Nat × Nat) : Nat :=
  match dims with
  | 1 => 1
  | 2 => e.1
  | _ => 2 * e.1 * min e.2.1 (e.2.2 + 1)

/-- The row of a staircase: (i, j) in DIMS 3, i in DIMS 2, one row in DIMS 1. -/
def rowKey (i j : Nat) : Nat := i * 2 ^ 21 + j

/-- The count of a row. -/
def stairAt (f : Frontier) (i j : Nat) : Nat := mgetD f.stair (rowKey i j) 0

/-- The coordinates of a linear index (R274). -/
def coordOf (e : Nat × Nat × Nat) (lin : Nat) : Nat × Nat × Nat := (lin % e.1, lin / e.1 % e.2.1, lin / (e.1 * e.2.1))

/-- The linear index of coordinates. -/
def linOf (e : Nat × Nat × Nat) (i j k : Nat) : Nat := i + e.1 * (j + e.2.1 * k)

/-- The row a point lies in, and its place along the last dimension. -/
def rowOf (dims : Nat) (e : Nat × Nat × Nat) (lin : Nat) : Nat × Nat :=
  let (i, j, k) := coordOf e lin
  match dims with
  | 1 => (rowKey 0 0, i)
  | 2 => (rowKey i 0, j)
  | _ => (rowKey i j, k)

/-- The point after the completed ones of a row, when it is eligible (R292): its neighbours below along every unit
vector are complete. -/
def rowNext (dims : Nat) (e : Nat × Nat × Nat) (f : Frontier) (i j : Nat) : Option Nat :=
  let n := stairAt f i j
  let lin? : Option Nat := match dims with
    | 1 => if n < e.1 then some (linOf e n 0 0) else none
    | 2 => if i < e.1 ∧ n < e.2.1 ∧ (i = 0 ∨ n < stairAt f (i - 1) 0) then some (linOf e i n 0) else none
    | _ => if i < e.1 ∧ j < e.2.1 ∧ n < e.2.2 ∧ (i = 0 ∨ n < stairAt f (i - 1) j) ∧ (j = 0 ∨ n < stairAt f i (j - 1))
      then some (linOf e i j n) else none
  match lin? with
  | some p => if f.pending.contains p then none else some p
  | none => none

/-- The rows that can hold an eligible point: those with completed points, and their upper neighbours. -/
def rowsOf (dims : Nat) (f : Frontier) : List (Nat × Nat) :=
  if dims = 1 then [(0, 0)]
  else
    (0, 0) :: f.stair.flatMap fun p =>
      let i := p.1 / 2 ^ 21
      let j := p.1 % 2 ^ 21
      if dims = 2 then [(i, 0), (i + 1, 0)] else [(i, j), (i + 1, j), (i, j + 1)]

/-- The least of some numbers. -/
def leastNat : List Nat → Option Nat
  | [] => none
  | a :: r => match leastNat r with
    | none => some a
    | some b => some (min a b)

/-- The eligible point of lowest linear index. -/
def eligiblePoint (dims : Nat) (e : Nat × Nat × Nat) (f : Frontier) : Option Nat :=
  leastNat ((rowsOf dims f).filterMap fun r => rowNext dims e f r.1 r.2)

/-- A point completes (R295). -/
def markComplete (dims : Nat) (e : Nat × Nat × Nat) (f : Frontier) (lin : Nat) : Frontier :=
  { f with
    pending := f.pending.erase lin
    stair := mupd f.stair (rowOf dims e lin).1 0 (· + 1) }

/-- The complete points of a staircase. -/
def stairTotal (f : Frontier) : Nat := (f.stair.map Prod.snd).foldl (· + ·) 0

/-! The image (R299). -/

/-- Bytes of an entry. -/
def entrySize (dims : Nat) : Nat := if dims = 3 then 8 else 4

/-- The entries of a staircase, as numbers. -/
def stairEntries (dims : Nat) (e : Nat × Nat × Nat) (f : Frontier) : List Nat :=
  match dims with
  | 1 => if stairAt f 0 0 = 0 then [] else [stairAt f 0 0]
  | 2 => f.stair.filterMap fun p => if p.2 = 0 then none else some p.2
  | _ =>
    let is := (f.stair.map fun p => p.1 / 2 ^ 21).dedup
    is.flatMap fun i =>
      if stairAt f i 0 = 0 then []
      else
        let js := (f.stair.filterMap fun p => if p.1 / 2 ^ 21 = i then some (p.1 % 2 ^ 21) else none)
        -- a run starts where the count differs from that before it; one of zeros follows the last listed row
        let starts := js.filter fun j => j = 0 || stairAt f i j != stairAt f i (j - 1)
        let runs := starts.map fun j => i * 2 ^ 42 + j * 2 ^ 21 + stairAt f i j
        let after := (js.getLastD 0) + 1
        if after < e.2.1 then runs ++ [i * 2 ^ 42 + after * 2 ^ 21] else runs

/-- The header words of an image: `mode` of the FRSAVE. -/
def imageHead (l : Launch) (f : Frontier) (mode n : Nat) : List Nat :=
  let w := fun i => dWord l.words i
  [1 + l.dims * 2 ^ 8 + dNvec l.words * 2 ^ 10 + f.added * 2 ^ 13 + b2n f.zero * 2 ^ 16 + mode * 2 ^ 17 + l.prio * 2 ^ 19,
   w 1, w 2, w 3, w 4, w 5, l.addr, n]

/-- An image's bytes and its length in 64-byte units. -/
def imageBytes (l : Launch) (f : Frontier) (mode : Nat) : List Byte × Nat :=
  let es := stairEntries l.dims l.ext f
  let size := entrySize l.dims
  let bytes := (imageHead l f mode es.length).flatMap (natBytes 8 ·) ++ es.flatMap (natBytes size ·)
  let units := (64 + es.length * size + 63) / 64
  (bytes ++ List.replicate (64 * units - bytes.length) 0, units)

/-- The counts of a run list keep the rules of R299 and the invariants of R294 (DIMS 3). -/
def runsOk (e : Nat × Nat × Nat) (prev : Option (Nat × Nat × Nat)) : List Nat → Bool
  | [] => true
  | x :: r =>
    let i := x / 2 ^ 42 % 2 ^ 21
    let j := x / 2 ^ 21 % 2 ^ 21
    let n := x % 2 ^ 21
    let here : Bool := x / 2 ^ 63 == 0 && i < e.1 && j < e.2.1 && n ≤ e.2.2 &&
      (match prev with
       | none => i == 0 && j == 0 && n != 0
       | some (pi, pj, pn) =>
         if i = pi then pj < j && n < pn else i == pi + 1 && j == 0 && n != 0)
    here && runsOk e (some (i, j, n)) r

/-- The staircase of a run list: each run covers its rows up to the next run of the same I. -/
def stairOfRuns (e : Nat × Nat × Nat) (es : List Nat) : Map Nat :=
  (es.zipIdx.flatMap fun p =>
    let i := p.1 / 2 ^ 42 % 2 ^ 21
    let j := p.1 / 2 ^ 21 % 2 ^ 21
    let n := p.1 % 2 ^ 21
    let stop := match es[p.2 + 1]? with
      | some q => if q / 2 ^ 42 % 2 ^ 21 = i then q / 2 ^ 21 % 2 ^ 21 else e.2.1
      | none => e.2.1
    if n = 0 then [] else (List.range (stop - j)).map fun d => (rowKey i (j + d), n)).foldl (fun m p => mset m p.1 p.2) []

/-- A staircase does not increase in i (DIMS 3). -/
def stairFalls (m : Map Nat) : Bool :=
  m.all fun p =>
    let i := p.1 / 2 ^ 21
    let j := p.1 % 2 ^ 21
    i == 0 || p.2 ≤ mgetD m (rowKey (i - 1) j) 0

/-- The entries of an image keep the invariants of R294: the staircase they give. -/
def stairOfEntries (dims : Nat) (e : Nat × Nat × Nat) (es : List Nat) : Option (Map Nat) :=
  match dims with
  | 1 =>
    match es with
    | [c] => if c ≤ e.1 then some (if c = 0 then [] else [(rowKey 0 0, c)]) else none
    | [] => some []
    | _ => none
  | 2 =>
    if es.all (fun c => c ≤ e.2.1) && es.length ≤ e.1 && (es.zip (es.drop 1)).all (fun p => p.2 ≤ p.1) then
      some ((es.zipIdx.map fun p => (rowKey p.2 0, p.1)).filter fun p => p.2 != 0)
    else none
  | _ =>
    if runsOk e none es then
      let m := stairOfRuns e es
      if stairFalls m then some m else none
    else none

end Sys2Proof.Machine
end

