-- ==== Sys2Proof/Machine/Task.lean ====
section
/-! DEFINITION. Task queues (R282 to R285): their creation and destruction, TKPUT and TKGET. -/

namespace Sys2Proof.Machine

/-- The trap of R283. -/
def trapScope (s : State) (h : Word) : State := trapHere s .scope (hTop h)

/-! TKPUT. -/

/-- The packet length of a header, if the header is one R285 allows. -/
def packetLength (hd : Nat) : Option Nat :=
  let len := hd % 2 ^ 9
  let succ := hd / 2 ^ 9 % 8
  if hd / 2 ^ 12 % 16 = 0 ∧ succ ≤ 4 ∧ 32 ≤ len ∧ len ≤ 256 ∧ len % 8 = 0 ∧ 8 * (1 + succ) ≤ len then some len else none

/-- The local reads of the issuing context that are next in program order can be performed (R170, R203). -/
def localTurn (s : State) (a n : Nat) : Bool :=
  !earlierLocal s s.cur.core s.cur.slot s.nextId true && !wmBlocks s.myCore none a n

/-- The header is read once the context's earlier local accesses are performed, and tested (R285). -/
def tkputHeader (b : Blk) (s : State) : State :=
  let p := arg b.held 1
  let a := ptrAddr p
  if !localTurn s a 8 || !granted s.myCore 0 [(a, 8)] then s
  else
    let s := takeBanks s s.cur.core 0 [(a, 8)]
    withGood s true a [(a, 8)] fun s =>
    match packetLength (memNat s.myCore.spad a 8) with
    | none => trapHere s .misaligned (wordOf a)
    | some len =>
      match localAddr s p 0 len 8 with
      | .error s => s
      | .ok _ =>
        withWatch s true false [(a, len)] fun s =>
        withTags s (ptrKey p) [(a, len)] fun s =>
        withGood s true a [(a, len)] fun s => stay s 2 (wordOf len)

/-- TKPUT (R285): its checks at issue; it then waits to read its header (stage 1), and for a free place (stage 2). -/
def effTkput (vs : List VWord) (s : State) : State :=
  let h := arg vs 0
  let p := arg vs 1
  match queueUse s s.cur.core h with
  | none => trapScope s h
  | some _ =>
    match localAddr s p 0 8 8 with
    | .error s => s
    | .ok a =>
      let s := stay s 1 0
      match s.me.blk with
      | some b => tkputHeader b s
      | none => s

/-- TKPUT waits for its header (R203, R285). A data comparator that halts the context leaves the header to be read after the resume
(R224); a context that is halted by then stays so. -/
def contTkput (b : Blk) (s : State) : State :=
  if b.stage = 1 then
    let s' := tkputHeader b (s.updMe fun x => { x with halted := false })
    if s'.me.halted then
      let t := updBlk (s.updMyCore fun k => { k with wphit := s'.myCore.wphit, events := s'.myCore.events }) fun b =>
        { b with exempt := true, aux := 1 }
      if s.me.halted then t else haltCtx t s.cur.core s.cur.slot 4
    else s'.updMe fun x => { x with halted := s.me.halted }
  else s

/-- TKPUT (R285). -/
def execTkput (s1 s2 : SOp) (s : State) : Host.Outcome State Fault Refusal :=
  waitOps (.tkput s1 s2) effTkput contTkput s

/-- The packet a blocked TKPUT can append, the grant of its banks apart: its home, handle, length and address. -/
def tkputDue (s : State) : Option (Nat × Word × Nat × Nat) :=
  match s.me.blk with
  | some b =>
    match b.instr with
    | .tkput _ _ =>
      let h := arg b.held 0
      let a := ptrAddr (arg b.held 1)
      let len := b.aux.toNat
      if b.stage = 2 ∧ localTurn s a len then
        match queueUse s s.cur.core h with
        | none => none
        | some 11 => some (11, h, len, a)
        | some u => match hQueue s (coreJob s s.cur.core) u h with
          | some q => if q.packets.length < q.depth then some (u, h, len, a) else none
          | none => none
      else none
    | _ => none
  | none => none

/-- The packet a blocked TKPUT can append now: its banks grant its read (R144). -/
def tkputReady (s : State) : Option (Nat × Word × Nat × Nat) :=
  (tkputDue s).filter fun p => granted s.myCore 0 [(p.2.2.2, p.2.2.1)]

/-- The queue of this package that a TKPUT or TKGET of another one names (R283): of fabric scope, and no pipe. -/
def fabricQueue (s : State) (job : Nat) (h : Word) : Option TQueue :=
  (hQueue s job 10 h).filter fun q => hScope h == 3 && hNumber h ≤ 63 && q.pipe.isNone

/-- A packet from another package at its queue's home: it waits for room, and is rejected where the queue is none that it may
use. -/
def packetArrive (s : State) (m : Msg) (h : Word) (packet : List Byte) : Host.Outcome State Fault Refusal :=
  match fabricQueue s m.job h with
  | none => .next (replyMsg s s.cur.id (.failed stAbsent))
  | some q =>
    event (q.packets.length < q.depth)
      (replyMsg (updQueue s 10 (hNumber h) fun q => { q with packets := q.packets ++ [packet] }) s.cur.id .ack)

/-- TASK_PACKET_APPEND (R285): the packet is appended whole at the tail, and the TKPUT completes. A queue of another package
takes it outside the model (log entry 12), and one that cannot be reached, or that the destination rejects, is reported as peer
absent (R358, R364). A word of the packet that has failed since the issue traps (R145, R338). The packet of another package's TKPUT
is the message `cur` names. -/
def execTaskPacketAppend (s : State) : Host.Outcome State Fault Refusal :=
  match tkputReady s with
  | none =>
    (match mget s.msgs s.cur.id with
     | none => .refused .notEnabled
     | some m => (match m.act, m.phase with
       | .tkput h packet, .going due => if due ≤ s.now then packetArrive s m h packet else .refused .notEnabled
       | _, _ => .refused .notEnabled))
  | some (u, h, len, a) =>
    let c := s.cur.core
    let (ok, s) := spadCheck (takeBanks s c 0 [(a, len)]) c a len
    if !ok then .next (trapHere s .uncorrectable (wordOf a))
    else
    let bytes := memRead s.myCore.spad a len
    let fails (s : State) : State := queueFail s c s.cur.slot s.me.gen { cause := Cause.peerAbsent.code, value := hTop h }
    let s := if u < 11 then updQueue s u (hNumber h) fun q => { q with packets := q.packets ++ [bytes] }
      else if canLeave s (coreJob s c) (hPackage h) then
        let (n, s) := s.fresh 4
        if n % 2 = 0 then fails s else s
      else fails s
    .next (doneOps s)

/-! TKGET. -/

/-- TKGET (R285): its checks at issue; its request then goes to the queue's home. -/
def effTkget (d s1 : SOp) (la : BitVec 4) (vs : List VWord) (s : State) : State :=
  let h := arg vs 0
  let c := s.cur.core
  let dst := h.toNat % 2 ^ 19
  match queueUse s c h with
  | none => trapScope s h
  | some u =>
    if dst % 8 ≠ 0 then trapHere s .misaligned (wordOf dst)
    else
      match localAddr s (wordOf dst) 0 256 8 with
      | .error s => s
      | .ok _ =>
        let m : Msg :=
          { issuer := .ctx c s.cur.slot s.me.gen s.nextId, act := .tkget h dst (ptrKey h), home := .queue u (hNumber h)
            va := dst, key := ptrKey h, job := coreJob s c }
        doneOps (sendMsg (addPend s (.tkget d s1 la) (.query []) 0 none) m).2

/-- TKGET (R285). -/
def execTkget (d s1 : SOp) (la : BitVec 4) (s : State) : Host.Outcome State Fault Refusal :=
  issueOps (.tkget d s1 la) (effTkget d s1 la) s

/-- What another package answers to a TKGET: a rejection or an absent package (R364), an empty queue, or a packet of open
contents (log entry 12). -/
def awayPacket (s : State) : Reply × State :=
  let (n, s) := s.fresh 4
  if n % 4 = 0 then (.failed stAbsent, s)
  else if n % 4 = 1 then (.packet [], s)
  else
    let (v, s) := s.fresh 6
    let len := 32 + 8 * (n / 4 % 29)
    (.packet (natBytes len (v / 2 ^ 16 * 2 ^ 16 + len)), s)

/-- TASK_PACKET_REMOVE (R285): a request at the home takes the head packet, or finds the queue empty. -/
def execTaskPacketRemove (s : State) : Host.Outcome State Fault Refusal :=
  match mget s.msgs s.cur.id with
  | none => .refused .notEnabled
  | some m =>
    match m.act, m.home, m.phase with
    | .tkget h _ _, .queue u n, .going due =>
      if due ≤ s.now then
        if u = 11 then
          let (r, s) := if canLeave s m.job (hPackage h) then awayPacket s else (.failed stAbsent, s)
          .next (replyMsg s s.cur.id r)
        else
          match if m.issuer = .foreign then fabricQueue s m.job h else hQueue s m.job u h with
          | none => .next (replyMsg s s.cur.id (.packet []))
          | some q =>
            let s := updQueue s u n fun q => { q with packets := q.packets.drop 1 }
            .next (replyMsg s s.cur.id (.packet (q.packets.headD [])))
      else .refused .notEnabled
    | _, _, _ => .refused .notEnabled

/-- Write a packet into the scratchpad, word by word, at the memory-side unit (R175, R285): a word whose tag check fails
is reported once for its granule and left unwritten. -/
def packetWrite (c key : Nat) (m : Msg) (dst : Nat) : List (List Byte) → Nat → State → State
  | [], _, s => s
  | w :: r, i, s =>
    let a := dst + 8 * i
    match tagFail (s.core c) key a w.length with
    | some b =>
      let first := i = 0 ∨ (a - 8) / 32 ≠ a / 32
      packetWrite c key m dst r (i + 1) (if first then reportTag s c dst b m else s)
    | none =>
      let s := watchMsg s c m false true ((List.range w.length).map (a + ·))
      packetWrite c key m dst r (i + 1) (spadWrite s c a w)

/-- The reply of a TKGET that can complete, the grant of its banks apart (R170). -/
def tkgetDue (s : State) (id : Nat) : Option (Msg × List Byte × Nat × Nat) :=
  match replyDue s id with
  | some (m, .packet bs) =>
    match m.act, m.issuer.core? with
    | .tkget _ dst key, some c =>
      if bs.isEmpty || !wmBlocks (s.core c) none dst bs.length then some (m, bs, dst, key) else none
    | _, _ => none
  | _ => none

/-- The banks a packet is written to, by the memory-side unit of its core (R144, R285). -/
def tkgetPieces (bs : List Byte) (dst : Nat) : List (Nat × Nat) := if bs.isEmpty then [] else [(dst, bs.length)]

/-- The reply of a TKGET that completes now: its banks grant its write (R144). -/
def tkgetReady (s : State) : Option (Msg × List Byte × Nat × Nat) :=
  (tkgetDue s s.cur.id).filter fun p => p.1.issuer.core?.all fun c => granted (s.core c) 1 (tkgetPieces p.2.1 p.2.2.1)

/-- TKGET_COMPLETE (R285): the packet's bytes are written, and the header is the result; a push that found no room is
tried again. One whose queue cannot be reached traps with peer absent (R358, R364). -/
def execTkgetComplete (s : State) : Host.Outcome State Fault Refusal :=
  match tkgetReady s with
  | some (m, bs, dst, key) =>
    let s := dropMsg s s.cur.id
    match m.issuer with
    | .ctx c t gen pend =>
      if (s.ctx c t).gen = gen then
        let s := packetWrite c key m dst (chunksOf 8 bs.length bs) 0 (takeBanks s c 1 (tkgetPieces bs dst))
        let res : PendRes := .value (BitVec.ofNat 128 (bytesNat (bs.take 8)))
        let s := setPendRes s c t pend res
        .next (match findPend (s.ctx c t) pend with
          | some q => if pendReady s c t q then completePend s c t q res else s
          | none => s)
      else .next s
    | _ => .next s
  | none =>
    match replyDue s s.cur.id with
    | some (m, .failed st) =>
      let mine : Bool := match m.act with
        | .tkget _ _ _ => true
        | _ => false
      event mine (deliverReply s s.cur.id m (.failed st))
    | _ => .refused .notEnabled

/-! TQCFG (R284). -/

/-- The packet places in use at a home (R282, R286). -/
def placesUsed (p : Plain) : Nat :=
  (p.queues.map fun q => if q.2.pipe.isSome then (q.2.depth + 31) / 32 else q.2.depth).foldl (· + ·) 0

/-- A create is made, if R284 lets it. -/
def tqCreate (s : State) (c : Nat) (v : Word) : Bool × State :=
  let job := coreJob s c
  match hHome s job v with
  | none => (false, s)
  | some 11 =>
    let (n, s) := s.fresh 4
    (n % 2 == 1 && canLeave s job (hPackage v), s)
  | some u =>
    let depth := v.toNat / 4 % 256 + 1
    let p := unitPlain s u
    if hNumber v ≤ 63 && hInside c u v && (mget p.queues (hNumber v)).isNone && placesUsed p + depth ≤ 4096 then
      let q : TQueue := { job := job, scope := hScope v, square := hSquare v, depth := depth }
      (true, updUnit s u fun p => { p with queues := mset p.queues (hNumber v) q })
    else (false, s)

/-- The contexts blocked in a TKPUT to a queue that no longer exists take the trap of R283. -/
def trapBlockedPuts (s : State) : State :=
  s.cores.foldl (fun s p => p.2.ctxs.foldl (fun s x =>
    match x.2.blk with
    | some b => match b.instr with
      | .tkput _ _ =>
        let h := arg b.held 0
        if b.stage ≠ 0 ∧ (queueUse s p.1 h).isNone then
          raiseTrap s p.1 x.1 { cause := Cause.scope.code, value := hTop h, pc := b.pc, ilen := some b.len }
        else s
      | _ => s
    | none => s) s) s

/-- A destroy is made, if R284 lets it. -/
def tqDestroy (s : State) (c : Nat) (v : Word) : Bool × State :=
  let job := coreJob s c
  match hHome s job v with
  | none => (false, s)
  | some 11 =>
    let (n, s) := s.fresh 4
    (n % 2 == 1 && canLeave s job (hPackage v), s)
  | some u =>
    match hQueue s job u v with
    | none => (false, s)
    | some q =>
      if q.pipe.isSome || 63 < hNumber v then (false, s)
      else (true, trapBlockedPuts (updUnit s u fun p => { p with queues := mdel p.queues (hNumber v) }))

/-- A TQCFG action has been performed at its home; its reply is on its way (stage 11). -/
def tqAction (op : Nat) (act : State → Nat → Word → Bool × State) (s : State) : Host.Outcome State Fault Refusal :=
  match actionOf s 8 with
  | some v =>
    let c := s.cur.core
    let (ok, s') := act (stay s 11 v) c v
    let (due, s') := later s'
    let r : CtxReply := { core := c, slot := s.cur.slot, gen := s.me.gen, value := if ok then 1 else 2, due := due }
    event (v.toNat % 4 == op) { s' with replies := s'.replies ++ [r] }
  | none => .refused .notEnabled

/-- TQCFG_CREATE (R284). -/
def execTqcfgCreate (s : State) : Host.Outcome State Fault Refusal := tqAction 1 tqCreate s

/-- TQCFG_DESTROY (R283, R284). -/
def execTqcfgDestroy (s : State) : Host.Outcome State Fault Refusal := tqAction 2 tqDestroy s

/-- A reply for the context `cur` names has come. -/
def ctxReply (s : State) : Option CtxReply :=
  s.replies.find? fun r => r.core == s.cur.core && r.slot == s.cur.slot && r.gen == s.me.gen && r.due ≤ s.now

/-- TQCFG_REPLY (R284). -/
def execTqcfgReply (s : State) : Host.Outcome State Fault Refusal :=
  match ctxReply s, actionOf s 11 with
  | some r, some _ =>
    let s := { s with replies := s.replies.erase r }
    .next (doneOps (s.updMe fun x => { x with tqresult := r.value.toNat }))
  | _, _ => .refused .notEnabled

end Sys2Proof.Machine
end

