-- ==== Sys2Proof/Machine/Launch.lean ====
section
/-! DEFINITION. Launches (R264 to R278, R286, R349, R350): acceptance and rejection, dealing, the start of groups,
and the sweep that ends a launch. -/

namespace Sys2Proof.Machine

/-! Places (R271, R307). -/

/-- The plains of a job in the order of their virtual die numbers. -/
def jobPlains (s : State) (job : Nat) : List Nat :=
  match mget s.jobs job with
  | some j => ((List.range 16).filterMap fun v => vdtEntry s job v).filter fun p => j.partition.getLsbD p
  | none => []

/-- The core holds no group and is ready for one. -/
def coreFree (s : State) (c : Nat) : Bool := (s.core c).group.isNone && (s.core c).ready

/-- The enabled squares of a plain. -/
def plainSquares (s : State) (p : Nat) : List Nat := ((List.range 256).map (p * 256 + ·)).filter (squareEnabled s)

/-- The cores of a plain that a group can be on. -/
def plainCores (s : State) (p : Nat) : Nat := 8 * (plainSquares s p).length

/-- The groups a die dispatcher has received and not started. -/
def queuedGroups (s : State) (p : Nat) : Nat := ((s.plain p).batches.map fun b => b.groups.length).foldl (· + ·) 0

/-- The free count of a plain (R271). -/
def freeCount (s : State) (p : Nat) : Nat :=
  let taken := s.cores.filter fun x => coreDie x.1 == p && squareEnabled s (coreSquare x.1) && !(x.2.group.isNone && x.2.ready)
  plainCores s p - taken.length - queuedGroups s p

/-- The free counts of a job's plains together. -/
def totalFree (s : State) (job : Nat) : Nat := ((jobPlains s job).map (freeCount s)).foldl (· + ·) 0

/-- The cores of a job's partition. -/
def totalCores (s : State) (job : Nat) : Nat := ((jobPlains s job).map (plainCores s)).foldl (· + ·) 0

/-- A plain is being removed from a job (R336): it is dealt nothing. -/
def leaving (s : State) (job p : Nat) : Bool := s.shrink.phase != 0 && s.shrink.runJob == job && s.shrink.runRemove / 2 ^ p % 2 == 1

/-- The plain with the largest free count, the lowest virtual die first. -/
def bestPlain (s : State) (job : Nat) : Option Nat :=
  ((jobPlains s job).filter fun p => !leaving s job p).foldl (fun (b : Option Nat) p =>
    match b with
    | none => some p
    | some q => if freeCount s q < freeCount s p then some p else some q) none

/-! The checks of a descriptor (R264, R265, R267). -/

/-- Every byte of a device-memory range of a job can be read: page by page of the smallest size. -/
def rangeReadable (s : State) (job va n : Nat) : Bool × State :=
  if n = 0 then (true, s)
  else
    let page := levelSize 3
    let last := va + n - 1
    if regionOf va ≠ .device ∨ regionOf last ≠ .device then (false, s)
    else
      (List.range (last / page - va / page + 1)).foldl (fun (r : Bool × State) i =>
        if !r.1 then r
        else
          let a := max va ((va / page + i) * page)
          let e := min (last + 1) ((va / page + i + 1) * page)
          match freeXlate r.2 10 job a .read with
          | (.error _, s) => (false, s)
          | (.ok pa, s) => hbmCheck s pa (e - a)) (true, s)

/-- The bits R264 and R265 mark 0 are zero (reason 0x02). -/
def zeroBitsOk (w : List Word) : Bool :=
  let w0 := dWord w 0
  let dims := dDims w
  let extents : Bool := (List.range 3).all fun d => d < dims || dExtent w d == 0
  let w5 := dWord w 5
  let nv := min (dNvec w) 4
  let vecs : Bool := (List.range nv).all fun v => (List.range 3).all fun d => d < dims || dVec w v d == 0
  let np := min (dPipes w) 4
  let kindData : Bool := match dKind w with
    | 1 => w5 / 2 ^ 63 == 0 && w5 % 2 ^ 60 / 2 ^ (15 * nv) == 0 && (!dDimsOk w || vecs)
    | 3 => (List.range np).all (fun p => dPipe w p / 2 ^ 10 == 0) && w5 / 2 ^ (16 * np) == 0
    | _ => w5 == 0
  w0 / 2 ^ 15 == 0 && w0 / 2 ^ 11 % 2 == 0 && w0 / 2 ^ 7 % 2 == 0 &&
  dWord w 1 / 2 ^ 46 == 0 && dWord w 1 / 2 ^ 19 % 2 ^ 13 == 0 && dWord w 2 / 2 ^ 52 == 0 && dWord w 3 / 2 ^ 63 == 0 &&
  (!dDimsOk w || extents) && dWord w 4 / 2 ^ 52 == 0 && (dImageLen w != 0 || dImage w == 0) && kindData &&
  dWord w 6 / 2 ^ (16 * min (dAfters w) 4) == 0

/-- KIND and DIMS, NVEC (reason 0x01); without feature 3 a frontier launch is no valid kind (R347). -/
def kindOk (s : State) (w : List Word) : Bool :=
  dDimsOk w && (dKind w != 1 || (featureOn s 3 && 1 ≤ dNvec w && dNvec w ≤ 4))

/-- ENTRY and IMAGE (reason 0x03). -/
def entryOk (w : List Word) : Bool :=
  dEntry w % 4 == 0 && (dImageLen w == 0 || dEntry w < 64 * dImageLen w) && dImage w % 64 == 0 && 64 * dImageLen w ≤ 524288

/-- Extents (reason 0x04). -/
def extentsOk (w : List Word) : Bool :=
  (List.range (dDims w)).all (fun d => 1 ≤ dExtent w d) &&
  (dKind w != 2 || (8 ≤ dExtent w 1 && dExtent w 1 ≤ 4096 && dExtent w 1 % 8 == 0))

/-- Predecessors (reason 0x05). -/
def aftersOk (w : List Word) : Bool :=
  dAfters w ≤ 4 && (List.range (dAfters w)).all fun p => sextN (dAfter w p) 16 < 0

/-- The places a pipe entry takes at its home (R286). -/
def pipePlaces (e : Nat) : Nat := (e % 256 + 1 + 31) / 32

/-- The home of a pipe entry for a gang whose first group is on a square: a plain or the north pass die. -/
def pipeHome (e sq : Nat) : Nat := if e / 256 % 4 < 2 then sq / 256 else 10

/-- The lowest queue number free at a home. -/
def freeNumber (p : Plain) : Option Nat := (List.range 64).find? fun n => (mget p.queues n).isNone

/-- Create the pipe of an entry at a home, with the lowest number free there (R286): its handle; none when it cannot be. -/
def makePipe (s : State) (job gang sq e : Nat) : Option (Word × State) :=
  let u := pipeHome e sq
  let p := unitPlain s u
  match freeNumber p with
  | none => none
  | some n =>
    if 4096 < placesUsed p + pipePlaces e then none
    else
      let scope := e / 256 % 4
      let q : TQueue := { job := job, scope := scope, square := sq % 256, depth := e % 256 + 1, pipe := some gang }
      let s := updUnit s u fun p => { p with queues := mset p.queues n q }
      let h := n * 2 ^ 33 + scope * 2 ^ 62 + (if scope = 0 then sq % 256 * 2 ^ 41 else 0) +
        (if scope < 2 then vdieOf s job u * 2 ^ 49 else 0) +
        (if scope = 3 ∧ s.mgmt.inDomain then s.mgmt.package * 2 ^ 53 else 0)
      some (wordOf h, s)

/-- Create the pipes of a gang (R286); none when one cannot be. -/
def makePipes (s : State) (job gang sq : Nat) : List Nat → Option (List Word × State)
  | [] => some ([], s)
  | e :: r => (makePipe s job gang sq e).bind fun x => (makePipes x.2 job gang sq r).map fun y => (x.1 :: y.1, y.2)

/-- The pipe entries of a gang. -/
def pipeEntries (w : List Word) : List Nat := (List.range (min (dPipes w) 4)).map (dPipe w)

/-- The square the first group of a gang is to be on, as dealing would place it now (R270, R273). -/
def firstSquare (s : State) (job : Nat) : Nat :=
  match bestPlain s job with
  | none => 0
  | some p =>
    let sqs := plainSquares s p
    ((sqs.find? fun sq => (List.range 8).any fun n => coreFree s (squareCore sq n)).getD (sqs.headD (p * 256)))

/-- The check of pipes (reason 0x06). -/
def pipesOk (s : State) (job : Nat) (w : List Word) : Bool :=
  if dKind w ≠ 3 then dPipes w == 0
  else dPipes w ≤ 4 && (makePipes s job 0 (firstSquare s job) (pipeEntries w)).isSome

/-- The first check of R267 a readable member fails, but for those of the gang as a whole. -/
def memberReason (s : State) (job : Nat) (inGang : Bool) (w : List Word) : Option Nat :=
  if !zeroBitsOk w then some 2
  else if !kindOk s w || (inGang && dKind w != 3) then some 1
  else if !entryOk w then some 3
  else if !extentsOk w then some 4
  else if !aftersOk w then some 5
  else if !pipesOk s job w then some 6
  else none

/-- Read a descriptor; none where a byte of it or of its image cannot be read (reason 0x08). -/
def readDescriptor (s : State) (job addr : Nat) : Option (List Word) × Bool × State :=
  if addr % 64 ≠ 0 then (none, false, s)
  else
    match northRead s job addr 64 with
    | (none, s) => (none, false, s)
    | (some n, s) =>
      let w := (List.range 8).map fun i => wordOf (n / 2 ^ (64 * i))
      let (ok, s) := rangeReadable s job (dImage w) (64 * dImageLen w)
      (some w, ok, s)

/-- A member of a submission: its address, its words, and whether all its bytes could be read. -/
structure Member where
  addr : Nat
  words : Option (List Word)
  readable : Bool

/-- Read the members of a submission from the i-th address on: a gang goes on while MORE is set (R264, R269), for at most as
many members as the fuel counts. `next` gives an address, or none where it cannot be read. -/
def readMembers (job : Nat) (next : State → Nat → Option Nat × State) : Nat → Nat → State → List Member × State
  | 0, _, s => ([], s)
  | fuel + 1, i, s =>
    match next s i with
    | (none, s) => ([], s)
    | (some a, s) =>
      let (w, ok, s) := readDescriptor s job a
      let m : Member := { addr := a, words := w, readable := ok }
      match w with
      | some ws =>
        if dKind ws = 3 ∧ dMore ws then
          let (ms, s) := readMembers job next fuel (i + 1) s
          (m :: ms, s)
        else ([m], s)
      | none => ([m], s)

/-- The reason that rejects a submission (R267), or none. -/
def rejectReason (s : State) (job : Nat) (ms : List Member) : Option Nat :=
  let inGang : Bool := match ms with
    | m :: _ => (match m.words with
      | some w => dKind w == 3
      | none => false)
    | [] => false
  match ms.findSome? fun m => match m.words with
      | none => some 8
      | some w => if !m.readable then some 8 else memberReason s job inGang w with
  | some r => some r
  | none =>
    if !inGang then none
    else
      let ws := ms.filterMap fun m => m.words
      let same : Bool := ws.all fun w => dWord w 5 == dWord (ws.headD []) 5
      let total := (ws.map dGroups).foldl (· + ·) 0
      if 4 < ms.length ∨ !same ∨ totalCores s job < total then some 7 else none

/-! Acceptance and rejection (R266 to R268). -/

/-- W7 of a descriptor is written (R266), where its address is aligned and translates (R350). -/
def writeW7 (s : State) (job addr v : Nat) : Bool × State :=
  if addr % 64 = 0 then northPut s job (addr + 56) 8 v else (false, s)

/-- W7 of a descriptor is written for a launch that ends or is rejected; vector 12 tells of it for a launch read from a
launch queue (R345). -/
def reportW7 (s : State) (job addr v : Nat) (queued : Bool) : State :=
  let (ok, s) := writeW7 s job addr v
  if queued && ok then raiseIrq s 12 else s

/-- A rejected submission is reported for each of its members (R267, R290, R345). -/
def rejectAll (s : State) (job reason : Nat) (queued : Bool) (ms : List Member) : State :=
  ms.foldl (fun s m =>
    let s := reportW7 s job m.addr (3 * 2 ^ 16 + reason * 2 ^ 24) queued
    faultEntry s job 2 reason 0 0 0 m.addr 0) s

/-- The lowest number from `n` on that no live launch holds, on fuel; 0 is never one (R268). -/
def nextNumber (s : State) : Nat → Nat → Nat
  | 0, n => n
  | fuel + 1, n =>
    let n := if n = 0 ∨ 65535 < n then 1 else n
    if (mget s.launches n).isSome then nextNumber s fuel (n + 1) else n

/-- The number the next accepted launch takes. -/
def freshNumber (s : State) : Nat := nextNumber s 1030 (s.lastLaunch + 1)

/-- The frontier home a launch of a job has now (R294). -/
def frontierHome (s : State) (job : Nat) : Option Nat := (jobPlains s job).head?

/-- The room left in a frontier store (R294). -/
def storeRoom (s : State) (p : Nat) : Nat := 2 ^ 18 - (s.plain p).frStore

/-- Reserve entries of a frontier store. -/
def reserveStore (s : State) (p n : Nat) : State := s.updPlain p fun x => { x with frStore := x.frStore + n }

/-- A launch accepted from its descriptor, for a job. -/
def launchOf (s : State) (job addr : Nat) (w : List Word) : Launch :=
  { job := job, addr := addr, words := w, kind := dKind w, dims := dDims w, prio := dPrio w, ext := dExt w
    afters := (List.range (dAfters w)).map fun p => ((addr : Int) + 64 * sextN (dAfter w p) 16).toNat
    total := dGroups w, seq := s.nextId }

/-- Put a launch among the live ones, with the next number (R268), and write W7. -/
def enterLaunch (s : State) (l : Launch) : Nat × State :=
  let n := freshNumber s
  let (_, s) := s.newId
  let s := { s with launches := mset s.launches n l, lastLaunch := n }
  (n, (writeW7 s l.job l.addr (n + 2 ^ 16)).2)

/-- The members of a gang, or the one launch, are accepted; the first number. -/
def acceptAll (s : State) (job : Nat) (held queued : Bool) (ws : List (Nat × List Word)) : Nat × State :=
  let inGang : Bool := match ws with
    | (_, w) :: _ => dKind w == 3
    | [] => false
  let (gang, s) := if inGang then s.newId else (0, s)
  let (pipes, s) : List Word × State := match ws with
    | (_, w) :: _ => if inGang then (makePipes s job gang (firstSquare s job) (pipeEntries w)).getD ([], s) else ([], s)
    | [] => ([], s)
  let (nums, s) := ws.zipIdx.foldl (fun (r : List Nat × State) m =>
    let l := launchOf r.2 job m.1.1 m.1.2
    let (n, s) := enterLaunch r.2 { l with gang := gang, member := m.2, pipes := pipes, heldBack := held, queued := queued }
    (r.1 ++ [n], s)) ([], s)
  (nums.headD 0, s)

/-- Accept a frontier launch, or reject it for its reservation (R294, R295). -/
def acceptFrontier (s : State) (job : Nat) (held queued : Bool) (m : Member) (w : List Word) : Nat × State :=
  let e := dExt w
  let need := worstCase (dDims w) e
  match frontierHome s job with
  | none => (0, rejectAll s job 4 queued [m])
  | some p =>
    if storeRoom s p < need then (0, rejectAll s job 4 queued [m])
    else
      let (zero, added, neff) := effective w (dDims w)
      let f : Frontier := { zero := zero, added := added, neff := neff, home := some p, reserve := need }
      let s := reserveStore s p need
      enterLaunch s { launchOf s job m.addr w with frontier := some f, heldBack := held, queued := queued }

/-- Accept or reject a submission: the launch number, or 0. -/
def judge (s : State) (job : Nat) (held queued : Bool) (ms : List Member) : Nat × State :=
  match rejectReason s job ms with
  | some r => (0, rejectAll s job r queued ms)
  | none =>
    let ws := ms.filterMap fun m => m.words.map fun w => (m.addr, w)
    match ms, ws with
    | [m], [(_, w)] =>
      if dKind w ≠ 1 then acceptAll s job held queued ws else acceptFrontier s job held queued m w
    | _, _ => acceptAll s job held queued ws

/-- There is room for n more live launches (R268). -/
def roomLive (s : State) (n : Nat) : Bool := s.launches.length + n ≤ 1024

/-- A submission that has been read need not wait (R268): it is rejected, or its launches fit the live ones. -/
def mayJudge (s : State) (job : Nat) (ms : List Member) : Bool := (rejectReason s job ms).isSome || roomLive s ms.length

/-! The launch queue (R349, R350). -/

/-- The header of a job's launch queue: WRITE, READ and LOGN; none when it is malformed or cannot be read. -/
def queueHeader (s : State) (job : Nat) (j : Job) : Option (Nat × Nat × Nat) × State :=
  match northRead s job j.launchq 64 with
  | (none, s) => (none, s)
  | (some n, s) =>
    let w := fun i => n / 2 ^ (64 * i) % 2 ^ 64
    (if w 2 ≤ 12 ∧ n / 2 ^ 192 = 0 then some (w 0, w 1, w 2) else none, s)

/-- Change a job. -/
def updJob (s : State) (job : Nat) (f : Job → Job) : State :=
  match mget s.jobs job with
  | some j => { s with jobs := mset s.jobs job (f j) }
  | none => s

/-- BOOTSTAT.LQERR is set (R350, R345). -/
def queueError (s : State) : State := raiseIrq { s with mgmt := { s.mgmt with lqerr := true } } 4

/-- The dispatcher takes a pending notification up: it reads WRITE as its limit, at once but where its translation waits (log entry
20). -/
def takeNotice (s : State) (job : Nat) : State :=
  match mget s.jobs job with
  | none => s
  | some j =>
    if j.lqPending ∧ j.lqLimit = none then
      match queueHeader s job j with
      | (none, t) => if t.held.isSome then s else updJob (queueError t) job fun j => { j with lqPending := false }
      | (some (wr, rd, _), t) =>
        if t.held.isSome then s
        else updJob t job fun j => { j with lqPending := false, lqLimit := if rd < wr then some wr else none }
    else s

/-- LAUNCH_QUEUE_NOTIFY (R350): a write of a job number to LQBELL, which is ignored after a failed boot (R351). -/
def execLaunchQueueNotify (s : State) : Host.Outcome State Fault Refusal :=
  let job := s.cur.word.toNat % 64
  .next (if s.mgmt.error = 0 then takeNotice (updJob s job fun j => { j with lqPending := true }) job else s)

/-- Entry m of a job's launch queue (R349). -/
def queueEntry (job : Nat) (j : Job) (logn : Nat) (s : State) (m : Nat) : Option Nat × State :=
  northRead s job (j.launchq + 64 + 8 * (m % 2 ^ logn)) 8

/-- LAUNCH_QUEUE_ENTRY (R350): a notification whose reading waited is taken up, or the next entry of the job `cur` names, with the entries of its gang, is accepted or
rejected, and READ advances. While 1,024 launches are live, reading waits (R268); a gang that has been read and finds too few places
keeps its place in the order of acceptance. -/
def execLaunchQueueEntry (s : State) : Host.Outcome State Fault Refusal :=
  let job := s.cur.id
  match mget s.jobs job with
  | none => .refused .notEnabled
  | some j =>
    match j.lqLimit with
    | none =>
      let t := takeNotice s job
      event ((mget t.jobs job).any fun q => j.lqPending && !q.lqPending) t
    | some lim =>
      let stop (s : State) (bad : Bool) : State :=
        takeNotice (updJob (if bad then queueError s else s) job fun j => { j with lqLimit := none, lqAt := none }) job
      match queueHeader s job j with
      | (none, s) => northGoes (stop s true)
      | (some (_, rd, logn), s) =>
        if lim ≤ rd then northGoes (stop s false)
        else if !roomLive s 1 then .refused .notEnabled
        else
          match readMembers job (queueEntry job j logn) (lim - rd) rd s with
          | ([], s) => northGoes (stop s true)
          | (ms, s) =>
            if !mayJudge s job ms then
              if j.lqAt.isSome then .refused .notEnabled
              else northGoes (updJob s job fun j => { j with lqAt := some s.now })
            else
              let (_, s) := judge (updJob s job fun j => { j with lqAt := none }) job false true ms
              match northPut s job (j.launchq + 8) 8 (rd + ms.length) with
              | (false, s) => northGoes (stop s true)
              | (true, s) => northGoes (if lim ≤ rd + ms.length then stop s false else s)

/-! LAUNCH (R269). -/

/-- The request is sent once the context's earlier accesses are performed (R208): stage 3 waits for the reply. -/
def sendLaunch (b : Blk) (s : State) : State :=
  let c := s.cur.core
  if !released s c s.cur.slot s.nextId then s
  else
    let (id, s) := s.newId
    let (due, s) := later s
    let r : DispReq := { id := id, kind := 0, core := c, slot := s.cur.slot, gen := s.me.gen, job := coreJob s c
                         addr := b.aux.toNat, due := due, held := s.me.stepping.isSome && s.myCore.holdDisp }
    stay { s with requests := s.requests ++ [r] } 3 b.aux

/-- The address of a LAUNCH is translated, if need be after a walk; then it waits for its release. -/
def launchXlate (a : Nat) (s : State) : State :=
  match xlate s a .read with
  | .fail r l => trapXlate s a r l 0
  | .missing => stay (startWalk s a .read) 1 (wordOf a)
  | .waiting => stay s 1 (wordOf a)
  | .ok _ =>
    let s := stay (endWalk s) 2 (wordOf a)
    match s.me.blk with
    | some b => sendLaunch b s
    | none => s

/-- LAUNCH (R269) at issue. -/
def effLaunch (vs : List VWord) (s : State) : State :=
  let a := ptrAddr (arg vs 0)
  if a % 64 ≠ 0 then trapHere s .misaligned (wordOf a)
  else
    match trapRegion s (regionCheck a (a + 63)) with
    | some s => s
    | none => if regionOf a ≠ .device then trapXlate s a 7 0 3 else launchXlate a s

/-- A blocked LAUNCH goes on: its walk (stage 1), its release (stage 2). -/
def contLaunch (b : Blk) (s : State) : State :=
  match b.stage with
  | 1 => launchXlate b.aux.toNat s
  | 2 => sendLaunch b s
  | _ => s

/-- LAUNCH (R269). -/
def execLaunch (d s1 : SOp) (s : State) : Host.Outcome State Fault Refusal :=
  waitOps (.launch d s1) effLaunch contLaunch s

/-- The dispatcher's request a step is about. -/
def findReq (s : State) (id : Nat) : Option DispReq := s.requests.find? fun r => r.id == id

/-- Forget a request. -/
def dropReq (s : State) (id : Nat) : State := { s with requests := s.requests.filter fun r => r.id != id }

/-- LAUNCH_REQUEST (R268): a request is accepted or rejected, and its reply goes back, once fewer than
1,024 launches are live; HOLDDISP keeps an accepted launch from being dealt (R220). -/
def execLaunchRequest (s : State) : Host.Outcome State Fault Refusal :=
  match findReq s s.cur.id with
  | none => .refused .notEnabled
  | some r =>
    if r.kind ≠ 0 ∨ s.now < r.due ∨ !roomLive s 1 then .refused .notEnabled
    else
      let (ms, s) := readMembers r.job (fun s i => (some (r.addr + 64 * i), s)) (2 ^ 46) 0 s
      if !mayJudge s r.job ms then .refused .notEnabled
      else
        let (n, s) := judge s r.job r.held false ms
        let gang := match s.launch? n with
          | some l => l.gang
          | none => 0
        let mine := if gang = 0 then [n] else (s.launches.filter fun p => p.2.gang == gang).map Prod.fst
        let s := if n ≠ 0 ∧ r.held then
            s.updCore r.core fun k => { k with held := k.held ++ mine.map (HeldWork.launch r.slot) }
          else s
        let (due, s) := later s
        northGoes { dropReq s r.id with
          replies := s.replies ++ [{ core := r.core, slot := r.slot, gen := r.gen, value := wordOf n, due := due }] }

/-- LAUNCH_REPLY_ARRIVE (R269). -/
def execLaunchReplyArrive (s : State) : Host.Outcome State Fault Refusal :=
  match ctxReply s, s.me.blk with
  | some r, some b =>
    match b.instr with
    | .launch d _ =>
      event (b.stage == 3) (doneOps (putS { s with replies := s.replies.erase r } d r.value))
    | _ => .refused .notEnabled
  | _, _ => .refused .notEnabled

/-! Dealing (R270 to R272). -/

/-- The groups a die dispatcher has not started go back to the global dispatcher (R273). -/
def returnGroups (s : State) (p : Nat) : State :=
  let back (s : State) (g : GroupReq) : State := s.updLaunch g.launch fun l =>
    let l := { l with running := l.running - 1 }
    match l.frontier with
    | some f => { l with frontier := some { f with offered := f.offered ++ [g.lin] } }
    | none => { l with returned := l.returned ++ [g.lin] }
  let gs := (s.plain p).batches.flatMap fun b => b.groups
  gs.foldl back (s.updPlain p fun x => { x with batches := [] })

/-- The number of undealt groups of a launch. -/
def undealt (l : Launch) : Nat :=
  match l.frontier with
  | some f => f.offered.length
  | none => l.returned.length + (l.total - l.next)

/-- Sort numbers, by insertion. -/
def insertNat (x : Nat) : List Nat → List Nat
  | [] => [x]
  | y :: ys => if x ≤ y then x :: y :: ys else y :: insertNat x ys

@[inherit_doc insertNat]
def sortNat (l : List Nat) : List Nat := l.foldr insertNat []

/-- Take n undealt groups of a launch in ascending linear index. -/
def takeGroups (l : Launch) (n : Nat) : List Nat × Launch :=
  match l.frontier with
  | some f =>
    let o := sortNat f.offered
    (o.take n, { l with frontier := some { f with offered := o.drop n }, running := l.running + n })
  | none =>
    let back := (sortNat l.returned).take n
    let more := n - back.length
    (back ++ (List.range more).map (l.next + ·),
      { l with returned := l.returned.filter (!back.contains ·), next := l.next + more, running := l.running + n })

/-- A launch of a job is ready (R270): no live launch of the job has the address of a predecessor of it. -/
def launchReady (s : State) (l : Launch) : Bool :=
  l.afters.all fun a => s.launches.all fun p => p.2.job != l.job || p.2.addr != a

/-- The members of a gang. -/
def gangMembers (s : State) (gang : Nat) : List (Nat × Launch) := s.launches.filter fun p => p.2.gang == gang

/-- The launch can be dealt from: ready, not held back, with undealt groups; a gang when every member is ready. -/
def dealable (s : State) (p : Nat × Launch) : Bool :=
  !p.2.heldBack && undealt p.2 != 0 &&
  (if p.2.gang = 0 then launchReady s p.2 else (gangMembers s p.2.gang).all fun q => launchReady s q.2)

/-- The first member of a gang, by their places in it, that has undealt groups. -/
def nextMember (s : State) (gang : Nat) : Option (Nat × Launch) :=
  (List.range 4).findSome? fun i => (gangMembers s gang).find? fun q => q.2.member == i && undealt q.2 != 0

/-- A gang of the job that has been dealt in part (R272): its next member. -/
def partGang (s : State) (job : Nat) : Option (Nat × Launch) :=
  (s.launches.find? fun p => p.2.job == job && p.2.gang != 0 && undealt p.2 != 0 &&
    (gangMembers s p.2.gang).any fun q => q.2.running != 0 || q.2.next != 0).bind fun p => nextMember s p.2.gang

/-- The least and the next sequence among some launches. -/
def firstAfter (l : List (Nat × Launch)) (seq : Nat) : Option (Nat × Launch) :=
  let least (l : List (Nat × Launch)) : Option (Nat × Launch) := l.foldl (fun b p =>
    match b with
    | none => some p
    | some q => if p.2.seq < q.2.seq then some p else some q) none
  match least (l.filter fun p => seq < p.2.seq) with
  | some p => some p
  | none => least l

/-- The launch the next batch of a job is drawn from (R270, R272). -/
def dealChoice (s : State) (job : Nat) : Option (Nat × Launch) :=
  match partGang s job with
  | some p => some p
  | none =>
    let cs := s.launches.filter fun p => p.2.job == job && dealable s p
    let top := (cs.map fun p => p.2.prio).foldl max 0
    match firstAfter (cs.filter fun p => p.2.prio == top) (mgetD s.lastDealt (4 * job + top) 0) with
    | none => none
    | some p =>
      if p.2.gang = 0 then some p
      else
        let ms := gangMembers s p.2.gang
        if (ms.map fun q => undealt q.2).foldl (· + ·) 0 ≤ totalFree s job then nextMember s p.2.gang else none

/-- BATCH_DEAL (R271): for the job `cur` names. -/
def execBatchDeal (s : State) : Host.Outcome State Fault Refusal :=
  let job := s.cur.id
  let running : Bool := match mget s.jobs job with
    | some j => !j.stopped
    | none => false
  match dealChoice s job with
  | none => .refused .notEnabled
  | some (n, l) =>
    match bestPlain s job with
    | none => .refused .notEnabled
    | some p =>
      let free := freeCount s p
      let (gs, l') := takeGroups l (min 64 (min (undealt l) free))
      let (id, s') := s.newId
      let b : Batch := { prio := l.prio, seq := id, groups := gs.map fun g => { launch := n, lin := g } }
      let s' := s'.updPlain p fun x => { x with batches := x.batches ++ [b] }
      event (running && free != 0)
        { s' with launches := mset s'.launches n l', lastDealt := mset s'.lastDealt (4 * job + l.prio) l.seq }

/-- GANG_START_RELEASE (R272): the gang `cur` names has all its groups placed; not while its partition is stopped (R325). -/
def execGangStartRelease (s : State) : Host.Outcome State Fault Refusal :=
  let gang := s.cur.id
  let ms := gangMembers s gang
  let go (p : Nat × Launch) : Nat × Launch := if p.2.gang = gang then (p.1, { p.2 with started := true }) else p
  event (gang != 0 && !ms.isEmpty && ms.all fun p => undealt p.2 == 0 && !p.2.started && !jobHeld s p.2.job)
    { s with launches := s.launches.map go }

/-! The start of a group (R146, R273, R275). -/

/-- The head batch of a die dispatcher (R273). -/
def headBatch (s : State) (p : Nat) : Option Batch :=
  (s.plain p).batches.foldl (fun (b : Option Batch) x =>
    match b with
    | none => some x
    | some y => if y.prio < x.prio || (y.prio == x.prio && x.seq < y.seq) then some x else some y) none

/-- The free cores of a square, lowest core number first. -/
def squareFree (s : State) (sq : Nat) : Option Nat := ((List.range 8).map (squareCore sq)).find? (coreFree s)

/-- A square already holds a resident group of a launch. -/
def squareHolds (s : State) (sq launch : Nat) : Bool :=
  (List.range 8).any fun n => residentFor s (squareCore sq n) launch

/-- The core a group of a launch starts on (R273). -/
def chooseCore (s : State) (p launch : Nat) : Option Nat :=
  let sqs := plainSquares s p
  match sqs.findSome? fun sq => if squareHolds s sq launch then squareFree s sq else none with
  | some c => some c
  | none => sqs.findSome? (squareFree s)

/-- Copy a code image into a core, 64 bytes at a time; the cause and address of a read that fails (R275). -/
def loadImage (s : State) (c job image units : Nat) : Option (Nat × Nat) × State :=
  (List.range units).foldl (fun (r : Option (Nat × Nat) × State) i =>
    match r.1 with
    | some _ => r
    | none =>
      let va := image + 64 * i
      match engXlate r.2 (coreDie c) job va .read with
      | (.error _, s) => (some (Cause.translation.code, va), s)
      | (.ok pa, s) =>
        let (ok, s) := hbmCheck s pa 64
        if !ok then (some (Cause.uncorrectable.code, va), s)
        else (none, spadWrite s c (64 * i) (memRead s.hbm pa 64))) (none, s)

/-- What a core keeps when a group starts (R146, R183, R200, R212, R248, R279, R373): the scratchpad only for the same
job, and what no rule resets; the rest takes its reset value. -/
def Core.forGroup (k : Core) (g : Group) (frstat : Word) : Core :=
  let same : Bool := k.lastJob == g.job
  { k with
    group := some g
    ctxs := k.ctxs.map fun p => (p.1, { freeCtx with step := p.2.step }), spad := if same then k.spad else [], fulls := [], tags := [], retagLog := [], storeQ := [], feTable := [], feOnce := []
    flags := [], bars := [], linkQ := [], linkFly := [], resQ := [], recFly := [], chans := [], streams := [], walks := []
    rejects := [], lastImage := if same then k.lastImage else none
    domm := 0xFFFFFFFFFFFFFFFF#64, domArrived := 0, domPhase := 0, frstat := frstat, bufA := none, bufB := none, held := []
    dump := { k.dump with kill := none } }

/-- FRSTAT for a launch's groups (R293). -/
def frstatOf (l : Launch) : Word :=
  match l.frontier with
  | some f => wordOf (f.neff + 8 * f.added + 64 * b2n f.zero + 128 * b2n f.reloaded)
  | none => 0

/-- The control context of a group in the slot it takes (R64, R275): the trap vectors take the bits that TVEC holds (R87). -/
def controlCtx (old : Ctx) (n : Nat) (l : Launch) (g : Group) (gen vec1 vec2 from_ : Nat) : Ctx :=
  let (i, j, k) := g.coord
  let tvec (v : Nat) : Word := wordOf (v / 4 * 4 % 2 ^ 52)
  let x : Ctx := { status := .live, gen := gen, pc := dEntry l.words, notBefore := from_, step := old.step
                   t1 := { tvec := tvec vec1 }, t2 := { tvec := tvec vec2 } }
  let x := x.setX 1 (wordOf (i + 2 ^ 21 * j + 2 ^ 42 * k))
  let x := x.setX 2 (wordOf (dArgs l.words))
  let x := x.setX 3 (wordOf (n % 2 ^ 16 + 2 ^ 16 * l.kind + 2 ^ 18 * l.member))
  x.setX 4 (wordOf g.lin)

/-- A group's coordinates (R274). -/
def groupCoord (l : Launch) (lin : Nat) : Nat × Nat × Nat := if l.kind = 2 then (lin, 0, 0) else coordOf l.ext lin

/-- Start a group of a launch on a core (R275). -/
def startGroup (s : State) (c n lin : Nat) (l : Launch) : State :=
  let (id, s) := s.newId
  let (gen, s) := s.newId
  let g : Group := { id := id, launch := n, job := l.job, lin := lin, coord := groupCoord l lin, kind := l.kind }
  let k := s.core c
  let same : Bool := k.lastJob == l.job
  let s := s.setCore c (k.forGroup g (frstatOf l))
  -- the fill rewrites full/empty bits and tags, and the data of another job (R146)
  let gone (u : Upset) : Bool := u.unit == c && (u.kind == 5 || u.kind == 8 || (!same && (u.kind == 1 || u.kind == 6)))
  let s := { s with upsets := s.upsets.filter (!gone ·) }
  let s := s.updSquare (coreSquare c) fun q => { q with recs := mdel q.recs (coreInSquare c) }
  let len := dImageLen l.words
  let want := (dImage l.words, len)
  let (bad, s) : Option (Nat × Nat) × State :=
    if len = 0 ∨ (s.core c).lastImage = some want then (none, s) else loadImage s c l.job (dImage l.words) len
  let (v1, v2) := match mget s.jobs l.job with
    | some j => (j.vec1.toNat, j.vec2.toNat)
    | none => (0, 0)
  let s := s.setCtx c 0 (controlCtx (s.ctx c 0) n l g gen v1 v2 (s.clk c + 1 + len))
  match bad with
  | some (cause, va) => killCtx s c 0 { cause := cause, value := wordOf va, pc := dEntry l.words }
  | none => if len = 0 then s else s.updCore c fun k => { k with lastImage := some want }

/-- The first group of the first member of a gang (R286). -/
def firstOfGang (l : Launch) (lin : Nat) : Bool := l.gang != 0 && l.member == 0 && lin == 0

/-- The pipes of a gang stand at the place of its first group when it starts (R286); those of square and die scope that were
reserved at another place move there, the others keep their numbers. None when that place has no room: the start then waits (log
entry 33). -/
def movePipes (s : State) (c : Nat) (l : Launch) : Option State :=
  let here (h : Word) : Bool := match hHome s l.job h with
    | some u => hInside c u h
    | none => true
  let gone (s : State) (h : Word) : State := match hHome s l.job h with
    | some u => updUnit s u fun p => { p with queues := mdel p.queues (hNumber h) }
    | none => s
  let place (r : Option (List Word × State)) (p : Word × Nat) : Option (List Word × State) :=
    r.bind fun x =>
      if here p.1 then some (x.1 ++ [p.1], x.2)
      else (makePipe x.2 l.job l.gang (coreSquare c) p.2).map fun y => (x.1 ++ [y.1], y.2)
  let bare := (l.pipes.filter (!here ·)).foldl gone s
  ((l.pipes.zip (pipeEntries l.words)).foldl place (some ([], bare))).map fun r =>
    let set (p : Nat × Launch) : Nat × Launch := if p.2.gang = l.gang then (p.1, { p.2 with pipes := r.1, homed := true }) else p
    { r.2 with launches := r.2.launches.map set }

/-- The pipes of a group's gang when the group starts (R286): its first group brings them to their place; until then the ports of the
others wait (log entry 33). -/
def placePipes (s : State) (c : Nat) (l : Launch) (lin : Nat) : Option State :=
  if l.pipes = [] ∨ l.homed ∨ !firstOfGang l lin then some s else movePipes s c l

/-- GROUP_START (R273, R275): the die dispatcher of the plain `cur` names starts the first group of its head batch. -/
def execGroupStart (s : State) : Host.Outcome State Fault Refusal :=
  let p := s.cur.id
  match headBatch s p with
  | none => .refused .notEnabled
  | some b =>
    match b.groups with
    | [] => .refused .notEnabled
    | g :: rest =>
      match s.launch? g.launch, chooseCore s p g.launch with
      | some l, some c =>
        let stopped : Bool := match mget s.jobs l.job with
          | some j => j.stopped
          | none => true
        if stopped || (l.gang != 0 && !l.started) then .refused .notEnabled
        else
          let left (x : Batch) : Batch := if x.seq = b.seq then { x with groups := rest } else x
          let s := s.updPlain p fun x => { x with batches := (x.batches.map left).filter fun x => !x.groups.isEmpty }
          match placePipes s c l g.lin with
          | none => .refused .notEnabled
          | some s => engineGoes s (startGroup s c g.launch g.lin l)
      | _, _ => .refused .notEnabled

/-- The engines of a core are idle (R200, R234, R239): its channels and their queues, its lease and array queue, its
dump; its stores are performed. -/
def coreIdle (k : Core) : Bool :=
  k.chans.all (fun p => !p.2.active && p.2.startQ.isEmpty && p.2.recd.isNone) && k.lease.state == .none && !k.lease.groupEnding &&
  k.eq1.isEmpty && k.dump.stat.toNat < 2 ^ 63 && k.storeQ.isEmpty

/-- CORE_FREE (R271). -/
def execCoreFree (s : State) : Host.Outcome State Fault Refusal :=
  let c := s.cur.core
  let k := s.core c
  event (k.group.isNone && !k.ready && coreIdle k) (s.updCore c fun k => { k with ready := true })

/-! The end of a launch (R277, R278). -/

/-- A command pushed by a group of the launch is still running at a die (R278): in its cores, its squares and its collective
engine, as an FRSAVE at its frontier home, and at the north pass die as another command of eq3. -/
def commandsAt (s : State) (d n : Nat) : Bool :=
  let here (c : Nat × Core) : Bool := coreDie c.1 == d && (
    c.2.chans.any (fun h => h.2.startQ.any (·.launch == n) || (h.2.active && h.2.ent.any (·.launch == n))) ||
    c.2.eq1.any (·.launch == n) || c.2.recFly.any (·.launch == n))
  let homeOf (f : Frontier) : Nat := f.home.getD 10
  s.cores.any here ||
  s.squares.any (fun q => q.1 / 256 == d && (q.2.runs.any (·.ent.launch == n) || q.2.recs.any fun r => r.2.any (·.launch == n))) ||
  s.plains.any (fun p => p.1 == d && p.2.coll.any (·.launch == n)) ||
  (d == 10 && (s.requests.any (fun r => r.ent.any (·.launch == n)) || s.lateSaves.any fun v => v.2.ent.launch == n)) ||
  s.launches.any fun p => match p.2.frontier with
    | some f => homeOf f == d && f.saves.any (·.ent.launch == n)
    | none => false

/-- No point of a frontier launch is pending or can fire, and it is not draining or parked (R296, R300). -/
def frontierIdle (l : Launch) : Bool :=
  match l.frontier with
  | none => true
  | some f => match f.state with
    | .firing => f.pending.isEmpty && (eligiblePoint l.dims l.ext f).isNone
    | .finished | .abandoned => f.pending.isEmpty
    | .draining | .parked => false

/-- A die dispatcher or a core of a die holds a group of a launch. -/
def groupsAt (s : State) (d n : Nat) : Bool :=
  s.cores.any (fun c => coreDie c.1 == d && c.2.group.any (·.launch == n)) ||
  (d < 8 && (s.plain d).batches.any fun b => b.groups.any (·.launch == n))

/-- What a die holds of a launch is idle (R278): its groups and commands, the points of a frontier launch at its home, and at
the north pass die the dispatcher's own counts. -/
def idleAt (s : State) (d n : Nat) (l : Launch) : Bool :=
  let home : Nat := match l.frontier with
    | some f => f.home.getD 10
    | none => 10
  !groupsAt s d n && !commandsAt s d n && (home != d || frontierIdle l) && (d != 10 || (undealt l == 0 && l.running == 0))

/-- A launch is idle at every die (R278). -/
def launchIdle (s : State) (n : Nat) (l : Launch) : Bool := (List.range 12).all fun d => idleAt s d n l

/-- A launch ends (R266, R278): W7 is written, its store is freed and its counts are forgotten. A save that has not written
its image of it, or is still writing it, goes on with the image as the launch left it (R298). -/
def endLaunch (s : State) (n : Nat) (l : Launch) : State :=
  let s := reportW7 s l.job l.addr (n + 2 * 2 ^ 16 + l.killed % 2 ^ 16 * 2 ^ 32) l.queued
  let s := match l.frontier with
    | some f =>
      let late (v : FrSave) : FrSave :=
        if v.written then v
        else
          let (bs, units) := imageBytes l f v.mode
          { v with late := some { die := f.home.getD 10, bytes := bs, units := units, points := stairTotal f } }
      let s := { s with lateSaves := s.lateSaves ++ f.saves.map fun v => (n, late v) }
      (match f.home with
        | some p => s.updPlain p fun x => { x with frStore := x.frStore - f.reserve }
        | none => s)
    | none => s
  { s with launches := mdel s.launches n, rounds := s.rounds.filter fun r => r.launch != n }

/-- The job of a launch is stopped or removed. -/
def launchStopped (s : State) (l : Launch) : Bool :=
  match mget s.jobs l.job with
  | some j => j.stopped
  | none => true

/-- The launches a sweep is about. -/
def sweptLaunches (s : State) : Map Launch := s.launches.filter fun p => !launchStopped s p.2

/-- A sweep begins (R278): it will read each die once, at times that are open within its 2,048 counts (log entry 34). -/
def beginSweep (s : State) : State :=
  let (due, s) := (List.range 12).foldl (fun (r : Map Nat × State) d =>
    let (n, s) := r.2.fresh 15
    (mset r.1 d (s.now + n % (2047 * Config.grainsPerCount)), s)) ([], s)
  { s with sweep := some { due := due, found := (sweptLaunches s).map fun p => (p.1, (true, 0, 0)) } }

/-- A sweep reads a die: the idleness there of each launch it is about, and its counts of messages. -/
def readSweep (s : State) (w : Sweep) (d : Nat) : Sweep :=
  let read (p : Nat × Bool × Nat × Nat) : Nat × Bool × Nat × Nat :=
    match s.launch? p.1 with
    | some l => (p.1, (p.2.1 && idleAt s d p.1 l, p.2.2.1 + mgetD l.sent d 0, p.2.2.2 + mgetD l.recv d 0))
    | none => p
  { due := mdel w.due d, found := w.found.map read }

/-- What a sweep that closes makes of one launch: the launch ends when the sweep before it found the same, or what this one
found is kept for the next; so it is where the write of W7 waits for an invalidation (R318). -/
def sweepLaunch (s : State) (n : Nat) (idle : Bool) (sent recv : Nat) : State :=
  match s.launch? n with
  | none => s
  | some l =>
    if idle && sent == recv then
      if l.sweepSent = some sent then
        let t := endLaunch s n l
        if t.held.isSome then s else t
      else s.updLaunch n fun l => { l with sweepSent := some sent }
    else s.updLaunch n fun l => { l with sweepSent := none }

/-- A sweep closes. -/
def closeSweep (s : State) (w : Sweep) : State :=
  w.found.foldl (fun s p => sweepLaunch s p.1 p.2.1 p.2.2.1 p.2.2.2) { s with sweep := none }

/-- The sweep in progress forgets the launches of a job whose partition stops (R278). -/
def discardSweep (s : State) (job : Nat) : State :=
  let keep (n : Nat) : Bool := match s.launch? n with
    | some l => l.job != job
    | none => false
  { s with sweep := s.sweep.map fun w => { w with found := w.found.filter fun p => keep p.1 } }

/-- SWEEP (R278): one begins every 2,048 counts of package time, reads each die when its time has come, and closes. -/
def execSweep (s : State) : Host.Outcome State Fault Refusal :=
  let k := s.ptime / 2048
  match s.sweep with
  | none => event (s.sweepAt < k) (beginSweep { s with sweepAt := k })
  | some w =>
    match w.due.find? fun p => p.2 ≤ s.now with
    | some p => .next { s with sweep := some (readSweep s w p.1) }
    | none => event w.due.isEmpty (closeSweep s w)

end Sys2Proof.Machine
end

