-- ==== Sys2Proof/Machine/Frontier.lean ====
section
/-! DEFINITION. The commands of eq3 (R287, R297 to R301) and the frontier homes (R295, R298, R300 to R302). -/

namespace Sys2Proof.Machine

/-- The status of R55 for a scope violation. -/
def stScope : Nat := 0x0D

/-! The commands a dispatcher has received. -/

/-- The opcode of a command word. -/
def CmdEnt.op (e : CmdEnt) : Nat := e.word.toNat % 256

/-- Two commands come from the same context. -/
def sameOrigin (a b : CmdEnt) : Bool := a.core == b.core && a.slot == b.slot && a.gen == b.gen

/-- An earlier FRSAVE of the same context has not pushed its record (R298). -/
def behindSave (s : State) (e : CmdEnt) : Bool :=
  let mine (x : CmdEnt) : Bool := sameOrigin x e && x.op == 0x60 && x.id < e.id
  s.requests.any (fun r => r.ent.any mine) ||
  s.launches.any (fun p => match p.2.frontier with
    | some f => f.saves.any fun v => mine v.ent
    | none => false) ||
  s.lateSaves.any (fun v => mine v.2.ent) ||
  (s.core e.core).recFly.any fun r => r.q == 3 && r.slot == e.slot && r.gen == e.gen && r.recd.toNat % 256 == 0x60

/-- A command of eq3 stands behind one of the same core that HOLDDISP holds (R220). -/
def behindHeld (s : State) (e : CmdEnt) : Bool :=
  s.requests.any fun r => r.held && r.ent.any fun x => x.core == e.core && x.id < e.id

/-- The command of eq3 that `cur` names can be served: it has arrived, is not held, stands behind none that is held (R220) and
does not wait for a save. -/
def servedCmd (s : State) : Option (DispReq × CmdEnt) :=
  match findReq s s.cur.id with
  | some r =>
    match r.ent with
    | some e => if r.kind = 1 ∧ r.due ≤ s.now ∧ !r.held ∧ r.loading = none ∧ !behindHeld s e ∧ !behindSave s e then some (r, e) else none
    | none => none
  | none => none

/-- Serve the command `cur` names, where it is the given one. -/
def eq3Cmd (i : Instr) (f : CmdEnt → State → Host.Outcome State Fault Refusal) (s : State) :
    Host.Outcome State Fault Refusal :=
  match servedCmd s with
  | some (_, e) =>
    (match decodeCmd 3 e.word with
      | .ok j => if j = i then f e s else .refused .notEnabled
      | .error _ => .refused .notEnabled)
  | none => .refused .notEnabled

/-- The record of a command of eq3; the request is done. -/
def eq3Record (s : State) (e : CmdEnt) (h : CmdHdr) (status value detail : Nat) : State :=
  sendRecord (dropReq s e.id) e 3 (record detail value h.tag.toNat status e.op)

/-! KCARD. -/

/-- KCARD (R287). -/
def execKcard (h : CmdHdr) (s : State) : Host.Outcome State Fault Refusal :=
  eq3Cmd (.kcard h) (fun e s =>
    match s.launch? e.launch with
    | none => .next (eq3Record s e h stScope 0 0)
    | some l =>
      if l.kind ≠ 2 then .next (eq3Record s e h stScope 0 0)
      else
        let g := l.ext.2.2
        let remaining := l.ext.1 - l.cardDealt
        let chunk := min remaining (max 1 ((remaining + 2 * g - 1) / (2 * g)))
        let s' := s.updLaunch e.launch fun l => { l with cardDealt := l.cardDealt + chunk }
        .next (eq3Record s' e h 0 chunk (if chunk = 0 then 0 else dArgs l.words + l.cardDealt * l.ext.2.1))) s

/-! FRSAVE. -/

/-- Change the frontier of a launch. -/
def updFrontier (s : State) (n : Nat) (f : Frontier → Frontier) : State :=
  s.updLaunch n fun l => { l with frontier := l.frontier.map f }

/-- A firing launch stops firing (R298): points offered and not yet dealt return to unfired. -/
def drain (f : Frontier) : Frontier :=
  { f with state := .draining, pending := f.pending.filter (!f.offered.contains ·), offered := [] }

/-- The range test of an image (R297, R298): 0 when it can be written. -/
def imageRange (image units : Nat) : Nat :=
  if image % 64 ≠ 0 then stMisaligned
  else
    match regionCheck image (image + 64 * units - 1) with
    | .straddle _ => stStraddle
    | .xlate _ => stXlate
    | .ok => if regionOf image = .device then 0 else stXlate

/-- FRSAVE (R298) is taken up by the frontier home. -/
def execFrsave (h : CmdHdr) (launch : BitVec 16) (mode : BitVec 2) (image : BitVec 52) (limit : BitVec 32) (s : State) :
    Host.Outcome State Fault Refusal :=
  eq3Cmd (.frsave h launch mode image limit) (fun e s =>
    let n := launch.toNat
    let fail (st : Nat) : Host.Outcome State Fault Refusal := .next (eq3Record s e h st 0 0)
    if !featureOn s 3 then fail 1
    else
      match s.launch? n with
      | none => fail stScope
      | some l =>
        match l.frontier with
        | none => fail stScope
        | some f =>
          let st := imageRange image.toNat limit.toNat
          if l.job ≠ e.job then fail stScope
          else if st ≠ 0 then fail st
          else if f.state = .abandoned then fail stUncorrectable
          else if !f.saves.isEmpty then .refused .notEnabled
          else
            let v : FrSave := { ent := e, h := h, mode := mode.toNat, image := image.toNat, limit := limit.toNat }
            let f := if f.state = .firing ∧ 1 ≤ mode.toNat then drain f else f
            .next (updFrontier (dropReq s e.id) n fun _ => { f with saves := [v] })) s

/-- Change the save of a launch: the one in progress, or one of an ended launch (R298). -/
def updSave (s : State) (n : Nat) (v : FrSave) (f : FrSave → FrSave) : State :=
  if v.late.isSome then { s with lateSaves := updWhere (fun x => x.1 == n && x.2.ent.id == v.ent.id) (fun x => (x.1, f x.2)) s.lateSaves }
  else updFrontier s n fun g => { g with saves := g.saves.map f }

/-- Send the writes of an image, 64 bytes each (R298); a translation that fails ends them. -/
def sendImage (s : State) (n : Nat) (v : FrSave) (die job : Nat) (image : Nat) : Nat → List Byte → State
  | 0, _ => s
  | k + 1, bs =>
    match engXlate s die job image .write with
    | (.error _, s) => updSave s n v fun v => { v with failed := some stXlate }
    | (.ok pa, s) =>
      let m : Msg := { issuer := .frsave n die, act := .store (bs.take 64), home := .hbm pa, va := image, job := job }
      let (id, s) := sendMsg s m
      let s := updSave s n v fun v => { v with outstanding := v.outstanding ++ [id] }
      sendImage s n v die job (image + 64) k (bs.drop 64)

/-- A save writes its image of a length and a count of points, where LIMIT allows it (R298). -/
def writeImage (s : State) (n : Nat) (v : FrSave) (die job : Nat) (bs : List Byte) (units points : Nat) : Host.Outcome State Fault Refusal :=
  let told (v : FrSave) : FrSave :=
    { v with written := true, length := units, points := points, failed := if v.limit < units then some stStraddle else none }
  let t := updSave s n v told
  engineGoes s (if v.limit < units then t else sendImage t n v die job v.image units bs)

/-- A save of an ended launch that has not written its image yet (R298). -/
def unwrittenSave (s : State) (n : Nat) : Option (FrSave × LateImage) :=
  s.lateSaves.findSome? fun v => if v.1 == n && !v.2.written && !jobHeld s v.2.ent.job then v.2.late.map (Prod.mk v.2) else none

/-- FRSAVE_IMAGE_WRITE (R298): the launch `cur` names has a save that need not wait for points any more, or has ended with one. -/
def execFrsaveImageWrite (s : State) : Host.Outcome State Fault Refusal :=
  let n := s.cur.id
  match unwrittenSave s n with
  | some (v, i) => writeImage s n v i.die v.ent.job i.bytes i.units i.points
  | none =>
    match s.launch? n with
    | none => .refused .notEnabled
    | some l =>
      match l.frontier with
      | none => .refused .notEnabled
      | some f =>
        match f.saves with
        | [] => .refused .notEnabled
        | v :: _ =>
          let stopped : Bool := match mget s.jobs l.job with
            | some j => j.stopped
            | none => true
          if v.written || stopped || (f.state == .draining && !f.pending.isEmpty) then .refused .notEnabled
          else
            let (bs, units) := imageBytes l f v.mode
            writeImage s n v (f.home.getD 10) l.job bs units (stairTotal f)

/-- A launch is parked (R300): its store is freed and it has no home. -/
def park (s : State) (n : Nat) : State :=
  match s.launch? n with
  | none => s
  | some l =>
    match l.frontier with
    | none => s
    | some f =>
      let s := match f.home with
        | some p => s.updPlain p fun x => { x with frStore := x.frStore - f.reserve }
        | none => s
      updFrontier s n fun f => { f with state := .parked, home := none, reserve := 0 }

/-- What a save does to its launch when it ends: the writes succeeded or not, in a mode (R298). R300 names no such end of a
parked launch, and R298 lets one with MODE 2 end by R278: the model follows R298 (log entry 31). -/
def saveOutcome (s : State) (n mode : Nat) (ok : Bool) (st : FrState) : State :=
  let finish : State := updFrontier s n fun f => { f with state := .finished }
  match st with
  | .draining => if ok ∧ mode = 2 then finish else park s n
  | .finished => if ok ∧ mode = 1 then park s n else s
  | .parked => if ok ∧ mode = 2 then finish else s
  | .firing | .abandoned => s

/-- The record of a save whose writes are performed or have failed (R298). -/
def saveRecord (s : State) (v : FrSave) : State :=
  let status := v.failed.getD 0
  let tooLong : Bool := v.limit < v.length
  let detail := if status = 0 || tooLong then v.points else 0
  sendRecord s v.ent 3 (record detail v.length v.h.tag.toNat status 0x60)

/-- A save has no write left to wait for. -/
def FrSave.over (v : FrSave) : Bool := v.written && v.outstanding.isEmpty

/-- The save of a launch that has ended meanwhile, while its job runs (R325). -/
def lateSave (s : State) (n : Nat) : Option (Nat × FrSave) :=
  s.lateSaves.find? fun v => v.1 == n && v.2.over && !jobHeld s v.2.ent.job

/-- FRSAVE_END (R298): the writes of a save of the launch `cur` names are performed, or it has failed. -/
def execFrsaveEnd (s : State) : Host.Outcome State Fault Refusal :=
  let n := s.cur.id
  match lateSave s n with
  | some v => .next (saveRecord { s with lateSaves := s.lateSaves.erase v } v.2)
  | none =>
    match (s.launch? n).bind (·.frontier) with
    | none => .refused .notEnabled
    | some f =>
      match f.saves with
      | [] => .refused .notEnabled
      | v :: _ =>
        event (v.over && !jobHeld s v.ent.job)
          (saveRecord (saveOutcome (updFrontier s n fun f => { f with saves := [] }) n v.mode (v.failed.isNone) f.state) v)

/-! FRLOAD. -/

/-- Read a range of an image for the global dispatcher, page by page: 0, or the status of the first failure (R301). -/
def imageReadable (s : State) (job va n : Nat) : Nat × State :=
  let page := levelSize 3
  let last := va + n - 1
  if imageRange va ((n + 63) / 64) ≠ 0 then (imageRange va ((n + 63) / 64), s)
  else
    (List.range (last / page - va / page + 1)).foldl (fun (r : Nat × State) i =>
      if r.1 ≠ 0 then r
      else
        let a := max va ((va / page + i) * page)
        let e := min (last + 1) ((va / page + i + 1) * page)
        match freeXlate r.2 10 job a .read with
        | (.error _, s) => (stXlate, s)
        | (.ok pa, s) =>
          let (ok, s) := hbmCheck s pa (e - a)
          (if ok then 0 else stUncorrectable, s)) (0, s)

/-- The number of n bytes at an address the dispatcher can read. -/
def imageNat (s : State) (job va n : Nat) : Nat := ((northRead s job va n).1).getD 0

/-- The descriptor an image stands for: words 1 to 5 with the kind, dimensions and priority of word 0. -/
def imageWords (w : Nat → Nat) : List Word :=
  [wordOf (1 + 4 * (w 0 / 2 ^ 19 % 4) + 16 * (w 0 / 2 ^ 8 % 4)), wordOf (w 1), wordOf (w 2), wordOf (w 3), wordOf (w 4),
   wordOf (w 5), 0, 0]

/-- The header of an image keeps the rules of R301, its W1 to W5 those of R267. -/
def headOk (s : State) (job : Nat) (w : Nat → Nat) : Bool :=
  let d := imageWords w
  let dims := w 0 / 2 ^ 8 % 4
  let (zero, added, _) := effective d dims
  w 0 / 2 ^ 21 == 0 && w 0 % 256 == 1 && dims != 0 && w 0 / 2 ^ 17 % 4 != 3 && w 0 / 2 ^ 10 % 8 == w 5 / 2 ^ 60 % 8 &&
  w 0 / 2 ^ 16 % 2 == b2n zero && w 0 / 2 ^ 13 % 8 == added && memberReason s job false d == none &&
  w 6 / 2 ^ 52 == 0 && w 7 / 2 ^ 32 == 0 && w 7 ≤ worstCase dims (dExt d)

/-- A launch of a job that is not parked has a descriptor address (R301). -/
def liveAt (s : State) (job addr : Nat) (parked : Bool) : Option Nat :=
  (s.launches.find? fun p => p.2.job == job && p.2.addr == addr &&
    ((match p.2.frontier with
      | some f => f.state == .parked
      | none => false) == parked)).map Prod.fst

/-- What the reading of an image comes to (R301). -/
inductive ImageRes where
  | fail (status : Nat)
  | ok (l : Launch)

/-- Read and check an image at the global dispatcher (R299, R301). -/
def readFrontier (s : State) (job image : Nat) : ImageRes × State :=
  match imageReadable s job image 64 with
  | (0, s) =>
    let w (i : Nat) : Nat := imageNat s job (image + 8 * i) 8
    let dims := w 0 / 2 ^ 8 % 4
    let n := w 7 % 2 ^ 32
    let size := entrySize dims
    let (st, s) : Nat × State := if n = 0 ∨ dims = 0 then (0, s) else imageReadable s job image (64 + n * size)
    if st ≠ 0 then (.fail st, s)
    else if !headOk s job w then (.fail stFormat, s)
    else
      let d := imageWords w
      let (good, s) := rangeReadable s job (dImage d) (64 * dImageLen d)
      let es := (List.range n).map fun i => imageNat s job (image + 64 + size * i) size
      match stairOfEntries dims (dExt d) es with
      | none => (.fail stFormat, s)
      | some stair =>
        let (zero, added, neff) := effective d dims
        let f : Frontier := { zero := zero, added := added, neff := neff, reloaded := true, stair := stair
                              reserve := worstCase dims (dExt d) }
        (if good then .ok { launchOf s job (w 6) d with frontier := some f } else .fail stFormat, s)
  | (st, s) => (.fail st, s)

/-- FRLOAD (R301) up to its wait for the frontier home. -/
def execFrload (h : CmdHdr) (image : BitVec 52) (s : State) : Host.Outcome State Fault Refusal :=
  eq3Cmd (.frload h image) (fun e s =>
    if !featureOn s 3 then .next (eq3Record s e h 1 0 0)
    else
      match readFrontier s e.job image.toNat with
      | (.fail st, s) => northGoes (eq3Record s e h st 0 0)
      | (.ok l, s) =>
        if (liveAt s e.job l.addr false).isSome then northGoes (eq3Record s e h stScope 0 0)
        else
          let over_ := if (liveAt s e.job l.addr true).isSome then 1 else 0
          if roomLive s (1 - over_) then
            northGoes { s with requests := updWhere (fun r => r.id == e.id) (fun r => { r with loading := some l }) s.requests }
          else .refused .notEnabled) s

/-- FRLOAD_TAKE_EFFECT (R301): the request `cur` names finds a home with room. A launch that took the descriptor's
address since then fails it like one that had it before. -/
def execFrloadTakeEffect (s : State) : Host.Outcome State Fault Refusal :=
  match findReq s s.cur.id with
  | none => .refused .notEnabled
  | some r =>
    match r.ent, r.loading with
    | some e, some l =>
      let h := CmdHdr.ofNat e.word.toNat
      if (liveAt s l.job l.addr false).isSome then .next (eq3Record s e h stScope 0 0)
      else
        match l.frontier, frontierHome s l.job with
        | some f, some p =>
          let old := liveAt s l.job l.addr true
          let saving : Bool := match old.bind s.launch? with
            | some o => (match o.frontier with
              | some g => !g.saves.isEmpty
              | none => false)
            | none => false
          if storeRoom s p < f.reserve || !roomLive s (if old.isSome then 0 else 1) || saving then .refused .notEnabled
          else
            let s := match old with
              | some n => { s with launches := mdel s.launches n, rounds := s.rounds.filter fun r => r.launch != n }
              | none => s
            let s := reserveStore s p f.reserve
            let (n, s) := enterLaunch s { l with frontier := some { f with home := some p }, seq := s.nextId }
            northGoes (eq3Record s e h 0 n (stairTotal f))
        | _, _ => .refused .notEnabled
    | _, _ => .refused .notEnabled

/-! Firing (R295). -/

/-- The frontier home of the launch `cur` names, with its launch and frontier, while its partition runs (R302). -/
def frontierAt (s : State) (n : Nat) : Option (Nat × Launch × Frontier) :=
  match s.launch? n with
  | none => none
  | some l =>
    match l.frontier, mget s.jobs l.job with
    | some f, some j => if j.stopped then none else f.home.map fun p => (p, l, f)
    | _, _ => none

/-- FRONTIER_NOTICE_TAKE (R295): at most one in a clock. -/
def execFrontierNoticeTake (s : State) : Host.Outcome State Fault Refusal :=
  match frontierAt s s.cur.id with
  | none => .refused .notEnabled
  | some (p, l, f) =>
    match f.intake with
    | [] => .refused .notEnabled
    | q :: rest =>
      let at_ := (s.die p).clk + 1
      event (f.tookAt != at_)
        (updFrontier s s.cur.id fun _ => { markComplete l.dims l.ext f q with intake := rest, tookAt := at_ })

/-- FRONTIER_FIRE (R295): at most one in a clock. -/
def execFrontierFire (s : State) : Host.Outcome State Fault Refusal :=
  match frontierAt s s.cur.id with
  | none => .refused .notEnabled
  | some (p, l, f) =>
    match eligiblePoint l.dims l.ext f with
    | none => .refused .notEnabled
    | some q =>
      let at_ := (s.die p).clk + 1
      event (f.state == .firing && f.pending.length < 4096 && f.firedAt != at_)
        (updFrontier s s.cur.id fun f =>
          { f with pending := f.pending ++ [q], offered := f.offered ++ [q], firedAt := at_ })

end Sys2Proof.Machine
end

