-- ==== Sys2Proof/Machine/Meet.lean ====
section
/-! DEFINITION. Meetings (R366 to R373) and stream routers (R374 to R376): the commands of eq2, MEET and MEETR, and
what a meeting's home does. -/

namespace Sys2Proof.Machine

/-! Handles (R366). -/

def mRound (h : Word) : Nat := h.toNat / 2 ^ 48
def mMember (h : Word) : Nat := h.toNat / 2 ^ 42 % 64
def mPackage (h : Word) : Nat := h.toNat / 2 ^ 33 % 512
def mVdie (h : Word) : Nat := h.toNat / 2 ^ 29 % 16
def mNumber (h : Word) : Nat := h.toNat / 2 ^ 23 % 64
def mIdent (h : Word) : Nat := h.toNat / 2 ^ 23 % 2 ^ 19
def mProbe (h : Word) : Bool := h.toNat / 4 % 2 == 1
def mSel (h : Word) : Nat := h.toNat % 4

/-- The round arithmetic of R366: a difference modulo 2^16 as a signed number. -/
def roundDiff (a b : Nat) : Int := sextI ((a : Int) - b) 16

/-- A job's partition is stopped, or the job is gone. -/
def jobStopped (s : State) (job : Nat) : Bool :=
  match mget s.jobs job with
  | some j => j.stopped
  | none => true

/-- The home of a handle for a job: a plain, 11 another package, 12 no plain of the job. -/
def meetPlain (s : State) (job : Nat) (h : Word) : Nat :=
  if mPackage h = ownPackage s then (vdtEntry s job (mVdie h)).getD 12 else 11

/-! Combining (R367, R371). -/

/-- The width of the lanes of an operation. -/
def opWidth (op : Nat) : Nat := if op = 2 then 64 else 32

/-- Combine two lanes. -/
def combineLane (op a b : Nat) : Nat :=
  let w := opWidth op
  match op with
  | 0 => faddCode a b
  | 1 | 2 => (a + b) % 2 ^ w
  | 3 => (pickLane .f32 true a b).1
  | 4 => (pickLane .f32 false a b).1
  | 5 => if sextN a w < sextN b w then b else a
  | _ => if sextN b w < sextN a w then b else a

/-- Combine two vectors. -/
def combine (op : Nat) (a b : VWord) : VWord :=
  if op = 7 then a ||| b
  else if op = 8 then a &&& b
  else
    let w := opWidth op
    ofLanes w (((lanesOf a w (128 / w)).zip (lanesOf b w (128 / w))).map fun p => combineLane op p.1 p.2)

/-- The identity of an operation. -/
def identity (op : Nat) : VWord :=
  let all (n : Nat) : VWord := ofLanes 32 (List.replicate 4 n)
  match op with
  | 3 => all 0xFF800000
  | 4 => all 0x7F800000
  | 5 => all 0x80000000
  | 6 => all 0x7FFFFFFF
  | 8 => BitVec.allOnes 128
  | _ => 0

/-- Scale a lane by its lag; integer lanes are signed (DEDUCED). -/
def scaleLane (op lag a : Nat) : Nat :=
  if op = 0 then FFmt.fp32.ne ((FFmt.fp32.decode a).mul (.fin false 1 (-(lag : Int))))
  else lowBits (sextN a (opWidth op) / (2 ^ lag : Nat)) (opWidth op)

/-- Scale(x, lag). -/
def scaleVec (op lag : Nat) (x : VWord) : VWord :=
  let w := opWidth op
  ofLanes w ((lanesOf x w (128 / w)).map (scaleLane op lag))

/-! The home of a meeting (R370, R371). -/

/-- A meeting of a home. -/
def meetingAt (s : State) (p n : Nat) : Option Meeting := mget (s.plain p).meetings n

/-- Replace a meeting. -/
def setMeeting (s : State) (p n : Nat) (x : Meeting) : State :=
  s.updPlain p fun q => { q with meetings := mset q.meetings n x }

/-- Members as a bit map. -/
def bitmap (ms : List Nat) : Nat := (ms.map (2 ^ ·)).foldl (· ||| ·) 0

/-- An on-time contribution (d = 0). -/
def onTime (now : Nat) (x : Meeting) (m : Nat) (d : VWord) : Meeting :=
  let y := { x with seen := mset x.seen m (mgetD x.seen m 0 / 2 * 2 + 1), ontime := mset x.ontime m d }
  { y with timer := if y.ontime.length = 1 ∧ x.deadline ≠ 0 then some (now + x.deadline) else y.timer }

/-- Late entries in ascending member, then ascending round. -/
def lateOrder (l : List (Nat × Nat × VWord)) : List (Nat × Nat × VWord) :=
  let key (e : Nat × Nat × VWord) : Nat := e.1 * 16 + (15 - e.2.1)
  let rec put (e : Nat × Nat × VWord) : List (Nat × Nat × VWord) → List (Nat × Nat × VWord)
    | [] => [e]
    | a :: r => if key e ≤ key a then e :: a :: r else a :: put e r
  l.foldr put []

/-- The publication a release makes. -/
def publication (x : Meeting) (byDeadline : Bool) : Pub :=
  let result := x.ontime.foldl (fun r p => combine x.op r p.2) (identity x.op)
  let late := lateOrder x.late
  let result := match x.weight with
    | 1 => late.foldl (fun r e => combine x.op r e.2.2) result
    | 2 => late.foldl (fun r e => combine x.op r (scaleVec x.op e.2.1 e.2.2)) result
    | _ => result
  let lateacc := if x.weight = 3 then late.foldl (fun r e => combine x.op r e.2.2) (identity x.op) else identity x.op
  { tag := x.c, result := result, lateacc := lateacc, ontime := BitVec.ofNat 64 (bitmap (x.ontime.map Prod.fst))
    count := x.ontime.length, byDeadline := byDeadline, latemap := x.latemap, latecount := x.latecount }

/-- The meeting after a release: the round is published and the next one opened, with the early contributions. -/
def afterRelease (now : Nat) (x : Meeting) (byDeadline : Bool) : Meeting :=
  let c := (x.c + 1) % 2 ^ 16
  let y : Meeting :=
    { x with
      pubs := (x.pubs ++ [publication x byDeadline]).drop (x.pubs.length + 1 - 16)
      c := c, seen := x.seen.map fun p => (p.1, p.2 * 2 % 2 ^ 16)
      ontime := [], late := [], latemap := 0, latecount := 0, timer := none
      early := x.early.filter fun p => p.2.1 != c }
  (x.early.filter fun p => p.2.1 == c).foldl (fun y p => onTime now y p.1 p.2.2) y

/-- The contribution of a meeting to its parent. -/
def sendParent (s : State) (p n : Nat) (x : Meeting) (round : Nat) (v : VWord) : State :=
  match x.parent with
  | none => s
  | some h =>
    let h := wordOf (h.toNat % 2 ^ 48 / 2 ^ 23 * 2 ^ 23 + round * 2 ^ 48)
    (sendMsg s { issuer := .engine p n, act := .meet h v, home := .meeting (meetPlain s x.job h) (mNumber h)
                 va := h.toNat, job := x.job }).2

/-- Release (R371), again while the quorum is met. -/
def release (p n : Nat) : Nat → Bool → State → State
  | 0, _, s => s
  | fuel + 1, byDeadline, s =>
    match meetingAt s p n with
    | none => s
    | some x =>
      if x.ontime.length < x.k ∧ !byDeadline then s
      else
        let pub := publication x byDeadline
        let s := setMeeting s p n (afterRelease s.ptime x byDeadline)
        release p n fuel false (sendParent s p n x x.c pub.result)

/-- A part of a publication (R369). -/
def pubPart (u : Pub) (sel cur : Nat) : VWord :=
  match sel with
  | 0 => u.result
  | 1 => BitVec.ofNat 128 (u.ontime.toNat + 2 ^ 64 * u.latemap.toNat)
  | 2 => BitVec.ofNat 128 (u.tag + 2 ^ 16 * (u.count % 128) + 2 ^ 23 * b2n u.byDeadline + 2 ^ 24 * (u.latecount % 128) +
      2 ^ 32 * cur)
  | _ => u.lateacc

/-- A part of the open round. -/
def openPart (x : Meeting) (sel : Nat) : VWord :=
  match sel with
  | 1 => BitVec.ofNat 128 (bitmap (x.ontime.map Prod.fst) + 2 ^ 64 * x.latemap.toNat)
  | 2 => BitVec.ofNat 128 (x.c + 2 ^ 16 * (x.ontime.length % 128) + 2 ^ 24 * (x.latecount % 128) + 2 ^ 32 * x.c)
  | _ => 0

/-- The answer a meeting has for a MEETR, if any. -/
def meetAnswer (x : Meeting) (h : Word) : Option VWord :=
  if mProbe h then some (openPart x (mSel h))
  else (x.pubs.find? fun u => 0 ≤ roundDiff u.tag (mRound h)).map fun u => pubPart u (mSel h) x.c

/-- The die at which a message to a meeting is received (R277): its home, or its issuer's where it leaves the package. -/
def meetDie (m : Msg) : Nat :=
  match m.home with
  | .meeting p _ => if p < 8 then p else m.issuer.die
  | _ => m.issuer.die

/-- Reply to a waiting or arriving MEETR; its message is received (R277). -/
def answer (s : State) (id : Nat) (r : Reply) : State :=
  match mget s.msgs id with
  | some m => replyMsg (countRecv s m.launch (meetDie m)) id r
  | none => s

/-- The MEETRs that wait at a meeting are answered where they can be. -/
def answerWaiting (s : State) (p n : Nat) : State :=
  match meetingAt s p n with
  | none => s
  | some x =>
    let ready := x.waiting.filterMap fun id => match mget s.msgs id with
      | some m => (match m.act with
        | .meetr h => (meetAnswer x h).map fun v => (id, v)
        | _ => none)
      | none => none
    let done := ready.map Prod.fst
    let s := setMeeting s p n { x with waiting := x.waiting.filter (!done.contains ·) }
    ready.foldl (fun s q => answer s q.1 (.data q.2)) s

/-- Send a rejection to the core that issued a message (R373); another issuer's is discarded. -/
def sendReject (s : State) (m : Msg) (h : Word) : State :=
  let engine : Issuer := match m.home with
    | .meeting p n => .engine p n
    | _ => .foreign
  match m.issuer.core? with
  | some c =>
    (sendMsg s { issuer := engine, act := .reject (mIdent h) (mMember h), home := .core c, va := 0, job := m.job }).2
  | none => s

/-- What becomes of a contribution. -/
inductive ArriveRes where
  | keep (x : Meeting)
  | drop
  | reject

/-- Arrive (R370) up to the release. -/
def arrive (now : Nat) (x : Meeting) (m t : Nat) (data : VWord) : ArriveRes :=
  if x.n ≤ m then .reject
  else
    let d := roundDiff t x.c
    let seen := mgetD x.seen m 0
    if d = 0 then (if seen % 2 = 1 then .drop else .keep (onTime now x m data))
    else if d = 1 then
      match mget x.early m with
      | some (r, _) => if r = t then .drop else .reject
      | none => .keep { x with early := mset x.early m (t, data) }
    else if 2 ≤ d then .reject
    else
      let lag := (-d).toNat
      if lag ≤ 15 ∧ seen / 2 ^ lag % 2 = 1 then .drop
      else if x.lag < lag ∨ 64 ≤ x.late.length then .reject
      else .keep { x with
        seen := mset x.seen m (seen + 2 ^ lag), latemap := x.latemap ||| BitVec.ofNat 64 (2 ^ m)
        latecount := x.latecount + 1
        late := if x.weight = 0 then x.late else x.late ++ [(m, lag, data)] }

/-- The contribution of a message at a home of this package. -/
def arriveAt (s : State) (m : Msg) (p n : Nat) (h : Word) (data : VWord) : State :=
  match meetingAt s p n with
  | none => sendReject s m h
  | some x =>
    if x.job ≠ m.job then sendReject s m h
    else
      match arrive s.ptime x (mMember h) (mRound h) data with
      | .drop => s
      | .reject => sendReject s m h
      | .keep y => answerWaiting (release p n 2 false (setMeeting s p n y)) p n

/-- The outcomes of a contribution to another package's meeting are open (log entry 12). -/
def awayMeet (s : State) (m : Msg) (h : Word) : Bool × State :=
  if canLeave s m.job (mPackage h) then
    let (k, s) := s.fresh 4
    if k % 3 = 0 then (false, s) else (true, if k % 3 = 1 then s else sendReject s m h)
  else (false, s)

/-- A message for a meeting that has reached its home. -/
def meetDue (s : State) : Option Msg :=
  match mget s.msgs s.cur.id with
  | some m =>
    match m.arrival, m.home with
    | some due, .meeting p _ => if due ≤ s.now ∧ (8 ≤ p ∨ !jobStopped s m.job) then some m else none
    | _, _ => none
  | none => none

/-- The meeting a definition sets up (R367, R368). -/
def meetingOf (job d : Nat) (parent : Word) : Meeting :=
  { job := job, n := d % 128, k := d / 2 ^ 8 % 128, op := d / 2 ^ 16 % 16, lag := d / 2 ^ 20 % 16
    weight := d / 2 ^ 24 % 4, deadline := d / 2 ^ 64 % 2 ^ 32, c := d / 2 ^ 32 % 2 ^ 16
    parent := if parent.toNat % 2 = 1 then some parent else none }

/-- The MEETRs that wait at a meeting that is destroyed complete unchanged and are rejected. -/
def dropWaiting (s : State) (ids : List Nat) : State :=
  ids.foldl (fun s id => match mget s.msgs id with
    | some m => (match m.act with
      | .meetr h => answer (sendReject s m h) id .unchanged
      | _ => s)
    | none => s) s

/-- The last step of R368 at a home of this package: a define or destroy, and its status. -/
def mdefAt (s : State) (job p n d : Nat) (parent : Word) (destroy : Bool) : Nat × State :=
  match if p < 8 then meetingAt s p n else none with
  | none => if 8 ≤ p ∨ destroy then (stScope, s) else (0, setMeeting s p n (meetingOf job d parent))
  | some x =>
    if !destroy ∨ x.job ≠ job then (stScope, s)
    else (0, dropWaiting (s.updPlain p fun q => { q with meetings := mdel q.meetings n }) x.waiting)

/-- MEET_ARRIVE (R368, R370, R371): a contribution, or an MDEF that another package's collective engine has forwarded. -/
def execMeetArrive (s : State) : Host.Outcome State Fault Refusal :=
  match meetDue s with
  | some m =>
    match m.act, m.home with
    | .meet h data, .meeting p n =>
      let s := countRecv s m.launch (meetDie m)
      if p = 11 then
        let (ok, s) := awayMeet s m h
        .next (replyMsg s s.cur.id (if ok then .ack else .failed stAbsent))
      else .next (replyMsg (arriveAt s m p n h data) s.cur.id .ack)
    | .mdef _ d parent destroy, .meeting p n =>
      let (st, s) := mdefAt s m.job p n d parent destroy
      .next (replyMsg s s.cur.id (if st = 0 then .ack else .failed st))
    | _, _ => .refused .notEnabled
  | none => .refused .notEnabled

/-- MEETING_DEADLINE (R370): meeting `id` mod 64 of plain `id` / 64. -/
def execMeetingDeadline (s : State) : Host.Outcome State Fault Refusal :=
  let p := s.cur.id / 64
  let n := s.cur.id % 64
  match meetingAt s p n with
  | some x =>
    match x.timer with
    | some due => event (due ≤ s.ptime && !jobStopped s x.job) (answerWaiting (release p n 2 true s) p n)
    | none => .refused .notEnabled
  | none => .refused .notEnabled

/-- The phase of a MEETR that waits at its home. -/
def waitsAtHome : MsgPhase := .held 64

/-- MEETR_REQUEST_ARRIVE (R369): it is answered, rejected, or waits at its home. -/
def execMeetrRequestArrive (s : State) : Host.Outcome State Fault Refusal :=
  match meetDue s with
  | some m =>
    match m.act, m.home with
    | .meetr h, .meeting p n =>
      let id := s.cur.id
      if p = 11 then
        let (ok, s') := awayMeet s m h
        let (k, s') := s'.fresh 6
        .next (if !ok then answer s' id (.failed stAbsent)
          else if s'.msgs.length > s.msgs.length then answer s' id .unchanged
          else answer s' id (.data (BitVec.ofNat 128 k)))
      else
        match meetingAt s p n with
        | none => .next (answer (sendReject s m h) id .unchanged)
        | some x =>
          if x.job ≠ m.job then .next (answer (sendReject s m h) id .unchanged)
          else
            match meetAnswer x h with
            | some v => .next (answer s id (.data v))
            | none =>
              let s := setMeeting s p n { x with waiting := x.waiting ++ [id] }
              .next { s with msgs := mset s.msgs id { m with phase := waitsAtHome } }
    | _, _ => .refused .notEnabled
  | none => .refused .notEnabled

/-- MEETR_COMPLETE (R369). -/
def execMeetrComplete (s : State) : Host.Outcome State Fault Refusal :=
  match replyDue s s.cur.id with
  | some (m, r) =>
    let mine : Bool := match m.act with
      | .meetr _ => true
      | _ => false
    event mine (deliverReply s s.cur.id m r)
  | none => .refused .notEnabled

/-- MEET_REJECTION_ARRIVE (R373): a ninth entry replaces the oldest. -/
def execMeetRejectionArrive (s : State) : Host.Outcome State Fault Refusal :=
  match mget s.msgs s.cur.id with
  | some m =>
    match m.act, m.home, m.arrival with
    | .reject i k, .core c, some due =>
      let s' := (dropMsg s s.cur.id).updCore c fun x =>
        { x with rejects := (x.rejects ++ [(i, k)]).drop (x.rejects.length + 1 - 8) }
      event (due ≤ s.now) s'
    | _, _, _ => .refused .notEnabled
  | none => .refused .notEnabled

/-! MEET and MEETR. -/

/-- The issuing core's rejection record holds a handle's member (R373). -/
def rejected (s : State) (h : Word) : Bool := s.myCore.rejects.contains (mIdent h, mMember h)

/-- The test and trap of R369, before an instruction goes on. -/
def withMember (h : Word) (s : State) (go : State → State) : State :=
  if rejected s h then
    trapHere (s.updMyCore fun k => { k with rejects := k.rejects.erase (mIdent h, mMember h) }) .resync
      (wordOf (h.toNat % 2 ^ 48 / 2 ^ 23 * 2 ^ 23))
  else if mPackage h = 0x1FF then trapXlate s h.toNat 3 0 XKind.atomic.num
  else go s

/-- A message to a meeting of the issuing context. -/
def meetMsg (s : State) (h : Word) (act : MsgAct) : Msg :=
  let c := s.cur.core
  { issuer := .ctx c s.cur.slot s.me.gen s.nextId, act := act
    home := .meeting (meetPlain s (coreJob s c) h) (mNumber h), va := h.toNat, launch := coreLaunch s c, job := coreJob s c }

/-- MEET hands its message to the outbound unit, once that has room and accepts it (R172): stage 2. -/
def meetSend (s : State) : State :=
  match s.me.blk with
  | none => s
  | some b =>
    if (outboundPosted s s.cur.core).length < 16 && outOpen s s.cur.core then
      let m := meetMsg s (arg b.held 0) (.meet (arg b.held 0) (argV b.held 1))
      let (_, s) := s.newId
      doneOps (sendMsg (takeOut s s.cur.core) m).2
    else stay s 2 0

/-- MEET takes its contribution: stage 1 waits for a port. -/
def meetTake (s2 : VOp) (s : State) : State :=
  match popOpnd s (.v s2) with
  | .ok (v, s) => meetSend (updBlk s fun b => { b with held := b.held.take 1 ++ [v] })
  | .block => stay s 1 0
  | .trap c w => trapHere (usedFree s) c w

/-- MEET (R369) at issue: the rejection test comes before its contribution is taken. -/
def effMeet (s2 : VOp) (vs : List VWord) (s : State) : State := withMember (arg vs 0) s (meetTake s2)

/-- A blocked MEET goes on. -/
def contMeet (s2 : VOp) (b : Blk) (s : State) : State :=
  match b.stage with
  | 1 => meetTake s2 s
  | 2 => meetSend s
  | _ => s

/-- MEET (R369). -/
def execMeet (s1 : SOp) (s2 : VOp) (s : State) : Host.Outcome State Fault Refusal :=
  waitOps (.meet s1 s2) (effMeet s2) (contMeet s2) s

/-- MEETR hands its request to the outbound unit in a clock in which that accepts it (R172): stage 2. -/
def meetrSend (i : Instr) (h : Word) (s : State) : State :=
  if outOpen s s.cur.core then
    let m := meetMsg s h (.meetr h)
    doneOps (sendMsg (addPend (takeOut s s.cur.core) i (.query []) 0 none) m).2
  else stay s 2 0

/-- MEETR (R369) at issue. -/
def effMeetr (i : Instr) (vs : List VWord) (s : State) : State := withMember (arg vs 0) s (meetrSend i (arg vs 0))

/-- A MEETR that waits for the outbound unit goes on. -/
def contMeetr (i : Instr) (b : Blk) (s : State) : State := meetrSend i (arg b.held 0) s

/-- MEETR (R369). -/
def execMeetr (d : VOp) (s1 : SOp) (la : BitVec 4) (s : State) : Host.Outcome State Fault Refusal :=
  waitOps (.meetr d s1 la) (effMeetr (.meetr d s1 la)) (contMeetr (.meetr d s1 la)) s

/-! The commands of eq2. -/

/-- The command `cur` names at a plain's collective engine: the first of its core there, not held back (R220). -/
def collCmd (s : State) : Option CmdEnt :=
  let p := coreDie s.cur.core
  match (s.plain p).coll.find? fun e => e.core == s.cur.core with
  | some e => if e.id = s.cur.id ∧ !e.held then some e else none
  | none => none

/-- A command of a collective engine ends with its record. -/
def collRecord (s : State) (e : CmdEnt) (status value detail : Nat) : State :=
  let s := s.updPlain (coreDie e.core) fun p => { p with coll := p.coll.filter fun x => x.id != e.id }
  sendRecord s e 2 (record detail value (e.word.toNat / 2 ^ 32 % 2 ^ 16) status e.op)

/-- Perform the command `cur` names, where it is the given one and need not wait. -/
def eq2When (i : Instr) (ready : CmdEnt → Bool) (f : CmdEnt → State → State) (s : State) : Host.Outcome State Fault Refusal :=
  match collCmd s with
  | some e =>
    (match decodeCmd 2 e.word with
      | .ok j => if j = i ∧ ready e then .next (f e s) else .refused .notEnabled
      | .error _ => .refused .notEnabled)
  | none => .refused .notEnabled

/-- Perform the command `cur` names, where it is the given one. -/
def eq2Cmd (i : Instr) : (CmdEnt → State → State) → State → Host.Outcome State Fault Refusal := eq2When i fun _ => true

/-! MDEF (R367, R368). -/

/-- A definition keeps R367. -/
def defOk (d : Nat) : Bool :=
  let d0 := d % 2 ^ 64
  let n := d0 % 128
  let k := d0 / 2 ^ 8 % 128
  let op := d0 / 2 ^ 16 % 16
  let weight := d0 / 2 ^ 24 % 4
  d0 / 2 ^ 7 % 2 == 0 && d0 / 2 ^ 15 % 2 == 0 && d0 / 2 ^ 26 % 2 ^ 6 == 0 && d0 / 2 ^ 48 == 0 &&
  1 ≤ n && n ≤ 64 && 1 ≤ k && k ≤ n && op ≤ 8 && (weight != 2 || op ≤ 2) && d / 2 ^ 96 == 0

/-- The read of an MDEF's definition can be made now, if its pointer allows one at all: no watermark covers it (R170). -/
def mdefDue (s : State) (e : CmdEnt) (deff : Word) : Bool :=
  localPtr deff 32 32 = 0 && !wmBlocks (s.core e.core) none (ptrAddr deff) 32

/-- MDEF (R368): its pointer and definition are checked, and the home decides; a covered definition, and the turn of the memory-side unit
at its banks, are waited for (R144, R170). What the home in another package answers is open (log entry 12). -/
def mdefCmd (i : Instr) (destroy : Bool) (deff meeting parent : Word) (s : State) : Host.Outcome State Fault Refusal :=
  eq2When i (fun e => localPtr deff 32 32 ≠ 0 || (mdefDue s e deff && granted (s.core e.core) 1 [(ptrAddr deff, 32)])) (fun e s =>
    let n := mNumber meeting
    let fin (s : State) (st : Nat) : State := collRecord s e st n 0
    let bad := localPtr deff 32 32
    if bad ≠ 0 then fin s bad
    else
      match engineRead (takeBanks s e.core 1 [(ptrAddr deff, 32)]) (.coll e.core e.slot e.gen) e.core (ptrKey deff) (ptrAddr deff) 32 with
      | (.error st, s) => fin s st
      | (.ok d, s) =>
        if !defOk d then fin s stField
        else
          let p := meetPlain s e.job meeting
          if p = 11 then
            let (k, s) := s.fresh 4
            fin s (if canLeave s e.job (mPackage meeting) && k % 2 == 0 then 0 else stScope)
          else
            let (st, s) := mdefAt s e.job p n d parent destroy
            fin s st) s

/-- MDEF with EXT 0 (R368). -/
def execMdefDefine (h : CmdHdr) (deff meeting parent : Word) : State → Host.Outcome State Fault Refusal :=
  mdefCmd (.mdefDefine h deff meeting parent) false deff meeting parent

/-- MDEF with EXT 1 (R368): its definition is checked as a define's is. -/
def execMdefDestroy (h : CmdHdr) (deff meeting parent : Word) : State → Host.Outcome State Fault Refusal :=
  mdefCmd (.mdefDestroy h deff meeting parent) true deff meeting parent

/-! SROUTE (R374, R375). -/

/-- The directed links of one leg along X or Y: the core of the plain a link leaves, and its direction 0 west, 1 east,
2 north, 3 south. -/
def legX (row a z : Nat) : List (Nat × Nat) :=
  if a ≤ z then (List.range (z - a)).map fun i => (row * 64 + a + i, 1)
  else (List.range (a - z)).map fun i => (row * 64 + a - i, 0)

@[inherit_doc legX]
def legY (col a z : Nat) : List (Nat × Nat) :=
  if a ≤ z then (List.range (z - a)).map fun i => ((a + i) * 64 + col, 3)
  else (List.range (a - z)).map fun i => ((a - i) * 64 + col, 2)

/-- The links of a leg between two cores, X or Y first. -/
def leg (yFirst : Bool) (a b : Nat) : List (Nat × Nat) :=
  if yFirst then legY (a % 64) (a / 64) (b / 64) ++ legX (b / 64) (a % 64) (b % 64)
  else legX (a / 64) (a % 64) (b % 64) ++ legY (b % 64) (a / 64) (b / 64)

/-- The path of a port set. -/
def setPath (src dst set : Nat) : List (Nat × Nat) :=
  let wp := set / 2 ^ 6 % 32 * 64 + set % 64
  let y := set / 2 ^ 11 % 2 == 1
  leg y src wp ++ leg y wp dst

/-- The paths of an entry. -/
def StreamEnt.paths (e : StreamEnt) : List (List (Nat × Nat)) := e.sets.map (setPath e.src e.dst)

/-- The entry a load names, or none for a bit that must be zero or a path that crosses a link twice. -/
def streamOf (w1 sets : Nat) : Option StreamEnt :=
  let n := w1 / 2 ^ 13 % 4 + 1
  let set (i : Nat) : Nat := sets / 2 ^ (16 * i) % 2 ^ 16
  let e : StreamEnt :=
    { src := w1 / 2 ^ 21 % 32 * 64 + w1 / 2 ^ 15 % 64, dst := w1 / 2 ^ 32 % 32 * 64 + w1 / 2 ^ 26 % 64
      level := w1 / 2 ^ 10 % 8, sets := (List.range n).map set }
  let clean : Bool := (List.range 4).all fun i => if i < n then set i / 2 ^ 12 == 0 else set i == 0
  if clean ∧ e.paths.all (fun p => p.dedup.length == p.length) then some e else none

/-- The first stream and set of a table that shares a link with an entry for stream v. -/
def streamClash (t : Map StreamEnt) (v : Nat) (e : StreamEnt) : Option (Nat × Nat) :=
  let mine := e.paths.flatten
  t.findSome? fun q =>
    if q.1 = v then none
    else (q.2.paths.zipIdx.find? fun x => x.1.any mine.contains).map fun x => (q.1, x.2)

/-- CUR of a stream, 0 where it is not loaded. -/
def streamCur (s : State) (p v : Nat) : Nat :=
  match mget (s.plain p).streams v with
  | some e => e.cur
  | none => 0

/-- Change the stream table of a plain. -/
def updStreams (s : State) (p : Nat) (f : Map StreamEnt → Map StreamEnt) : State :=
  s.updPlain p fun q => { q with streams := f q.streams }

/-- SROUTE load (R375). -/
def execSrouteLoad (h : CmdHdr) (w1 sets : Word) (s : State) : Host.Outcome State Fault Refusal :=
  eq2Cmd (.srouteLoad h w1 sets) (fun e s =>
    let p := coreDie e.core
    let v := w1.toNat % 256
    match streamOf w1.toNat sets.toNat with
    | none => collRecord s e stField (streamCur s p v) 0
    | some x =>
      match streamClash (s.plain p).streams v x with
      | some (u, i) => collRecord s e stScope (streamCur s p v) (u + 256 * i)
      | none => collRecord (updStreams s p fun t => mset t v x) e 0 0 0) s

/-- SROUTE step (R375). -/
def execSrouteStep (h : CmdHdr) (w1 sets : Word) (s : State) : Host.Outcome State Fault Refusal :=
  eq2Cmd (.srouteStep h w1 sets) (fun e s =>
    let p := coreDie e.core
    let v := w1.toNat % 256
    match mget (s.plain p).streams v with
    | none => collRecord s e stField 0 0
    | some x =>
      let cur := (x.cur + 1) % (max 1 x.sets.length)
      collRecord (updStreams s p fun t => mset t v { x with cur := cur }) e 0 cur 0) s

/-- SROUTE clear (R375). -/
def execSrouteClear (h : CmdHdr) (w1 sets : Word) (s : State) : Host.Outcome State Fault Refusal :=
  eq2Cmd (.srouteClear h w1 sets) (fun e s =>
    let p := coreDie e.core
    let v := w1.toNat % 256
    match mget (s.plain p).streams v with
    | none => collRecord s e stField 0 0
    | some _ => collRecord (updStreams s p fun t => mdel t v) e 0 0 0) s

/-! Words that are no command, and the records of both queues. -/

/-- The record of a word of eq2 or eq3 that is no command (R54): its status and value. -/
def badRecord (s : State) (e : CmdEnt) (st : Nat) : VWord :=
  let w1 := e.word.toNat / 2 ^ 64 % 2 ^ 64
  let value := match e.op with
    | 0x41 => mNumber (wordOf (e.word.toNat / 2 ^ 128))
    | 0x40 => streamCur s (coreDie e.core) (w1 % 256)
    | _ => 0
  record 0 (if st = 2 then value else 0) (e.word.toNat / 2 ^ 32 % 2 ^ 16) st e.op

/-- The word `cur` names is at its engine and no command. -/
def badCommand (s : State) : Option (CmdEnt × Nat × State) :=
  match collCmd s with
  | some e =>
    (match decodeCmd 2 e.word with
      | .error _ => some (e, 2, s.updPlain (coreDie e.core) fun p => { p with coll := p.coll.filter fun x => x.id != e.id })
      | .ok _ => none)
  | none =>
    match servedCmd s with
    | some (r, e) =>
      (match decodeCmd 3 e.word with
        | .error _ => some (e, 3, dropReq s r.id)
        | .ok _ => none)
    | none => none

/-- ENGINE_RECORD_ARRIVE (R54, R56, R298): the oldest record that is due at the core fills its reserved place; one of a
group that has ended is discarded. With the flag of `cur` set, the engine makes the record of a word that is no command. -/
def execEngineRecordArrive (s : State) : Host.Outcome State Fault Refusal :=
  let c := s.cur.core
  if s.cur.flag then
    match badCommand s with
    | some (e, q, s') =>
      let st := match decodeCmd q e.word with
        | .error st => st
        | .ok _ => 0
      .next (sendRecord s' e q (badRecord s e st))
    | none => .refused .notEnabled
  else
    match (s.core c).recFly.find? fun f => f.due ≤ s.now with
    | none => .refused .notEnabled
    | some f =>
      let s := s.updCore c fun k => { k with recFly := k.recFly.erase f }
      let here : Bool := match (s.core c).group with
        | some g => g.id == f.group
        | none => false
      .next (if here then
        pushRecord (s.updCore c fun k => { k with resQ := mupd k.resQ f.q {} fun r => { r with reserved := r.reserved - 1 } }) c f.q f.recd
        else s)

end Sys2Proof.Machine
end

