-- ==== Sys2Proof/Machine/Translate.lean ====
section
/-! DEFINITION. The ends of page walks (R316), the translation directory (R317) and TLBINV (R318). -/

namespace Sys2Proof.Machine

/-! Walks. -/

/-- The unit that makes a walk of a core, or of the engines of a die. -/
def walkDie (core : Nat) : Nat := if core < 2 ^ 14 then coreDie core else core - 2 ^ 14

/-- The walk `cur` names by its core and id. -/
def theWalk (s : State) : Option Walk := (unitPlain s (walkDie s.cur.core)).walks.find? fun w => w.id == s.cur.id

/-- Change the walk `cur` names. -/
def updWalks (s : State) (f : List Walk → List Walk) : State :=
  updUnit s (walkDie s.cur.core) fun p => { p with walks := f p.walks }

/-- Enter a translation into a core's TLB (R315). -/
def enterCore (s : State) (c : Nat) (e : TlbEnt) : State := s.updCore c fun k => { k with tlb := tlbAdd k.tlb 32 e }

/-- The first miss of the queue begins its walk, where fewer than 64 are in progress (R316). -/
def nextWalk (s : State) : State :=
  let ws := (unitPlain s (walkDie s.cur.core)).walks
  match ws.find? fun w => !w.begun with
  | some w =>
    if (ws.filter (·.begun)).length < walkLimit then
      let (due, s) := later s
      updWalks s fun l => updWhere (fun x => x.id == w.id) (fun x => { x with begun := true, due := due }) l
    else s
  | none => s

/-- The engines of a unit learn that a walk has failed; what earlier clocks told them is over. -/
def tellEngines (s : State) (w : Walk) (fail : Option (Nat × Nat)) : State :=
  let die := walkDie s.cur.core
  let clk := (s.die die).clk
  match fail with
  | some (r, l) =>
    let f : WalkFail := { job := w.job, page := w.va / levelSize 3, reason := r, level := l, clk := clk }
    updUnit s die fun p => { p with fails := p.fails.filter (fun x => clk ≤ x.clk + 1) ++ [f] }
  | none => s

/-- The walk ends: the contexts and engines that wait for it learn of it, and a miss of the queue takes its place (R316). -/
def endTheWalk (s : State) (w : Walk) (fail : Option (Nat × Nat)) : State :=
  let tell (s : State) (x : Nat × Nat × Nat) : State :=
    if 2 ^ 14 ≤ x.1 then tellEngines s w fail
    else s.updCore x.1 fun k => { k with walks := k.walks ++ [{ id := x.2.1, va := x.2.2, fail := fail }] }
  nextWalk (((w.core, w.id, w.va) :: w.joined).foldl tell (updWalks s fun l => l.filter fun x => x.id != w.id))

/-- The cores that wait for a walk enter its translation (R315). -/
def enterCores (s : State) (w : Walk) (e : TlbEnt) : State :=
  ((w.core, w.id, w.va) :: w.joined).foldl (fun s x => if 2 ^ 14 ≤ x.1 then s else enterCore s x.1 e) s

/-- TLB_WALK_COMPLETE (R316): a last-level hit, a fault, or a translation to be registered. A walk an invalidation has
overtaken is made again after it (R318), and an entry that fails its parity is dropped (R337). -/
def execTlbWalkComplete (s : State) : Host.Outcome State Fault Refusal :=
  match theWalk s with
  | none => .refused .notEnabled
  | some w =>
    if !w.begun ∨ s.now < w.due ∨ w.res.isSome ∨ invalidating s w.job w.va then .refused .notEnabled
    else if w.stale then
      let (due, s) := later s
      .next (updWalks s fun l => updWhere (fun x => x.id == w.id) (fun x => { x with stale := false, due := due }) l)
    else
      let die := walkDie w.core
      match tlbLook s (lastUnit die) (unitPlain s die).tlb w.job w.va with
      | some e => .next (endTheWalk (enterCores s w e) w none)
      | none =>
        match walk (dropLastParity s die w.job w.va) w.job w.va with
        | (.error r, s) => .next (endTheWalk s w (some r))
        | (.ok e, s) => .next (updWalks s fun l => updWhere (fun x => x.id == w.id) (fun x => { x with res := some e }) l)

/-- The registrations of the directory that overlap a range. -/
def overlapping (s : State) (job lo len : Nat) : List Reg := s.regs.filter fun r => r.within job lo len

/-- The dies an invalidation is sent to. -/
def invalDies (s : State) (job lo len : Nat) : List Nat :=
  if len = 0 then jobPlains s job ++ [10] else ((overlapping s job lo len).flatMap (·.dies)).dedup

/-- Begin an invalidation for a context, or for none (core 2^14). -/
def startInval (s : State) (core slot gen job lo len : Nat) : Nat × State :=
  let (id, s) := s.newId
  let v : Inval := { id := id, core := core, slot := slot, gen := gen, job := job, lo := lo, len := len
                     pages := (overlapping s job lo len).map fun r => (r.page, r.size), dies := invalDies s job lo len }
  (id, if v.dies.isEmpty then s else { s with invals := s.invals ++ [v] })

/-- The core of an invalidation that no context has asked for. -/
def noCore : Nat := 2 ^ 14

/-- The full directory retires its least recently registered page by an invalidation (R317), one at a time. -/
def retirePage (s : State) : Host.Outcome State Fault Refusal :=
  match s.regs with
  | r :: _ => event (directoryFull s && s.invals.all fun v => v.core != noCore) (startInval s noCore 0 0 r.job r.page r.size).2
  | [] => .refused .notEnabled

/-- TRANSLATION_REGISTER (R316, R317): a walk's result enters the TLBs after its registration, for which a full directory has to
make room first. With the flag of `cur` set, the directory begins to make it. -/
def execTranslationRegister (s : State) : Host.Outcome State Fault Refusal :=
  if s.cur.flag then retirePage s
  else
    match theWalk s with
    | none => .refused .notEnabled
    | some w =>
      match w.res with
      | none => .refused .notEnabled
      | some e =>
        if w.stale ∨ overtaken s e then
          let (due, s) := later s
          .next (updWalks s fun l =>
            updWhere (fun x => x.id == w.id) (fun x => { x with res := none, stale := true, due := due }) l)
        else event (!directoryFull s || s.regs.any (·.names e))
          (endTheWalk (enterCores (enterTlb s (walkDie w.core) e) w e) w none)

/-! TLBINV (R318). -/

/-- The range a TLBINV word names: its first address and its length, 0 for every translation. -/
def invalRange (w : Word) : Nat × Nat :=
  let size := match w.toNat / 2 ^ 13 % 4 with
    | 0 => levelSize 3
    | 1 => levelSize 2
    | 2 => levelSize 1
    | _ => 0
  let va := w.toNat % 2 ^ 52
  if size = 0 then (0, 0) else (va / size * size, size)

/-- TLBINV (R318): after the release of the issuing context the directory sends the invalidation; stage 12 waits for it. -/
def execTlbinv (s : State) : Host.Outcome State Fault Refusal :=
  match actionOf s 9 with
  | some w =>
    let c := s.cur.core
    let (lo, len) := invalRange w
    let (id, s') := startInval s c s.cur.slot s.me.gen (coreJob s c) lo len
    event (released s c s.cur.slot s.nextId)
      (if s'.invals.any (·.id == id) then stay s' 12 (wordOf id) else doneOps s')
  | none => .refused .notEnabled

/-- The age of a message: of its instruction where it has one. -/
def msgAge (id : Nat) (m : Msg) : Nat :=
  match m.issuer with
  | .ctx _ _ _ p => p
  | _ => id

/-- The die whose TLB translated a message. -/
def msgDie (s : State) (m : Msg) : Option Nat :=
  match m.issuer with
  | .frsave _ d => some d
  | i => i.core?.map coreDie

/-- A message that a removed translation made, on its way to its home; one that waits for its translation was made by none. -/
def msgUses (s : State) (v : Inval) (die mark : Nat) (id : Nat) (m : Msg) : Bool :=
  msgDie s m == some die && msgAge id m < mark && (regionOf m.va).translated && v.covers m.job m.va &&
  (match m.phase with
   | .coming _ _ | .translating => false
   | _ => true)

/-- Every access of a die that used a removed translation is performed, or has failed (R318). -/
def invalQuiet (s : State) (v : Inval) (die mark : Nat) : Bool :=
  s.msgs.all (fun p => !msgUses s v die mark p.1 p.2) &&
  s.cores.all fun p => p.2.ctxs.all fun x => x.2.pend.all fun q => match q.kind with
    | .posted ms => ms.all fun m => !msgUses s v die mark q.id m
    | _ => true

/-- The walks an invalidation overtakes are walked again. -/
def staleWalks (s : State) (v : Inval) (die : Nat) : State :=
  let stalls (w : Walk) : Bool := v.covers w.job w.va || w.res.any fun e => e.within v.job v.lo v.len
  updUnit s die fun p => { p with walks := updWhere stalls (fun w => { w with stale := true, res := none }) p.walks }

/-- The last acknowledgement: the directory drops the registrations of the range, and the context's CSRW completes. -/
def endInval (s : State) (v : Inval) : State :=
  let s := { s with regs := s.regs.filter (fun r => !r.within v.job v.lo v.len), invals := s.invals.filter fun x => x.id != v.id, cur := { s.cur with core := v.core, slot := v.slot } }
  if sameCtx s v.core v.slot v.gen && actionOf s 12 == some (wordOf v.id) then doneOps s else s

/-- TLBINV_DIE_ACK (R318): the die `cur` names as its slot removes its entries, and acknowledges once their accesses are
performed. -/
def execTlbinvDieAck (s : State) : Host.Outcome State Fault Refusal :=
  let die := s.cur.slot
  match s.invals.find? fun v => v.id == s.cur.id with
  | none => .refused .notEnabled
  | some v =>
    if !v.dies.contains die then .refused .notEnabled
    else
      let upd (s : State) (f : Inval → Inval) : State := { s with invals := updWhere (fun x => x.id == v.id) f s.invals }
      match mget v.removed die with
      | none =>
        let s := staleWalks (forget s die v.job v.lo v.len) v die
        .next (upd s fun x => { x with removed := mset x.removed die s.nextId })
      | some mark =>
        let left := v.dies.filter (· != die)
        event (invalQuiet s v die mark)
          (if left.isEmpty then endInval s v else upd s fun x => { x with dies := left })

end Sys2Proof.Machine
end

