-- ==== Sys2Proof/Machine/Resume.lean ====
section
/-! DEFINITION. What a context has next: fetch (R147), the instruction at the head of its buffer, its readiness (R75), the
transfers a blocked instruction still makes (R77) and the waits that can end. -/

namespace Sys2Proof.Machine

/-! Fetch. -/

/-- Fill a fetch buffer word by word up to 32 bytes; a word that cannot be fetched leaves its fault (R147). A word waits for a
watermark (R170), and for the grant of its bank (R144) unless its granule `g` has been read in this clock. A fault found here stands
when a RETAG takes the guard away before the word would issue: no rule says (log entry 31, DESIGN CHOICE). -/
def fillBuffer (s : State) (c t : Nat) (g : Option Nat) : Nat → State
  | 0 => s
  | n + 1 =>
    let x := s.ctx c t
    let a := x.pc + x.fbuf.length
    if x.ffault.isSome || 28 < x.fbuf.length then s
    else if !fetchable (s.core c) a then
      s.setCtx c t { x with ffault := some { cause := Cause.fetch.code, value := wordOf a, pc := x.pc } }
    else if wmBlocks (s.core c) none a 4 || (g != some (a / 16) && !granted (s.core c) 0 [(a, 4)]) then s
    else
      let s := if g = some (a / 16) then s else takeBanks s c 0 [(a, 4)]
      let (ok, s) := spadCheck s c a 4
      if !ok then
        s.setCtx c t { x with ffault := some { cause := Cause.uncorrectable.code, value := wordOf a, pc := x.pc } }
      else fillBuffer (s.setCtx c t { x with fbuf := x.fbuf ++ memRead (s.core c).spad a 4 }) c t (some (a / 16)) n

/-- A context's buffer has room and no fault. -/
def fetches (x : Ctx) : Bool := x.status == .live && x.ffault.isNone && x.fbuf.length ≤ 28

/-- The word a context fetches next, if it reads the scratchpad, can be read in this clock (R144, R170). -/
def fetchGoes (k : Core) (x : Ctx) : Bool :=
  let a := x.pc + x.fbuf.length
  !fetchable k a || (!wmBlocks k none a 4 && granted k 0 [(a, 4)])

/-- INSTRUCTION_FETCH (R147). -/
def execInstructionFetch (s : State) : Host.Outcome State Fault Refusal :=
  event (fetches s.me && s.myCore.group.isSome && fetchGoes s.myCore s.me) (fillBuffer s s.cur.core s.cur.slot none 8)

/-- What stands at the head of a context's fetch buffer. -/
inductive Head where
  | instr (i : Instr)
  | bad (bits : Word) (len : Nat)
  | fault (r : TrapReq)
  | empty
  deriving DecidableEq, Repr

/-- The head of a fetch buffer: an instruction, illegal words (R46, R51), a fetch fault, or not yet a whole instruction. -/
def Ctx.head (x : Ctx) : Head :=
  let w := leBytes (x.fbuf.take 4)
  if 4 ≤ x.fbuf.length ∧ 4 * lengthOf w ≤ x.fbuf.length then
    match decodeBytes x.fbuf with
    | .ok (i, _) => .instr i
    | .error _ => .bad (wordOf (w + if 1 < lengthOf w then 2 ^ 32 * leBytes ((x.fbuf.drop 4).take 4) else 0)) (lengthOf w)
  else
    match x.ffault with
    | some r => .fault { r with pc := x.pc }
    | none => .empty

/-- The verdict on what a context has next (R75). -/
def headVerdict (s : State) : Verdict :=
  match s.me.head with
  | .instr i => verdict i s
  | .empty => .wait
  | .bad bits _ => (pcVerdict s).andThen fun _ => .trap .illegal bits .plain
  | .fault r => (pcVerdict s).andThen fun _ => .trap .fetch r.value .plain

/-- The state seen by a context. -/
def State.at (s : State) (c t : Nat) : State := { s with cur := { core := c, slot := t } }

/-- A context may issue in this clock, its YIELD hold apart (R75, R78). -/
def ready (s : State) (c t : Nat) : Bool :=
  match headVerdict (s.at c t) with
  | .wait => false
  | .walk _ _ => false
  | _ => true

/-- The live slots of a core. -/
def liveSlots (s : State) (c : Nat) : List Nat :=
  (s.core c).ctxs.filterMap fun p => if p.2.status = .live then some p.1 else none

/-- A context that has issued comes after one that has not; otherwise the one whose issue lies further back comes first (R76). -/
def issuesBefore (a b : Option Nat) : Bool :=
  match a, b with
  | none, some _ => true
  | some x, some y => x < y
  | _, none => false

/-- The slots that are ready in this clock (R75, R78). -/
def readySlots (s : State) (c : Nat) : List Nat :=
  (liveSlots s c).filter fun t => (s.ctx c t).yieldSet.isNone && ready s c t

/-- The YIELD holds of a core end in a clock in which no other context is ready. Where several contexts are held they end
together: the rule's "no other context is ready" is circular there (R78, log entry 31). -/
def endHolds (s : State) (c : Nat) : State :=
  if !((s.core c).ctxs.any fun p => p.2.yieldSet.isSome) || !(readySlots s c).isEmpty then s
  else s.updCore c fun k => { k with ctxs := k.ctxs.map fun p => (p.1, { p.2 with yieldSet := none }) }

/-- The context that issues in this clock (R76, R78). -/
def issuer (s : State) (c : Nat) : Option Nat :=
  (readySlots s c).foldl (fun (b : Option Nat) t =>
    match b with
    | none => some t
    | some u => if issuesBefore (s.ctx c t).lastIssue (s.ctx c u).lastIssue then some t else some u) none

/-- A context whose next instruction needs a page walk first (R176, R316). -/
def walker (s : State) (c : Nat) : Option Nat :=
  (liveSlots s c).find? fun t => match headVerdict (s.at c t) with
    | .walk _ _ => true
    | _ => false

/-- Words that are no instruction, or that could not be fetched, raise their trap when they would issue (R51, R147); a comparator
they hit is recorded (R226). They are the one instruction of a step (R220). -/
def issueBad (s : State) : State :=
  let x := s.me
  let raise (s : State) (r : TrapReq) : State :=
    s.updMe fun x => { x with trap := some r, stepping := x.stepping.map fun _ => s.nextId + 1 }
  match pcVerdict s with
  | .halt cause => haltCtx (noteHit s) s.cur.core s.cur.slot cause
  | .trap c v n => raise (noteHit s) { cause := c.code, value := v, pc := x.pc, note := n }
  | .walk _ _ => s
  | .wait => s
  | .go =>
    match x.head with
    | .bad bits len =>
      let s := (noteIssue .yield s).updMe fun y => { y with pc := x.pc, fbuf := x.fbuf, blk := none }
      raise s { cause := Cause.illegal.code, value := bits, pc := x.pc, ilen := some len }
    | .fault r => raise (noteHit s) r
    | _ => s

/-! Transfers (R77). -/

/-- The effect of each instruction, for the transfers it makes after its issue clock. -/
def effOf : Instr → List VWord → State → State
  | .add d _ _ => effAdd d
  | .sub d _ _ => effSub d
  | .mul d _ _ => effMul d
  | .mulh d _ _ => effMulh d
  | .mulhu d _ _ => effMulhu d
  | .and d _ _ => effAnd d
  | .or d _ _ => effOr d
  | .xor d _ _ => effXor d
  | .andn d _ _ => effAndn d
  | .orn d _ _ => effOrn d
  | .sll d _ _ => effSll d
  | .srl d _ _ => effSrl d
  | .sra d _ _ => effSra d
  | .min d _ _ => effMin d
  | .max d _ _ => effMax d
  | .minu d _ _ => effMinu d
  | .maxu d _ _ => effMaxu d
  | .slt d _ _ => effSlt d
  | .sltu d _ _ => effSltu d
  | .seq d _ _ => effSeq d
  | .sne d _ _ => effSne d
  | .addp d _ _ => effAddp d
  | .clz d _ => effClz d
  | .ctz d _ => effCtz d
  | .pop d _ => effPop d
  | .div d s1 s2 la => effDiv d s1 s2 la
  | .divu d s1 s2 la => effDivu d s1 s2 la
  | .rem d s1 s2 la => effRem d s1 s2 la
  | .remu d s1 s2 la => effRemu d s1 s2 la
  | .addi d _ imm => effAddi d imm
  | .andi d _ imm => effAndi d imm
  | .ori d _ imm => effOri d imm
  | .xori d _ imm => effXori d imm
  | .slti d _ imm => effSlti d imm
  | .sltui d _ imm => effSltui d imm
  | .addpi d _ imm => effAddpi d imm
  | .slli d _ sh => effSlli d sh
  | .srli d _ sh => effSrli d sh
  | .srai d _ sh => effSrai d sh
  | .bfx d _ pos lenm1 => effBfx d pos lenm1
  | .bfxu d _ pos lenm1 => effBfxu d pos lenm1
  | .bfi d _ pos lenm1 => effBfi d pos lenm1
  | .pfmt d _ fmt blog => effPfmt d fmt blog
  | .pkey d _ key => effPkey d key
  | .sel d _ _ _ => effSel d
  | .lit d imm => effLit d imm
  | .lith d imm => effLith d imm
  | .beq _ _ off => effBeq off
  | .bne _ _ off => effBne off
  | .blt _ _ off => effBlt off
  | .bge _ _ off => effBge off
  | .bltu _ _ off => effBltu off
  | .bgeu _ _ off => effBgeu off
  | .jl d off => effJl d off
  | .jlr d _ imm => effJlr d imm
  | .ldS8 d s1 off la => effLdS8 d s1 off la
  | .ldZ8 d s1 off la => effLdZ8 d s1 off la
  | .ldS16 d s1 off la => effLdS16 d s1 off la
  | .ldZ16 d s1 off la => effLdZ16 d s1 off la
  | .ldS32 d s1 off la => effLdS32 d s1 off la
  | .ldZ32 d s1 off la => effLdZ32 d s1 off la
  | .ld d s1 off la => effLd d s1 off la
  | .ldFe d s1 off la => effLdFe d s1 off la
  | .ldFec d s1 off la => effLdFec d s1 off la
  | .ldv d s1 off la => effLdv d s1 off la
  | .ldvFe d s1 off la => effLdvFe d s1 off la
  | .ldvFec d s1 off la => effLdvFec d s1 off la
  | .ldS8Long d s1 off la => effLdS8Long d s1 off la
  | .ldZ8Long d s1 off la => effLdZ8Long d s1 off la
  | .ldS16Long d s1 off la => effLdS16Long d s1 off la
  | .ldZ16Long d s1 off la => effLdZ16Long d s1 off la
  | .ldS32Long d s1 off la => effLdS32Long d s1 off la
  | .ldZ32Long d s1 off la => effLdZ32Long d s1 off la
  | .ldLong d s1 off la => effLdLong d s1 off la
  | .ldFeLong d s1 off la => effLdFeLong d s1 off la
  | .ldFecLong d s1 off la => effLdFecLong d s1 off la
  | .ldvLong d s1 off la => effLdvLong d s1 off la
  | .ldvFeLong d s1 off la => effLdvFeLong d s1 off la
  | .ldvFecLong d s1 off la => effLdvFecLong d s1 off la
  | .st8 _ _ off => effSt8 off
  | .st16 _ _ off => effSt16 off
  | .st32 _ _ off => effSt32 off
  | .st _ _ off => effSt off
  | .stSf _ _ off => effStSf off
  | .stv _ _ off => effStv off
  | .stvSf _ _ off => effStvSf off
  | .st8Long _ _ off => effSt8Long off
  | .st16Long _ _ off => effSt16Long off
  | .st32Long _ _ off => effSt32Long off
  | .stLong _ _ off => effStLong off
  | .stSfLong _ _ off => effStSfLong off
  | .stvLong _ _ off => effStvLong off
  | .stvSfLong _ _ off => effStvSfLong off
  | .lde d s1 s2 la => effLde d s1 s2 la
  | .ste _ _ _ => effSte
  | .amo op wide d s1 s2 s3 off la => effAmo op wide d s1 s2 s3 off la
  | .tret => effTret
  | .brk => effBrk
  | .wfe => effWfe
  | .retire => effRetire
  | .yield => effYield
  | .hexit _ => effHexit
  | .gtime d => effGtime d
  | .cid d => effCid d
  | .hstart d _ _ => effHstart d
  | .hjoin d _ => effHjoin d
  | .dhop d _ _ => effDhop d
  | .sys code => effSys code
  | .csrr d csr => effCsrr d csr
  | .csrw d _ csr => effCsrw d csr
  | .csrs d _ csr => effCsrs d csr
  | .csrc d _ csr => effCsrc d csr
  | .bara b => effBara b
  | .barw b => effBarw b
  | .farm flag _ => effFarm flag
  | .fread d flag => effFread d flag
  | .fclr flag => effFclr flag
  | .fwait _ => effFwait
  | .phase level => effPhase level
  | .tcmd q s1 => effTcmd q s1
  | .tcmdm q _ => effTcmdm q
  | .lease budget => effLease budget
  | .unlease => effUnlease
  | .slotq d => effSlotq d
  | .gwid width => effGwid width
  | .vadd t m d _ _ => effVadd t m d
  | .vsub t m d _ _ => effVsub t m d
  | .vmul t m d _ _ => effVmul t m d
  | .vfma t m d _ _ => effVfma t m d
  | .vfms t m d _ _ => effVfms t m d
  | .vnfma t m d _ _ => effVnfma t m d
  | .vabs t m d _ => effVabs t m d
  | .vneg t m d _ => effVneg t m d
  | .vmin t m d _ _ => effVmin t m d
  | .vmax t m d _ _ => effVmax t m d
  | .vsel t m d _ _ => effVsel t m d
  | .vand t m d _ _ => effVand t m d
  | .vor t m d _ _ => effVor t m d
  | .vxor t m d _ _ => effVxor t m d
  | .vshl t m d _ _ => effVshl t m d
  | .vshr t m d _ _ => effVshr t m d
  | .vshra t m d _ _ => effVshra t m d
  | .vbcast t m d _ => effVbcast t m d
  | .vcmp p t m d _ _ => effVcmp p t m d
  | .vshuf t m d _ _ _ => effVshuf t m d
  | .vins t d _ lane => effVins t d lane
  | .vext t d _ lane => effVext t d lane
  | .vreds t m d _ => effVreds t m d
  | .vredm t m d _ => effVredm t m d
  | .vmaxi t m d s3 _ => effVmaxi t m d s3
  | .vmini t m d s3 _ => effVmini t m d s3
  | .vcvt dst src rnd m d _ => effVcvt dst src rnd m d
  | .vcvtef dst src rnd m d s3 _ => effVcvtef dst src rnd m d s3
  | .vdot4 sg m d _ _ => effVdot4 sg m d
  | .vrcp t d s1 la => effVrcp t d s1 la
  | .vrsq t d s1 la => effVrsq t d s1 la
  | .vexp2 t d s1 la => effVexp2 t d s1 la
  | .vlog2 t d s1 la => effVlog2 t d s1 la
  | .vrcps t d s1 s2 la => effVrcps t d s1 s2 la
  | .vrsqs t d s1 s2 la => effVrsqs t d s1 s2 la
  | .rst8 s2 s1 flag la => effRst8 s2 s1 flag la
  | .rst16 s2 s1 flag la => effRst16 s2 s1 flag la
  | .rst32 s2 s1 flag la => effRst32 s2 s1 flag la
  | .rst s2 s1 flag la => effRst s2 s1 flag la
  | .rstv s2 s1 flag la => effRstv s2 s1 flag la
  | .rldS8 d s1 off la => effRldS8 d s1 off la
  | .rldZ8 d s1 off la => effRldZ8 d s1 off la
  | .rldS16 d s1 off la => effRldS16 d s1 off la
  | .rldZ16 d s1 off la => effRldZ16 d s1 off la
  | .rldS32 d s1 off la => effRldS32 d s1 off la
  | .rldZ32 d s1 off la => effRldZ32 d s1 off la
  | .rld d s1 off la => effRld d s1 off la
  | .rldv d s1 off la => effRldv d s1 off la
  | .ramo op wide s1 s2 s3 flag la => effRamo op wide s1 s2 s3 flag la
  | .ramor op wide d s1 s2 s3 la => effRamor op wide d s1 s2 s3 la
  | .pack d s1 s2 => effPack d s1 s2
  | .unpack d s1 s2 => effUnpack d s1 s2
  | .pext d s1 s2 => effPext d s1 s2
  | .tkput _ _ => effTkput
  | .tkget d s1 la => effTkget d s1 la
  | .launch _ _ => effLaunch
  | .meet _ s2 => effMeet s2
  | i@(.meetr _ _ _) => effMeetr i
  | _ => fun _ s => s

/-- The transfer a blocked instruction has to make next can be made; before its last pop its unit must be able to accept it,
as at issue (R75, R152). -/
def transferReady (s : State) : Bool :=
  match s.me.blk with
  | none => false
  | some b =>
    if b.stage = 0 then
      unitFree b.instr s && (match (srcs b.instr).drop b.held.length with
      | [] => !s.me.halted
      | o :: _ => (match popOpnd s o with
        | .block => false
        | _ => true))
    else if b.stage = stagePush then
      match b.outs with
      | [] => true
      | (p, v, vec) :: _ => (match pushPort s s.cur.core s.cur.slot s.nextId p vec v with
        | .block => false
        | _ => true)
    else false

/-- Go on with the transfers of a blocked instruction; a data comparator may halt the context before its effect (R224). -/
def goOn (s : State) : State :=
  match s.me.blk with
  | none => s
  | some b =>
    if b.stage = 0 then
      match popAll ((srcs b.instr).drop b.held.length) b.held s with
      | .part vs s => updBlk s fun b => { b with held := vs }
      | .trap s c v => trapHere (usedFree s) c v
      | .done vs s =>
        let s := updBlk s fun b => { b with held := vs }
        let s' := settleOps (effOf b.instr vs s)
        if watchHalted s s' then
          haltCtx (updBlk (s.updMyCore fun k => { k with wphit := s'.myCore.wphit, events := s'.myCore.events }) fun b => { b with exempt := true })
            s.cur.core s.cur.slot 4
        else s'
    else continueOps (effOf b.instr) s

/-- PORT_TRANSFER_CONTINUE (R77). -/
def execPortTransferContinue (s : State) : Host.Outcome State Fault Refusal := event (transferReady s) (goOn s)

/-! Waits of their own. -/

/-- A blocked instruction whose own wait can go on in this clock. -/
def waitOver (s : State) : Bool :=
  match s.me.blk with
  | none => false
  | some b =>
    if b.stage = 0 ∨ b.stage = stagePush then false
    else
      match b.instr with
      | .fwait flag =>
        let f := s.flag s.cur.core flag.toNat
        hasReport s || f.ovs || f.count == 0
      | .barw n => hasReport s || !s.me.barWaiting.getLsbD n.toNat
      | .phase _ => hasReport s
      | .wfe => s.me.evt
      | .hjoin _ _ =>
        let x := s.ctx s.cur.core b.aux.toNat
        (match x.status with
          | .exited => s.myCore.storeQ.all fun e => e.slot != b.aux.toNat || e.gen != x.gen
          | .killed => true
          | _ => false)
      | .tkput _ _ =>
        let a := ptrAddr (arg b.held 1)
        -- one that a comparator has halted waits for its resume (R224)
        b.stage == 1 && !(s.me.halted && b.aux == 1) && localTurn s a 8 && granted s.myCore 0 [(a, 8)]
      | .launch _ _ =>
        if b.stage = 1 then xlate s b.aux.toNat .read != .waiting
        else b.stage == 2 && released s s.cur.core s.cur.slot s.nextId
      | .meet _ v =>
        if b.stage = 1 then (match popOpnd s (.v v) with
          | .block => false
          | _ => true)
        else b.stage == 2 && (outboundPosted s s.cur.core).length < 16 && outOpen s s.cur.core
      | .meetr _ _ _ => b.stage == 2 && outOpen s s.cur.core
      | .pack _ _ _ | .unpack _ _ _ | .pext _ _ _ => polyGoes b.instr b s
      | i =>
        match remoteOf i with
        | some (_, off, _, k) => b.stage == 1 && (match xlate s (((ptrAddr (arg b.held 0) : Int) + off).toNat) k with
          | .waiting => false
          | .ok _ => unitFree i s && (posted i || outOpen s s.cur.core)
          | _ => true)
        | none => false

end Sys2Proof.Machine
end

