-- ==== Sys2Proof/Machine/Debug.lean ====
section
/-! DEFINITION. The debug module (R217 to R221), imprecise watchpoints (R225), and the records, counters and dumps of a
core (R227 to R234). -/

namespace Sys2Proof.Machine

/-! Register writes that no context waits for: through DBGRDATA (R221) and the debug port (R217, R354). -/

/-- A RETAG at once. -/
def retagNow (s : State) (c t : Nat) (w : Word) : State :=
  if retagBeyond w then s
  else
    let first := retagFirst w
    s.updCore c fun k =>
      let old := mgetD k.tags first 0
      let k := { k with tags := setTags k.tags first (retagTag w) (retagCount w + 1) }
      logRetag k t old (retagTag w) (retagCount w) first (s.ptime / 2 ^ 10)

/-- A TQCFG action at once. -/
def tqNow (s : State) (c t : Nat) (v : Word) : State :=
  let (ok, s) := if v.toNat % 4 = 1 then tqCreate s c v else tqDestroy s c v
  s.updCtx c t fun x => { x with tqresult := if ok then 1 else 2 }

/-- A DBGCTL action at once. -/
def dbgNow (s : State) (c : Nat) (w : Word) : State :=
  let d := (s.core c).dbgsel.toNat
  let s := if 2 ^ 32 ≤ w.toNat then actHoldOff s c else s
  match w.toNat % 4 with
  | 1 => actHalt s c d
  | 2 => actResume s c d
  | _ => s

/-- Write a register other than DBGRDATA as a slot would in runtime mode; a write that would trap does nothing, and an
action that would block is done at once (log entry 22). -/
def csrNow (s : State) (c t n : Nat) (op : CsrOp) (v : Word) : State :=
  if (csrCheck t .runtime n true).isSome then s
  else
    let (old, s) := csrRead s c t n
    let new := csrMerge n op old v ||| eventBits (s.core c) n old
    let act := if csrIdle n op v then none else csrAction s c n op old new v
    let s := if csrIdle n op v then s else csrStore s c t n new
    match act with
    | some (1, w) => retagNow s c t w
    | some (2, w) => actBarcfg s c (s.ctx c t).barsel.toNat (w.toNat % 16)
    | some (3, w) => dbgNow s c w
    | some (5, _) => actTrace s c
    | some (6, w) => actMark s c t w
    | some (7, _) => actDump s c
    | some (8, w) => tqNow s c t w
    | some (9, w) => (startInval s (2 ^ 14) 0 0 (coreJob s c) (invalRange w).1 (invalRange w).2).2
    | _ => s

/-- Write DBGRDATA (R221) as a CSR instruction does: a register that is no CSR is one RW field, and each field of a CSR that DBGRNUM
selects acts by its own access code (R107). -/
def dbgrWrite (s : State) (c : Nat) (op : CsrOp) (v : Word) : State :=
  let t := (s.core c).dbgsel.toNat
  let num := (s.core c).dbgrnum.toNat
  if num < 256 then dbgWrite s c (csrMerge 0x033 op ((dbgRead (s.core c) t num).getD 0) v)
  else if t ≤ 10 && (s.ctx c t).halted && num != 256 + 0x033 then csrNow s c t (num - 256) op v
  else s

/-- DBGRDATA_WRITE (R221). -/
def execDbgrdataWrite (s : State) : Host.Outcome State Fault Refusal := doAction s 4 fun w s => dbgrWrite s s.cur.core (actingOp s) w

/-- A register write of the debug port, applied between two clocks (R217), so that a counter it writes counts from there; of a CSR that each context has, it reaches slot 0's: the rule
names no slot (log entry 31). -/
def portWrite (s : State) (c n : Nat) (v : Word) : State :=
  (if n = 0x033 then dbgrWrite s c .w v else csrNow s c 0 n .w v).updCore c fun k =>
    let k := applyLate k
    { k with pmcs := k.pmcs.map fun p => (p.1, { p.2 with wrote := none }) }

/-! Single step and imprecise hits. -/

/-- The stepped instruction of a context has completed (R220). -/
def stepDone (x : Ctx) : Bool :=
  match x.stepping with
  | some n => x.status == .live && n != 0 && x.blk.isNone && x.trap.isNone && x.pend.all fun p => p.id + 1 < n
  | none => false

/-- DEBUG_STEP_HALT (R220). Where the stepped instruction was blocked and the slot has been halted in it by a HALT, the halt of the step
takes the place of that one: HCAUSE is 2, with a DEBUG record of its own, since no rule says which cause stands (log entry 31, DESIGN
CHOICE). -/
def execDebugStepHalt (s : State) : Host.Outcome State Fault Refusal :=
  event (stepDone s.me) (stepHalt s s.cur.core s.cur.slot)

/-- The trap of an imprecise hit at its target (R225): a blocked target takes it with wait delivery, another one at its
next issue. A second hit that is due before its target issues takes the place of the first: one trap, with the later offset (log
entry 31, DESIGN CHOICE). -/
def impTrapAt (s : State) (c t off due : Nat) : State :=
  let x := s.ctx c t
  if x.status ≠ .live then s
  else
    let s := s.setCtx c t { x with impTrap := some (due, off) }
    match x.blk with
    | none => s
    | some b =>
      let r : TrapReq := { cause := Cause.watchpoint.code, value := wordOf off, pc := b.pc, note := .impHit, ilen := some b.len }
      if x.halted then s else raiseTrap s c t r

/-- The halt of an imprecise hit (R225). -/
def impHaltAt (s : State) (c : Nat) (ctl : Word) : State :=
  (liveSlots s c).foldl (fun s t => if wpSlot ctl t && !(s.ctx c t).halted then haltCtx s c t 4 else s) s

/-- WATCHPOINT_IMPRECISE_DELIVER (R225): the oldest hit that is due at the core. -/
def execWatchpointImpreciseDeliver (s : State) : Host.Outcome State Fault Refusal :=
  let c := s.cur.core
  match (s.core c).impHits with
  | [] => .refused .notEnabled
  | h :: rest =>
    let s' := s.updCore c fun k => { k with impHits := rest }
    event (h.due ≤ s.clk c)
      (if wpAction h.ctl = 1 then impTrapAt s' c (wpTarget h.ctl) h.offset h.due else impHaltAt s' c h.ctl)

/-! Trace (R227 to R230). -/

/-- TRACE_SYNC_RECORD (R229). -/
def execTraceSyncRecord (s : State) : Host.Outcome State Fault Refusal :=
  let c := s.cur.core
  let t := s.cur.slot
  event (tracesSlot (s.core c) t && (s.ctx c t).needSync) (oweSync s c t)

/-- A slot owes a FLOW record (R229). -/
def owesFlow (x : Ctx) : Bool := x.hist.length == 32 || x.icount == 65535 || x.jlrTarget != 0

/-- TRACE_FLOW_RECORD (R229). -/
def execTraceFlowRecord (s : State) : Host.Outcome State Fault Refusal :=
  let c := s.cur.core
  let t := s.cur.slot
  event (tracesSlot (s.core c) t && owesFlow (s.ctx c t))
    (flowRecord (firstSync s c t) c t)

/-- TRACE_WRITE_FAIL (R228): the failed reply `cur` names; records in flight are discarded. -/
def execTraceWriteFail (s : State) : Host.Outcome State Fault Refusal :=
  match replyDue s s.cur.id with
  | some (m, r) =>
    match m.issuer with
    | .trace c =>
      let tr := (s.core c).trace
      let s' := (s.cur.id :: tr.flying).foldl dropMsg s
      let ctl := tr.ctl.toNat % 2 ^ 62 + 2 ^ 62
      event r.bad (s'.updCore c fun k => { k with trace := { k.trace with ctl := wordOf ctl, flying := [] } }.hasEvent 0x03A)
    | _ => .refused .notEnabled
  | none => .refused .notEnabled

/-- A context waits in a window or for a pending register (R81). -/
def windowWait (s : State) (c t : Nat) : Bool :=
  let x := s.ctx c t
  x.status == .live && !x.halted && x.blk.isNone && x.trap.isNone &&
  (match x.head with
   | .instr i => beyondWindow x.pend || windowVerdict x.lkchk (touched i) x.pend == .wait
   | _ => false)

/-- The states of a sample that hold for a slot (R229). -/
def sampleStates (s : State) (c t : Nat) : List Nat :=
  let x := s.ctx c t
  let l := (if x.halted then [3] else []) ++ (if x.tl = 2 then [5] else []) ++ (if x.tl = 1 then [4] else []) ++
    (if x.blk.isSome then [1] else []) ++ (if windowWait s c t then [2] else [])
  if l.isEmpty then [0] else l

/-- The SAMPLE record of a slot: where several states hold, the spec does not say which it shows (log entry 3). -/
def sampleRecord (s : State) (c t pulse : Nat) : State :=
  let x := s.ctx c t
  let l := sampleStates s c t
  let (n, s) := if l.length = 1 then (0, s) else s.fresh 9
  let pc := match x.blk with
    | some b => b.pc
    | none => x.pc
  slotRecord s c t 5 (l.getD (n % l.length) 0 + 2 ^ 8 * (pc % 2 ^ 52) + 2 ^ 60 * (pulse % 2 ^ 52))

/-- The COUNTER record of a counter. -/
def counterRecord (s : State) (c n pulse : Nat) (ovf : Bool) : State :=
  let v := (mgetD (s.core c).pmcs n {}).val
  if tracing (s.core c) then traceRecord s c 6 0 (n + 4 * (v % 2 ^ 48) + 2 ^ 50 * b2n ovf + 2 ^ 60 * (pulse % 2 ^ 52)) else s

/-- The counters of a core that report at pulses. -/
def sampledCounters (k : Core) : List Nat :=
  (List.range 4).filter fun n => (mgetD k.pmcs n {}).ctl.toNat / 2 ^ 62 % 2 == 1

/-- SAMPLING_PULSE (R230): the core takes the oldest pulse that is due; later ones that are due in the same clock come while its
records are being made, and their records count as dropped (R229). -/
def execSamplingPulse (s : State) : Host.Outcome State Fault Refusal :=
  let c := s.cur.core
  let k := s.core c
  let no := pulsesDue s (coreDie c)
  let slots := (liveSlots s c).filter (tracesSlot k)
  let each := slots.length + (sampledCounters k).length
  let s' := slots.foldl (fun s t => sampleRecord s c t k.pulse) s
  let s' := (sampledCounters k).foldl (fun s n => counterRecord s c n k.pulse false) s'
  let skipped := (no - k.pulse - 1) * each
  event (tracing k && k.pulse < no) (s'.updCore c fun k =>
    { k with
      pulse := no
      trace := { k.trace with lost := satAdd k.trace.lost skipped 65535, seq := (k.trace.seq + skipped) % 256 } })

/-! Performance counters (R231, R232). -/

/-- A counter's value after its clock, and whether it wrapped. -/
def Pmc.after (p : Pmc) : Nat × Bool :=
  let sum := p.wrote.getD p.val + p.bump
  (if p.wrote.isSome then p.val else sum % 2 ^ 48, 2 ^ 48 ≤ sum)

/-- COUNTER_OVERFLOW (R232): the counter `cur` names wraps in this clock. Its record carries the number of the last pulse that was
due, and 0 before any: no rule says which (R229, log entry 31). -/
def execCounterOverflow (s : State) : Host.Outcome State Fault Refusal :=
  let c := s.cur.core
  let n := s.cur.id
  match mget (s.core c).pmcs n with
  | none => .refused .notEnabled
  | some p =>
    let p' : Pmc := { ctl := p.ctl ||| wordOf (2 ^ 63), val := p.after.1 }
    event p.after.2 (counterRecord (s.updCore c fun k => { k with pmcs := mset k.pmcs n p' }) c n ((s.core c).pulse - 1) true)

/-- The counters that do not wrap take their clock's count. -/
def pmcEnd (s : State) (c : Nat) : State :=
  let add (p : Nat × Pmc) : Nat × Pmc :=
    if p.2.after.2 then p else (p.1, { p.2 with val := p.2.after.1, bump := 0, wrote := none })
  if (s.core c).pmcs.isEmpty then s else s.updCore c fun k => { k with pmcs := k.pmcs.map add }

/-- A context is blocked in a port transfer (R77): in its pops, in the pop of a MEET's payload behind its issue, or in its
pushes. -/
def Blk.inTransfer (b : Blk) : Bool :=
  b.stage == 0 || b.stage == stagePush || (b.stage == 1 && match b.instr with
    | .meet _ _ => true
    | _ => false)

/-- The counts of a clock besides those made where things happen: clocks, ready but not chosen, window and port waits,
lease waits. -/
def pmcClock (s : State) (c : Nat) (chosen : Option Nat) : State :=
  let k := s.core c
  if k.pmcs.isEmpty then s
  else
    let slots := (liveSlots s c).filter fun t => !(s.ctx c t).halted
    let each (k : Core) (ev : Nat) (p : Nat → Bool) : Core :=
      (slots.filter p).foldl (fun k t => pmcCount k ev (some t) 1) k
    let k := pmcCount k 1 none 1
    let rs := readySlots s c
    let k := each k 3 fun t => rs.contains t && chosen != some t
    let k := each k 4 (windowWait s c)
    let k := each k 5 fun t => match (s.ctx c t).blk with
      | some b => b.inTransfer
      | none => false
    let head := poisedRun s c || k.eq1.head?.any (·.leased)
    s.setCore c (pmcCount k 10 none (b2n (k.lease.state == .waiting && head)))

/-! Core dumps (R233, R234). -/

/-- The 64-byte units of a dump in order: the header, each slot, then the parts of the core. -/
def dumpEnd : Nat := 1 + 18 + 70 + 32 + 8 + 8 + 256 + 8192

/-- The slot whose section holds a unit, with the unit's number in the section. -/
def dumpSlot (u : Nat) : Option (Nat × Nat) :=
  if u = 0 ∨ 89 ≤ u then none
  else if u < 19 then some (0, u - 1)
  else some ((u - 19) / 7 + 1, (u - 19) % 7)

/-- The words of a slot's section. A helper has no CSR 0x003: its section holds the core's HSTAT there, since R234 does not say what it
holds (log entry 31, DESIGN CHOICE). -/
def slotWords (s : State) (c t : Nat) : List Word :=
  let x := s.ctx c t
  let nx := if t = 0 then 48 else 16
  let nv := if t = 0 then 32 else 8
  let nk := if t = 0 then 8 else 4
  (x.x.toList.take nx) ++
  ((x.v.toList.take nv).flatMap fun v => [w64 v, wordOf (v.toNat / 2 ^ 64)]) ++
  (x.k.toList.take nk).map (·.setWidth 64) ++ [wordOf (match x.blk with
    | some b => b.pc
    | none => x.pc)] ++ (List.range 18).map (csrPeek s c t)

/-- The header of a dump (R234): core id, package time, the kill record (cause, slot, value, program counter) or zero, HSTAT,
and DBGCTL of each slot in 2 bytes; the widths are the model's choice (log entry 32). -/
def dumpHeader (s : State) (c : Nat) : List Byte :=
  let k := s.core c
  let kill := match k.dump.kill with
    | some r => natBytes 1 r.cause ++ natBytes 1 r.slot ++ natBytes 8 r.value.toNat ++ natBytes 8 r.pc
    | none => List.replicate 18 0
  natBytes 8 c ++ natBytes 8 s.ptime ++ kill ++ natBytes 8 (csrPeek s c 0 0x003).toNat ++
    (List.range 11).flatMap fun t => natBytes 2 (dbgctl k t)

/-- The bytes of words. -/
def wordsBytes (l : List Word) : List Byte := l.flatMap fun w => natBytes 8 w.toNat

/-- The 64 bytes of a unit. -/
def dumpUnit (s : State) (c u : Nat) : List Byte :=
  let k := s.core c
  let pad (l : List Byte) : List Byte := (l ++ List.replicate 64 0).take 64
  let words (f : Nat → Word) (i : Nat) : List Byte := wordsBytes ((List.range 8).map fun j => f (8 * i + j))
  match dumpSlot u with
  | some (t, i) => pad ((wordsBytes (slotWords s c t)).drop (64 * i))
  | none =>
    if u = 0 then dumpHeader s c
    else if u < 121 then words (fun f => let e := s.flag c f; flagWord e.count e.ovs) (u - 89)
    else if u < 129 then words (fun b => wordOf (barWord k b)) (u - 121)
    else if u < 137 then words (fun n => k.retagLog.getD n 0) (u - 129)
    else if u < 393 then (List.range 64).map fun j => BitVec.ofNat 8 (tagWord k (64 * (u - 137) + j))
    else memRead k.spad (64 * (u - 393)) 64

/-- The scratchpad bytes that a unit of a dump reads. -/
def dumpPieces (u : Nat) : List (Nat × Nat) := if u < 393 then [] else [(64 * (u - 393), 64)]

/-- The codes that a unit of a dump reads are checked (R145): of the data, and of the tags and full/empty bits of its granules. -/
def dumpCheck (s : State) (c u : Nat) : Bool × State :=
  if u < 137 then (true, s)
  else if u < 393 then codeCheck s [5, 8] c (2048 * (u - 137)) 2048
  else codeCheck s [1, 6] c (64 * (u - 393)) 64

/-- The next unit to write from a place on, free slots left out. -/
def dumpNext (s : State) (c : Nat) : Nat → Nat → Nat
  | 0, u => u
  | fuel + 1, u =>
    match dumpSlot u with
    | some (t, 0) =>
      if (s.ctx c t).status = .free then dumpNext s c fuel (u + if t = 0 then 18 else 7) else u
    | _ => u

/-- LENGTH and LIMIT of a dump. -/
def dumpLength (d : Dump) : Nat := d.stat.toNat / 2 ^ 32 % 2 ^ 20
@[inherit_doc dumpLength]
def dumpLimit (d : Dump) : Nat := d.ctl.toNat / 2 ^ 32 % 2 ^ 20

/-- A dump runs and has no write in flight. -/
def dumpIdle (d : Dump) : Bool := 2 ^ 63 ≤ d.stat.toNat && d.flying.isNone && !d.fresh

/-- A dump has no further unit to write. -/
def dumpOver (s : State) (c : Nat) : Bool :=
  let d := (s.core c).dump
  dumpEnd ≤ dumpNext s c 12 d.pos || dumpLimit d ≤ dumpLength d

/-- No watermark covers what a unit of the dump reads from the scratchpad (R170). -/
def dumpOpen (k : Core) (u : Nat) : Bool := (dumpPieces u).all fun p => !wmBlocks k none p.1 p.2

/-- The dump writer writes its next unit. It waits for a watermark (R170); data that fails its retry ends the dump like a write that
fails, with status 0x09 (log entry 31). -/
def dumpAdvance (s : State) (c : Nat) : State :=
  let k := s.core c
  let d := k.dump
  if !dumpIdle d || dumpOver s c then s
  else
    let u := dumpNext s c 12 d.pos
    let job := coreJob s c
    let va := d.base.toNat / 64 * 64 + 64 * dumpLength d
    if !dumpOpen k u || !granted k 2 (dumpPieces u) then s
    else
    match engXlate s (coreDie c) job va .write with
    | (.error _, s') => if mustWait s s' then (s'.held.bind (startMiss s)).getD s else dumpReply s' c (.failed stXlate)
    | (.ok pa, s) =>
      if regionOf va ≠ .device then dumpReply s c (.failed stXlate)
      else
        let (ok, s) := dumpCheck (takeBanks s c 2 (dumpPieces u)) c u
        if !ok then dumpReply s c (.failed stUncorrectable)
        else
        let bs := dumpUnit s c u
        let (id, s) := sendMsg s { issuer := .dump c, act := .store bs, home := .hbm pa, va := va, job := job }
        s.updCore c fun k => { k with dump := { k.dump with flying := some id, pos := u + 1 } }

/-- DUMP_END (R234): complete, truncated or faulted. -/
def execDumpEnd (s : State) : Host.Outcome State Fault Refusal :=
  let c := s.cur.core
  let d := (s.core c).dump
  let trunc : Bool := dumpNext s c 12 d.pos < dumpEnd
  let st := d.stat.toNat % 2 ^ 61 + 2 ^ 62 + 2 ^ 61 * b2n trunc
  event (dumpIdle d && dumpOver s c) (s.updCore c fun k => { k with dump := { k.dump with stat := wordOf st } }.hasEvent 0x03F)

end Sys2Proof.Machine
end

