-- ==== Sys2Proof/Machine/Mesh.lean ====
section
/-! DEFINITION. The mesh of router nodes (R2, R5, R304, R305): 258 columns by 66 rows, routed X first and then Y. A node is its
column and its row. -/

namespace Sys2Proof.Machine

/-- The columns and rows of the mesh (R2). -/
def meshColumns : Nat := 258
@[inherit_doc meshColumns]
def meshRows : Nat := 66

/-- The node of the core at a row and column of a plain (R5). -/
def plainNode (die row col : Nat) : Nat × Nat := (1 + 64 * (die % 4) + col, 1 + 32 * (die / 4) + row)

/-- The node of a core (R4, R5). -/
def coreNode (c : Nat) : Nat × Nat := plainNode (coreDie c) (coreRow c) (coreCol c)

/-- The i-th node of a die: of a plain its cores' nodes, of a valley die the rows of column 0 or 257, of a pass die the columns
of row 0 or 65 between them (R5). -/
def dieNode (die i : Nat) : Nat × Nat :=
  if die < 8 then plainNode die (i % 2048 / 64) (i % 64)
  else if die = 8 then (0, i % meshRows)
  else if die = 9 then (meshColumns - 1, i % meshRows)
  else (1 + i % 256, if die = 10 then 0 else meshRows - 1)

/-- The die whose router node this is (R5). A corner lies on a valley edge and on a pass edge at once; the spec does not say which die
holds it, and the model gives it to the valley die (log entry 35). -/
def nodeDie (n : Nat × Nat) : Nat :=
  if n.1 = 0 then 8
  else if n.1 = meshColumns - 1 then 9
  else if n.2 = 0 then 10
  else if n.2 = meshRows - 1 then 11
  else 4 * ((n.2 - 1) / 32) + (n.1 - 1) / 64

/-- A node as a number: its row in the bits above its column's nine (log entry 35). -/
def nodeNumber (n : Nat × Nat) : Nat := 2 ^ 9 * n.2 + n.1

/-- The nearest number of a range. -/
def clampTo (lo hi n : Nat) : Nat := max lo (min hi n)

/-- The units of the pass dies that take nodes of their own (R304). -/
inductive EdgeUnit where
  | scaleUp (p : Nat)
  | ultra (e : Nat)
  | host
  | dispatcher
  | directory
  | management
  deriving DecidableEq, Repr

/-- The mesh row of a unit of a pass die, and the first and last of its columns (R304). -/
def EdgeUnit.row : EdgeUnit → Nat
  | .scaleUp p => if p < 18 then 0 else meshRows - 1
  | .ultra _ => meshRows - 1
  | .host | .dispatcher | .directory | .management => 0

@[inherit_doc EdgeUnit.row]
def EdgeUnit.columns : EdgeUnit → Nat × Nat
  | .scaleUp p => (4 * (p % 18) + 1, 4 * (p % 18) + 4)
  | .ultra e => (8 * e + 97, 8 * e + 104)
  | .host => (97, 128)
  | .dispatcher => (129, 136)
  | .directory => (137, 144)
  | .management => (145, 152)

/-- The node of a unit nearest to the column of another node (R304; log entry 35). -/
def EdgeUnit.node (u : EdgeUnit) (from_ : Nat × Nat) : Nat × Nat := (clampTo u.columns.1 u.columns.2 from_.1, u.row)

/-- A port as a unit: 0 to 35 scale-up, from 36 on Ultra Ethernet (R304). -/
def portUnit (p : Nat) : EdgeUnit := if p < 36 then .scaleUp p else .ultra (p - 36)

/-- The node by which an access from a node enters the controller of a stack (R304, R305). -/
def stackNode (stack : Nat) (from_ : Nat × Nat) : Nat × Nat :=
  (if stack < 6 then 0 else meshColumns - 1, clampTo (10 * (stack % 6) + 2) (10 * (stack % 6) + 11) from_.2)

/-- The nodes from one number to another, both among them. -/
def between (a b : Nat) : List Nat :=
  if a ≤ b then (List.range (b + 1 - a)).map (a + ·) else (List.range (a + 1 - b)).map (a - ·)

/-- The nodes a flit passes from one node to another: along X first, then along Y (R2, R305). -/
def route (a b : Nat × Nat) : List (Nat × Nat) :=
  (between a.1 b.1).map (fun x => (x, a.2)) ++ ((between a.2 b.2).drop 1).map fun y => (b.1, y)

end Sys2Proof.Machine
end

