-- ==== Sys2Proof/Machine/Gang.lean ====
section
/-! DEFINITION. The gang switch (R323 to R328): arming, the stop of a partition, its save image and the restore. -/

namespace Sys2Proof.Machine

/-- A partition block. -/
def State.gang (s : State) (p : Nat) : GangBlk := mgetD s.gangs p {}

/-- Change a partition block. -/
def updGang (s : State) (p : Nat) (f : GangBlk → GangBlk) : State := { s with gangs := mset s.gangs p (f (s.gang p)) }

/-- The plains of a mask. -/
def maskPlains (m : Nat) : List Nat := (List.range 8).filter fun d => m / 2 ^ d % 2 == 1

/-- The length of a save image of n plains (R327). -/
def saveBytes (n : Nat) : Nat := 2 ^ 26 + n * (3 * 2 ^ 29)

/-- A range of device memory is mapped as a whole (R310). -/
def paRangeMapped (s : State) (a n : Nat) : Bool :=
  paMapped s (a + n - 1) && (List.range (n / 2 ^ 30 + 1)).all fun i => paMapped s (a + i * 2 ^ 30)

/-- An image can stand at an address (R324, reason 4). -/
def imagePlaceOk (s : State) (a n : Nat) : Bool := a % 2 ^ 26 == 0 && paRangeMapped s a (saveBytes n)

/-- The running job whose partition a mask is. -/
def runningJob (s : State) (plains : Nat) : Option Nat :=
  (s.jobs.find? fun p => !p.2.stopped && plains != 0 && p.2.partition.toNat == plains).map Prod.fst

/-- The first check of R324 a GO fails. -/
def goReason (s : State) (p op plains : Nat) : Option Nat :=
  let g := s.gang p
  let n := (maskPlains plains).length
  if 1 ≤ g.state ∧ g.state ≤ 4 then some 1
  else if op = 3 ∨ (op < 2 ∧ runningJob s plains = none) ∨
      (op = 2 ∧ (maskPlains plains).any fun d => inPartition s d || (s.die d).gated) then some 2
  else if op < 2 ∧ g.time < s.ptime + 65536 then some 3
  else if (op < 2 && !imagePlaceOk s g.save n) || (1 ≤ op && !imagePlaceOk s g.rest n) then some 4
  else none

/-- A refusal: REFUSED and REASON are set, and nothing else changes (R324, R345). -/
def gangRefuse (s : State) (p r : Nat) : State := raiseIrq (updGang s p fun g => { g with refused := true, reason := r }) 5

/-- A block becomes idle (R345). -/
def gangIdle (s : State) (p : Nat) : State := raiseIrq (updGang s p fun g => { g with state := 0 }) 5

/-- The time the next stop of a job's partition waits for (R328). -/
def gangFloor (s : State) (job : Nat) : Nat :=
  match mget s.jobs job with
  | some j => j.sliceEnd
  | none => 0

/-! The restore. -/

/-- The first words of an image's header (R327). -/
def imageHeader (i : Image) : Nat :=
  1 + 2 ^ 64 * (i.job * 2 ^ 8 + i.plains) + 2 ^ 128 * (i.time % 2 ^ 64) + 2 ^ 192 * saveBytes (maskPlains i.plains).length

/-- The image at a block's restore address, when it can be restored (R327). -/
def imageToRestore (s : State) (p : Nat) : Option Image :=
  s.images.find? fun i => i.addr == (s.gang p).runRest && i.plains == (s.gang p).runPlains && !i.retired &&
    (mget s.jobs i.job).isSome && memNat s.hbm i.addr 32 == imageHeader i

/-- A restore begins, or is refused with reason 4 (R327); `at_` is the stop that its COST counts from. -/
def beginRestore (s : State) (p at_ : Nat) : State :=
  match imageToRestore s p with
  | none => gangRefuse (gangIdle s p) p 4
  | some i =>
    let (due, s) := later s
    let s := updGang s p fun g => { g with state := 4, due := due, stopTime := at_, job := i.job }
    { s with jobs := s.jobs.map fun j =>
        if j.1 = i.job then (j.1, { j.2 with partition := BitVec.ofNat 8 i.plains, stopped := true }) else j }

/-- A live context after a restore: EVT is set and its fetch buffer is empty (R147, R328). -/
def Ctx.resumed (x : Ctx) : Ctx :=
  if x.status = .live then { x with evt := true, fbuf := [], ffault := none } else x

/-- Deadlines of meetings do not elapse while their partition is stopped (R368). -/
def Meeting.shift (m : Meeting) (d : Nat) : Meeting := { m with timer := m.timer.map (· + d) }

/-- Messages put back into the mesh: spilled ones, and those the ports held for the job (R328, R365). -/
def reinject (s : State) (l : List (Nat × Msg)) : State :=
  l.foldl (fun s m =>
    match m.2.phase with
    | .going _ => let (due, s) := later s; { s with msgs := mset s.msgs m.1 { m.2 with phase := .going due } }
    | .coming r _ => let (due, s) := later s; { s with msgs := mset s.msgs m.1 { m.2 with phase := .coming r due } }
    | .held n =>
      if n < 8 then let (due, s) := later s; { s with msgs := mset s.msgs m.1 { m.2 with phase := .going due } }
      else { s with msgs := mset s.msgs m.1 m.2 }
    | _ => { s with msgs := mset s.msgs m.1 m.2 }) s

/-- A message waits in a port for a stopped job (R365). -/
def portHeld (job : Nat) (m : Msg) : Bool :=
  m.job == job && (match m.phase with
    | .held n => n < 8
    | _ => false)

/-- Write an image back into its units, and then let its messages go on (R328); the TLBs are as the switches have left them
(R315). -/
def restoreImage (s : State) (i : Image) (away sliceEnd : Nat) : State :=
  let put (s : State) (c : Nat × Core) : State :=
    s.setCore c.1 { c.2 with tlb := (s.core c.1).tlb, ctxs := c.2.ctxs.map fun x => (x.1, x.2.resumed) }
  let s := i.cores.foldl put s
  let s := i.squares.foldl (fun s q => { s with squares := mset s.squares q.1 q.2 }) s
  let s := i.frontiers.foldl (fun s f => s.updLaunch f.1 fun l => { l with frontier := some f.2 }) s
  let back (now p : Plain) : Plain := { p with tlb := now.tlb, meetings := p.meetings.map fun m => (m.1, m.2.shift away) }
  let s := i.plainSt.foldl (fun s p => s.updPlain p.1 fun now => back now p.2) s
  let s := { s with
    replies := s.replies ++ i.replies
    jobs := s.jobs.map fun j => if j.1 = i.job then (j.1, { j.2 with stopped := false, sliceEnd := sliceEnd }) else j }
  let waiting := s.msgs.filter fun m => portHeld i.job m.2
  reinject (reinject s i.msgs) waiting

/-- A job leaves the plains of a block. -/
def leavePlains (s : State) (job plains : Nat) : State :=
  let left (j : Job) : Job := { j with partition := j.partition &&& BitVec.ofNat 8 (255 - plains) }
  { s with jobs := s.jobs.map fun j => if j.1 = job then (j.1, left j.2) else j }

/-- GANG_RESTORE_END (R328): of the partition block `cur` names. An image of which a unit has been retired meanwhile, or whose job has been
removed, is refused with reason 4, and the plains belong to no partition again (R327). -/
def execGangRestoreEnd (s : State) : Host.Outcome State Fault Refusal :=
  let p := s.cur.core
  let g := s.gang p
  if g.state ≠ 4 ∨ s.now < g.due then .refused .notEnabled
  else
    match imageToRestore s p with
    | none => .next (gangRefuse (gangIdle (leavePlains s g.job g.runPlains) p) p 4)
    | some i =>
      let e := s.ptime
      let s := restoreImage s i (e - i.time) (e + 1024 * g.slice)
      let (n, s) := s.fresh 11
      let cost := min 65535 (if g.runOp = 2 then n else (e - g.stopTime + 1023) / 1024)
      .next (raiseIrq (updGang s p fun g =>
        { g with state := 5, cost := cost, short := g.short || g.slice < cost }) 5)

/-! Arming (R324). -/

/-- A write of GSCTL with GO for an OP (R324): it is refused, or done by `f`. -/
def gangGo (op : Nat) (f : Nat → Nat → State → State) (s : State) : Host.Outcome State Fault Refusal :=
  let p := s.cur.core
  let w := s.cur.word.toNat
  let plains := w % 256
  event (p < 8 && managed s && 2 ^ 63 ≤ w && w / 2 ^ 16 % 4 == op)
    (match goReason s p op plains with
     | some r => gangRefuse s p r
     | none => f p plains (updGang s p fun g =>
         { g with op := op, plains := plains, runOp := op, runPlains := plains, runSave := g.save, runRest := g.rest }))

/-- Arm a stop at the later of TIME and the end of the slice (R328). -/
def gangArm (p plains : Nat) (s : State) : State :=
  let job := (runningJob s plains).getD 0
  let at_ := max (s.gang p).time (gangFloor s job)
  updGang s p fun g => { g with state := 1, stopTime := at_, job := job, stopped := [] }

/-- GANG_STOP_SAVE (R324): GSCTL GO with OP 0, to the partition block `cur` names. -/
def execGangStopSave (s : State) : Host.Outcome State Fault Refusal := gangGo 0 gangArm s

/-- GANG_STOP_SAVE_RESTORE (R324): GSCTL GO with OP 1. -/
def execGangStopSaveRestore (s : State) : Host.Outcome State Fault Refusal := gangGo 1 gangArm s

/-- GANG_RESTORE (R324): GSCTL GO with OP 2. -/
def execGangRestore (s : State) : Host.Outcome State Fault Refusal :=
  gangGo 2 (fun p _ s => beginRestore (updGang s p fun g => { g with state := 4 }) p s.ptime) s

/-! The stop (R325). -/

/-- A die's clock stands still in a relock (R331). -/
def relocking (s : State) (d : Nat) : Bool :=
  match (s.die d).change with
  | some (.relock _ _ _) => true
  | _ => false

/-- GANG_STOP (R325): the cores of one plain, the one `cur` names by its slot, stop for the block `cur` names by its core, once package
time as the plain reads it has come to the stop. A
block whose job has been removed meanwhile becomes idle. -/
def execGangStop (s : State) : Host.Outcome State Fault Refusal :=
  let p := s.cur.core
  let d := s.cur.slot
  let g := s.gang p
  let gone : Bool := match mget s.jobs g.job with
    | some j => g.state == 1 && j.stopped
    | none => true
  let stop (c : Nat × Core) : Nat × Core := if coreDie c.1 = d then (c.1, { c.2 with stopped := true }) else c
  let dies := g.stopped ++ [d]
  let all : Bool := (maskPlains g.runPlains).all dies.contains
  let (due, s') := later s
  let s' := updGang s' p fun g => { g with state := if all then 3 else 2, stopped := dies, due := due }
  let s' := discardSweep s' g.job
  let s' := { s' with
    cores := s'.cores.map stop
    jobs := s'.jobs.map fun j => if j.1 = g.job then (j.1, { j.2 with stopped := true }) else j }
  event ((g.state == 1 || g.state == 2) && (maskPlains g.runPlains).contains d && !g.stopped.contains d &&
      g.stopTime ≤ plainTime s d && !relocking s d)
    (if gone then gangIdle s p else s')

/-! The save (R325 to R327). -/

/-- A result that is not due yet, or that need not wait to be written. -/
def pushGoes (s : State) (c t : Nat) (p : Pend) : Bool :=
  let free (q : Port) (vec : Bool) : Bool := match p.res with
    | some (.value v) => (match pushPort s c t p.id q vec v with
      | .block => false
      | _ => true)
    | _ => true
  s.clk c < p.due || (match p.dst with
    | .s (.port q) => free q false
    | .v (.port q) => free q true
    | _ => true)

/-- A pending instruction that a stopped core still lets run to its end (R325): a divide, an approximation, or a local load that waits
neither on a full/empty bit nor on a watermark, such as one of R158 that found its granule full. A push into a full port waits, and is
saved. -/
def runsOn (s : State) (c t : Nat) (p : Pend) : Bool :=
  match p.kind with
  | .divide | .approx => pushGoes s c t p
  | .loc a _ =>
    if p.res.isSome then pushGoes s c t p
    else if (s.core c).feTable.any fun e => e.2.2 == p.id then
      (s.core c).feOnce.contains p.id && (feServed s c t p).isSome
    else accDue s c t p a
  | _ => false

/-- A RETAG action in progress (R165). -/
def retagging (x : Ctx) : Bool :=
  match x.blk with
  | some b => (csrOf b.instr).isSome && b.stage == 10
  | none => false

/-- A command of a square has nothing left that runs to its end in a stop (R263, R325): it has ended its clocks and waits for its
writes, or it waits for a watermark or a slot. -/
def runQuiet (s : State) (sq : Nat) (r : ArrRun) : Bool :=
  match r.reads with
  | x :: _ => readsBlocked (s.core r.ent.core) (readsIn [x.unit] r.reads)
  | [] => if r.poised then !mayWrite s r else r.endAt ≤ sqNow s sq && !runEnded s r

/-- Nothing on the plains of a block still runs to its end. -/
def gangQuiet (s : State) (plains : List Nat) : Bool :=
  (s.cores.all fun c => !plains.contains (coreDie c.1) ||
    c.2.ctxs.all fun x => !retagging x.2 && x.2.pend.all fun p => !runsOn s c.1 x.1 p) &&
  (s.squares.all fun q => !plains.contains (q.1 / 256) ||
    (q.2.runs.all (runQuiet s q.1) && (q.2.busyTill ≤ sqNow s q.1 || q.2.runs.any fun r => !r.reads.isEmpty || r.poised)))

/-- A message that leaves the mesh with its job (R326): not one that a port holds, or that waits at its sender in another package to be
sent again (R365). -/
def spills (job : Nat) (m : Msg) : Bool :=
  m.job == job && !portHeld job m && (match m.phase with
    | .refused _ _ => false
    | _ => true)

/-- The frontier home's state of a launch, where its home is on one of some plains (R302). -/
def homedFrontier (job : Nat) (plains : List Nat) (l : Launch) : Option Frontier :=
  match l.frontier with
  | some f => if l.job = job ∧ f.home.any plains.contains then some f else none
  | none => none

/-- The frontier home's state leaves the plains with the rest of the partition (R302). -/
def Frontier.away (f : Frontier) : Frontier :=
  { f with stair := [], pending := [], offered := [], intake := [], saves := [], state := .firing }

/-- The port by which a message to another package leaves (R356), 36 and on for an Ultra Ethernet port: one that carries messages;
which of them is open (log entry 3). -/
def outPort (s : State) (id : Nat) (h : Home) : Nat :=
  let far : Bool := match h with
    | .fabric fpa => fpa / 2 ^ 42 % 2 ^ 9 == 0x1FF
    | _ => false
  let up := if far then (s.ueports.filter fun e => uportUp s e.2).map (36 + ·.1) else (s.ports.filter (·.2.up)).map Prod.fst
  up.getD (Config.freeNat 17 id % up.length) (if far then 36 else 0)

/-- The node of a unit of a die dispatcher or a collective engine, and of the global dispatcher for other numbers (R304; log entry 35). -/
def engineNode (d : Nat) (from_ : Nat × Nat) : Nat × Nat := if d < 8 then plainNode d 0 0 else EdgeUnit.dispatcher.node from_

/-- The node from which a message is sent; one of another package comes by its port (R304; log entry 35). -/
def Msg.source (m : Msg) : Nat × Nat :=
  match m.issuer, m.issuer.core? with
  | _, some c => coreNode c
  | .foreign, _ => (portUnit m.port).node (0, 0)
  | .engine p _, _ | .frsave _ p, _ => engineNode p (0, 0)
  | _, _ => engineNode 10 (0, 0)

/-- The node a message goes to (R304, R305; log entry 35): of the place where it is performed, or of the port by which it leaves. -/
def Msg.target (s : State) (id : Nat) (m : Msg) : Nat × Nat :=
  let from_ := m.source
  let h := match landing s m with
    | .at_ h _ => h
    | _ => m.home
  let out := (portUnit (outPort s id h)).node from_
  match h with
  | .spad c _ | .flagw c _ | .core c => coreNode c
  | .hbm pa => stackNode (pa / 2 ^ 36) from_
  | .host _ => EdgeUnit.host.node from_
  | .fabric _ => out
  | .meeting p _ => if p < 8 then plainNode p 0 0 else out
  | .queue u _ => if u = 11 then out else engineNode u from_
  | .lost => from_

/-- The routers a message passes on its way (R2, R305), back to its issuer once it has a reply. -/
def Msg.routers (s : State) (id : Nat) (m : Msg) : List (Nat × Nat) :=
  match m.phase with
  | .coming _ _ => route (m.target s id) m.source
  | _ => route m.source (m.target s id)

/-- The router that holds the head flit of each of some messages (R326): one on its way, which of them is open. -/
def spillRouters (s : State) (ms : List (Nat × Msg)) : List (Nat × Nat) × State :=
  ms.foldl (fun r m =>
    let path := m.2.routers s m.1
    let (n, s) := r.2.fresh 16
    (if path.isEmpty then r.1 else (r.1 ++ [path.getD (n % path.length) (0, 0)]).dedup, s)) ([], s)

/-- The image of a stopped partition. -/
def imageOf (s : State) (g : GangBlk) : Image :=
  let on (c : Nat) : Bool := (maskPlains g.runPlains).contains (coreDie c)
  { addr := g.runSave, job := g.job, plains := g.runPlains, time := g.stopTime
    cores := (s.cores.filter fun c => on c.1).map fun c => (c.1, { c.2 with stopped := false })
    squares := s.squares.filter fun q => (maskPlains g.runPlains).contains (q.1 / 256)
    plainSt := s.plains.filter fun p => (maskPlains g.runPlains).contains p.1
    frontiers := s.launches.filterMap fun l => (homedFrontier g.job (maskPlains g.runPlains) l.2).map (Prod.mk l.1)
    msgs := s.msgs.filter fun m => spills g.job m.2
    replies := s.replies.filter fun r => on r.core }

/-- Take a job off plains: their units are left as they are after reset, but for the TLBs, from which a gang switch removes no
entry (R315), and the units that failed for good are retired (R327, R337). -/
def clearPlains (s : State) (plains : List Nat) : State :=
  let off (d : Nat) : Bool := !plains.contains d
  let blank (d : Nat) : Plain := { retired := (s.plain d).retired, tlb := (s.plain d).tlb }
  let s := { s with plains := plains.foldl (fun m d => mset m d (blank d)) s.plains }
  let bare (c : Nat × Core) : Option (Nat × Core) :=
    if off (coreDie c.1) then some c else if c.2.tlb.isEmpty then none else some (c.1, { tlb := c.2.tlb })
  let s := { s with
    cores := s.cores.filterMap bare
    squares := s.squares.filter fun q => off (q.1 / 256)
    replies := s.replies.filter fun r => off (coreDie r.core) }
  let due := s.retireDue.filter fun u => u.plain.any plains.contains
  due.foldl retireUnit { s with retireDue := s.retireDue.filter fun u => !due.contains u }

/-- A plain loses every translation (R315). -/
def flushTlb (s : State) (d : Nat) : State := evicted (s.updPlain d fun p => { p with tlb := [] }) d (s.plain d).tlb

/-- Two images share bytes of device memory. -/
def Image.overlaps (a b : Image) : Bool :=
  a.addr < b.addr + saveBytes (maskPlains b.plains).length && b.addr < a.addr + saveBytes (maskPlains a.plains).length

/-- GANG_SAVE_END (R327): of the block `cur` names; with OP 1 the restore begins. -/
def execGangSaveEnd (s : State) : Host.Outcome State Fault Refusal :=
  let p := s.cur.core
  let g := s.gang p
  let plains := maskPlains g.runPlains
  if g.state ≠ 3 ∨ s.now < g.due ∨ !gangQuiet s plains then .refused .notEnabled
  else if (mget s.jobs g.job).isNone then .next (gangIdle s p)
  else
    let (routers, s) := spillRouters (nearAway s plains) (s.msgs.filter fun m => spills g.job m.2)
    let i := { imageOf s g with routers := routers }
    let gone (l : Nat × Launch) : Nat × Launch :=
      (l.1, { l.2 with frontier := if (homedFrontier g.job plains l.2).isSome then l.2.frontier.map (·.away) else l.2.frontier })
    let s := { s with msgs := s.msgs.filter (fun m => !spills g.job m.2), launches := s.launches.map gone }
    let s := hbmWrite { s with images := s.images.filter (fun x => !x.overlaps i) ++ [i] } i.addr (natBytes 32 (imageHeader i))
    let s := clearPlains (leavePlains s g.job g.runPlains) plains
    .next (if g.runOp = 1 then beginRestore s p g.stopTime else gangIdle s p)

end Sys2Proof.Machine
end

