-- ==== Sys2Proof/Machine/Power.lean ====
section
/-! DEFINITION. Performance states and link widths (R329 to R331), gating (R332), job shrinking (R335, R336) and thermal
throttling (R355). -/

namespace Sys2Proof.Machine

/-! Performance states (R331). -/

/-- The state a die is to run at: TARGET, or lower while it is throttled (R355). -/
def Die.goal (x : Die) : Nat := if x.throttling then max x.target x.throttleTo else x.target

/-- DPSTAT.CHANGING. -/
def Die.changing (x : Die) : Bool := x.change.isSome || x.wchange.isSome

/-- The time a supply takes to ramp between two voltages, at 5 mV per microsecond. -/
def rampTime (a b : Nat) : Nat := (max a b - min a b) * Config.microsecond / 5

/-- The time of a relock. -/
def relockTime : Nat := 4 * Config.microsecond

/-- Begin the change a die's goal asks for, if none is in progress: the supply ramps first to raise the clock, and last to
lower it. -/
def beginChange (now : Nat) (x : Die) : Die :=
  if x.change.isSome ∨ x.gated ∨ x.goal = x.current then x
  else if x.goal < x.current then
    { x with change := some (.ramp (now + rampTime x.milliv (Config.supplyMillivolts x.goal)) x.goal) }
  else { x with change := some (.relock (now + relockTime) x.goal true) }

/-- The die's clock is the one its goal asks for: no change is in progress, or only the ramp after the relock. -/
def Die.locked (x : Die) : Bool :=
  match x.change with
  | none => true
  | some (.ramp _ target) => target == x.current && x.goal == x.current
  | some (.relock _ _ _) => false

/-- CHANGING of a die may have returned to 0 (R345). -/
def changedDie (s : State) (d : Nat) (x : Die) : State :=
  let was := (s.die d).changing
  let s := { s with dies := mset s.dies d x }
  if was && !x.changing then raiseIrq s 7 else s

/-- A change of the width is on its way: 1 µs without a crossing flit, the wait for which is open (log entry 5). -/
def beginWidth (s : State) (x : Die) : Die × State :=
  let (n, s) := s.fresh 1
  ({ x with wchange := some (s.now + Config.microsecond + n), wnext := x.linkw, wantWidth := false }, s)

/-- SUPPLY_RAMP_END (R331): of the die `cur` names. -/
def execSupplyRampEnd (s : State) : Host.Outcome State Fault Refusal :=
  let d := s.cur.core
  let x := s.die d
  match x.change with
  | some (.ramp till target) =>
    let y : Die := { x with milliv := Config.supplyMillivolts target }
    let y := if x.current = target then beginChange s.now { y with change := none }
      else { y with change := some (.relock (s.now + relockTime) target false) }
    -- a width that waited for a change which is no longer asked for goes now
    let (y, s') := if y.wantWidth && y.change.isNone then beginWidth s y else (y, s)
    event (till ≤ s.now) (changedDie s' d y)
  | _ => .refused .notEnabled

/-- RELOCK_END (R331): the die runs on at its new clock. -/
def execRelockEnd (s : State) : Host.Outcome State Fault Refusal :=
  let d := s.cur.core
  let x := s.die d
  match x.change with
  | some (.relock till target ramps) =>
    let y : Die := { x with current := target, edge := s.now + Config.clockGrains target }
    let y := if ramps then { y with change := some (.ramp (s.now + rampTime y.milliv (Config.supplyMillivolts target)) target) }
      else beginChange s.now { y with change := none }
    -- a width waits until the clock that the last TARGET asks for is locked
    let (y, s') := if y.wantWidth && y.locked then beginWidth s y else (y, s)
    event (till ≤ s.now) (changedDie s' d y)
  | _ => .refused .notEnabled

/-- LINK_WIDTH_CHANGE (R331): the width that is on its way takes effect. -/
def execLinkWidthChange (s : State) : Host.Outcome State Fault Refusal :=
  let d := s.cur.core
  let x := s.die d
  match x.wchange with
  | some till => event (till ≤ s.now) (changedDie s d { x with width := min x.wnext 2, wchange := none })
  | none => .refused .notEnabled

/-! Gating (R332). -/

/-- A plain holds no work of any launch (R278). -/
def plainIdle (s : State) (d : Nat) : Bool :=
  (s.cores.all fun c => coreDie c.1 != d || (c.2.group.isNone && coreIdle c.2)) &&
  (s.plain d).batches.isEmpty && (s.plain d).coll.isEmpty

/-- A plain is the frontier home of a launch of some job that is not parked (R302). -/
def homeOfAny (s : State) (d : Nat) : Bool :=
  s.launches.any fun l => match l.2.frontier with
    | some f => f.home == some d && f.state != .parked
    | none => false

/-- A GATE of a die is accepted. -/
def gateOk (s : State) (d : Nat) : Bool :=
  featureOn s 9 && d < 12 && d != 10 && !(s.die d).gated && (8 ≤ d || (!inPartition s d && plainIdle s d && !homeOfAny s d))

/-- The ports of the south pass die (R332, R363). -/
def southPort (p : Nat) : Bool := 18 ≤ p

/-- The lanes a port has in use (R363): the largest of four, two and one that WIDTH and the lanes left allow. -/
def portLanes (x : SPort) (fused : Nat) : Nat :=
  let left := ((List.range 4).filter fun l => (x.harvest ||| fused) / 2 ^ l % 2 == 0).length
  let most := min left (match x.ctl % 4 with
    | 0 => 4
    | 1 => 2
    | _ => 1)
  if 4 ≤ most then 4 else if 2 ≤ most then 2 else most

/-- A scale-up port. -/
def State.sport (s : State) (p : Nat) : SPort := mgetD s.ports p {}

/-- An Ultra Ethernet port. -/
def State.uport (s : State) (e : Nat) : UPort := mgetD s.ueports e {}

/-- A scale-up port can carry messages. -/
def portCarries (s : State) (p : Nat) (x : SPort) : Bool :=
  x.found && x.ctl / 4 % 2 == 0 && 0 < portLanes x (mgetD s.fuses.lanes p 0) && x.resumeAt.isNone &&
  !(southPort p && (s.die 11).gated)

/-- A message to another package is on its way. -/
def outbound (s : State) (m : Msg) : Bool :=
  m.arrival.isSome && (match landing s m with
    | .away => true
    | _ => false)

/-- A port goes down: the messages that had left by it are to be sent again (R364). By which port a message has left is open
(log entry 3). -/
def cutMessages (s : State) (p : Nat) : State :=
  { s with msgs := s.msgs.map fun m => (m.1, if outbound s m.2 && outPort s m.1 m.2.home == p then { m.2 with cut := true } else m.2) }

/-- Put a port's registers in place; a change of UP is an event (R345). -/
def setPort (s : State) (p : Nat) (x : SPort) : State :=
  let up := portCarries s p x
  let was := (s.sport p).up
  let s := if was && !up then cutMessages s p else s
  let s := { s with ports := mset s.ports p { x with up := up } }
  if up != was then raiseIrq s 11 else s

/-- The time a port is out of service after a change or a retrain (R363). -/
def serviceTime : Nat := 10 * Config.microsecond

/-- Put an Ultra Ethernet port's registers in place; a change of UP is an event (R345). -/
def setUport (s : State) (e : Nat) (x : UPort) : State :=
  let was := uportUp s (s.uport e)
  let s := if was && !uportUp s x then cutMessages s (36 + e) else s
  let s := { s with ueports := mset s.ueports e x }
  if uportUp s x != was then raiseIrq s 11 else s

/-- Every port takes its state again, after the south pass die has changed. -/
def refreshPorts (s s' : State) : State :=
  let t := s'.ports.foldl (fun t p => setPort t p.1 p.2) s'
  if s.ueports.any fun e => uportUp s e.2 != uportUp s' e.2 then raiseIrq t 11 else t

/-- Power a die down: a plain's units lose their contents, and the south pass die's ports go down. -/
def gateDie (s : State) (d : Nat) : State :=
  let s := if d = 11 then s.ueports.foldl (fun s e => if uportUp s e.2 then cutMessages s (36 + e.1) else s) s else s
  let s' := if d < 8 then flushTlb (clearPlains s [d]) d else s
  let s' := s'.updDie d fun x => { x with gated := true, ungate := none, change := none, wchange := none, wantWidth := false }
  raiseIrq (refreshPorts s s') 7

/-- DIE_UNGATE_COMPLETE (R332). -/
def execDieUngateComplete (s : State) : Host.Outcome State Fault Refusal :=
  let d := s.cur.core
  let x := s.die d
  match x.ungate with
  | some till =>
    let y : Die := { x with gated := false, ungate := none, current := 7, milliv := Config.supplyMillivolts 7
                            linkw := 0, width := 0, edge := s.now + Config.clockGrains 7 }
    event (x.gated && till ≤ s.now) (raiseIrq (refreshPorts s { s with dies := mset s.dies d y }) 7)
  | none => .refused .notEnabled

/-! DPCTL (R330). -/

/-- The fields of a word written to DPCTL. -/
def dpTarget (w : Word) : Nat := w.toNat % 8
@[inherit_doc dpTarget]
def dpLinkw (w : Word) : Nat := w.toNat / 16 % 4
@[inherit_doc dpTarget]
def dpGate (w : Word) : Bool := w.toNat / 256 % 2 == 1
@[inherit_doc dpTarget]
def dpUngate (w : Word) : Bool := w.toNat / 512 % 2 == 1

/-- The width a write asks for; without the feature the field is ignored (R347). -/
def asksWidth (s : State) (d : Nat) (w : Word) : Bool := featureOn s 10 && dpLinkw w != (s.die d).linkw

/-- A write of DPCTL (R330 to R332): TARGET, then LINKW, then GATE and UNGATE. -/
def dpctlWrite (s : State) (d : Nat) (w : Word) : State :=
  let x := beginChange s.now { s.die d with target := dpTarget w }
  let (x, s') := if asksWidth s d w then
      let y : Die := { x with linkw := dpLinkw w }
      if y.locked then beginWidth s y else ({ y with wantWidth := true }, s)
    else (x, s)
  let s' := { s' with dies := mset s'.dies d x }
  let s' := if dpGate w && gateOk s' d then gateDie s' d else s'
  if dpUngate w && featureOn s' 9 && (s'.die d).gated && (s'.die d).ungate.isNone then
    let (n, s') := s'.fresh 1
    s'.updDie d fun x => { x with ungate := some (s'.now + 1 + n % (2000 * Config.microsecond)) }
  else s'

/-- A write of DPCTL to the die `cur` names, as one of the rows it makes. -/
def dpctlEvent (asks : Word → Bool) (s : State) : Host.Outcome State Fault Refusal :=
  event (s.cur.core < 12 && managed s && asks s.cur.word) (dpctlWrite s s.cur.core s.cur.word)

/-- PERFORMANCE_STATE_REQUEST (R331): a write of DPCTL that changes TARGET. -/
def execPerformanceStateRequest (s : State) : Host.Outcome State Fault Refusal :=
  dpctlEvent (fun w => dpTarget w != (s.die s.cur.core).target) s

/-- LINK_WIDTH_REQUEST (R331): a write of DPCTL that changes LINKW. -/
def execLinkWidthRequest (s : State) : Host.Outcome State Fault Refusal := dpctlEvent (asksWidth s s.cur.core) s

/-- DIE_GATE (R332): a write of DPCTL with GATE; one that is not accepted gates nothing. -/
def execDieGate (s : State) : Host.Outcome State Fault Refusal := dpctlEvent dpGate s

/-- DIE_UNGATE (R332): a write of DPCTL with UNGATE. -/
def execDieUngate (s : State) : Host.Outcome State Fault Refusal := dpctlEvent dpUngate s

/-! Job shrinking (R335, R336). -/

/-- The first check of a GO that fails (R335). -/
def shrinkReason (s : State) (job remove : Nat) : Option Nat :=
  let part := match mget s.jobs job with
    | some j => j.partition.toNat
    | none => 0
  if s.shrink.phase ≠ 0 then some 1
  else if remove = 0 ∨ (maskPlains remove).any (fun d => part / 2 ^ d % 2 == 0) ∨ remove = part then some 2
  else if jobStopped s job then some 3
  else none

/-- SHRSTAT.STATE takes a value (R345). -/
def shrinkState (s : State) (n : Nat) : State :=
  let s := { s with shrink := { s.shrink with state := n } }
  if n = 3 ∨ n = 4 then raiseIrq s 6 else s

/-- The fields of SHRCTL are written. -/
def shrctlFields (s : State) (w : Word) : State :=
  let n := w.toNat
  { s with shrink := { s.shrink with job := n / 2 ^ 8 % 64, remove := n % 256, gate := n / 2 ^ 14 % 2 == 1 } }

/-- SHRINK_GO (R335, R336): a write of SHRCTL with GO. -/
def execShrinkGo (s : State) : Host.Outcome State Fault Refusal :=
  let w := s.cur.word
  let s' := shrctlFields s w
  let x := s'.shrink
  let s' := match shrinkReason s' x.job x.remove with
    | some r => shrinkState { s' with shrink := { s'.shrink with reason := r } } 4
    | none =>
      let y : Shrink := { x with phase := 1, runJob := x.job, runRemove := x.remove, runGate := x.gate, reason := 0 }
      shrinkState ((maskPlains x.remove).foldl returnGroups { s' with shrink := y }) 1
  event (2 ^ 63 ≤ w.toNat && managed s && featureOn s 8) s'

/-- A plain holds work that SHRINK_DRAINED waits for: a resident group, a running command, or a pending frontier point of a
launch whose home it is (R336). -/
def plainWorks (s : State) (job d : Nat) : Bool :=
  !plainIdle s d ||
  (s.squares.any fun q => q.1 / 256 == d && !q.2.runs.isEmpty) ||
  (s.requests.any fun r => r.ent.isSome && coreDie r.core == d) ||
  s.launches.any fun l => l.2.job == job && (match l.2.frontier with
    | some f => (f.home == some d && !f.pending.isEmpty) || f.saves.any fun v => coreDie v.ent.core == d
    | none => false)

/-- The sequence goes on only while its job runs (R336). -/
def shrinkGoes (s : State) (phase : Nat) : Bool := s.shrink.phase == phase && !jobStopped s s.shrink.runJob

/-- SHRINK_DRAINED (R336). -/
def execShrinkDrained (s : State) : Host.Outcome State Fault Refusal :=
  let x := s.shrink
  event (shrinkGoes s 1 && (maskPlains x.runRemove).all fun d => !plainWorks s x.runJob d)
    (shrinkState { s with shrink := { x with phase := 2 } } 2)

/-- A frontier launch still keeps its home on a plain that leaves (R302). -/
def keepsHome (s : State) (job : Nat) (plains : List Nat) : Bool :=
  s.launches.any fun l => l.2.job == job && (match l.2.frontier with
    | some f => f.home.any plains.contains && f.state != .parked
    | none => false)

/-- The virtual die table entries of some plains lose PRESENT (R336). -/
def clearVdt (w : Word) (plains : List Nat) : Word :=
  (List.range 8).foldl (fun w v =>
    let e := w.toNat / 2 ^ (8 * v) % 256
    if 128 ≤ e ∧ plains.contains (e % 8) then w &&& ~~~(BitVec.ofNat 64 (2 ^ (8 * v + 7))) else w) w

/-- A die loses a job's translations, and their directory bits (R315, R317). -/
def dropJob (s : State) (d job : Nat) : State :=
  evicted (forget s d job 0 0) d ((unitPlain s d).tlb.filter fun e => e.within job 0 0)

/-- The plains leave the job: its table, its partition, its translations, and the homes of its parked launches. -/
def removePlains (s : State) (job remove : Nat) : State :=
  let plains := maskPlains remove
  let s := updJob s job fun j => { j with vdtlo := clearVdt j.vdtlo plains, vdthi := clearVdt j.vdthi plains }
  let unhome (l : Launch) : Launch :=
    if l.job = job then
      { l with frontier := l.frontier.map fun f => if f.home.any plains.contains then { f with home := none } else f }
    else l
  let s := { s with launches := s.launches.map fun l => (l.1, unhome l.2) }
  clearPlains (leavePlains (plains.foldl (fun s d => dropJob s d job) s) job remove) plains

/-- SHRINK_COMPLETE (R336). -/
def execShrinkComplete (s : State) : Host.Outcome State Fault Refusal :=
  let x := s.shrink
  let plains := maskPlains x.runRemove
  let s' := removePlains s x.runJob x.runRemove
  let s' := if x.runGate then plains.foldl (fun s d => if gateOk s d then gateDie s d else s) s' else s'
  event (shrinkGoes s 2 && !keepsHome s x.runJob plains)
    (shrinkState { s' with shrink := { s'.shrink with phase := 0 } } 3)

/-! Temperature (R355). -/

/-- Grains in a millisecond. -/
def millisecond : Nat := 1000 * Config.microsecond

/-- A die's temperature against the limits (R355): above LIMIT its throttling starts, under LIMIT − 5 it ends, and at CRIT every
clock stops. -/
def thermalNow (s : State) (d : Nat) : State :=
  let x := s.die d
  let m := s.mgmt
  let s := if !x.throttling && 8 * m.limit < x.temp then
      raiseIrq (s.updDie d fun x => { x with throttling := true, throttleTo := 0, throttleAt := s.now + millisecond }) 8
    else if x.throttling && x.temp < 8 * (m.limit - 5) then
      raiseIrq (s.updDie d fun x => beginChange s.now { x with throttling := false, throttleTo := 0 }) 8
    else s
  if 8 * m.crit ≤ x.temp then { s with halt := true, mgmt := { s.mgmt with thermal := true } } else s

/-- TEMP_SENSOR_READING (R355): the hottest sensor of a die, in units of 0.125 °C. -/
def execTempSensorReading (s : State) : Host.Outcome State Fault Refusal :=
  let d := s.cur.core
  event (d < 12) (thermalNow (s.updDie d fun x => { x with temp := s.cur.word.toNat % 2 ^ 12 }) d)

/-- THERMAL_THROTTLE_STEP (R355): once a millisecond the state is lowered, until the die is under LIMIT − 5. -/
def execThermalThrottleStep (s : State) : Host.Outcome State Fault Refusal :=
  let d := s.cur.core
  let x := s.die d
  let cool : Bool := x.temp < 8 * (s.mgmt.limit - 5)
  let y : Die := if cool then { x with throttling := false, throttleTo := 0 }
    else { x with throttleTo := min 7 (max x.current x.target + 1), throttleAt := x.throttleAt + millisecond }
  let s' := { s with dies := mset s.dies d (beginChange s.now y) }
  event (x.throttling && x.throttleAt ≤ s.now) (if cool then raiseIrq s' 8 else s')

end Sys2Proof.Machine
end

