-- ==== Sys2Proof/Machine/Errors.lean ====
section
/-! DEFINITION. Failures of links and routers (R289, R303, R337 to R339), and the reads of the failure counts (R169, R339). -/

namespace Sys2Proof.Machine

/-- MESH_FLIT_ERROR (R337): a flit on a link of a node of the die `cur` names is resent from the previous router; when the resend fails
too (`flag`), the failure is lasting and the link's failing lanes are to be retired. -/
def execMeshFlitError (s : State) : Host.Outcome State Fault Refusal :=
  let d := s.cur.core
  let n := nodeNumber (dieNode d s.cur.id)
  event (d < 12) (if s.cur.flag then noteLasting s 4 d n { kind := 7, unit := d, addr := n, lasting := true } else noteTransient s)

/-- The resident groups of a plain, with their cores. -/
def plainGroups (s : State) (d : Nat) : List (Nat × Group) :=
  s.cores.filterMap fun c => if coreDie c.1 = d then c.2.group.map (Prod.mk c.1) else none

/-- A frontier launch loses its home (R303): unless it is parked, its unfired points are abandoned, its notices are
discarded and their points are pending no more, and its saves end with status 0x09. -/
def Frontier.loseHome (f : Frontier) : Frontier :=
  if f.state = .parked then { f with home := none }
  else
    let fail (v : FrSave) : FrSave := { v with failed := some 9, written := true, length := 0, points := 0, outstanding := [] }
    { f with home := none, state := .abandoned, intake := [], pending := f.pending.filter (!f.intake.contains ·), saves := f.saves.map fail }

/-- A resident group ends because its plain is removed (R289): without its kill sequence, and reported with type 3. -/
def plainEnds (d : Nat) (s : State) (g : Nat × Group) : State :=
  faultEntry (finishGroup s g.1 false) g.2.job 3 0 0 0 g.2.launch d 0

/-- A plain is removed for good (R289, R303, R337). -/
def retirePlain (s : State) (d : Nat) : State :=
  let lose (l : Launch) : Launch :=
    { l with frontier := l.frontier.map fun f => if f.home = some d then f.loseHome else f }
  let s := returnGroups s d
  let s := { s with launches := s.launches.map fun l => (l.1, lose l.2) }
  let s := (plainGroups s d).foldl (plainEnds d) s
  let left (j : Job) : Job := { j with partition := j.partition &&& ~~~(BitVec.ofNat 8 (2 ^ d)) }
  let mark (i : Image) : Image :=
    if i.holdsPlain d || i.routers.any (fun n => nodeDie n == d) then { i with retired := true } else i
  let s := clearPlains { s with
    jobs := s.jobs.map fun j => (j.1, left j.2)
    images := s.images.map mark } [d]
  (flushTlb s d).updPlain d fun p => { p with retired := true }

/-- ROUTER_FAILURE (R337): a router or the die dispatcher of the plain `cur` names fails; there is no retry. -/
def execRouterFailure (s : State) : Host.Outcome State Fault Refusal :=
  let d := s.cur.core
  let m := { s.mgmt with
    errLasting := satAdd s.mgmt.errLasting 1 (2 ^ 32 - 1)
    errlast := wordOf (2 ^ 60 * 5 + 2 ^ 56 * d + nodeNumber (dieNode d s.cur.id)), errUnit := none }
  event (d < 8 && !(s.plain d).retired) (retirePlain (raiseIrq { s with mgmt := m } 9) d)

/-- ERRCNT (R339). -/
def errcntWord (s : State) : Nat := s.mgmt.errLasting * 2 ^ 32 + s.mgmt.errTransient

/-- ERRLAST (R339): PENDING while the failing unit awaits its gang switch. -/
def errlastWord (s : State) : Nat := s.mgmt.errlast.toNat + 2 ^ 52 * b2n (s.mgmt.errUnit.any s.retireDue.contains)

/-- ERRCNT_READ (R339): the counts are returned and cleared; before the features are fixed, and after a failed boot, it
reads zero (R343, R351). -/
def execErrcntRead (s : State) : Host.Outcome State Fault Refusal :=
  .next (if managed s then
      { s with regReply := wordOf (errcntWord s), mgmt := { s.mgmt with errLasting := 0, errTransient := 0 } }
    else { s with regReply := 0 })

/-- ECCSTAT_READ (R169): of the core `cur` names. -/
def execEccstatRead (s : State) : Host.Outcome State Fault Refusal :=
  let (v, s') := csrRead s s.cur.core 0 0x026
  event (s.cur.core < 16384) { s' with regReply := v }

end Sys2Proof.Machine
end

