-- ==== Sys2Proof/Machine/Window.lean ====
section
/-! DEFINITION. The management window and the package control block as registers (R323, R330, R333, R335, R339, R343 to R347,
R351, R353, R357, R363): what a read returns, and a write without behaviour of its own (R107). -/

namespace Sys2Proof.Machine

/-! The registers that serve a feature (R347), and those that respond (R343, R351). -/

/-- The attestation registers. -/
def isAtt (off : Nat) : Bool := off == 0x100 || (0x120 ≤ off && off < 0x140) || (0x200 ≤ off && off < 0x400)

/-- The feature a register serves. -/
def regFeature (off : Nat) : Option Nat :=
  if off = 0x0D0 then some 0
  else if off = 0x048 ∨ off = 0x050 then some 5
  else if off = 0x0C0 ∨ off = 0x0C8 then some 6
  else if isAtt off then some 7
  else if off = 0x3100 ∨ off = 0x3108 then some 8
  else if 0x3400 ≤ off ∧ off < 0x38D0 then some 2
  else none

/-- A register that responds before the features are fixed. -/
def earlyReg (off : Nat) : Bool :=
  off < 0x030 || off == 0x040 || (0x060 ≤ off && off < 0x0C0) || (0x0E0 ≤ off && off < 0x100) || isAtt off ||
  (0x800 ≤ off && off < 0x908)

/-- A register responds: another reads zero and ignores writes. -/
def responds (s : State) (off : Nat) : Bool :=
  if s.mgmt.error ≠ 0 then off == 0
  else if !s.mgmt.featDone then earlyReg off
  else if off = 0x0D8 then s.mgmt.linkMode == 2
  else match regFeature off with
    | some f => featureOn s f
    | none => true

/-! Words. -/

/-- BOOTSTAT (R351): SVN is 0 at reset, and the fused version once the ROM has run (log entry 13). -/
def bootWord (m : Mgmt) : Nat :=
  2 ^ 15 * b2n m.lqerr + 2 ^ 14 * b2n m.thermal + 2 ^ 8 * (if m.stage = 0 then 0 else Config.fusedSvn % 64) + 16 * m.error + m.stage

/-- LINKSTAT (R344). -/
def linkWord (m : Mgmt) : Nat :=
  2 ^ 32 * m.retrains + 2 ^ 8 * m.linkLanes + 2 ^ 5 * m.linkSpeed + 16 * b2n m.linkFlit256 + 4 * m.linkOrder + m.linkMode

/-- Bytes that messages held for stopped jobs take in the ingress store of a pass die (R365): 80 for a flit (log entry 26). -/
def ingressBytes (s : State) (n : Nat) : Nat := 80 * (s.msgs.filter fun m => m.2.phase == .held n).length

/-- The ingress store of a pass die refuses a further message. -/
def ingressFull (s : State) (n : Nat) : Bool := 2 ^ 26 < ingressBytes s n + 80

/-- INGRESS (R363). -/
def ingressWord (s : State) : Nat :=
  2 ^ 32 * b2n (ingressFull s 0 || ingressFull s 1) + (ingressBytes s 0 + ingressBytes s 1 + 1023) / 1024

/-- PORTSTAT (R363). -/
def portWord (s : State) (p : Nat) : Nat :=
  let x := s.sport p
  let fused := mgetD s.fuses.lanes p 0
  let up := portCarries s p x
  2 ^ 63 * b2n up + 2 ^ 60 * (if up then portLanes x fused else 0) + 2 ^ 56 * (x.harvest ||| fused) + 2 ^ 32 * x.resends

/-- UESTAT (R363). -/
def uestatWord (s : State) (e : Nat) : Nat :=
  let x := s.uport e
  let up := uportUp s x
  2 ^ 63 * b2n up + 2 ^ 60 * (if up then x.speed else 0) + 2 ^ 32 * x.resends

/-- A register of a partition block (R323). -/
def gangWord (g : GangBlk) (r : Nat) : Nat :=
  match r with
  | 0x00 => 2 ^ 16 * g.op + g.plains
  | 0x08 => g.time
  | 0x10 => g.save
  | 0x18 => g.rest
  | 0x20 => g.slice
  | 0x28 => 2 ^ 32 * g.cost + 2 ^ 8 * g.reason + 32 * b2n g.short + 16 * b2n g.refused + g.state
  | _ => 0

/-- DPCTL and DPSTAT of a die (R330). -/
def dieWord (x : Die) (r : Nat) : Nat :=
  match r with
  | 0x00 => 16 * x.linkw + x.target
  | 0x08 => 128 * b2n x.gated + 64 * b2n x.changing + 16 * x.width + x.current
  | _ => 0

/-- SHRCTL and SHRSTAT (R335). -/
def shrctlWord (x : Shrink) : Nat := 2 ^ 14 * b2n x.gate + 2 ^ 8 * x.job + x.remove
@[inherit_doc shrctlWord]
def shrstatWord (x : Shrink) : Nat := 2 ^ 8 * x.reason + x.state

/-- A register of the fabric (R357). -/
def fabricWord (s : State) (off : Nat) : Nat :=
  if off = 0x3400 then 2 ^ 16 * b2n s.mgmt.inDomain + ownPackage s
  else if off < 0x3600 then mgetD s.mgmt.fjob ((off - 0x3400) / 8) 0
  else if off < 0x3840 then (if off % 16 = 0 then (s.sport ((off - 0x3600) / 16)).ctl else portWord s ((off - 0x3600) / 16))
  else if off < 0x38C0 then
    (if off % 16 = 0 then b2n (s.uport ((off - 0x3840) / 16)).down else uestatWord s ((off - 0x3840) / 16))
  else if off = 0x38C0 then s.mgmt.ueept.toNat
  else ingressWord s

/-- A register of the management window proper. -/
def windowWord (s : State) (off : Nat) : Nat :=
  let m := s.mgmt
  if 0x060 ≤ off ∧ off < 0x0C0 then (s.die ((off - 0x060) / 8)).temp
  else if 0x120 ≤ off ∧ off < 0x140 then m.attNonce / 2 ^ (8 * (off - 0x120))
  else if 0x200 ≤ off ∧ off < 0x400 then m.attBuf / 2 ^ (8 * (off - 0x200))
  else if 0x800 ≤ off ∧ off < 0x900 then
    mgetD m.msix ((off - 0x800) / 8) (if off % 16 = 8 then 2 ^ 32 else 0)
  else match off with
    | 0x000 => bootWord m
    | 0x008 => s.fuses.offer % 2 ^ 64
    | 0x010 => s.fuses.offer / 2 ^ 64
    | 0x018 => m.featreq % 2 ^ 64
    | 0x020 => m.featreq / 2 ^ 64
    | 0x028 => 4 * b2n m.featRefused + 2 * b2n m.featDone
    | 0x038 => 2 ^ 60 * m.jobResult
    | 0x040 => linkWord m
    | 0x048 => m.sptime.toNat
    | 0x050 => m.spperiod
    | 0x058 => 2 ^ 8 * m.crit + m.limit
    | 0x0C8 => m.dbgdata.toNat
    | 0x0D0 => 2 ^ 40 * m.hdmBase + b2n m.hdmEnable
    | 0x0D8 => 2 ^ 32 * m.apBase
    | 0x0E0 => m.featon % 2 ^ 64
    | 0x0E8 => m.featon / 2 ^ 64
    | 0x0F0 => m.intstat.toNat
    | 0x0F8 => m.intmask.toNat
    | 0x100 => 2 ^ 62 * b2n m.attBusy.isSome + 4 * m.attBytes
    | 0x900 => m.msixPending.toNat
    | _ => 0

/-- What a read of a register returns. -/
def regWord (s : State) (off : Nat) : Word :=
  if !responds s off then 0
  else if off < 0x1000 then wordOf (windowWord s off)
  else if off < 0x1200 then wordOf (gangWord (s.gang ((off - 0x1000) / 0x40)) (off % 0x40))
  else if 0x2000 ≤ off ∧ off < 0x2300 then wordOf (dieWord (s.die ((off - 0x2000) / 0x40)) (off % 0x40))
  else if off = 0x3000 then wordOf (2 ^ 32 * s.mgmt.limSpread + s.mgmt.limRamp)
  else if off = 0x3100 then wordOf (shrctlWord s.shrink)
  else if off = 0x3108 then wordOf (shrstatWord s.shrink)
  else if off = 0x3200 then wordOf (errcntWord s)
  else if off = 0x3208 then wordOf (errlastWord s)
  else if 0x3400 ≤ off ∧ off < 0x38D0 then wordOf (fabricWord s off)
  else 0

/-! Writes. -/

/-- A bit field of a written word. -/
def bitsOf (w : Word) (hi lo : Nat) : Nat := w.toNat / 2 ^ lo % 2 ^ (hi + 1 - lo)

/-- Replace 8 bytes of a long register. -/
def setWord (n i w : Nat) : Nat := n / 2 ^ (64 * i + 64) * 2 ^ (64 * i + 64) + w * 2 ^ (64 * i) + n % 2 ^ (64 * i)

/-- Write an MSI-X table word: a pending message goes out when its entry is unmasked. -/
def msixWrite (m : Mgmt) (i w : Nat) : Mgmt :=
  let m := { m with msix := mset m.msix i w }
  let e := i / 2
  if m.msixEnable && m.msixPending.getLsbD e && !msixMasked m e then
    { m with msixPending := m.msixPending &&& ~~~(BitVec.ofNat 16 (2 ^ e)), sentIrqs := m.sentIrqs ++ [e] }
  else m

/-- A write of the management window proper; bits 11 to 127 of the feature request are reserved (R346), and a status bit that is
cleared takes its pending message with it, as PCI Express has it (log entry 25). -/
def windowWrite (m : Mgmt) (off : Nat) (w : Word) : Mgmt :=
  if 0x120 ≤ off ∧ off < 0x140 then { m with attNonce := setWord m.attNonce ((off - 0x120) / 8) w.toNat }
  else if 0x800 ≤ off ∧ off < 0x900 then msixWrite m ((off - 0x800) / 8) w.toNat
  else match off with
    | 0x000 => { m with lqerr := m.lqerr && !w.getLsbD 15 }
    | 0x018 => { m with featreq := w.toNat % 2 ^ 11 }
    | 0x050 => { m with spperiod := bitsOf w 31 0 }
    | 0x058 => { m with limit := bitsOf w 7 0, crit := bitsOf w 15 8 }
    | 0x0C8 => { m with dbgdata := w }
    | 0x0D0 => { m with hdmBase := if m.hdmEnable then m.hdmBase else bitsOf w 51 40, hdmEnable := w.getLsbD 0 }
    | 0x0D8 => { m with apBase := bitsOf w 39 32 }
    | 0x0F0 => { m with intstat := m.intstat &&& ~~~(w.setWidth 13), msixPending := m.msixPending &&& ~~~((w.setWidth 13).setWidth 16) }
    | _ => m

/-- A write of a partition block (R323): GSCTL without GO, or with an OP that is refused. -/
def gangWrite (s : State) (p r : Nat) (w : Word) : State :=
  match r with
  | 0x00 =>
    if w.getLsbD 63 then
      (match goReason s p (bitsOf w 17 16) (bitsOf w 7 0) with
       | some n => gangRefuse s p n
       | none => s)
    else updGang s p fun g => { g with op := bitsOf w 17 16, plains := bitsOf w 7 0 }
  | 0x08 => updGang s p fun g => { g with time := w.toNat }
  | 0x10 => updGang s p fun g => { g with save := bitsOf w 39 0 }
  | 0x18 => updGang s p fun g => { g with rest := bitsOf w 39 0 }
  | 0x20 => updGang s p fun g => { g with slice := bitsOf w 31 0 }
  | 0x28 => updGang s p fun g => { g with short := g.short && !w.getLsbD 5, refused := g.refused && !w.getLsbD 4 }
  | _ => s

/-- A write of a fabric register (R357, R363); a change of UECTL.DOWN takes the port out of service for 10 µs. -/
def fabricWrite (s : State) (off : Nat) (w : Word) : State :=
  if off = 0x3400 then s
  else if off < 0x3600 then
    { s with mgmt := { s.mgmt with fjob := mset s.mgmt.fjob ((off - 0x3400) / 8) (2 ^ 63 * bitsOf w 63 63 + bitsOf w 15 0) } }
  else if off < 0x3840 then s
  else if off < 0x38C0 then
    if off % 16 = 0 then
      let e := (off - 0x3840) / 16
      let x := s.uport e
      if w.getLsbD 0 == x.down then s
      else setUport s e { x with down := w.getLsbD 0, resumeAt := some (s.now + serviceTime) }
    else s
  else if off = 0x38C0 then { s with mgmt := { s.mgmt with ueept := w &&& 0xFFFFFFFFC1#64 } }
  else s

/-- A write that is the event of another row of the table. A GO of ATTCTL before stage 5, where the device has no attestation key yet, is
none, and does nothing: no rule says what it does (R353, log entry 31). -/
def rowWrite (s : State) (off : Nat) (w : Word) : Bool :=
  let go := w.getLsbD 63
  match off with
  | 0x028 => w.getLsbD 0
  | 0x030 | 0x048 | 0x0F8 => true
  | 0x038 | 0x0C0 | 0x3100 => go
  | 0x100 => go && (bitsOf w 1 0 == 1 || bitsOf w 1 0 == 2) && s.mgmt.attBusy.isNone && s.mgmt.stage == 5
  | _ =>
    if 0x1000 ≤ off ∧ off < 0x1200 then off % 0x40 == 0 && go && bitsOf w 17 16 != 3
    else if 0x2000 ≤ off ∧ off < 0x2300 then
      off % 0x40 == 0 && (let d := (off - 0x2000) / 0x40
        dpTarget w != (s.die d).target || asksWidth s d w || dpGate w || dpUngate w)
    else if 0x3600 ≤ off ∧ off < 0x3840 then off % 16 == 0 && w.toNat % 8 != (s.sport ((off - 0x3600) / 16)).ctl
    else false

/-- What a write without behaviour of its own does (R107). -/
def regWrite (s : State) (off : Nat) (w : Word) : State :=
  if !responds s off then s
  else if off < 0x1000 then
    let t := { s with mgmt := windowWrite s.mgmt off w }
    if off = 0x058 then (List.range 12).foldl thermalNow t else t
  else if off < 0x1200 then gangWrite s ((off - 0x1000) / 0x40) (off % 0x40) w
  else if 0x2000 ≤ off ∧ off < 0x2300 then (if off % 0x40 = 0 then dpctlWrite s ((off - 0x2000) / 0x40) w else s)
  else if off = 0x3000 then { s with mgmt := { s.mgmt with limSpread := bitsOf w 43 32, limRamp := bitsOf w 15 0 } }
  else if off = 0x3100 then shrctlFields s w
  else if 0x3400 ≤ off ∧ off < 0x38D0 then fabricWrite s off w
  else s

/-- The place that stands for the MSI-X Message Control register in the configuration space of the function, beyond BAR0 (log
entry 25). -/
def msixControlAt : Nat := 2 ^ 16

/-- A write of the MSI-X Message Control register: MSI-X Enable in bit 15 and Function Mask in bit 14, as PCI Express has them; a
pending message goes out when its vector is unmasked (log entry 25). -/
def msixControl (m : Mgmt) (w : Word) : Mgmt :=
  let m := { m with msixEnable := w.getLsbD 15, msixMaskAll := w.getLsbD 14 }
  (List.range 13).foldl (fun m e =>
    if m.msixEnable && m.msixPending.getLsbD e && !msixMasked m e then
      { m with msixPending := m.msixPending &&& ~~~(BitVec.ofNat 16 (2 ^ e)), sentIrqs := m.sentIrqs ++ [e] }
    else m) m

/-- REGISTER_WRITE (R107): of the register at the offset `cur` names as its id. -/
def execRegisterWrite (s : State) : Host.Outcome State Fault Refusal :=
  let off := s.cur.id
  let w := s.cur.word
  if off = msixControlAt then .next { s with mgmt := msixControl s.mgmt w }
  else event (off % 8 == 0 && off < 0x4000 && !(responds s off && rowWrite s off w)) (regWrite s off w)

end Sys2Proof.Machine
end

