-- ==== Sys2Proof/Machine/Attach.lean ====
section
/-! DEFINITION. What the host does to the package: reset and boot (R11, R351), the link and its memory accesses (R340 to R342,
R344), features (R347), jobs (R306, R307, R348), interrupts (R345), attestation (R353), pulses and the debug port (R354). -/

namespace Sys2Proof.Machine

/-! Reset and boot. -/

/-- MODULE_RESET (R11): everything takes its reset value; what lies outside the device, the fuses, units retired for good and
the counters of open values stay (log entry 15). -/
def execModuleReset (s : State) : Host.Outcome State Fault Refusal :=
  let dead (p : Nat × Plain) : Option (Nat × Plain) := if p.2.retired then some (p.1, { retired := true }) else none
  .next { State.reset with
    free := s.free, nextId := s.nextId, inputs := s.inputs, host := s.host, upsets := s.upsets
    retiredSquares := s.retiredSquares, spares := s.spares, plains := s.plains.filterMap dead, fuses := s.fuses }

/-- The ERROR codes a stage can fail with (R351). -/
def stageErrors : Nat → List Nat
  | 0 => [1]
  | 1 | 2 => [2, 3]
  | 3 => [4]
  | 4 => [5]
  | _ => []

/-- The ports begin to train when the package is ready. -/
def portsTrain (s : State) : State :=
  { s with ports := (List.range 36).map fun p => (p, { s.sport p with retryAt := some s.now }) }

/-- The digest that an image's signature covers, and that is kept as its measurement (R352). -/
def imageDigest (f : Firmware) : Nat := sha256 (Config.signedBytes f.body f.svn)

/-- The ERROR code of an image's verification (R352): 0 when it is accepted. -/
def imageError (f : Firmware) : Nat :=
  let hash := sha256 f.key
  let known : Bool := [0, 1].any fun i => Config.keyHash i == hash && !Config.keyRevoked i
  let key := (bigEndian (f.key.take 32), bigEndian (f.key.drop 32))
  if !known || f.key.length != 64 || !ecdsaVerify key (imageDigest f) f.r f.s then 2
  else if f.svn < Config.fusedSvn then 3
  else 0

/-- What a stage keeps of its image: the measurements M1 and M2, and M3 of the fuse block (R352). -/
def measured (m : Mgmt) (f : Firmware) : Mgmt :=
  { m with measures := mset (mset m.measures m.stage (imageDigest f)) 3 (sha256 Config.fuseBlock) }

/-- The outcome of a stage (R351, R352): the verification of the image `cur` brings for stages 1 and 2, and for the others what
their hardware finds, 0 or the ERROR code `cur` brings. -/
def stageOutcome (s : State) : Option Nat :=
  let m := s.mgmt
  if m.stage = 1 ∨ m.stage = 2 then s.cur.fw.map imageError
  else if s.cur.flag then (if (stageErrors m.stage).contains s.cur.word.toNat then some s.cur.word.toNat else none)
  else if m.stage = 4 ∧ m.linkMode = 0 then none
  else some 0

/-- The next stage is reached: at stage 5 the attestation key is derived and the ports train (R351, R353). -/
def nextStage (s : State) : State :=
  let m := match s.cur.fw with
    | some f => if s.mgmt.stage = 1 ∨ s.mgmt.stage = 2 then measured s.mgmt f else s.mgmt
    | none => s.mgmt
  let t := { s with mgmt := { m with stage := m.stage + 1 } }
  if m.stage = 4 then
    raiseIrq (portsTrain { t with mgmt := { t.mgmt with attKey := Config.attestationKey (mgetD m.measures 1 0) } }) 0
  else t

/-- BOOT_STAGE_COMPLETE (R351): the stage ends well, or the boot stops there with an ERROR code. -/
def execBootStageComplete (s : State) : Host.Outcome State Fault Refusal :=
  match stageOutcome s with
  | some 0 => event (s.mgmt.stage < 5 && s.mgmt.error == 0) (nextStage s)
  | some code => event (s.mgmt.stage < 5 && s.mgmt.error == 0) (raiseIrq { s with mgmt := { s.mgmt with error := code } } 0)
  | none => .refused .notEnabled

/-! The host link. -/

/-- An outcome of a training (R341): its row, speed and lanes. -/
def linkOutcome (order speed lanes : Nat) : Bool :=
  match order with
  | 1 => speed == 4 && [16, 8, 4].contains lanes
  | 2 => speed == 3 && [16, 8, 4].contains lanes
  | 3 => 1 ≤ speed && speed ≤ 3 && [16, 8, 4, 2, 1].contains lanes
  | _ => false

/-- HOST_LINK_TRAIN (R341): both ends and the channel allow the row, speed and lanes that `cur` brings in the places of
LINKSTAT. -/
def execHostLinkTrain (s : State) : Host.Outcome State Fault Refusal :=
  let w := s.cur.word
  let order := bitsOf w 3 2
  let m := { s.mgmt with
    linkMode := if order = 3 then 2 else 1, linkOrder := order, linkFlit256 := order == 1
    linkSpeed := bitsOf w 7 5, linkLanes := bitsOf w 12 8 }
  event (4 ≤ s.mgmt.stage && s.mgmt.error == 0 && s.mgmt.linkMode == 0 && linkOutcome order (bitsOf w 7 5) (bitsOf w 12 8))
    { s with mgmt := m }

/-- HOST_LINK_ERROR (R341, R344): the link goes down to retrain. -/
def execHostLinkError (s : State) : Host.Outcome State Fault Refusal :=
  let m := { s.mgmt with
    linkMode := 0, linkOrder := 0, linkFlit256 := false, linkSpeed := 0, linkLanes := 0
    retrains := satAdd s.mgmt.retrains 1 65535 }
  event (s.mgmt.linkMode != 0) { s with mgmt := m }

/-- LINKSTAT_READ (R344): RETRAINS is returned and cleared; after a failed boot it reads zero (R351). -/
def execLinkstatRead (s : State) : Host.Outcome State Fault Refusal :=
  .next (if responds s 0x040 then { s with regReply := regWord s 0x040, mgmt := { s.mgmt with retrains := 0 } }
    else { s with regReply := 0 })

/-! Memory accesses of the host (R340, R342, R344). -/

/-- Every byte of a range of device memory is mapped. -/
def bytesMapped (s : State) (pa n : Nat) : Bool := n == 0 || paRangeMapped s pa n

/-- The host's write of bytes at a device address: completed, or answered with an error. -/
def hostWriteAt (s : State) (pa : Option Nat) (bs : List Byte) : State :=
  match pa with
  | some a =>
    if bytesMapped s a bs.length then hbmWrite { s with hostReply := some [], hostError := false } a bs
    else { s with hostReply := none, hostError := true }
  | none => { s with hostReply := none, hostError := true }

/-- The host's read of n bytes at a device address: an error carries no data. -/
def hostReadAt (s : State) (pa : Option Nat) (n : Nat) : State :=
  match pa with
  | some a =>
    if bytesMapped s a n then
      let (ok, s) := hbmCheck s a n
      if ok then { s with hostReply := some (memRead s.hbm a n), hostError := false }
      else { s with hostReply := none, hostError := true }
    else { s with hostReply := none, hostError := true }
  | none => { s with hostReply := none, hostError := true }

/-- The device address of a host physical address in the CXL.mem range; none where nothing decodes it, or after a failed boot (R351). -/
def hdmAddress (s : State) (a : Nat) : Option Nat :=
  let base := s.mgmt.hdmBase * 2 ^ 40
  if s.mgmt.error = 0 ∧ featureOn s 0 ∧ s.mgmt.hdmEnable ∧ base ≤ a ∧ a < base + 768 * 2 ^ 30 then some (a - base) else none

/-- HOST_MEM_WRITE (R342): of the bytes `cur` brings, at the host physical address its word names. -/
def execHostMemWrite (s : State) : Host.Outcome State Fault Refusal :=
  match s.cur.bytes with
  | some bs => event (s.mgmt.linkMode == 1) (hostWriteAt s (hdmAddress s s.cur.word.toNat) bs)
  | none => .refused .notEnabled

/-- HOST_MEM_READ (R342): of as many bytes as `cur` names by its id. -/
def execHostMemRead (s : State) : Host.Outcome State Fault Refusal :=
  event (s.mgmt.linkMode == 1) (hostReadAt s (hdmAddress s s.cur.word.toNat) s.cur.id)

/-- HOST_APERTURE_ACCESS (R344): a write of the bytes `cur` brings, or a read, at an offset of BAR2; after a failed boot it reaches
nothing (R351). -/
def execHostApertureAccess (s : State) : Host.Outcome State Fault Refusal :=
  let o := s.cur.word.toNat
  let pa := if s.mgmt.error = 0 then some (s.mgmt.apBase * 2 ^ 32 + o) else none
  event (s.mgmt.linkMode == 2 && o < 2 ^ 32)
    (match s.cur.bytes with
     | some bs => hostWriteAt s pa bs
     | none => hostReadAt s pa s.cur.id)

/-! Features (R347). -/

/-- FEATURE_ACCEPT (R347): a write of FEATCTL with ACCEPT, while the register responds (R343, R351). -/
def execFeatureAccept (s : State) : Host.Outcome State Fault Refusal :=
  let m := s.mgmt
  let ok : Bool := m.featreq &&& s.fuses.offer == m.featreq
  let s' := if m.featDone then s
    else if ok then raiseIrq { s with mgmt := { m with featon := m.featreq, featDone := true } } 1
    else
      let t := { s with mgmt := { m with featRefused := true } }
      if m.featRefused then t else raiseIrq t 1
  event (s.cur.word.getLsbD 0 && responds s 0x028) s'

/-! Jobs (R306, R307, R348). -/

/-- The entries of a virtual die table, from its two words. -/
def vdtBytes (lo hi : Nat) : List Nat := (List.range 16).map fun v => (if v < 8 then lo / 2 ^ (8 * v) else hi / 2 ^ (8 * (v - 8))) % 256

/-- The plains the present entries name. -/
def vdtPlains (es : List Nat) : List Nat := (es.filter (128 ≤ ·)).map (· % 8)

/-- A harvested plain (R309). -/
def plainHarvested (s : State) (p : Nat) : Bool := (List.range 256).all fun q => s.fuses.squares.contains (p * 256 + q)

/-- The rules of R306 and R307 for a record's words. -/
def recordOk (s : State) (w : List Nat) : Bool :=
  let g := fun i => w.getD i 0
  let part := g 0 / 2 ^ 8 % 2 ^ 8
  let es := vdtBytes (g 1) (g 2)
  let ps := vdtPlains es
  g 0 / 2 ^ 16 == 0 && g 0 / 2 ^ 6 % 4 == 0 && 1 ≤ g 0 % 64 &&
  g 3 / 2 ^ 40 == 0 && g 3 % 2 ^ 18 == 0 && g 6 / 2 ^ 52 == 0 && g 6 % 64 ≤ 20 && g 7 / 2 ^ 52 == 0 &&
  es.all (fun e => e / 8 % 16 == 0) && ps.dedup.length == ps.length &&
  ps.all (fun p => part / 2 ^ p % 2 == 1) && (maskPlains part).all ps.contains &&
  (maskPlains part).all fun p => !plainHarvested s p && !(s.plain p).retired && !(s.die p).gated

/-- The job a record makes. -/
def jobOf (w : List Nat) : Job :=
  let g := fun i => w.getD i 0
  { partition := BitVec.ofNat 8 (g 0 / 2 ^ 8), vdtlo := wordOf (g 1), vdthi := wordOf (g 2), root := g 3 % 2 ^ 40
    vec1 := wordOf (g 4), vec2 := wordOf (g 5), faultq := g 6 / 64 * 64, logn := g 6 % 64, launchq := g 7 }

/-- JOBCTL.RESULT takes a value (R345). -/
def jobResult (s : State) (r : Nat) : State := raiseIrq { s with mgmt := { s.mgmt with jobResult := r } } 2

/-- Install a job from its record: the plains' stream router tables are emptied (R374). -/
def installJob (s : State) (w : List Nat) : State :=
  let n := w.getD 0 0 % 64
  let j := jobOf w
  let plains := maskPlains j.partition.toNat
  let s := plains.foldl (fun s p => s.updPlain p fun x => { x with streams := [] }) s
  { s with jobs := mset s.jobs n j }

/-- A write of JOBCTL with GO and an OP. -/
def jobctl (s : State) (op : Nat) : Bool := managed s && s.cur.word.getLsbD 63 && bitsOf s.cur.word 62 62 == op

/-- JOB_INSTALL (R348): of the record JOBCTL names. -/
def execJobInstall (s : State) : Host.Outcome State Fault Refusal :=
  let pa := bitsOf s.cur.word 39 6 * 64
  let (ok, s') := hbmCheck s pa 64
  let w := (List.range 8).map fun i => memNat s.hbm (pa + 8 * i) 8
  let free : Bool := (mget s.jobs (w.getD 0 0 % 64)).isNone &&
    (maskPlains (w.getD 0 0 / 2 ^ 8 % 2 ^ 8)).all fun p => !inPartition s p
  event (jobctl s 0)
    (if paMapped s pa && ok && recordOk s w && free then jobResult (installJob s' w) 1 else jobResult s' 2)

/-- Nothing of a job is left in the units outside its plains. -/
def purgeJob (s : State) (job : Nat) : State :=
  let mine (n : Nat) : Bool := match s.launch? n with
    | some l => l.job == job
    | none => false
  let north : Plain := { s.north with
    queues := s.north.queues.filter fun q => q.2.job != job
    walks := s.north.walks.filter fun w => w.job != job
    fails := s.north.fails.filter fun w => w.job != job
    tlb := s.north.tlb.filter fun e => e.job != job }
  let clean (p : Plain) : Plain := { p with tlb := p.tlb.filter fun e => e.job != job }
  let x := s.shrink
  let s := { s with
    msgs := s.msgs.filter fun m => m.2.job != job
    rounds := s.rounds.filter fun r => !mine r.launch
    launches := s.launches.filter fun l => l.2.job != job
    lateSaves := s.lateSaves.filter fun v => v.2.ent.job != job
    lastDealt := s.lastDealt.filter fun l => l.1 / 4 != job
    requests := s.requests.filter fun r => r.job != job
    invals := s.invals.filter fun v => v.job != job
    images := s.images.filter fun i => i.job != job
    regs := s.regs.filter fun r => r.job != job
    jobs := mdel s.jobs job
    plains := s.plains.map fun p => (p.1, clean p.2)
    cores := s.cores.map fun c => (c.1, { c.2 with tlb := c.2.tlb.filter fun e => e.job != job })
    north := north
    mgmt := { s.mgmt with fjob := mdel s.mgmt.fjob job } }
  if x.phase ≠ 0 ∧ x.runJob = job then shrinkState { s with shrink := { s.shrink with phase := 0 } } 3 else s

/-- Remove a job (R348): the removal step of a gang switch without a save; its groups end without a report. -/
def removeJob (s : State) (job : Nat) : State :=
  match mget s.jobs job with
  | none => s
  | some j =>
    let plains := maskPlains j.partition.toNat
    let near (n : Nat × List NearReq) : Nat × List NearReq := (n.1, n.2.filter fun q => !plains.contains (coreDie q.core))
    clearPlains (purgeJob { s with near := s.near.map near } job) plains

/-- JOB_REMOVE (R348): of the job JOBCTL names. -/
def execJobRemove (s : State) : Host.Outcome State Fault Refusal :=
  let job := bitsOf s.cur.word 45 40
  event (jobctl s 1) (if (mget s.jobs job).isSome then jobResult (removeJob s job) 1 else jobResult s 2)

/-! Interrupts (R345). -/

/-- INTMASK_WRITE (R345): a bit written to 1 while its status bit is 1 sends its message. -/
def execIntmaskWrite (s : State) : Host.Outcome State Fault Refusal :=
  let mask := s.cur.word.setWidth 13
  let m := { s.mgmt with intmask := mask }
  let send (m : Mgmt) (e : Nat) : Mgmt := if mask.getLsbD e && m.intstat.getLsbD e then m.signal e else m
  event (responds s 0x0F8) { s with mgmt := (List.range 13).foldl send m }

/-! Attestation (R353). -/

/-- The number of open bytes k of a boot (log entry 13). -/
def secretNat (k n : Nat) : Nat := bytesNat ((List.range n).map fun i => BitVec.ofNat 8 (Config.secretByte k i))

/-- The bytes 0 to 191 of a report (R353). -/
def reportBody (s : State) : List Byte :=
  natBytes 4 1 ++ natBytes 4 (Config.fusedSvn % 64) ++ natBytes 8 (secretNat 0 8) ++ natBytes 16 s.mgmt.featon ++
    natBytes 32 s.mgmt.attNonce ++ ([1, 2, 3].flatMap fun k => bigBytes 32 (mgetD s.mgmt.measures k 0)) ++ List.replicate 32 0

/-- A report (R353), signed by the attestation key with an open secret number (log entry 13). -/
def report (s : State) (k : Nat) : Nat :=
  let sig := ecdsaSign s.mgmt.attKey (sha256 (reportBody s)) k
  bytesNat (reportBody s ++ bigBytes 32 sig.1 ++ bigBytes 32 sig.2)

/-- ATTCTL with GO starts an OP, unless one is in progress. -/
def attGo (op : Nat) (s : State) (f : State → Nat × Nat × State) : Host.Outcome State Fault Refusal :=
  let w := s.cur.word
  let (v, n, s') := f s
  let (due, s') := later s'
  event (responds s 0x100 && s.mgmt.stage == 5 && w.getLsbD 63 && bitsOf w 1 0 == op && s.mgmt.attBusy.isNone)
    { s' with mgmt := { s'.mgmt with attBusy := some due, attNew := v, attLen := n } }

/-- ATTESTATION_REPORT (R353). -/
def execAttestationReport (s : State) : Host.Outcome State Fault Refusal :=
  attGo 1 s fun s =>
    let (sig, s) := s.fresh 13
    (report s (1 + sig % (p256N - 1)), 256, s)

/-- ATTESTATION_CERTIFICATE (R353): the certificate and its length are open. -/
def execAttestationCertificate (s : State) : Host.Outcome State Fault Refusal :=
  attGo 2 s fun s =>
    let n := Config.secretByte 2 0 % 513
    (secretNat 3 n, n, s)

/-- ATTESTATION_DONE (R353). -/
def execAttestationDone (s : State) : Host.Outcome State Fault Refusal :=
  let m := s.mgmt
  match m.attBusy with
  | some due => event (due ≤ s.now) (raiseIrq { s with mgmt := { m with attBusy := none, attBuf := m.attNew, attBytes := m.attLen } } 10)
  | none => .refused .notEnabled

/-! Pulses and the debug port (R354). -/

/-- The first pulse of a series from a time on, given the start and the period. -/
def nextPulse (start period from_ : Nat) : Option Nat :=
  if start = 2 ^ 64 - 1 then none
  else if from_ ≤ start then some start
  else if period = 0 then none
  else some (start + (from_ - start + period - 1) / period * period)

/-- SAMPLING_RESTART (R354): a write of SPTIME. A pulse that a core ahead of the north pass die has taken and that now does not come
leaves its number to the next one. -/
def execSamplingRestart (s : State) : Host.Outcome State Fault Refusal :=
  let w := s.cur.word
  event (responds s 0x048)
    { s with
      mgmt := { s.mgmt with sptime := w, pulseAt := nextPulse w.toNat s.mgmt.spperiod s.ptime }
      cores := s.cores.map fun k => (k.1, { k.2 with pulse := min k.2.pulse s.mgmt.pulseNo }) }

/-- A write of DBGPORT with GO. -/
def portGo (s : State) (write : Bool) : Bool :=
  responds s 0x0C0 && s.cur.word.getLsbD 63 && s.cur.word.getLsbD 62 == write

/-- DEBUG_PORT_READ (R217, R354): a read that would trap leaves DBGDATA as it is. -/
def execDebugPortRead (s : State) : Host.Outcome State Fault Refusal :=
  let c := bitsOf s.cur.word 45 32
  let n := bitsOf s.cur.word 11 0
  let (v, s') := csrRead s c 0 n
  event (portGo s false)
    (if (csrCheck 0 .runtime n false).isSome then s else { s' with mgmt := { s'.mgmt with dbgdata := v } })

/-- DEBUG_PORT_WRITE (R217, R354). -/
def execDebugPortWrite (s : State) : Host.Outcome State Fault Refusal :=
  event (portGo s true) (portWrite s (bitsOf s.cur.word 45 32) (bitsOf s.cur.word 11 0) s.mgmt.dbgdata)

end Sys2Proof.Machine
end

