-- ==== Sys2Proof/Machine/Fabric.lean ====
section
/-! DEFINITION. Ports (R356, R363, R364) and what they bring from other packages (R358, R360, R361, R365, R369). -/

namespace Sys2Proof.Machine

/-! Ports. -/

/-- PORTSTAT_READ (R363): of the port `cur` names; RESENDS is cleared. A register that does not respond reads zero (R343). -/
def execPortstatRead (s : State) : Host.Outcome State Fault Refusal :=
  let p := s.cur.core
  let off := 0x3608 + 16 * p
  let x := s.sport p
  event (p < 36) (if responds s off then { s with regReply := regWord s off, ports := mset s.ports p { x with resends := 0 } }
    else { s with regReply := 0 })

/-- UESTAT_READ (R363): of the Ultra Ethernet port `cur` names; RESENDS is cleared. A register that does not respond reads zero
(R343). -/
def execUestatRead (s : State) : Host.Outcome State Fault Refusal :=
  let e := s.cur.core
  let off := 0x3848 + 16 * e
  let x := s.uport e
  event (e < 8) (if responds s off then { s with regReply := regWord s off, ueports := mset s.ueports e { x with resends := 0 } }
    else { s with regReply := 0 })

/-- PORT_CONTROL_WRITE (R363): a write of PORTCTL that changes WIDTH or DOWN. -/
def execPortControlWrite (s : State) : Host.Outcome State Fault Refusal :=
  let p := s.cur.core
  let w := s.cur.word.toNat % 8
  let x := s.sport p
  event (p < 36 && responds s (0x3600 + 16 * p) && w != x.ctl)
    (setPort s p { x with ctl := w, resumeAt := some (s.now + serviceTime) })

/-- PORT_SERVICE_RESUME (R363): of the scale-up port `cur` names, or of an Ultra Ethernet port as 36 and its number. -/
def execPortServiceResume (s : State) : Host.Outcome State Fault Refusal :=
  let p := s.cur.core
  if p < 36 then
    let x := s.sport p
    match x.resumeAt with
    | some t => event (t ≤ s.now) (setPort s p { x with resumeAt := none })
    | none => .refused .notEnabled
  else
    let x := s.uport (p - 36)
    match x.resumeAt with
    | some t => event (t ≤ s.now) (setUport s (p - 36) { x with resumeAt := none })
    | none => .refused .notEnabled

/-- PORT_TRAIN_RETRY (R363): whether the port finds a switch, and which package number it learns, is open (log entry 12); a
port that has trained is out of service for 10 µs. -/
def execPortTrainRetry (s : State) : Host.Outcome State Fault Refusal :=
  let p := s.cur.core
  let x := s.sport p
  let (n, s') := s.fresh 12
  let m := s'.mgmt
  let learnt : State := { s' with mgmt :=
    { m with inDomain := true, package := if m.inDomain then m.package else n / 2 % 288 } }
  match x.retryAt with
  | some t =>
    event (t ≤ s.now && !(southPort p && (s.die 11).gated))
      (if n % 2 = 1 then setPort learnt p { x with found := true, retryAt := none, resumeAt := some (s.now + serviceTime) }
       else setPort s' p { x with retryAt := some (s.now + millisecond) })
  | none => .refused .notEnabled

/-- The first node of a port (R304). -/
def portNode (p : Nat) : Nat × Nat := (portUnit p).node (0, 0)

/-- SCALEUP_FLIT_ERROR (R364): on the lane `cur` names as its slot; when the resend fails too (`flag`), the lane is retired
and the port retrains. -/
def execScaleupFlitError (s : State) : Host.Outcome State Fault Refusal :=
  let p := s.cur.core
  let l := s.cur.slot
  let x := s.sport p
  let y : SPort := { x with resends := satAdd x.resends 1 65535 }
  let z : SPort := { y with harvest := y.harvest ||| 2 ^ l, resumeAt := some (s.now + serviceTime) }
  let die := if southPort p then 11 else 10
  event (p < 36 && l < 4 && x.up)
    (if s.cur.flag then setPort (noteLasting s 4 die (nodeNumber (portNode p)) { kind := 10, unit := p, addr := l, lasting := true }) p z
     else setPort s p y)

/-- PORT_DOWN_RESEND (R364): the message `cur` names had left by a port that has gone down, and is sent again by one that is up. -/
def execPortDownResend (s : State) : Host.Outcome State Fault Refusal :=
  match mget s.msgs s.cur.id with
  | some m =>
    let (due, s') := later s
    event (outbound s m && m.cut) { s' with msgs := mset s'.msgs s.cur.id { m with phase := .going due, cut := false } }
  | none => .refused .notEnabled

/-- ULTRA_ETHERNET_LINK_CHANGE (R363): the link of the port `cur` names comes up at a speed or goes down; its id counts the
packets retransmitted meanwhile. -/
def execUltraEthernetLinkChange (s : State) : Host.Outcome State Fault Refusal :=
  let e := s.cur.core
  let x := s.uport e
  let y : UPort := { x with speed := s.cur.word.toNat % 4, resends := satAdd x.resends s.cur.id 65535 }
  event (e < 8) (setUport s e y)

/-! Arrivals. -/

/-- The pass die of a port: 0 north, 1 south; 36 to 43 are the Ultra Ethernet ports. -/
def portDie (p : Nat) : Nat := if southPort p then 1 else 0

/-- A port can bring a message. -/
def brings (s : State) (p : Nat) : Bool := if p < 36 then (s.sport p).up else p < 44 && uportUp s (s.uport (p - 36))

/-- A message in the mesh for a local job, from another package; its FPA is taken as one of this package (R360, R361). -/
def fabricMsg (s : State) (job : Nat) (f : FabMsg) : Msg :=
  let fpa := f.fpa % 2 ^ 42 + 2 ^ 42 * ownPackage s
  let base : Msg := { issuer := .foreign, act := .meetr 0, home := .fabric fpa, va := fpa, key := f.key, flag := f.flag, job := job }
  let meeting (h : Word) : Home := .meeting ((vdtEntry s job (mVdie h)).getD 12) (mNumber h)
  match f.act with
  | .load n => { base with act := .load n false }
  | .store d => { base with act := .store d }
  | .nibble b m => { base with act := .nibble b m }
  | .atomic op wide v cmp r => { base with act := .atomic op wide v cmp r }
  | .meet h d => { base with act := .meet h d, home := meeting h }
  | .meetr h => { base with act := .meetr h, home := meeting h }
  | .tkput h p => { base with act := .tkput h p, home := .queue 10 (hNumber h) }
  | .tkget h => { base with act := .tkget h 0 0, home := .queue 10 (hNumber h) }
  | .mdef h d parent destroy => { base with act := .mdef h d parent destroy, home := meeting h }

/-- Where a message for a job goes from its port (R365): on into the mesh, into the ingress store, or back. -/
def ingressPhase (s : State) (job die : Nat) : MsgPhase × State :=
  if jobStopped s job then
    (if ingressFull s die then .refused die (s.now + serviceTime) else .held die, s)
  else
    let (due, s) := later s
    (.going due, s)

/-- FABRIC_MESSAGE_ARRIVE (R358, R360, R361): the message `cur` brings, through the port it names. One whose tag no local job
holds is rejected as peer absent to its sender. -/
def execFabricMessageArrive (s : State) : Host.Outcome State Fault Refusal :=
  match s.cur.fab with
  | none => .refused .notEnabled
  | some f =>
    if !brings s s.cur.core then .refused .notEnabled
    else
      match jobOfTag s f.tag with
      | none => .next s
      | some job =>
        let m := fabricMsg s job f
        let (ph, s) := ingressPhase s job (portDie s.cur.core)
        let (id, s) := s.newId
        .next { s with msgs := mset s.msgs id { m with phase := ph, port := s.cur.core } }

/-- INGRESS_RESEND (R365): the sender of the message `cur` names sends it again, to the port that refused it. -/
def execIngressResend (s : State) : Host.Outcome State Fault Refusal :=
  match mget s.msgs s.cur.id with
  | some m =>
    match m.phase with
    | .refused die due =>
      let (ph, s') := ingressPhase s m.job die
      event (due ≤ s.now) { s' with msgs := mset s'.msgs s.cur.id { m with phase := ph } }
    | _ => .refused .notEnabled
  | none => .refused .notEnabled

end Sys2Proof.Machine
end

