-- ==== Sys2Proof/Machine/Dispatch.lean ====
section
/-! DEFINITION. One arm per row of the opcode table: the meaning each step calls. -/

namespace Sys2Proof.Machine

open Sys2Proof

def exec (i : Instr) (s : State) : Host.Outcome State Fault Refusal :=
  match i with
  | .add d s1 s2 => Sys2Proof.Machine.execAdd d s1 s2 s
  | .sub d s1 s2 => Sys2Proof.Machine.execSub d s1 s2 s
  | .mul d s1 s2 => Sys2Proof.Machine.execMul d s1 s2 s
  | .mulh d s1 s2 => Sys2Proof.Machine.execMulh d s1 s2 s
  | .mulhu d s1 s2 => Sys2Proof.Machine.execMulhu d s1 s2 s
  | .and d s1 s2 => Sys2Proof.Machine.execAnd d s1 s2 s
  | .or d s1 s2 => Sys2Proof.Machine.execOr d s1 s2 s
  | .xor d s1 s2 => Sys2Proof.Machine.execXor d s1 s2 s
  | .andn d s1 s2 => Sys2Proof.Machine.execAndn d s1 s2 s
  | .orn d s1 s2 => Sys2Proof.Machine.execOrn d s1 s2 s
  | .sll d s1 s2 => Sys2Proof.Machine.execSll d s1 s2 s
  | .srl d s1 s2 => Sys2Proof.Machine.execSrl d s1 s2 s
  | .sra d s1 s2 => Sys2Proof.Machine.execSra d s1 s2 s
  | .min d s1 s2 => Sys2Proof.Machine.execMin d s1 s2 s
  | .max d s1 s2 => Sys2Proof.Machine.execMax d s1 s2 s
  | .minu d s1 s2 => Sys2Proof.Machine.execMinu d s1 s2 s
  | .maxu d s1 s2 => Sys2Proof.Machine.execMaxu d s1 s2 s
  | .slt d s1 s2 => Sys2Proof.Machine.execSlt d s1 s2 s
  | .sltu d s1 s2 => Sys2Proof.Machine.execSltu d s1 s2 s
  | .seq d s1 s2 => Sys2Proof.Machine.execSeq d s1 s2 s
  | .sne d s1 s2 => Sys2Proof.Machine.execSne d s1 s2 s
  | .addp d s1 s2 => Sys2Proof.Machine.execAddp d s1 s2 s
  | .clz d s1 => Sys2Proof.Machine.execClz d s1 s
  | .ctz d s1 => Sys2Proof.Machine.execCtz d s1 s
  | .pop d s1 => Sys2Proof.Machine.execPop d s1 s
  | .div d s1 s2 la => Sys2Proof.Machine.execDiv d s1 s2 la s
  | .divu d s1 s2 la => Sys2Proof.Machine.execDivu d s1 s2 la s
  | .rem d s1 s2 la => Sys2Proof.Machine.execRem d s1 s2 la s
  | .remu d s1 s2 la => Sys2Proof.Machine.execRemu d s1 s2 la s
  | .divideComplete => Sys2Proof.Machine.execDivideComplete s
  | .addi d s1 imm => Sys2Proof.Machine.execAddi d s1 imm s
  | .andi d s1 imm => Sys2Proof.Machine.execAndi d s1 imm s
  | .ori d s1 imm => Sys2Proof.Machine.execOri d s1 imm s
  | .xori d s1 imm => Sys2Proof.Machine.execXori d s1 imm s
  | .slti d s1 imm => Sys2Proof.Machine.execSlti d s1 imm s
  | .sltui d s1 imm => Sys2Proof.Machine.execSltui d s1 imm s
  | .slli d s1 sh => Sys2Proof.Machine.execSlli d s1 sh s
  | .srli d s1 sh => Sys2Proof.Machine.execSrli d s1 sh s
  | .srai d s1 sh => Sys2Proof.Machine.execSrai d s1 sh s
  | .addpi d s1 imm => Sys2Proof.Machine.execAddpi d s1 imm s
  | .bfx d s1 pos lenm1 => Sys2Proof.Machine.execBfx d s1 pos lenm1 s
  | .bfxu d s1 pos lenm1 => Sys2Proof.Machine.execBfxu d s1 pos lenm1 s
  | .bfi d s1 pos lenm1 => Sys2Proof.Machine.execBfi d s1 pos lenm1 s
  | .pfmt d s1 fmt blog => Sys2Proof.Machine.execPfmt d s1 fmt blog s
  | .pkey d s1 key => Sys2Proof.Machine.execPkey d s1 key s
  | .beq s1 s2 off => Sys2Proof.Machine.execBeq s1 s2 off s
  | .bne s1 s2 off => Sys2Proof.Machine.execBne s1 s2 off s
  | .blt s1 s2 off => Sys2Proof.Machine.execBlt s1 s2 off s
  | .bge s1 s2 off => Sys2Proof.Machine.execBge s1 s2 off s
  | .bltu s1 s2 off => Sys2Proof.Machine.execBltu s1 s2 off s
  | .bgeu s1 s2 off => Sys2Proof.Machine.execBgeu s1 s2 off s
  | .jl d off => Sys2Proof.Machine.execJl d off s
  | .jlr d s1 imm => Sys2Proof.Machine.execJlr d s1 imm s
  | .ldS8 d s1 off la => Sys2Proof.Machine.execLdS8 d s1 off la s
  | .ldZ8 d s1 off la => Sys2Proof.Machine.execLdZ8 d s1 off la s
  | .ldS16 d s1 off la => Sys2Proof.Machine.execLdS16 d s1 off la s
  | .ldZ16 d s1 off la => Sys2Proof.Machine.execLdZ16 d s1 off la s
  | .ldS32 d s1 off la => Sys2Proof.Machine.execLdS32 d s1 off la s
  | .ldZ32 d s1 off la => Sys2Proof.Machine.execLdZ32 d s1 off la s
  | .ld d s1 off la => Sys2Proof.Machine.execLd d s1 off la s
  | .ldFe d s1 off la => Sys2Proof.Machine.execLdFe d s1 off la s
  | .ldFec d s1 off la => Sys2Proof.Machine.execLdFec d s1 off la s
  | .st8 data s1 off => Sys2Proof.Machine.execSt8 data s1 off s
  | .st16 data s1 off => Sys2Proof.Machine.execSt16 data s1 off s
  | .st32 data s1 off => Sys2Proof.Machine.execSt32 data s1 off s
  | .st data s1 off => Sys2Proof.Machine.execSt data s1 off s
  | .stSf data s1 off => Sys2Proof.Machine.execStSf data s1 off s
  | .ldv d s1 off la => Sys2Proof.Machine.execLdv d s1 off la s
  | .ldvFe d s1 off la => Sys2Proof.Machine.execLdvFe d s1 off la s
  | .ldvFec d s1 off la => Sys2Proof.Machine.execLdvFec d s1 off la s
  | .stv data s1 off => Sys2Proof.Machine.execStv data s1 off s
  | .stvSf data s1 off => Sys2Proof.Machine.execStvSf data s1 off s
  | .ldS8Long d s1 off la => Sys2Proof.Machine.execLdS8Long d s1 off la s
  | .ldZ8Long d s1 off la => Sys2Proof.Machine.execLdZ8Long d s1 off la s
  | .ldS16Long d s1 off la => Sys2Proof.Machine.execLdS16Long d s1 off la s
  | .ldZ16Long d s1 off la => Sys2Proof.Machine.execLdZ16Long d s1 off la s
  | .ldS32Long d s1 off la => Sys2Proof.Machine.execLdS32Long d s1 off la s
  | .ldZ32Long d s1 off la => Sys2Proof.Machine.execLdZ32Long d s1 off la s
  | .ldLong d s1 off la => Sys2Proof.Machine.execLdLong d s1 off la s
  | .ldFeLong d s1 off la => Sys2Proof.Machine.execLdFeLong d s1 off la s
  | .ldFecLong d s1 off la => Sys2Proof.Machine.execLdFecLong d s1 off la s
  | .ldvLong d s1 off la => Sys2Proof.Machine.execLdvLong d s1 off la s
  | .ldvFeLong d s1 off la => Sys2Proof.Machine.execLdvFeLong d s1 off la s
  | .ldvFecLong d s1 off la => Sys2Proof.Machine.execLdvFecLong d s1 off la s
  | .st8Long data s1 off => Sys2Proof.Machine.execSt8Long data s1 off s
  | .st16Long data s1 off => Sys2Proof.Machine.execSt16Long data s1 off s
  | .st32Long data s1 off => Sys2Proof.Machine.execSt32Long data s1 off s
  | .stLong data s1 off => Sys2Proof.Machine.execStLong data s1 off s
  | .stSfLong data s1 off => Sys2Proof.Machine.execStSfLong data s1 off s
  | .stvLong data s1 off => Sys2Proof.Machine.execStvLong data s1 off s
  | .stvSfLong data s1 off => Sys2Proof.Machine.execStvSfLong data s1 off s
  | .lde d s1 s2 la => Sys2Proof.Machine.execLde d s1 s2 la s
  | .ste data s1 s2 => Sys2Proof.Machine.execSte data s1 s2 s
  | .amo op wide d s1 s2 s3 off la => Sys2Proof.Machine.execAmo op wide d s1 s2 s3 off la s
  | .localLoadComplete => Sys2Proof.Machine.execLocalLoadComplete s
  | .storePerform => Sys2Proof.Machine.execStorePerform s
  | .stePerform => Sys2Proof.Machine.execStePerform s
  | .fullEmptyServe => Sys2Proof.Machine.execFullEmptyServe s
  | .instructionFetch => Sys2Proof.Machine.execInstructionFetch s
  | .tret => Sys2Proof.Machine.execTret s
  | .brk => Sys2Proof.Machine.execBrk s
  | .wfe => Sys2Proof.Machine.execWfe s
  | .retire => Sys2Proof.Machine.execRetire s
  | .yield => Sys2Proof.Machine.execYield s
  | .hexit s1 => Sys2Proof.Machine.execHexit s1 s
  | .gtime d => Sys2Proof.Machine.execGtime d s
  | .cid d => Sys2Proof.Machine.execCid d s
  | .hstart d s1 s2 => Sys2Proof.Machine.execHstart d s1 s2 s
  | .hjoin d s1 => Sys2Proof.Machine.execHjoin d s1 s
  | .dhop d s1 s2 => Sys2Proof.Machine.execDhop d s1 s2 s
  | .sys code => Sys2Proof.Machine.execSys code s
  | .csrr d csr => Sys2Proof.Machine.execCsrr d csr s
  | .csrw d s1 csr => Sys2Proof.Machine.execCsrw d s1 csr s
  | .csrs d s1 csr => Sys2Proof.Machine.execCsrs d s1 csr s
  | .csrc d s1 csr => Sys2Proof.Machine.execCsrc d s1 csr s
  | .bara b => Sys2Proof.Machine.execBara b s
  | .baraArrive => Sys2Proof.Machine.execBaraArrive s
  | .barw b => Sys2Proof.Machine.execBarw b s
  | .phase level => Sys2Proof.Machine.execPhase level s
  | .phaseArrive => Sys2Proof.Machine.execPhaseArrive s
  | .domainReleaseDeliver => Sys2Proof.Machine.execDomainReleaseDeliver s
  | .farm flag s1 => Sys2Proof.Machine.execFarm flag s1 s
  | .fwait flag => Sys2Proof.Machine.execFwait flag s
  | .fread d flag => Sys2Proof.Machine.execFread d flag s
  | .fclr flag => Sys2Proof.Machine.execFclr flag s
  | .tcmd q s1 => Sys2Proof.Machine.execTcmd q s1 s
  | .tcmdm q s1 => Sys2Proof.Machine.execTcmdm q s1 s
  | .commandQueueEnter => Sys2Proof.Machine.execCommandQueueEnter s
  | .unlease => Sys2Proof.Machine.execUnlease s
  | .slotq d => Sys2Proof.Machine.execSlotq d s
  | .launch d s1 => Sys2Proof.Machine.execLaunch d s1 s
  | .tkput s1 s2 => Sys2Proof.Machine.execTkput s1 s2 s
  | .taskPacketAppend => Sys2Proof.Machine.execTaskPacketAppend s
  | .lease budget => Sys2Proof.Machine.execLease budget s
  | .pack d s1 s2 => Sys2Proof.Machine.execPack d s1 s2 s
  | .unpack d s1 s2 => Sys2Proof.Machine.execUnpack d s1 s2 s
  | .pext d s1 s2 => Sys2Proof.Machine.execPext d s1 s2 s
  | .gwid width => Sys2Proof.Machine.execGwid width s
  | .tkget d s1 la => Sys2Proof.Machine.execTkget d s1 la s
  | .tkgetComplete => Sys2Proof.Machine.execTkgetComplete s
  | .lit d imm => Sys2Proof.Machine.execLit d imm s
  | .lith d imm => Sys2Proof.Machine.execLith d imm s
  | .sel d s1 s2 s3 => Sys2Proof.Machine.execSel d s1 s2 s3 s
  | .vadd t m d s1 s2 => Sys2Proof.Machine.execVadd t m d s1 s2 s
  | .vsub t m d s1 s2 => Sys2Proof.Machine.execVsub t m d s1 s2 s
  | .vmul t m d s1 s2 => Sys2Proof.Machine.execVmul t m d s1 s2 s
  | .vfma t m d s1 s2 => Sys2Proof.Machine.execVfma t m d s1 s2 s
  | .vfms t m d s1 s2 => Sys2Proof.Machine.execVfms t m d s1 s2 s
  | .vnfma t m d s1 s2 => Sys2Proof.Machine.execVnfma t m d s1 s2 s
  | .vmin t m d s1 s2 => Sys2Proof.Machine.execVmin t m d s1 s2 s
  | .vmax t m d s1 s2 => Sys2Proof.Machine.execVmax t m d s1 s2 s
  | .vabs t m d s1 => Sys2Proof.Machine.execVabs t m d s1 s
  | .vneg t m d s1 => Sys2Proof.Machine.execVneg t m d s1 s
  | .vsel t m d s1 s2 => Sys2Proof.Machine.execVsel t m d s1 s2 s
  | .vand t m d s1 s2 => Sys2Proof.Machine.execVand t m d s1 s2 s
  | .vor t m d s1 s2 => Sys2Proof.Machine.execVor t m d s1 s2 s
  | .vxor t m d s1 s2 => Sys2Proof.Machine.execVxor t m d s1 s2 s
  | .vshl t m d s1 s2 => Sys2Proof.Machine.execVshl t m d s1 s2 s
  | .vshr t m d s1 s2 => Sys2Proof.Machine.execVshr t m d s1 s2 s
  | .vshra t m d s1 s2 => Sys2Proof.Machine.execVshra t m d s1 s2 s
  | .vreds t m d s1 => Sys2Proof.Machine.execVreds t m d s1 s
  | .vredm t m d s1 => Sys2Proof.Machine.execVredm t m d s1 s
  | .vbcast t m d s1 => Sys2Proof.Machine.execVbcast t m d s1 s
  | .vcmp p t m d s1 s2 => Sys2Proof.Machine.execVcmp p t m d s1 s2 s
  | .vshuf t m d s1 s2 s3 => Sys2Proof.Machine.execVshuf t m d s1 s2 s3 s
  | .vins t d s1 lane => Sys2Proof.Machine.execVins t d s1 lane s
  | .vext t d s1 lane => Sys2Proof.Machine.execVext t d s1 lane s
  | .vmaxi t m d s3 s1 => Sys2Proof.Machine.execVmaxi t m d s3 s1 s
  | .vmini t m d s3 s1 => Sys2Proof.Machine.execVmini t m d s3 s1 s
  | .vcvt dst src rnd m d s1 => Sys2Proof.Machine.execVcvt dst src rnd m d s1 s
  | .vcvtef dst src rnd m d s3 s1 => Sys2Proof.Machine.execVcvtef dst src rnd m d s3 s1 s
  | .vrcp t d s1 la => Sys2Proof.Machine.execVrcp t d s1 la s
  | .vrsq t d s1 la => Sys2Proof.Machine.execVrsq t d s1 la s
  | .vrcps t d s1 s2 la => Sys2Proof.Machine.execVrcps t d s1 s2 la s
  | .vrsqs t d s1 s2 la => Sys2Proof.Machine.execVrsqs t d s1 s2 la s
  | .vexp2 t d s1 la => Sys2Proof.Machine.execVexp2 t d s1 la s
  | .vlog2 t d s1 la => Sys2Proof.Machine.execVlog2 t d s1 la s
  | .approximationComplete => Sys2Proof.Machine.execApproximationComplete s
  | .vdot4 sg m d s1 s2 => Sys2Proof.Machine.execVdot4 sg m d s1 s2 s
  | .rst8 s2 s1 flag la => Sys2Proof.Machine.execRst8 s2 s1 flag la s
  | .rst16 s2 s1 flag la => Sys2Proof.Machine.execRst16 s2 s1 flag la s
  | .rst32 s2 s1 flag la => Sys2Proof.Machine.execRst32 s2 s1 flag la s
  | .rst s2 s1 flag la => Sys2Proof.Machine.execRst s2 s1 flag la s
  | .rstv s2 s1 flag la => Sys2Proof.Machine.execRstv s2 s1 flag la s
  | .rldS8 d s1 off la => Sys2Proof.Machine.execRldS8 d s1 off la s
  | .rldZ8 d s1 off la => Sys2Proof.Machine.execRldZ8 d s1 off la s
  | .rldS16 d s1 off la => Sys2Proof.Machine.execRldS16 d s1 off la s
  | .rldZ16 d s1 off la => Sys2Proof.Machine.execRldZ16 d s1 off la s
  | .rldS32 d s1 off la => Sys2Proof.Machine.execRldS32 d s1 off la s
  | .rldZ32 d s1 off la => Sys2Proof.Machine.execRldZ32 d s1 off la s
  | .rld d s1 off la => Sys2Proof.Machine.execRld d s1 off la s
  | .rldv d s1 off la => Sys2Proof.Machine.execRldv d s1 off la s
  | .ramo op wide s1 s2 s3 flag la => Sys2Proof.Machine.execRamo op wide s1 s2 s3 flag la s
  | .ramor op wide d s1 s2 s3 la => Sys2Proof.Machine.execRamor op wide d s1 s2 s3 la s
  | .postedHandoff => Sys2Proof.Machine.execPostedHandoff s
  | .remoteStoreArrive => Sys2Proof.Machine.execRemoteStoreArrive s
  | .remoteAtomicArrive => Sys2Proof.Machine.execRemoteAtomicArrive s
  | .remoteLoadArrive => Sys2Proof.Machine.execRemoteLoadArrive s
  | .flagWindowArrive => Sys2Proof.Machine.execFlagWindowArrive s
  | .nibbleMessageArrive => Sys2Proof.Machine.execNibbleMessageArrive s
  | .remoteAckReturn => Sys2Proof.Machine.execRemoteAckReturn s
  | .remoteLoadComplete => Sys2Proof.Machine.execRemoteLoadComplete s
  | .remoteFailureReturn => Sys2Proof.Machine.execRemoteFailureReturn s
  | .linkWordArrive => Sys2Proof.Machine.execLinkWordArrive s
  | .portTransferContinue => Sys2Proof.Machine.execPortTransferContinue s
  | .trapEntry => Sys2Proof.Machine.execTrapEntry s
  | .copyListStart => Sys2Proof.Machine.execCopyListStart s
  | .commandWordRead => Sys2Proof.Machine.execCommandWordRead s
  | .ccopy h src dst count => Sys2Proof.Machine.execCcopy h src dst count s
  | .ccopy2 h src dst shape => Sys2Proof.Machine.execCcopy2 h src dst shape s
  | .ccopy3 h src dst shape => Sys2Proof.Machine.execCcopy3 h src dst shape s
  | .cfill h value dst count => Sys2Proof.Machine.execCfill h value dst count s
  | .cgather h src dst count listkey list => Sys2Proof.Machine.execCgather h src dst count listkey list s
  | .cscatter h src dst count listkey list => Sys2Proof.Machine.execCscatter h src dst count listkey list s
  | .cstream h mem shape dir stream => Sys2Proof.Machine.execCstream h mem shape dir stream s
  | .cflag h addr value => Sys2Proof.Machine.execCflag h addr value s
  | .clink h next => Sys2Proof.Machine.execClink h next s
  | .cend h => Sys2Proof.Machine.execCend h s
  | .ngemv h matrix vector shape => Sys2Proof.Machine.execNgemv h matrix vector shape s
  | .ngemvServe => Sys2Proof.Machine.execNgemvServe s
  | .copyAccessPerform => Sys2Proof.Machine.execCopyAccessPerform s
  | .copyCommandEnd => Sys2Proof.Machine.execCopyCommandEnd s
  | .copyRecordPush => Sys2Proof.Machine.execCopyRecordPush s
  | .streamRefill => Sys2Proof.Machine.execStreamRefill s
  | .streamDrain => Sys2Proof.Machine.execStreamDrain s
  | .engineRecordArrive => Sys2Proof.Machine.execEngineRecordArrive s
  | .leaseGrant => Sys2Proof.Machine.execLeaseGrant s
  | .leaseTurnEnd => Sys2Proof.Machine.execLeaseTurnEnd s
  | .leaseReleaseDone => Sys2Proof.Machine.execLeaseReleaseDone s
  | .unleasedCommandReject => Sys2Proof.Machine.execUnleasedCommandReject s
  | .tlda h src stride kbm1 => Sys2Proof.Machine.execTlda h src stride kbm1 s
  | .tldb h src stride kbm1 => Sys2Proof.Machine.execTldb h src stride kbm1 s
  | .tmma h slot fresh => Sys2Proof.Machine.execTmma h slot fresh s
  | .tzps h slot ty => Sys2Proof.Machine.execTzps h slot ty s
  | .tsto h slot dst stride => Sys2Proof.Machine.execTsto h slot dst stride s
  | .tadds h slot dst stride => Sys2Proof.Machine.execTadds h slot dst stride s
  | .trel h slot => Sys2Proof.Machine.execTrel h slot s
  | .pmul h slot split a b => Sys2Proof.Machine.execPmul h slot split a b s
  | .pmac h slot split a b => Sys2Proof.Machine.execPmac h slot split a b s
  | .pextb h slot product first count dst => Sys2Proof.Machine.execPextb h slot product first count dst s
  | .arrayCommandEnd => Sys2Proof.Machine.execArrayCommandEnd s
  | .arrayRecordPush => Sys2Proof.Machine.execArrayRecordPush s
  | .limiterTokenRenew => Sys2Proof.Machine.execLimiterTokenRenew s
  | .mdefDefine h deff meeting parent => Sys2Proof.Machine.execMdefDefine h deff meeting parent s
  | .mdefDestroy h deff meeting parent => Sys2Proof.Machine.execMdefDestroy h deff meeting parent s
  | .srouteLoad h w1 sets => Sys2Proof.Machine.execSrouteLoad h w1 sets s
  | .srouteStep h w1 sets => Sys2Proof.Machine.execSrouteStep h w1 sets s
  | .srouteClear h w1 sets => Sys2Proof.Machine.execSrouteClear h w1 sets s
  | .kcard h => Sys2Proof.Machine.execKcard h s
  | .frsave h launch mode image limit => Sys2Proof.Machine.execFrsave h launch mode image limit s
  | .frsaveImageWrite => Sys2Proof.Machine.execFrsaveImageWrite s
  | .frsaveEnd => Sys2Proof.Machine.execFrsaveEnd s
  | .frload h image => Sys2Proof.Machine.execFrload h image s
  | .frloadTakeEffect => Sys2Proof.Machine.execFrloadTakeEffect s
  | .frontierNoticeTake => Sys2Proof.Machine.execFrontierNoticeTake s
  | .frontierFire => Sys2Proof.Machine.execFrontierFire s
  | .meet s1 s2 => Sys2Proof.Machine.execMeet s1 s2 s
  | .meetr d s1 la => Sys2Proof.Machine.execMeetr d s1 la s
  | .meetArrive => Sys2Proof.Machine.execMeetArrive s
  | .meetingDeadline => Sys2Proof.Machine.execMeetingDeadline s
  | .meetrRequestArrive => Sys2Proof.Machine.execMeetrRequestArrive s
  | .meetrComplete => Sys2Proof.Machine.execMeetrComplete s
  | .meetRejectionArrive => Sys2Proof.Machine.execMeetRejectionArrive s
  | .launchQueueNotify => Sys2Proof.Machine.execLaunchQueueNotify s
  | .launchQueueEntry => Sys2Proof.Machine.execLaunchQueueEntry s
  | .launchRequest => Sys2Proof.Machine.execLaunchRequest s
  | .batchDeal => Sys2Proof.Machine.execBatchDeal s
  | .gangStartRelease => Sys2Proof.Machine.execGangStartRelease s
  | .groupStart => Sys2Proof.Machine.execGroupStart s
  | .coreFree => Sys2Proof.Machine.execCoreFree s
  | .sweep => Sys2Proof.Machine.execSweep s
  | .tqcfgCreate => Sys2Proof.Machine.execTqcfgCreate s
  | .tqcfgDestroy => Sys2Proof.Machine.execTqcfgDestroy s
  | .tqcfgReply => Sys2Proof.Machine.execTqcfgReply s
  | .retag => Sys2Proof.Machine.execRetag s
  | .retagComplete => Sys2Proof.Machine.execRetagComplete s
  | .barcfgWrite => Sys2Proof.Machine.execBarcfgWrite s
  | .tlbinv => Sys2Proof.Machine.execTlbinv s
  | .tlbinvDieAck => Sys2Proof.Machine.execTlbinvDieAck s
  | .tlbWalkComplete => Sys2Proof.Machine.execTlbWalkComplete s
  | .translationRegister => Sys2Proof.Machine.execTranslationRegister s
  | .debugHalt => Sys2Proof.Machine.execDebugHalt s
  | .debugResume => Sys2Proof.Machine.execDebugResume s
  | .debugStepHalt => Sys2Proof.Machine.execDebugStepHalt s
  | .debugHoldRelease => Sys2Proof.Machine.execDebugHoldRelease s
  | .dbgrdataWrite => Sys2Proof.Machine.execDbgrdataWrite s
  | .watchpointImpreciseDeliver => Sys2Proof.Machine.execWatchpointImpreciseDeliver s
  | .trcmark => Sys2Proof.Machine.execTrcmark s
  | .traceEnable => Sys2Proof.Machine.execTraceEnable s
  | .traceSyncRecord => Sys2Proof.Machine.execTraceSyncRecord s
  | .traceFlowRecord => Sys2Proof.Machine.execTraceFlowRecord s
  | .traceWriteFail => Sys2Proof.Machine.execTraceWriteFail s
  | .samplingPulse => Sys2Proof.Machine.execSamplingPulse s
  | .counterOverflow => Sys2Proof.Machine.execCounterOverflow s
  | .dumpStart => Sys2Proof.Machine.execDumpStart s
  | .dumpEnd => Sys2Proof.Machine.execDumpEnd s
  | .gangStopSave => Sys2Proof.Machine.execGangStopSave s
  | .gangStopSaveRestore => Sys2Proof.Machine.execGangStopSaveRestore s
  | .gangRestore => Sys2Proof.Machine.execGangRestore s
  | .gangStop => Sys2Proof.Machine.execGangStop s
  | .gangSaveEnd => Sys2Proof.Machine.execGangSaveEnd s
  | .gangRestoreEnd => Sys2Proof.Machine.execGangRestoreEnd s
  | .performanceStateRequest => Sys2Proof.Machine.execPerformanceStateRequest s
  | .linkWidthRequest => Sys2Proof.Machine.execLinkWidthRequest s
  | .supplyRampEnd => Sys2Proof.Machine.execSupplyRampEnd s
  | .relockEnd => Sys2Proof.Machine.execRelockEnd s
  | .linkWidthChange => Sys2Proof.Machine.execLinkWidthChange s
  | .dieGate => Sys2Proof.Machine.execDieGate s
  | .dieUngate => Sys2Proof.Machine.execDieUngate s
  | .dieUngateComplete => Sys2Proof.Machine.execDieUngateComplete s
  | .shrinkGo => Sys2Proof.Machine.execShrinkGo s
  | .shrinkDrained => Sys2Proof.Machine.execShrinkDrained s
  | .shrinkComplete => Sys2Proof.Machine.execShrinkComplete s
  | .meshFlitError => Sys2Proof.Machine.execMeshFlitError s
  | .routerFailure => Sys2Proof.Machine.execRouterFailure s
  | .errcntRead => Sys2Proof.Machine.execErrcntRead s
  | .eccstatRead => Sys2Proof.Machine.execEccstatRead s
  | .linkstatRead => Sys2Proof.Machine.execLinkstatRead s
  | .portstatRead => Sys2Proof.Machine.execPortstatRead s
  | .uestatRead => Sys2Proof.Machine.execUestatRead s
  | .moduleReset => Sys2Proof.Machine.execModuleReset s
  | .bootStageComplete => Sys2Proof.Machine.execBootStageComplete s
  | .hostLinkTrain => Sys2Proof.Machine.execHostLinkTrain s
  | .hostLinkError => Sys2Proof.Machine.execHostLinkError s
  | .hostMemWrite => Sys2Proof.Machine.execHostMemWrite s
  | .hostMemRead => Sys2Proof.Machine.execHostMemRead s
  | .hostApertureAccess => Sys2Proof.Machine.execHostApertureAccess s
  | .featureAccept => Sys2Proof.Machine.execFeatureAccept s
  | .jobInstall => Sys2Proof.Machine.execJobInstall s
  | .jobRemove => Sys2Proof.Machine.execJobRemove s
  | .intmaskWrite => Sys2Proof.Machine.execIntmaskWrite s
  | .attestationReport => Sys2Proof.Machine.execAttestationReport s
  | .attestationCertificate => Sys2Proof.Machine.execAttestationCertificate s
  | .attestationDone => Sys2Proof.Machine.execAttestationDone s
  | .samplingRestart => Sys2Proof.Machine.execSamplingRestart s
  | .debugPortRead => Sys2Proof.Machine.execDebugPortRead s
  | .debugPortWrite => Sys2Proof.Machine.execDebugPortWrite s
  | .tempSensorReading => Sys2Proof.Machine.execTempSensorReading s
  | .thermalThrottleStep => Sys2Proof.Machine.execThermalThrottleStep s
  | .portControlWrite => Sys2Proof.Machine.execPortControlWrite s
  | .portServiceResume => Sys2Proof.Machine.execPortServiceResume s
  | .portTrainRetry => Sys2Proof.Machine.execPortTrainRetry s
  | .scaleupFlitError => Sys2Proof.Machine.execScaleupFlitError s
  | .portDownResend => Sys2Proof.Machine.execPortDownResend s
  | .fabricMessageArrive => Sys2Proof.Machine.execFabricMessageArrive s
  | .ingressResend => Sys2Proof.Machine.execIngressResend s
  | .registerWrite => Sys2Proof.Machine.execRegisterWrite s
  | .hbm4eWriteArrive => Sys2Proof.Machine.execHbm4eWriteArrive s
  | .launchReplyArrive => Sys2Proof.Machine.execLaunchReplyArrive s
  | .taskPacketRemove => Sys2Proof.Machine.execTaskPacketRemove s
  | .ultraEthernetLinkChange => Sys2Proof.Machine.execUltraEthernetLinkChange s

end Sys2Proof.Machine
end

