-- ==== Sys2Proof/Machine/Clock.lean ====
section
/-! DEFINITION. The order in which the units act (log entry 4): what each unit may do next in an instant, the closing of its
clock, and the passing of time from one clock edge to the next. -/

namespace Sys2Proof.Machine

/-- A row of the table that a unit may perform; `stays` when the unit may do more in the same instant. -/
structure Cand where
  instr : Instr
  cur : Cur
  stays : Bool := true
  deriving DecidableEq, Repr

/-- A row for a core. -/
def Cand.core (i : Instr) (c : Nat) : Cand := { instr := i, cur := { core := c } }

/-- A row for a context slot or a channel of a core. -/
def Cand.slot (i : Instr) (c t : Nat) : Cand := { instr := i, cur := { core := c, slot := t } }

/-- A row for an item. -/
def Cand.item (i : Instr) (n : Nat) : Cand := { instr := i, cur := { id := n } }

/-- A row for an item of a context slot. -/
def Cand.part (i : Instr) (c t n : Nat) : Cand := { instr := i, cur := { core := c, slot := t, id := n } }

/-- The unit does no more in this instant. -/
def Cand.once (x : Cand) : Cand := { x with stays := false }

/-! The units of a core. -/

/-- The slots of a core that are in use. -/
def slotsOf (s : State) (c : Nat) : List (Nat × Ctx) := (s.core c).ctxs.filter fun p => p.2.status == .live

/-- The instruction that a slot has next. -/
def headInstr (s : State) (c t : Nat) : List Instr :=
  match (s.ctx c t).head with
  | .instr i => [i]
  | _ => []

/-- The page walks that the instructions of a core need; one that hits the last-level TLB makes its context ready in the same clock
(R176, R316). -/
def walkStarts (s : State) (c : Nat) : List Cand :=
  match walker s c with
  | some t => (headInstr s c t).map fun i => Cand.slot i c t
  | none => []

/-- The one instruction of the clock (R76). -/
def issueCands (s : State) (c : Nat) : List Cand :=
  let issue := match issuer s c with
    | some t => (headInstr s c t).map fun i => (Cand.slot i c t).once
    | none => []
  if (s.core c).stopped then [] else issue

/-- The row that completes or hands off a pending instruction. -/
def pendRow : PendKind → Instr
  | .divide => .divideComplete
  | .approx => .approximationComplete
  | .loc _ _ => .localLoadComplete
  | .posted _ => .postedHandoff
  | .remote _ | .query _ => .remoteLoadComplete

/-- Pending instructions, oldest first; a stopped core lets only some run on (R325). -/
def completeCands (s : State) (c : Nat) : List Cand :=
  (slotsOf s c).flatMap fun x =>
    let ps := if (s.core c).stopped then x.2.pend.filter (runsOn s c x.1) else x.2.pend
    ps.map fun p => Cand.part (pendRow p.kind) c x.1 p.id

/-- The wait table of full/empty granules; in a stopped core the loads that found their granule full go on (R325). -/
def fullEmptyCands (s : State) (c : Nat) : List Cand :=
  let k := s.core c
  (if k.stopped then k.feTable.filter fun e => k.feOnce.contains e.2.2 else k.feTable).map fun e =>
    Cand.part .fullEmptyServe c e.2.1 e.2.2

/-- The head of the store queue. -/
def storeCands (s : State) (c : Nat) : List Cand :=
  match (s.core c).storeQ with
  | e :: _ =>
    if (s.core c).stopped then []
    else [match e.act with
      | .bytes _ _ _ _ => Cand.slot .storePerform c e.slot
      | .elem _ _ _ => Cand.slot .stePerform c e.slot]
  | [] => []

/-- The instruction a command word decodes to in a queue. -/
def cmdInstr (q : Nat) (w : BitVec 256) : List Instr :=
  match decodeCmd q w with
  | .ok i => [i]
  | .error _ => []

/-- A copy channel: one element in a clock. -/
def chanCands (s : State) (c ch : Nat) : List Cand :=
  let word := match (s.chan c ch).word with
    | some w => cmdInstr 0 w
    | none => []
  let rows : List Instr := [.copyListStart, .commandWordRead] ++ word ++ [.copyCommandEnd, .copyRecordPush]
  let moves : List Instr := [.copyAccessPerform, .streamRefill, .streamDrain]
  if (s.core c).stopped then []
  else rows.map (fun i => Cand.slot i c ch) ++ moves.map fun i => (Cand.slot i c ch).once

/-- Records on their way from engines outside the core. -/
def engineCands (s : State) (c : Nat) : List Cand :=
  if (s.core c).stopped ∨ (s.core c).recFly.isEmpty then [] else [Cand.core .engineRecordArrive c]

/-- The rows that end a stage of a blocked instruction. -/
def stageRows : List Instr :=
  [.portTransferContinue, .baraArrive, .phaseArrive, .retag, .retagComplete, .barcfgWrite, .debugHoldRelease, .debugHalt,
   .debugResume, .traceEnable, .trcmark, .dumpStart, .dbgrdataWrite, .tqcfgCreate, .tqcfgDestroy, .tqcfgReply, .tlbinv,
   .commandQueueEnter, .taskPacketAppend, .launchReplyArrive]

/-- Blocked instructions in ascending slots; a WFE ends later in the clock, and a halted context whose instruction has trapped
waits for its RESUME (R219). -/
def contCands (s : State) (c : Nat) : List Cand :=
  let blocked := (slotsOf s c).filter fun p => p.2.blk.isSome && !(p.2.halted && p.2.trap.isSome)
  let each (p : Nat × Ctx) : List Cand :=
    let own := match p.2.blk with
      | some b => if b.instr != .wfe && waitOver (s.at c p.1) then [b.instr] else []
      | none => []
    (own ++ stageRows).map fun i => Cand.slot i c p.1
  if (s.core c).stopped then blocked.map fun p => Cand.slot .retagComplete c p.1
  else blocked.flatMap each

/-- The releases of a core's domain that are due (R280, R334), after the arrivals of the clock at every core. -/
def releaseCands (s : State) (c : Nat) : List Cand :=
  if (s.core c).stopped then [] else [Cand.core .domainReleaseDeliver c]

/-- Raised traps. -/
def trapCands (s : State) (c : Nat) : List Cand :=
  if (s.core c).stopped then []
  else ((slotsOf s c).filter fun p => p.2.trap.isSome).map fun p => Cand.slot .trapEntry c p.1

/-- Contexts blocked in WFE whose EVT is set, by an event of this clock or an earlier one (R112). -/
def wakeCands (s : State) (c : Nat) : List Cand :=
  let waits (x : Ctx) : Bool := match x.blk with
    | some b => b.instr == .wfe && x.evt
    | none => false
  if (s.core c).stopped then [] else ((slotsOf s c).filter fun p => waits p.2).map fun p => Cand.slot .wfe c p.1

/-- Comparators, steps, trace and dump of a core. -/
def debugCands (s : State) (c : Nat) : List Cand :=
  let slots := slotsOf s c
  let per (i : Instr) : List Cand := slots.map fun p => Cand.slot i c p.1
  if (s.core c).stopped then []
  else
    per .debugStepHalt ++ per .traceSyncRecord ++ per .traceFlowRecord ++ [Cand.core .samplingPulse c, Cand.core .dumpEnd c]

/-- Imprecise hits that act before the issue of the clock (R225), the words that arrive over a link (R187), and the page walks that
are begun. -/
def hitCands (s : State) (c : Nat) : List Cand :=
  if (s.core c).stopped then []
  else Cand.core .watchpointImpreciseDeliver c ::
    (if (s.core c).linkFly.isEmpty then [] else [Cand.core .linkWordArrive c]) ++ walkStarts s c

/-- Counters that wrap at the end of the clock (R232). -/
def overflowCands (s : State) (c : Nat) : List Cand :=
  if (s.core c).stopped then [] else (List.range 4).map (Cand.part .counterOverflow c 0)

/-- Fetch buffers with room. -/
def fetchCands (s : State) (c : Nat) : List Cand :=
  if (s.core c).stopped then [] else (slotsOf s c).map fun p => Cand.slot .instructionFetch c p.1

/-! The units outside the cores. -/

/-- A square: leases, the ends of commands, records, then sending and starts. -/
def squareCands (s : State) (sq : Nat) : List Cand :=
  let cores := ((List.range 8).map (squareCore sq)).filter fun c => (mget s.cores c).isSome
  let per (i : Instr) : List Cand := cores.map (Cand.core i)
  let sends := (s.square sq).runs.flatMap fun r => (cmdInstr 1 r.ent.word).map fun i => Cand.part i r.ent.core 0 r.ent.id
  let starts := cores.flatMap fun c => match arrHead s c with
    | some e => (cmdInstr 1 e.word).map fun i => Cand.core i c
    | none => []
  -- a stopped square lets its busy command read, send and end (R263, R325)
  if cores.any fun c => (s.core c).stopped then sends ++ per .arrayCommandEnd
  else per .unleasedCommandReject ++ per .leaseReleaseDone ++ per .arrayCommandEnd ++ per .arrayRecordPush ++
    (per .leaseTurnEnd).take 1 ++ (per .leaseGrant).take 1 ++ sends ++ starts

/-- The row that performs a message at a meeting. -/
def meetingRow (m : Msg) : Instr :=
  match m.act with
  | .meetr _ => .meetrRequestArrive
  | _ => .meetArrive

/-- The row that performs a message at its home. -/
def goingRow (s : State) (m : Msg) : Option Instr :=
  match m.home with
  | .meeting p _ => if p < 8 then none else some (meetingRow m)
  | .queue _ _ => some (match m.act with
    | .tkput _ _ => .taskPacketAppend
    | _ => .taskPacketRemove)
  | .core _ => some .meetRejectionArrive
  | _ => some (match arriveRow s m with
    | .store | .other => .remoteStoreArrive
    | .atomic => .remoteAtomicArrive
    | .load => .remoteLoadArrive
    | .flag => .flagWindowArrive
    | .nibble => .nibbleMessageArrive
    | .wide => .hbm4eWriteArrive)

/-- The row that brings a reply back. -/
def comingRow (m : Msg) (r : Reply) : Instr :=
  match m.act with
  | .meetr _ => .meetrComplete
  | .tkget _ _ _ => .tkgetComplete
  | a =>
    if a.loads then .remoteLoadComplete
    else if !r.bad then .remoteAckReturn
    else if m.issuer.quiet then .traceWriteFail
    else .remoteFailureReturn

/-- The core of an event that is for no core. -/
def Cand.away (i : Instr) (n : Nat) : Cand := { instr := i, cur := { core := noCore, id := n } }

/-- Items in the order of their times, and of their identities at one time. -/
def byTime {α : Type} (l : List (Nat × Nat × α)) : List (Nat × Nat × α) :=
  let before (a b : Nat × Nat × α) : Bool := a.1 < b.1 || (a.1 == b.1 && a.2.1 < b.2.1)
  let rec put (a : Nat × Nat × α) : List (Nat × Nat × α) → List (Nat × Nat × α)
    | [] => [a]
    | b :: r => if before b a then b :: put a r else a :: b :: r
  l.foldr put []

/-- The die whose router delivers a message: of its home, or of its issuer once it has a reply. -/
def Msg.lastDie (s : State) (id : Nat) (m : Msg) : Nat :=
  match m.phase with
  | .coming _ _ => nodeDie m.source
  | _ => nodeDie (m.target s id)

/-- A router on the way of a message is in a relock, and holds its flits (R331). -/
def Msg.meshHeld (s : State) (id : Nat) (m : Msg) : Bool :=
  let dies := (List.range 12).filter (relocking s)
  !dies.isEmpty && (m.routers s id).any fun n => dies.contains (nodeDie n)

/-- When a message that is on its way in the mesh comes to its end. -/
def Msg.dueAt (m : Msg) : Option Nat :=
  match m.phase with
  | .going due | .coming _ due => some due
  | _ => none

/-- The row that a message on its way performs at its home or back at its issuer. -/
def Msg.row (s : State) (m : Msg) : Option Instr :=
  match m.phase with
  | .coming r _ => some (comingRow m r)
  | _ => goingRow s m

/-- The messages whose time has come, in the order of their arrival. -/
def dueMsgs (s : State) (on : Nat → Msg → Bool) : List (Nat × Msg) :=
  (byTime (s.msgs.filterMap fun p => match p.2.dueAt with
    | some due => if due ≤ s.now ∧ on p.1 p.2 then some (due, p) else none
    | none => none)).map fun m => m.2

/-- The mesh in a clock of a die: the messages that have come to their homes or back to their issuers by a router of the die,
unless a router holds them in a relock (R331); under no die's number, those sent again to a full port (R365). -/
def meshCands (s : State) (d : Nat) : List Cand :=
  if d = 12 then s.msgs.filterMap fun p => match p.2.phase with
    | .refused _ due => if due ≤ s.now then some (Cand.item .ingressResend p.1) else none
    | _ => none
  else (dueMsgs s fun id m => m.lastDie s id == d && !jobHeld s m.job && !m.meshHeld s id).filterMap fun p =>
    (p.2.row s).map fun i => Cand.away i p.1

/-- The frontier launches whose home is a plain; a parked one has none (R300). -/
def homedAt (s : State) (p : Option Nat) : List Nat :=
  s.launches.filterMap fun l => match l.2.frontier with
    | some f => if f.home = p then some l.1 else none
    | none => none

/-- A die dispatcher with its frontier home: one group starts in a clock (R273, R295). -/
def dispatchCands (s : State) (p : Nat) : List Cand :=
  let homed := homedAt s (some p)
  homed.map (Cand.item .frontierNoticeTake) ++ homed.map (Cand.item .frontierFire) ++ homed.map (Cand.item .frsaveImageWrite) ++
    [(Cand.item .groupStart p).once]

/-- A collective engine: deadlines, commands, then one arrival in a clock, in the order it has received them (R370). -/
def collectiveCands (s : State) (p : Nat) : List Cand :=
  let timers := ((s.plain p).meetings.filter fun m => m.2.timer.isSome).map fun m => Cand.item .meetingDeadline (64 * p + m.1)
  let cmds := (s.plain p).coll.flatMap fun e =>
    if jobHeld s e.job then []
    else match cmdInstr 2 e.word with
      | [] => [{ instr := .engineRecordArrive, cur := { core := e.core, id := e.id, flag := true } }]
      | is => is.map fun i => Cand.part i e.core 0 e.id
  let arrived := s.msgs.filterMap fun m => match m.2.home, m.2.arrival with
    | .meeting q _, some due => if q = p ∧ due ≤ s.now ∧ !jobHeld s m.2.job then some (due, m) else none
    | _, _ => none
  let arrivals := (byTime arrived).map fun m => (Cand.item (meetingRow m.2.2) m.2.1).once
  timers ++ cmds ++ arrivals

/-- The walks of a unit that go on. -/
def walkCands (s : State) (p : Plain) : List Cand :=
  (p.walks.filter fun w => !jobHeld s w.job).flatMap fun w =>
    [.tlbWalkComplete, .translationRegister].map fun i => Cand.part i w.core 0 w.id

/-- A die: its power and temperature, which go by package time. -/
def dieCands (d : Nat) : List Cand :=
  let power : List Instr := [.supplyRampEnd, .relockEnd, .linkWidthChange, .dieUngateComplete, .thermalThrottleStep]
  power.map (Cand.core · d)

/-- The near-memory units of a valley die, by their stacks (R321). -/
def nearCands (s : State) (d : Nat) : List Cand :=
  (s.near.filter fun n => !n.2.isEmpty && 8 + n.1 / 6 == d).map fun n => Cand.item .ngemvServe n.1

/-- What a die does at its own clock besides: its walks, the invalidations it owes an acknowledgement, on the north pass die the
directory (R317), and the near-memory units of a valley die. -/
def clockedCands (s : State) (d : Nat) : List Cand :=
  let invals := (s.invals.filter fun v => !jobHeld s v.job && v.dies.contains d).map fun v =>
    Cand.part .tlbinvDieAck v.core d v.id
  let retire : List Cand := if d = 10 then [{ instr := .translationRegister, cur := { core := noCore, flag := true } }] else []
  (if d < 8 ∨ d = 10 then walkCands s (unitPlain s d) else []) ++ invals ++ retire ++ nearCands s d

/-- The first request of some that has arrived, by the time of its arrival. -/
def firstDue (s : State) (l : List DispReq) : List DispReq :=
  ((l.filter fun r => r.due ≤ s.now).foldl (fun (b : Option DispReq) r =>
    match b with
    | none => some r
    | some q => if r.due < q.due ∨ (r.due = q.due ∧ r.id < q.id) then some r else some q) none).toList

/-- The command of eq3 of a request, or the record of a word that is none. -/
def requestCand (r : DispReq) : List Cand :=
  match r.ent with
  | none => [Cand.item .launchRequest r.id]
  | some e =>
    if r.loading.isSome then [Cand.item .frloadTakeEffect r.id]
    else match cmdInstr 3 e.word with
      | [] => [{ instr := .engineRecordArrive, cur := { core := e.core, id := r.id, flag := true } }]
      | is => is.map fun i => Cand.part i e.core 0 r.id

/-- The opcode of a request, 0 for a LAUNCH. -/
def DispReq.op (r : DispReq) : Nat :=
  match r.ent with
  | some e => e.op
  | none => 0

/-- The global dispatcher: requests in the order of their arrival, launch queues, dealing, and the sweep (R268 to R278,
R287, R350). -/
def dispatcherCands (s : State) : List Cand :=
  let rs := s.requests.filter fun r => !jobHeld s r.job
  -- a LAUNCH that HOLDDISP holds is accepted all the same, and not dealt (R269)
  let free (r : DispReq) : Bool := match r.ent with
    | some e => !r.held && !behindHeld s e
    | none => true
  let asked := (firstDue s (rs.filter fun r => free r && (r.op == 0 || r.op == 0x61))).head?
  let cards := firstDue s (rs.filter fun r => free r && r.op == 0x62)
  let others := rs.filter fun r => r.op != 0 && r.op != 0x61 && r.op != 0x62
  let open_ := s.jobs.filter fun j => !j.2.stopped
  let jobs := open_.map Prod.fst
  let gangs := ((s.launches.map fun l => l.2.gang).filter (· != 0)).dedup
  -- one order of acceptance: a LAUNCH or an FRLOAD has its place at its arrival and keeps it while it waits, a record of a queue
  -- when it is read (R268, R301)
  let read := (byTime (open_.filterMap fun j => j.2.lqAt.map fun t => (t, j.1, ()))).head?
  let recordFirst : Bool := match read, asked with
    | some x, some r => x.1 < r.due
    | some _, none => true
    | none, _ => false
  let launches := if recordFirst then [] else asked.toList
  let queues := match read with
    | some x => if recordFirst then [x.2.1] else []
    | none => if asked.isSome then [] else jobs
  (launches ++ cards ++ others).flatMap requestCand ++ (homedAt s none ++ s.lateSaves.map (·.1)).map (Cand.item .frsaveImageWrite) ++ (s.launches.map (·.1) ++ s.lateSaves.map (·.1)).map (Cand.item .frsaveEnd) ++
    queues.map (Cand.item .launchQueueEntry) ++ jobs.map (Cand.item .batchDeal) ++ gangs.map (Cand.item .gangStartRelease) ++
    [Cand.core .sweep 0, Cand.core .limiterTokenRenew 0]

/-- The stops of the partitions whose time has come, before anything else of the instant (R325). -/
def stopCands (s : State) : List Cand := s.gangs.flatMap fun g => (maskPlains g.2.runPlains).map fun d => Cand.slot .gangStop g.1 d

/-- The management controller: gang switches, shrinking, attestation, the ports, and cores that become free. -/
def controlCands (s : State) : List Cand :=
  let blocks := s.gangs.map Prod.fst
  let ports := s.ports.map Prod.fst
  let uports := s.ueports.map fun e => 36 + e.1
  let idle := (s.cores.filter fun c => c.2.group.isNone && !c.2.ready && !c.2.stopped).map Prod.fst
  blocks.map (Cand.core .gangSaveEnd) ++ blocks.map (Cand.core .gangRestoreEnd) ++
    [Cand.core .shrinkDrained 0, Cand.core .shrinkComplete 0, Cand.core .attestationDone 0] ++
    (ports ++ uports).map (Cand.core .portServiceResume) ++ ports.map (Cand.core .portTrainRetry) ++ idle.map (Cand.core .coreFree)

/-- What a unit may do next. -/
def candidates (s : State) : Agent → List Cand
  | .gang => stopCands s
  | .north => dispatcherCands s
  | .control => controlCands s
  | .mesh d => meshCands s d
  | .die d => dieCands d
  | .clocked d => clockedCands s d
  | .dispatch p => dispatchCands s p
  | .collective p => collectiveCands s p
  | .square sq => squareCands s sq
  | .bank _ => []
  | .count c => hitCands s c
  | .issue c => issueCands s c
  | .complete c => completeCands s c
  | .fullEmpty c => fullEmptyCands s c
  | .storeQ c => storeCands s c
  | .chan c ch => chanCands s c ch
  | .engines c => engineCands s c
  | .flagsEnd _ => []
  | .cont c => contCands s c
  | .release c => releaseCands s c
  | .trap c => trapCands s c
  | .wake c => wakeCands s c
  | .debug c => debugCands s c
  | .fetch c => fetchCands s c
  | .done c => overflowCands s c

/-! The close of a unit's clock. -/

/-- The head command of the array's holder is stalled (R240). -/
def headStalled (s : State) (sq : Nat) : Bool :=
  let q := s.square sq
  match holderOf s sq with
  | some c => poisedRun s c || (q.startAt ≤ sqNow s sq && q.busyTill ≤ sqNow s sq && !q.wantToken && (s.core c).lease.left != 0 &&
      (match arrHead s c with
       | some e => e.leased
       | none => false))
  | none => false

/-- Corrections of the clock are counted after it (R169). -/
def countEcc (s : State) (c : Nat) : State :=
  let n := (s.core c).eccNow
  if n = 0 then s else s.updCore c fun k => { k with eccCount := satAdd k.eccCount n 65535, eccNow := 0 }

/-- The banks are free again, and what has been written to RW fields holds from the next clock on (R109, R144). -/
def nextClock (s : State) (c : Nat) : State :=
  s.updCore c fun k => applyLate { k with bankWin := [], bankUsed := [], events := [], dump := { k.dump with fresh := false } }

/-- The counters of a stopped core stand still: what runs to its end after the stop is not counted (R325). -/
def pmcStill (s : State) (c : Nat) : State :=
  s.updCore c fun k => { k with pmcs := k.pmcs.map fun p => (p.1, { p.2 with bump := 0 }) }

/-- The end of a core's clock: a LOST record that is owed, the corrections of the clock, those of the dump among them, the counters, and
the granules of RETAG actions. A stopped core lets only these run (R325). -/
def endClock (s : State) (c : Nat) : State :=
  let s := if (s.core c).stopped then pmcStill s c else pmcEnd (countEcc (lostRecord s c) c) c
  nextClock (retagClock s c) c

/-! The banks' grants (R144). -/

/-- The reads that an instruction its context is blocked in asks for: of a TCMDM, a TKPUT, a PACK, an UNPACK or a PEXT. -/
def blockedWants (s : State) (b : Blk) : List (List (Nat × Nat)) :=
  match b.instr with
  | .tcmdm _ _ => if enterDue s then [pushPieces b] else []
  | .tkput _ _ =>
    let a := ptrAddr (arg b.held 1)
    if b.stage = 1 && !(s.me.halted && b.aux == 1) && localTurn s a 8 then [[(a, 8)]] else (tkputDue s).toList.map fun p => [(p.2.2.2, p.2.2.1)]
  | i@(.pack _ _ _) | i@(.unpack _ _ _) | i@(.pext _ _ _) =>
    if b.stage = 1 && polyDue i b s then
      ((polyLeft i b s).takeWhile fun p => !wmBlocks s.myCore none p.1 p.2).map fun p => [p]
    else []
  | _ => []

/-- The words that the entries of raised traps read for their lengths (R86). -/
def trapWants (s : State) (c : Nat) : List (List (Nat × Nat)) :=
  (slotsOf s c).filterMap fun x => x.2.trap.bind fun r =>
    if x.2.pend.isEmpty && !x.2.halted && x.2.readsLength (s.core c) r && !wmBlocks (s.core c) none r.pc 4 then some (trapPieces r)
    else none

/-- The accesses that the pipeline of a core asks for in this clock: data ahead of fetch. A stopped core asks for the loads alone that run
to their end (R325). -/
def pipelineWants (s : State) (c : Nat) : List (List (Nat × Nat)) :=
  let k := s.core c
  let waits (p : Pend) : Bool := k.feTable.any fun e => e.2.2 == p.id
  let loads := (slotsOf s c).flatMap fun x => x.2.pend.filterMap fun p => match p.kind with
    | .loc a _ =>
      if k.stopped && !runsOn s c x.1 p then none
      else if waits p then (feServed s c x.1 p).map accPieces
      else if p.res.isNone && p.due ≤ s.clk c && accDue s c x.1 p a then some (accPieces a)
      else none
    | _ => none
  let blocked := (slotsOf s c).flatMap fun x => match x.2.blk with
    | some b => if x.2.halted && x.2.trap.isSome then [] else blockedWants (s.at c x.1) b
    | none => []
  let stores := (k.storeQ.head?.toList.filter fun e => storeDue s c e (storePieces e)).map storePieces
  let fetched := (slotsOf s c).filterMap fun x =>
    let a := x.2.pc + x.2.fbuf.length
    if fetches x.2 && fetchable k a && !wmBlocks k none a 4 then some [(a, 4)] else none
  if k.stopped then loads else loads ++ blocked ++ stores ++ trapWants s c ++ fetched

/-- The reads that the array commands of a core ask for (R236). -/
def arrayWants (s : State) (c : Nat) : List (List (Nat × Nat)) :=
  (s.square (coreSquare c)).runs.flatMap fun r =>
    if r.ent.core = c ∧ r.nextAt ≤ sqNow s (coreSquare c) then
      ((nextUnits 64 none [] r.reads).map fun u => readsIn [u] r.reads).takeWhile (!readsBlocked (s.core c) ·)
        |>.map fun l => l.map ArrRead.piece
    else []

/-- The read of the definition of an MDEF that the collective engine serves for a core (R368). -/
def defWants (s : State) (c : Nat) : List (List (Nat × Nat)) :=
  match (s.plain (coreDie c)).coll.find? fun e => e.core == c with
  | some e =>
    if e.held || jobHeld s e.job then []
    else (match decodeCmd 2 e.word with
      | .ok (.mdefDefine _ deff _ _) | .ok (.mdefDestroy _ deff _ _) => if mdefDue s e deff then [[(ptrAddr deff, 32)]] else []
      | _ => [])
  | none => []

/-- The writes that the packets of a core's TKGETs ask for. -/
def packetWants (s : State) (c : Nat) : List (List (Nat × Nat)) :=
  s.msgs.filterMap fun p =>
    if jobHeld s p.2.job || p.2.issuer.core? != some c then none
    else (tkgetDue s p.1).map fun r => tkgetPieces r.2.1 r.2.2.1

/-- The accesses that messages ask for at a core, of one requester. -/
def messageWants (s : State) (c r : Nat) : List (List (Nat × Nat)) :=
  s.msgs.filterMap fun p =>
    if p.2.requester = r && !jobHeld s p.2.job && msgDue s p.1 p.2 then (match msgPieces s p.2 with
      | some (d, ps) => if d = c then some ps else none
      | none => none)
    else none

/-- The accesses that a copy engine asks for besides its messages: of its channels and of the dump writer. -/
def copyWants (s : State) (c : Nat) : List (List (Nat × Nat)) :=
  let d := (s.core c).dump
  let dump := if dumpIdle d && !dumpOver s c && dumpOpen (s.core c) (dumpNext s c 12 d.pos) then
    [dumpPieces (dumpNext s c 12 d.pos)] else []
  if (s.core c).stopped then [] else ((s.core c).chans.map fun h => chanWants s c h.1) ++ dump

/-- What each requester asks for: the requester and the banks of an access. -/
def bankWants (s : State) (c : Nat) : List (Nat × List Nat) :=
  let by_ (r : Nat) (l : List (List (Nat × Nat))) : List (Nat × List Nat) := (l.map banksOf).map (Prod.mk r)
  (by_ 0 (pipelineWants s c) ++ by_ 1 (messageWants s c 1 ++ packetWants s c ++ arrayWants s c ++ defWants s c) ++
      by_ 2 (messageWants s c 2 ++ copyWants s c)).filter
    fun w => !w.2.isEmpty

/-- The turn of a requester at a bank: the one after the last granted comes first (R144). -/
def bankTurn (k : Core) (b r : Nat) : Nat := (r + 2 - mgetD k.bankLast b 2) % 3

/-- The grants of a clock, bank by bank: a bank goes to the next requester in its rotation that has an access of which no bank
has gone to another one, and so do the other banks of that access. -/
def bankGrants (k : Core) (wants : List (Nat × List Nat)) : Map Nat :=
  (List.range 32).foldl (fun won b =>
    if (mget won b).isSome then won
    else
      let open_ (w : Nat × List Nat) : Bool := w.2.contains b && w.2.all fun x => mgetD won x w.1 == w.1
      match (List.range 3).findSome? fun i => wants.find? fun w => bankTurn k b w.1 == i && open_ w with
      | some w => w.2.foldl (fun m x => mset m x w.1) won
      | none => won) []

/-- The grants a clock loses: the requesters of each bank besides the one it goes to. -/
def lostGrants (wants : List (Nat × List Nat)) : Nat :=
  ((List.range 32).map fun b => ((wants.filter fun w => w.2.contains b).map Prod.fst).dedup.length - 1).foldl (· + ·) 0

/-- A clock that a load, an LDE or an AMO waits on a watermark puts its completion off by one (R152, R170). -/
def putOff (k : Core) (p : Pend) : Pend :=
  match p.kind with
  | .loc a _ =>
    if p.res.isNone && (k.feTable.all fun e => e.2.2 != p.id) && (accPieces a).any fun q => wmBlocks k none q.1 q.2 then
      { p with due := p.due + 1 }
    else p
  | _ => p

/-- The loads of a core that wait on a watermark in this clock. -/
def waterClock (s : State) (c : Nat) : State :=
  if (s.core c).stopped || (s.core c).chans.all fun h => h.2.wm.isNone then s
  else s.updCore c fun k =>
    { k with ctxs := k.ctxs.map fun x => (x.1, { x.2 with pend := x.2.pend.map (putOff k) }) }

/-- The banks of a core grant the accesses of a clock (R144). -/
def bankClock (s : State) (c : Nat) : State :=
  let s := waterClock s c
  let wants := bankWants s c
  if wants.isEmpty then s
  else s.updCore c fun k =>
    let won := bankGrants k wants
    let k := { k with bankWin := won, bankLast := won.foldl (fun m w => mset m w.1 w.2) k.bankLast }
    pmcCount k 6 none (lostGrants wants)

/-- Words that are no instruction take their turn to issue (R51, R147). -/
def issueTurn (s : State) (c : Nat) : State :=
  match issuer s c with
  | some t => (match (s.ctx c t).head with
    | .instr _ => s
    | _ => issueBad (s.at c t))
  | none => s

/-- What a unit does when none of its rows is left to perform. -/
def closeAgent (s : State) : Agent → State
  | .bank c => bankClock s c
  | .count c =>
    if (s.core c).stopped then s
    else
      let s := endHolds s c
      pmcClock s c (issuer s c)
  | .issue c => if (s.core c).stopped then s else issueTurn s c
  | .engines c => traceSend s c
  -- the dump reads behind the fetch of the clock, ahead of the counters that count its corrections (R232, R233)
  | .fetch c => if (s.core c).stopped then s else dumpAdvance s c
  | .north => faultSend s
  | .flagsEnd c => flagsEndOf s c
  | .done c => endClock s c
  | .square sq =>
    let s := holdBusy s sq
    if s.cores.any fun c => coreSquare c.1 == sq && c.2.stopped then s else stallClock s sq (headStalled s sq)
  | _ => s

/-! Time. -/

/-- The dies whose clocks run: not gated, not in a relock (R331, R332). -/
def runningDies (s : State) : List Nat := (List.range 12).filter fun d => !(s.die d).gated && !relocking s d

/-- The next clock edge of a running die; a count of package time on, where no clock runs. -/
def nextEdge (s : State) : Nat :=
  ((runningDies s).map fun d => (s.die d).edge).foldl (fun (b : Option Nat) e => match b with
    | none => some e
    | some x => some (min x e)) none |>.getD (s.now + Config.grainsPerCount)

/-- The units that act at an instant, in their order. -/
def agenda (s : State) (dies : List Nat) : List Agent :=
  let cores := (s.cores.map Prod.fst).filter fun c => dies.contains (coreDie c)
  let squares := ((cores.map coreSquare) ++ (s.squares.map Prod.fst).filter fun q => dies.contains (q / 256)).dedup
  let plains := dies.filter (· < 8)
  -- the routers of a gated die stay powered (R332)
  let routed := dies ++ (List.range 12).filter fun d => (s.die d).gated && !dies.contains d
  .gang :: cores.map .bank ++ cores.map .fullEmpty ++ cores.map .storeQ ++ cores.flatMap (fun c => [.count c, .issue c]) ++ cores.map .complete ++
    (routed ++ [12]).map .mesh ++
    cores.flatMap (fun c => (s.core c).chans.map fun h => .chan c h.1) ++ squares.map .square ++ cores.map .engines ++
    plains.map .dispatch ++ (List.range 12).map .die ++ routed.map .clocked ++ plains.map .collective ++
    (if dies.contains 10 then [.north] else []) ++ [.control] ++ cores.map .flagsEnd ++
    cores.map .cont ++ cores.map .release ++ cores.map .trap ++ cores.map .wake ++ cores.map .debug ++ cores.map .fetch ++ cores.map .done

/-- The sampling pulses that are due: the number of the next one and its time, and the times of the last three (R354). -/
def pulseDue (m : Mgmt) (time : Nat) : Mgmt :=
  match m.pulseAt with
  | some t =>
    if t ≤ time then
      if m.spperiod = 0 then { m with pulseNo := m.pulseNo + 1, pulseAt := none, pulsesAt := (t :: m.pulsesAt).take 3 }
      else
        let n := (time - t) / m.spperiod + 1
        let last := (List.range (min n 3)).map fun j => t + (n - 1 - j) * m.spperiod
        { m with pulseNo := m.pulseNo + n, pulseAt := some (t + n * m.spperiod), pulsesAt := (last ++ m.pulsesAt).take 3 }
    else m
  | none => m

/-- Time passes to the next clock edge. -/
def tick (s : State) : State :=
  let now := max s.now (nextEdge s)
  let due := (runningDies s).filter fun d => (s.die d).edge ≤ now
  let turn (s : State) (d : Nat) : State :=
    s.updDie d fun x => { x with clk := x.clk + 1, edge := now + Config.clockGrains x.current }
  let s := due.foldl turn { s with now := now }
  { s with todo := agenda s due, mgmt := pulseDue s.mgmt s.ptime, cur := {} }

/-! One step. -/

/-- Perform the first candidate that its unit has; `rest` is what is left to do when the unit does no more. -/
def tryAll (s : State) (a : Agent) (rest : List Agent) : List Cand → Option (Host.Outcome State Fault Refusal)
  | [] => none
  | x :: l =>
    match exec x.instr { s with cur := x.cur, todo := if x.stays then a :: rest else rest } with
    | .refused _ => tryAll s a rest l
    | o => some o

/-- Let the units act in turn: the first row that can be performed, or the state when none is left. -/
def runAgents : List Agent → State → Host.Outcome State Fault Refusal ⊕ State
  | [], s => .inr { s with todo := [] }
  | a :: rest, s =>
    match tryAll s a rest (candidates s a) with
    | some o => .inl o
    | none => runAgents rest (closeAgent s a)

/-- What the outside does next, where the package lets it. -/
def takeInput (s : State) : Option (Host.Outcome State Fault Refusal) :=
  match s.inputs with
  | [] => none
  | (i, c) :: rest =>
    match exec i { s with cur := c, inputs := rest } with
    | .refused _ => none
    | o => some o

/-- The next input is a module reset. -/
def resetNext (s : State) : Bool :=
  match s.inputs with
  | (.moduleReset, _) :: _ => true
  | _ => false

/-- One step: a row of the table, or time passes. Once every clock has stopped, only a module reset goes on (R355). -/
def advance (s : State) : Host.Outcome State Fault Refusal :=
  if s.halt && !resetNext s then .fault .thermalShutdown
  else
    match runAgents (if s.halt then [] else s.todo) s with
    | .inl o => o
    | .inr s =>
      match takeInput s with
      | some o => o
      | none => .next (tick s)

/-- The fields of a context that runs an instruction at the head of its fetch buffer. -/
def runningCtx (bytes : List Byte) : Ctx := { status := .live, fbuf := bytes }

/-- Core 0 runs an instruction next: its bytes stand in the scratchpad and the fetch buffer of its control context, and its
issue is what is left of the clock (log entry 9). -/
def placeInstr (s : State) (bytes : List Byte) : State :=
  let s := s.updCore 0 fun k =>
    { k with group := some { id := 0, launch := 0, job := 0, lin := 0, coord := (0, 0, 0), kind := 0 }
             spad := memWrite k.spad 0 bytes, ctxs := [(0, runningCtx bytes)] }
  { s with todo := [.issue 0] }

end Sys2Proof.Machine
end

