-- ==== Sys2Proof/Machine/Step.lean ====
section
/-! DEFINITION. One step of the machine. -/

namespace Sys2Proof.Machine

/-- One step: the next row of the table that some unit performs, or the passing of time to the next clock edge. -/
def step (s : State) : Host.Outcome State Fault Refusal := advance s

/-- The state with an instruction placed where the next step fetches it: its bytes above nbits are zero (log entry 9). -/
def State.withFetchWord (s : State) (nbits w : Nat) : State := placeInstr s (toLeBytes 12 (w % 2 ^ nbits))

end Sys2Proof.Machine
end

