-- ==== Sys2Proof/Safety.lean ====
section
/-! DEFINITION. What claims count as a safe run: a step that does not stop, and the form that every memory of the package
keeps. -/

namespace Sys2Proof.Machine

/-- The scratchpads of some cores are in canonical form. -/
def spadsWf (cores : Map Core) : Bool := cores.all fun p => Memory.wf p.2.spad

/-- Every memory of the package is in canonical form: device memory, host memory, each scratchpad, and the scratchpads that
save images keep. -/
def State.memoriesWf (s : State) : Bool :=
  Memory.wf s.hbm && Memory.wf s.host && spadsWf s.cores && s.images.all fun i => spadsWf i.cores

/-- A step went on to a next state. -/
def goesOn : Host.Outcome State Fault Refusal → Bool
  | .next _ => true
  | _ => false

/-! Issue. -/

/-- The conditions under which a context issues an instruction: it may issue at all, no pending instruction stands at the end
of its window or has a register the instruction names (R75, R81), no comparator hits it (R222, R225), nothing traps or halts it
first (R43, R44, R108, R218), its unit accepts it, its address is translated (R176) and its first transfer can proceed (R77). -/
def issues (i : Instr) (s : State) : Bool :=
  mayIssue s &&
  (s.me.pend.all fun p => p.n < p.l && (touched i).all fun r => !p.uses.contains r) &&
  impDue s == none &&
  execHit s == none &&
  !illegalHere s.cur.core s.cur.slot i && csrVerdict i s == .go && (!drains i || s.me.pend.isEmpty) && unitFree i s &&
  !(i == .brk && s.myCore.brkHalt) && walkVerdict i s == .go && transferVerdict i s == .go

/-- A context reaches the tests of the instruction it would issue: it may issue, stands within every window, and no comparator
or imprecise trap comes first (R75, R81, R222, R225). -/
def reachesIssue (s : State) : Bool :=
  mayIssue s && (s.me.pend.all fun p => p.n < p.l) && impDue s == none && execHit s == none

/-- The machine after an instruction has issued and completed, before any effect of its own: its issue is counted, the program
counter stands behind it (R78, R81). -/
def issued (i : Instr) (s : State) : State := complete (noteIssue i s)

/-- The result of a scalar instruction of registers: it has issued, and register d takes the value (R64). -/
def writesX (i : Instr) (d : Fin 48) (w : Word) (s : State) : State := (issued i s).updMe fun x => x.setX d w

/-- The machine after a long-latency instruction has issued: it is pending, with its window and its registers (R79, R81), and
has its outcome or still waits for it. -/
def pends (i : Instr) (kind : PendKind) (due : Nat) (res : Option PendRes) (s : State) : State :=
  ({ issued i s with nextId := s.nextId + 1 } : State).updMe fun x => { x with
    pend := x.pend ++ [{ id := s.nextId, l := (laOf i).getD 0, pc := s.me.pc, uses := pendingRegs i, dst := pendDst i
                         kind := kind, due := due, res := res }] }

/-- The machine after an instruction has issued and its context is blocked in it at a stage, with the values it took. -/
def blocks (i : Instr) (stage : Nat) (aux : Word) (held : List VWord) (s : State) : State :=
  (noteIssue i s).updMe fun x => { x with
    blk := some { instr := i, pc := s.me.pc, len := instrLen i, held := held, stage := stage, aux := aux
                  exempt := s.me.exempt, nbv2 := s.me.nbv2, since := s.clk s.cur.core } }

/-- A trap of the issuing context is taken at once, at a level below the second, and leaves no trace record and no debug
halt. -/
def trapsPlainly (s : State) : Bool :=
  s.me.pend.isEmpty && s.me.tl < 2 && !tracesSlot s.myCore s.cur.slot && s.me.stepping.isNone

/-- The machine after its context has taken a trap with issue or wait delivery (R85, R86): the trap registers of the next level
are written, with the program counter `pc` and the length `ilen`, and the context stands at that level's vector in runtime
mode. -/
def enters (cause : Nat) (value : Word) (pc ilen : Nat) (s : State) : State :=
  let level := s.me.tl + 1
  let b := s.me.bank level
  let stat := 256 * ilen + 1024 * b2n (s.me.mode == .runtime)
  let b' : TrapBank := { b with tcause := wordOf cause, tvalue := value, tepc := wordOf (pc % 2 ^ 52), tstat := wordOf stat }
  s.updMe fun x => { x.setBank level b' with
    tl := level, mode := .runtime, pc := b.tvec.toNat, fbuf := [], ffault := none, trap := none, blk := none, walking := none
    notBefore := s.clk s.cur.core + 1 }

/-- The machine after an instruction has issued and trapped. -/
def traps (i : Instr) (cause : Nat) (value : Word) (pc ilen : Nat) (s : State) : State :=
  enters cause value pc ilen (noteIssue i s)

/-- The length of the word at `pc` is known without a read of the scratchpad (R86): the fetch buffer holds the word, or it cannot be
fetched. -/
def lengthKnown (s : State) (pc : Nat) : Bool := (s.me.pc == pc && 4 ≤ s.me.fbuf.length) || !fetchable s.myCore pc

/-- The machine after its context has raised a trap whose entry still has to read the word at `pc` (R86). -/
def raises (cause : Nat) (value : Word) (pc : Nat) (s : State) : State :=
  s.updMe fun x => { x with trap := some { cause := cause, value := value, pc := pc }, blk := none, walking := none }

/-- The issuing context is blocked in an instruction at a stage of its own, and runs. -/
def blockedIn (i : Instr) (stage : Nat) (s : State) : Bool :=
  !s.me.halted && s.me.status == .live && match s.me.blk with
    | some b => b.instr == i && b.stage == stage && b.outs == []
    | none => false

/-! Local access (R143, R151). -/

/-- The bytes of a local access by a fat pointer: its address if it lies in the scratchpad, naturally aligned. -/
def localAt (base : Word) (off : Int) (n : Nat) : Option Nat :=
  let a : Int := (base.toNat % 2 ^ 52 : Nat) + off
  if 0 ≤ a ∧ a + n ≤ 0x80000 ∧ a.toNat % n = 0 then some a.toNat else none

/-- Every granule of a range has a tag that the pointer's key passes (R161). -/
def tagsPass (s : State) (base : Word) (a n : Nat) : Bool :=
  (List.range n).all fun i => tagMatch (tagAt s.myCore (a + i)) (base.toNat / 2 ^ 52 % 16)

/-- No data comparator of a core is armed, and no word of its scratchpad fails. -/
def quietAt (s : State) (c : Nat) : Bool :=
  (List.range 4).all (fun n => wpAction (mgetD (s.core c).comps n {}).ctl == 0) &&
  s.upsets.all fun u => !([1, 5, 6, 8].contains u.kind && u.unit == c)

/-- The core the step is for is quiet. -/
def quietCore (s : State) : Bool := quietAt s s.cur.core

/-! Messages and what the outside leaves open. -/

/-- The machine after a message has been sent: it has the next identity, is on its way until `due`, and its launch counts it
on its issuer's die (R172, R277). -/
def sends (due : Nat) (m : Msg) (s : State) : State :=
  ({ s with free := s.free + 1, nextId := s.nextId + 1, msgs := mset s.msgs s.nextId { m with phase := .going due } } : State).updLaunch
    m.launch fun l => { l with sent := mset l.sent m.issuer.die (mgetD l.sent m.issuer.die 0 + 1) }

/-- The message the step is for. -/
def message (s : State) : Option Msg := mget s.msgs s.cur.id

/-- The message the step is for has its answer, and it is on its way back until `due`. -/
def answered (s t : State) (r : Reply) : Prop :=
  ∃ m due, message s = some m ∧ s.now < due ∧ mget t.msgs s.cur.id = some { m with phase := .coming r due }

/-- The memory of another place than a core's scratchpad is unchanged. -/
def onlySpad (c : Nat) (s t : State) : Prop :=
  t.hbm = s.hbm ∧ t.host = s.host ∧ ∀ k : Nat, k ≠ c → (t.core k).spad = (s.core k).spad

/-- No scratchpad is changed. -/
def sameSpads (s t : State) : Prop := ∀ k : Nat, (t.core k).spad = (s.core k).spad

end Sys2Proof.Machine
end

