-- ==== Sys2Proof/Certificates/Slice0/Obligations.lean ====
section
/-! DEFINITION. The statements for the provers, from the numbered rules of the spec. -/

open Sys2Proof Sys2Proof.Machine

/-! Register arithmetic (R93 to R101). -/

/-- Part 1: The instructions of R93 with two sources and the value each gives. -/
def twoSourceRows1 : List ((SOp → SOp → SOp → Instr) × (Word → Word → Word)) :=
  [(.add, fun a b => a + b), (.sub, fun a b => a - b), (.mul, fun a b => a * b),
   (.mulh, fun a b => BitVec.ofInt 64 (a.toInt * b.toInt / (2 ^ 64 : Nat))),
   (.mulhu, fun a b => BitVec.ofNat 64 (a.toNat * b.toNat / 2 ^ 64)),
   (.and, fun a b => a &&& b), (.or, fun a b => a ||| b), (.xor, fun a b => a ^^^ b)]

/-- Part 2: The instructions of R93 with two sources and the value each gives. -/
def twoSourceRows2 : List ((SOp → SOp → SOp → Instr) × (Word → Word → Word)) :=
  [(.andn, fun a b => a &&& ~~~b), (.orn, fun a b => a ||| ~~~b),
   (.sll, fun a b => BitVec.ofNat 64 (a.toNat * 2 ^ (b.toNat % 64))),
   (.srl, fun a b => BitVec.ofNat 64 (a.toNat / 2 ^ (b.toNat % 64))),
   (.sra, fun a b => BitVec.ofInt 64 (a.toInt / (2 ^ (b.toNat % 64) : Nat))),
   (.min, fun a b => if a.toInt ≤ b.toInt then a else b), (.max, fun a b => if a.toInt ≤ b.toInt then b else a),
   (.minu, fun a b => if a.toNat ≤ b.toNat then a else b), (.maxu, fun a b => if a.toNat ≤ b.toNat then b else a)]

/-- Part 3: The instructions of R93 with two sources and the value each gives. -/
def twoSourceRows3 : List ((SOp → SOp → SOp → Instr) × (Word → Word → Word)) :=
  [(.slt, fun a b => if a.toInt < b.toInt then 1 else 0), (.sltu, fun a b => if a.toNat < b.toNat then 1 else 0),
   (.seq, fun a b => if a = b then 1 else 0), (.sne, fun a b => if a = b then 0 else 1),
   (.addp, fun a b => BitVec.ofNat 64 (a.toNat / 2 ^ 52 * 2 ^ 52 + ((a.toNat + b.toNat) % 2 ^ 52)))]

/-- The instructions of R93 with two sources and the value each gives. -/
def twoSourceRows : List ((SOp → SOp → SOp → Instr) × (Word → Word → Word)) := twoSourceRows1 ++ twoSourceRows2 ++ twoSourceRows3

/-- The two-source instructions of R93 with register operands: the instruction issues and d takes the value of the table, for
every register as operand, x0 included (it reads 0 and discards the result, R64). -/
def Obligations.TwoSourceResult : Prop :=
  ∀ row ∈ twoSourceRows, ∀ (d a b : Fin 48) (s : State), issues (row.1 (.x d) (.x a) (.x b)) s = true →
    exec (row.1 (.x d) (.x a) (.x b)) s =
      .next (writesX (row.1 (.x d) (.x a) (.x b)) d (row.2 (s.me.getX a) (s.me.getX b)) s)

/-- Part 1: The instructions of R93 with one source and those of R100, and the value each gives. -/
def oneSourceRows1 (imm : BitVec 12) : List ((SOp → SOp → Instr) × (Word → Word)) :=
  [(.clz, fun a => if a = 0 then 64 else BitVec.ofNat 64 (63 - Nat.log2 a.toNat)),
   (.ctz, fun a => BitVec.ofNat 64 (((List.range 64).find? fun i => a.getLsbD i).getD 64)),
   (.pop, fun a => BitVec.ofNat 64 ((List.range 64).filter fun i => a.getLsbD i).length),
   ((.addi · · imm), fun a => a + imm.signExtend 64), ((.andi · · imm), fun a => a &&& imm.signExtend 64),
   ((.ori · · imm), fun a => a ||| imm.signExtend 64), ((.xori · · imm), fun a => a ^^^ imm.signExtend 64)]

/-- Part 2: The instructions of R93 with one source and those of R100, and the value each gives. -/
def oneSourceRows2 (imm : BitVec 12) (sh : BitVec 6) : List ((SOp → SOp → Instr) × (Word → Word)) :=
  [((.slti · · imm), fun a => if a.toInt < imm.toInt then 1 else 0),
   ((.sltui · · imm), fun a => if a.toNat < (imm.signExtend 64).toNat then 1 else 0),
   ((.slli · · sh), fun a => BitVec.ofNat 64 (a.toNat * 2 ^ sh.toNat)),
   ((.srli · · sh), fun a => BitVec.ofNat 64 (a.toNat / 2 ^ sh.toNat)),
   ((.srai · · sh), fun a => BitVec.ofInt 64 (a.toInt / (2 ^ sh.toNat : Nat))),
   ((.addpi · · imm), fun a => BitVec.ofNat 64
     (a.toNat / 2 ^ 52 * 2 ^ 52 + ((a.toNat + (imm.signExtend 64).toNat) % 2 ^ 52)))]

/-- Part 3: The instructions of R93 with one source and those of R100, and the value each gives. -/
def oneSourceRows3 (pos lenm1 : BitVec 6) (fmt : BitVec 5) (blog : BitVec 3) (key : BitVec 4) :
    List ((SOp → SOp → Instr) × (Word → Word)) :=
  [((.bfx · · pos lenm1), fun a => ((a >>> pos.toNat).setWidth (lenm1.toNat + 1)).signExtend 64),
   ((.bfxu · · pos lenm1), fun a => BitVec.ofNat 64 (a.toNat / 2 ^ pos.toNat % 2 ^ (lenm1.toNat + 1))),
   ((.pfmt · · fmt blog), fun a => (fmt ++ blog ++ a.setWidth 56 : BitVec 64)),
   ((.pkey · · key), fun a => (a.extractLsb' 56 8 ++ key ++ a.setWidth 52 : BitVec 64))]

/-- The instructions of R93 with one source and those of R100, and the value each gives. -/
def oneSourceRows (imm : BitVec 12) (sh pos lenm1 : BitVec 6) (fmt : BitVec 5) (blog : BitVec 3) (key : BitVec 4) :
    List ((SOp → SOp → Instr) × (Word → Word)) := oneSourceRows1 imm ++ oneSourceRows2 imm sh ++ oneSourceRows3 pos lenm1 fmt blog key

/-- CLZ, CTZ, POP (R93) and the immediate forms of R100 that do not read d, with register operands: the instruction issues
and d takes the value of the tables. -/
def Clause.OneSourceResult : Prop :=
  ∀ (imm : BitVec 12) (sh pos lenm1 : BitVec 6) (fmt : BitVec 5) (blog : BitVec 3) (key : BitVec 4),
    ∀ row ∈ oneSourceRows imm sh pos lenm1 fmt blog key, ∀ (d a : Fin 48) (s : State),
      issues (row.1 (.x d) (.x a)) s = true →
        exec (row.1 (.x d) (.x a)) s = .next (writesX (row.1 (.x d) (.x a)) d (row.2 (s.me.getX a)) s)

/-- LIT, LITH (R50), BFI (R100) and SEL (R101) with register operands: LIT writes its literal sign-extended, LITH replaces the
upper half of d, BFI replaces bits [pos+len-1:pos] of d by the low bits of its source, SEL chooses by its first source. -/
def Clause.LiteralsAndSelect : Prop :=
  ∀ (d a b c : Fin 48) (imm : BitVec 32) (pos lenm1 : BitVec 6) (s : State),
    (issues (.lit (.x d) imm) s = true →
      exec (.lit (.x d) imm) s = .next (writesX (.lit (.x d) imm) d (imm.signExtend 64) s)) ∧
    (issues (.lith (.x d) imm) s = true →
      exec (.lith (.x d) imm) s =
        .next (writesX (.lith (.x d) imm) d (imm ++ (s.me.getX d).setWidth 32 : BitVec 64) s)) ∧
    (issues (.bfi (.x d) (.x a) pos lenm1) s = true → pos.toNat + lenm1.toNat < 64 →
      ∃ w : Word, exec (.bfi (.x d) (.x a) pos lenm1) s = .next (writesX (.bfi (.x d) (.x a) pos lenm1) d w s) ∧
        ∀ n : Nat, n < 64 → w.getLsbD n =
          if pos.toNat ≤ n ∧ n ≤ pos.toNat + lenm1.toNat then (s.me.getX a).getLsbD (n - pos.toNat)
          else (s.me.getX d).getLsbD n) ∧
    (issues (.sel (.x d) (.x a) (.x b) (.x c)) s = true →
      exec (.sel (.x d) (.x a) (.x b) (.x c)) s =
        .next (writesX (.sel (.x d) (.x a) (.x b) (.x c)) d
          (if s.me.getX a ≠ 0 then s.me.getX b else s.me.getX c) s))

/-- The results of the scalar instructions of one source and of the literals. -/
def Obligations.ScalarResults : Prop := Clause.OneSourceResult ∧ Clause.LiteralsAndSelect

/-- The divides of R95 and the value each gives for a divisor that is not zero: the quotient truncates toward zero, the
remainder takes the sign of the dividend. -/
def divideRows : List ((SOp → SOp → SOp → BitVec 4 → Instr) × (Word → Word → Word)) :=
  [(.div, fun a b => BitVec.ofInt 64 (Int.tdiv a.toInt b.toInt)), (.divu, fun a b => BitVec.ofNat 64 (a.toNat / b.toNat)),
   (.rem, fun a b => BitVec.ofInt 64 (Int.tmod a.toInt b.toInt)), (.remu, fun a b => BitVec.ofNat 64 (a.toNat % b.toNat))]

/-- R95, R97: a divide by a divisor that is not zero issues and is pending for 36 clocks with its result; a divide by zero
traps at issue with cause 0x0D and TVALUE 0, and is not pending. -/
def Obligations.DivideIssues : Prop :=
  ∀ row ∈ divideRows, ∀ (d a b : Fin 48) (la : BitVec 4) (s : State),
    let i := row.1 (.x d) (.x a) (.x b) la
    issues i s = true →
      (s.me.getX b ≠ 0 → exec i s = .next (pends i .divide
        (s.clk s.cur.core + 36) (some (.value (v128 (row.2 (s.me.getX a) (s.me.getX b))))) s)) ∧
      (s.me.getX b = 0 → trapsPlainly s = true → exec i s = .next (traps i 0x0D 0 s.me.pc (instrLen i) s))

/-- The branches of R102 and the condition of each. -/
def branchRows : List ((SOp → SOp → BitVec 12 → Instr) × (Word → Word → Bool)) :=
  [(.beq, fun a b => a = b), (.bne, fun a b => a ≠ b), (.blt, fun a b => a.toInt < b.toInt),
   (.bge, fun a b => b.toInt ≤ a.toInt), (.bltu, fun a b => a.toNat < b.toNat), (.bgeu, fun a b => b.toNat ≤ a.toNat)]

/-- The machine after a taken branch or jump has issued (R105): the context stands at the target with an empty fetch buffer,
and issues again three clocks later at the earliest. -/
def jumps (i : Instr) (target : Nat) (s : State) : State :=
  (issued i s).updMe fun x => { x with pc := target, fbuf := [], ffault := none, notBefore := s.clk s.cur.core + 3 }

/-- R102, R105: a branch of a slot that is not traced goes to its target, modulo 2^52, when its condition holds, and on to the
next instruction when it does not. -/
def Clause.BranchResult : Prop :=
  ∀ row ∈ branchRows, ∀ (a b : Fin 48) (off : BitVec 12) (s : State),
    let i := row.1 (.x a) (.x b) off
    issues i s = true → tracesSlot s.myCore s.cur.slot = false →
      exec i s = .next
        (if row.2 (s.me.getX a) (s.me.getX b) then jumps i (((s.me.pc : Int) + 4 * off.toInt) % (2 ^ 52 : Nat)).toNat s
         else issued i s)

/-- R103, R104: JL and JLR write the address behind them to d and go to their targets modulo 2^52; JLR to a target that is no
multiple of 4 traps with cause 0x04 and the target, d unchanged. -/
def Clause.JumpResult : Prop :=
  ∀ (d a : Fin 48) (off : BitVec 18) (imm : BitVec 12) (s : State),
    (issues (.jl (.x d) off) s = true →
      exec (.jl (.x d) off) s = .next ((jumps (.jl (.x d) off) (((s.me.pc : Int) + 4 * off.toInt) % (2 ^ 52 : Nat)).toNat
        s).updMe fun x => x.setX d (wordOf (s.me.pc + 4)))) ∧
    (issues (.jlr (.x d) (.x a) imm) s = true →
      let target := (((s.me.getX a).toNat % 2 ^ 52 : Nat) + imm.toInt) % (2 ^ 52 : Nat)
      (target % 4 = 0 → exec (.jlr (.x d) (.x a) imm) s = .next ((jumps (.jlr (.x d) (.x a) imm) target.toNat s).updMe
        fun x => { x.setX d (wordOf (s.me.pc + 4)) with jlrTarget := 2 ^ 52 + target.toNat })) ∧
      (target % 4 ≠ 0 → trapsPlainly s = true →
        exec (.jlr (.x d) (.x a) imm) s = .next (traps (.jlr (.x d) (.x a) imm) 0x04 (wordOf target.toNat) s.me.pc 1 s)))

/-- Branches and jumps. -/
def Obligations.ControlTransfers : Prop := Clause.BranchResult ∧ Clause.JumpResult

/-! System instructions (R69 to R74, R78, R88, R110 to R117). -/

/-- R88: in runtime mode at a trap level TRET restores the program counter and the mode of that level and leaves it; in job mode
it traps with cause 0x02, and in runtime mode at TL = 0 with cause 0x01. -/
def Clause.TretReturns : Prop :=
  ∀ (s : State), issues .tret s = true →
    (s.me.mode = .runtime → s.me.tl ≠ 0 → exec .tret s = .next ((issued .tret s).updMe fun x =>
      { x with pc := (s.me.bank s.me.tl).tepc.toNat % 2 ^ 52, tl := s.me.tl - 1, fbuf := [], ffault := none
               mode := if (s.me.bank s.me.tl).tstat.toNat / 1024 % 2 = 1 then .runtime else .job
               exempt := (s.me.bank s.me.tl).tcause == 0x12 })) ∧
    (s.me.mode = .job → trapsPlainly s = true → exec .tret s = .next (traps .tret 0x02 (instrBits .tret) s.me.pc 1 s)) ∧
    (s.me.mode = .runtime → s.me.tl = 0 → trapsPlainly s = true →
      exec .tret s = .next (traps .tret 0x01 (instrBits .tret) s.me.pc 1 s))

/-- R86, R110, R111: SYS traps with cause 0x14, TVALUE its number and TEPC the next instruction: at once where the length of that
is known, and otherwise TRAP_ENTRY reads its word and takes the trap; BRK traps with cause 0x15, TVALUE 0 and TEPC the BRK
itself. -/
def Clause.SoftwareTraps : Prop :=
  ∀ (code : BitVec 12) (s : State), trapsPlainly s = true →
    (issues (.sys code) s = true →
      let u := noteIssue (.sys code) s
      let pc := (s.me.pc + 4) % 2 ^ 52
      (lengthKnown u pc = true →
        exec (.sys code) s = .next (traps (.sys code) 0x14 (code.setWidth 64) pc (lengthAt u.myCore u.me pc) s)) ∧
      (lengthKnown u pc = false → exec (.sys code) s = .next (raises 0x14 (code.setWidth 64) pc u))) ∧
    (issues .brk s = true → exec .brk s = .next (traps .brk 0x15 0 s.me.pc 1 s))

/-- Return from a trap, and the traps an instruction asks for. -/
def Obligations.TrapsAndReturns : Prop := Clause.TretReturns ∧ Clause.SoftwareTraps

/-- R78, R112, R113: YIELD holds the context until every other live context of the core has issued; WFE blocks, and tests the
event bit behind the events of its clock: it takes a bit that is set and completes, and stays blocked while it is clear. -/
def Clause.YieldAndWait : Prop :=
  ∀ (s : State),
    (issues .yield s = true → ∃ l : Option (List Nat), exec .yield s =
      .next ((issued .yield s).updMe fun x => { x with yieldSet := l }) ∧
        ∀ t : Nat, t ∈ l.getD [] ↔ (t ≠ s.cur.slot ∧ ∃ x, (t, x) ∈ s.myCore.ctxs ∧ x.status = .live)) ∧
    (issues .wfe s = true → exec .wfe s = .next (blocks .wfe 1 0 [] s)) ∧
    (blockedIn .wfe 1 s = true → s.me.evt = true →
      exec .wfe s = .next (complete (s.updMe fun x => { x with evt := false }))) ∧
    (blockedIn .wfe 1 s = true → s.me.evt = false → exec .wfe s = .next s)

/-- R115 to R117: GTIME gives a time within two counts of package time (which, is open: log entry 3), and no less than the context's last
one and its plain's last one, neither of which was more than two counts ahead; CID gives package, slot and place of the core, and DHOP the links between two dies. -/
def Clause.TimeAndPlace : Prop :=
  ∀ (d a b : Fin 48) (s : State),
    (issues (.gtime (.x d)) s = true → ∃ v : Nat, exec (.gtime (.x d)) s =
      .next (((issued (.gtime (.x d)) s).updDie (coreDie s.cur.core) fun x =>
        { x with gtime := v }).updMe fun x => { x.setX d (wordOf v) with lastTime := v }) ∧
      s.ptime - 2 ≤ v ∧ v ≤ s.ptime + 2 ∧ (s.me.lastTime ≤ s.ptime + 2 → s.me.lastTime ≤ v) ∧
      ((s.die (coreDie s.cur.core)).gtime ≤ s.ptime + 2 → (s.die (coreDie s.cur.core)).gtime ≤ v)) ∧
    (issues (.cid (.x d)) s = true → exec (.cid (.x d)) s =
      .next (writesX (.cid (.x d)) d (wordOf ((if s.mgmt.inDomain then s.mgmt.package else 0) * 2 ^ 32 + s.cur.slot * 2 ^ 16 +
        vdieOf s (coreJob s s.cur.core) (coreDie s.cur.core) * 2 ^ 11 + coreRow s.cur.core * 2 ^ 6 + coreCol s.cur.core)) s)) ∧
    (issues (.dhop (.x d) (.x a) (.x b)) s = true → exec (.dhop (.x d) (.x a) (.x b)) s =
      .next (writesX (.dhop (.x d) (.x a) (.x b)) d
        (match vdtEntry s (coreJob s s.cur.core) (s.me.getX a).toNat, vdtEntry s (coreJob s s.cur.core) (s.me.getX b).toNat with
         | some p, some q => wordOf (hops p q)
         | _, _ => BitVec.allOnes 64) s))

/-- Yielding and waiting, and the instructions that read time and place. -/
def Obligations.WaitsAndTime : Prop := Clause.YieldAndWait ∧ Clause.TimeAndPlace

/-- A helper as R70 starts it: its argument in x1, every other register zero, the starter's versions, mode and vectors, and the
STEP bit of the slot's DBGCTL as it was (R218). -/
def startedAs (s : State) (h entry : Nat) (w : Word) : Ctx :=
  { status := .live, gen := s.nextId, x := (Vector.replicate 48 0).set 1 w, pc := entry, nbv2 := s.me.nbv2
    lkchk := s.me.lkchk, mode := s.me.mode, t1 := { tvec := s.me.t1.tvec }, t2 := { tvec := s.me.t2.tvec }
    step := (s.ctx s.cur.core h).step }

/-- R70, R218, R220: HSTART with a free helper slot starts the lowest one and gives its number; where the starter steps under
HOLDDISP, the helper is halted before its first instruction and held; with no slot free it gives 0; an entry that is no
multiple of 4 traps. -/
def Clause.HelperStart : Prop :=
  ∀ (d a b : Fin 48) (s : State), issues (.hstart (.x d) (.x a) (.x b)) s = true →
    let i : Instr := .hstart (.x d) (.x a) (.x b)
    let entry := (s.me.getX a).toNat % 2 ^ 52
    (entry % 4 = 0 → ∀ h : Nat, 1 ≤ h → h ≤ 10 → (s.ctx s.cur.core h).status = .free →
      (∀ j : Nat, 1 ≤ j → j < h → (s.ctx s.cur.core j).status ≠ .free) →
      let new := startedAs s h entry (s.me.getX b)
      let u : State := { issued i s with nextId := s.nextId + 1 }
      (s.me.stepping = none ∨ s.myCore.holdDisp = false →
        exec (.hstart (.x d) (.x a) (.x b)) s =
          .next ((u.setCtx s.cur.core h new).updMe fun x => x.setX d (wordOf h))) ∧
      (s.me.stepping ≠ none → s.myCore.holdDisp = true → tracesSlot s.myCore h = false →
        exec (.hstart (.x d) (.x a) (.x b)) s =
          .next (((u.setCtx s.cur.core h { new with halted := true, hcause := 1 }).updMyCore fun k =>
            { k with held := k.held ++ [.helper s.cur.slot h] }).updMe fun x => x.setX d (wordOf h)))) ∧
    (entry % 4 = 0 → (∀ j : Nat, 1 ≤ j → j ≤ 10 → (s.ctx s.cur.core j).status ≠ .free) →
      exec (.hstart (.x d) (.x a) (.x b)) s = .next (writesX i d 0 s)) ∧
    (entry % 4 ≠ 0 → trapsPlainly s = true →
      exec (.hstart (.x d) (.x a) (.x b)) s = .next (traps i 0x04 (s.me.getX a) s.me.pc 1 s))

/-- The machine after a helper's slot has become free; its registers stay until the next HSTART (R70, R72). -/
def frees (h : Nat) (s : State) : State := s.updCtx s.cur.core h fun x => { x with status := .free }

/-- R72, R73, R86: HJOIN of a helper that has exited and whose stores are performed frees its slot and gives its exit value; one that
has been killed frees its slot and traps behind the HJOIN with cause 0x17, the slot and the cause of the kill, at once or, where the length of the next word is still to be
read, by TRAP_ENTRY; of a live helper,
or one with stores to perform, it blocks; of a number that is no helper in use it traps with cause 0x16. -/
def Clause.HelperJoin : Prop :=
  ∀ (d a : Fin 48) (s : State), issues (.hjoin (.x d) (.x a)) s = true →
    let i : Instr := .hjoin (.x d) (.x a)
    let h := (s.me.getX a).toNat
    let x := s.ctx s.cur.core h
    let pc := (s.me.pc + 4) % 2 ^ 52
    (1 ≤ h → h ≤ 10 → x.status = .exited → (∀ e ∈ s.myCore.storeQ, e.slot = h → e.gen ≠ x.gen) →
      exec (.hjoin (.x d) (.x a)) s = .next ((frees h (issued i s)).updMe fun y => y.setX d x.exitValue)) ∧
    (1 ≤ h → h ≤ 10 → x.status = .exited → (∃ e ∈ s.myCore.storeQ, e.slot = h ∧ e.gen = x.gen) →
      exec (.hjoin (.x d) (.x a)) s = .next (blocks i 1 (wordOf h) [v128 (s.me.getX a)] s)) ∧
    (1 ≤ h → h ≤ 10 → x.status = .killed → trapsPlainly s = true →
      let u := frees h (noteIssue i s)
      exec (.hjoin (.x d) (.x a)) s = .next (if lengthKnown u pc then
        enters 0x17 (wordOf (h + 256 * x.killCause)) pc (lengthAt u.myCore u.me pc) u
      else raises 0x17 (wordOf (h + 256 * x.killCause)) pc u)) ∧
    (1 ≤ h → h ≤ 10 → x.status = .live →
      exec (.hjoin (.x d) (.x a)) s = .next (blocks i 1 (wordOf h) [v128 (s.me.getX a)] s)) ∧
    (h = 0 ∨ 10 < h ∨ x.status = .free → trapsPlainly s = true →
      exec (.hjoin (.x d) (.x a)) s = .next (traps i 0x16 (s.me.getX a) s.me.pc 1 s))

/-- R72: a context blocked in HJOIN completes with the exit value as soon as the helper has exited and its stores are performed,
and takes the trap of a killed helper, at once or by TRAP_ENTRY (R86). -/
def Clause.HelperJoinEnds : Prop :=
  ∀ (d a : Fin 48) (s : State), blockedIn (.hjoin (.x d) (.x a)) 1 s = true → ∀ b, s.me.blk = some b →
    let h := b.aux.toNat
    let x := s.ctx s.cur.core h
    (x.status = .exited → (∀ e ∈ s.myCore.storeQ, e.slot = h → e.gen ≠ x.gen) →
      exec (.hjoin (.x d) (.x a)) s = .next ((complete (frees h s)).updMe fun y => y.setX d x.exitValue)) ∧
    (x.status = .killed → trapsPlainly s = true → exec (.hjoin (.x d) (.x a)) s = .next (if lengthKnown s s.me.pc then
        enters 0x17 (wordOf (h + 256 * x.killCause)) s.me.pc (lengthAt s.myCore s.me s.me.pc) (frees h s)
      else raises 0x17 (wordOf (h + 256 * x.killCause)) s.me.pc (frees h s)))

/-- R69, R71, R234: HEXIT leaves its slot exited with its value and its registers as they were, and sets the event bit of every
live context of the core. -/
def Clause.HelperExit : Prop :=
  ∀ (a : Fin 48) (s : State), issues (.hexit (.x a)) s = true →
    ∃ t : State, exec (.hexit (.x a)) s = .next t ∧
      t.me = { (issued (.hexit (.x a)) s).me.ended .exited with exitValue := s.me.getX a } ∧
      t.me.x = s.me.x ∧ t.me.v = s.me.v ∧ t.me.k = s.me.k ∧
      (∀ u : Nat, u ≠ s.cur.slot → (t.ctx s.cur.core u).status = .live → (t.ctx s.cur.core u).evt = true) ∧
      t.myCore.spad = s.myCore.spad ∧ (s.me.stepping = none → t.hbm = s.hbm ∧ t.host = s.host)

/-- The start, the end and the join of a helper context. -/
def Obligations.HelperContexts : Prop :=
  Clause.HelperStart ∧ Clause.HelperJoin ∧ Clause.HelperJoinEnds ∧ Clause.HelperExit

/-- R64, R74, R276: RETIRE ends the core's group: every slot is free and keeps its registers, the core has no group and is not
ready, the launch counts one running group less, and the scratchpad stays as it is. -/
def Obligations.RetireEndsGroup : Prop :=
  ∀ (g : Group) (s : State), issues .retire s = true → s.myCore.group = some g →
    ∃ t : State, exec .retire s = .next t ∧
      t.myCore.group = none ∧ t.myCore.ready = false ∧ t.myCore.lastJob = g.job ∧ t.myCore.spad = s.myCore.spad ∧
      (∀ u : Nat, (t.ctx s.cur.core u).status = .free ∧ (t.ctx s.cur.core u).x = (s.ctx s.cur.core u).x ∧
        (t.ctx s.cur.core u).v = (s.ctx s.cur.core u).v ∧ (t.ctx s.cur.core u).k = (s.ctx s.cur.core u).k) ∧
      (tracing s.myCore = false → t.hbm = s.hbm ∧ t.host = s.host) ∧
      (∀ l, mget s.launches g.launch = some l → ∃ m, mget t.launches g.launch = some m ∧ m.running = l.running - 1)

/-! Control and status registers (R106 to R109). -/

/-- Part 1: Registers of a context or its core with RW fields and no action: number, mask of the RW fields, value. -/
def csrRows1 : List (Nat × Nat × (State → Word)) :=
  [(0x000, 1, fun s => wordOf (32 + b2n s.me.nbv2)), (0x001, 4, fun s => wordOf (4 * b2n s.me.lkchk + 2 * b2n (s.me.mode == .runtime))),
   (0x005, 2 ^ 52 - 4, fun s => s.me.t1.tvec), (0x006, 2 ^ 52 - 4, fun s => s.me.t2.tvec),
   (0x007, 0xFF, fun s => s.me.t1.tcause), (0x008, 0xFF, fun s => s.me.t2.tcause),
   (0x009, 2 ^ 64 - 1, fun s => s.me.t1.tvalue), (0x00A, 2 ^ 64 - 1, fun s => s.me.t2.tvalue),
   (0x00B, 2 ^ 52 - 1, fun s => s.me.t1.tepc), (0x00C, 2 ^ 52 - 1, fun s => s.me.t2.tepc)]

/-- Part 2: Registers of a context or its core with RW fields and no action: number, mask of the RW fields, value. -/
def csrRows2 : List (Nat × Nat × (State → Word)) :=
  [(0x00D, 0xFF00, fun s => s.me.t1.tstat), (0x00E, 0xFF00, fun s => s.me.t2.tstat),
   (0x00F, 2 ^ 64 - 1, fun s => s.me.t1.tscratch), (0x010, 2 ^ 64 - 1, fun s => s.me.t2.tscratch),
   (0x011, 0x1F, fun s => s.me.fpstat.setWidth 64), (0x021, 2 ^ 19 - 32, fun s => s.me.tagsel),
   (0x024, 63, fun s => s.me.tlogsel), (0x027, 3, fun s => s.me.wmsel), (0x02C, 63, fun s => s.me.barsel)]

/-- Part 3: Registers of a context or its core with RW fields and no action: number, mask of the RW fields, value. -/
def csrRows3 : List (Nat × Nat × (State → Word)) :=
  [(0x030, 15, fun s => s.myCore.dbgsel), (0x032, 0xFFF, fun s => s.myCore.dbgrnum), (0x034, 3, fun s => s.myCore.wpsel),
   (0x037, 3, fun s => s.myCore.pmcsel), (0x03B, 2 ^ 52 - 1, fun s => s.myCore.trace.base),
   (0x03E, 2 ^ 52 - 1, fun s => s.myCore.dump.base), (0x043, 127, fun s => s.me.slotsel),
   (0x048, 2 ^ 64 - 1, fun s => s.myCore.domm), (0x04E, 63, fun s => s.me.sqsel), (0x050, 15, fun s => s.me.stksel)]

/-- Registers of a context or its core with RW fields and no action: number, mask of the RW fields, value. -/
def csrRows : List (Nat × Nat × (State → Word)) := csrRows1 ++ csrRows2 ++ csrRows3

/-- Registers of a context or its core that are only read: number and value. -/
def csrReadRows : List (Nat × (State → Word)) :=
  csrRows.map (fun r => (r.1, r.2.2)) ++
  [(0x002, fun s => wordOf s.cur.slot), (0x004, fun s => wordOf s.me.tl), (0x023, fun s => s.me.tagrep),
   (0x040, fun s => wordOf s.me.pwidth), (0x04B, fun s => s.myCore.frstat), (0x053, fun s => s.me.tfdetail)]

/-- R106: CSRR of a register of the table issues and writes the register's value to d. -/
def Clause.CsrReads : Prop :=
  ∀ row ∈ csrReadRows, ∀ (d : Fin 48) (s : State), issues (.csrr (.x d) (BitVec.ofNat 12 row.1)) s = true →
    exec (.csrr (.x d) (BitVec.ofNat 12 row.1)) s = .next (writesX (.csrr (.x d) (BitVec.ofNat 12 row.1)) d (row.2 s) s)

/-- The three writing instructions of R106 and what each leaves of the old value and the operand under a mask (R107). -/
def csrWriteRows : List ((SOp → SOp → BitVec 12 → Instr) × (Word → Word → Word → Word)) :=
  [(.csrw, fun old m v => (old &&& ~~~m) ||| (v &&& m)), (.csrs, fun old m v => old ||| (v &&& m)),
   (.csrc, fun old m v => old &&& ~~~(v &&& m))]

/-- R106, R107, R109: CSRW, CSRS and CSRC of a register of the table write its old value to d and replace, set or clear its RW
fields, as the units outside the context see from the next clock on (V2 of NBVER stays 1 without feature 4, R347); every other register of the table, every other general
register and all of memory stay. -/
def Clause.CsrWrites : Prop :=
  ∀ op ∈ csrWriteRows, ∀ row ∈ csrRows, ∀ (d a : Fin 48) (s : State),
    issues (op.1 (.x d) (.x a) (BitVec.ofNat 12 row.1)) s = true → s.myCore.late = [] →
      ∃ t : State, exec (op.1 (.x d) (.x a) (BitVec.ofNat 12 row.1)) s = .next t ∧
        row.2.2 (t.updMyCore applyLate) = (if row.1 = 0x000 ∧ featureOn s 4 = false then 33
          else op.2 (row.2.2 s) (BitVec.ofNat 64 row.2.1) (s.me.getX a)) ∧
        t.me.x = (s.me.setX d (row.2.2 s)).x ∧ t.me.v = s.me.v ∧ t.me.k = s.me.k ∧ t.me.pc = (s.me.pc + 4) % 2 ^ 52 ∧
        (∀ other ∈ csrReadRows, other.1 ≠ row.1 → other.2 (t.updMyCore applyLate) = other.2 s) ∧
        t.myCore.spad = s.myCore.spad ∧ t.hbm = s.hbm ∧ t.host = s.host

/-- The four CSR instructions, and whether each writes. -/
def csrInstrRows (d a : SOp) (n : BitVec 12) : List (Instr × Bool) :=
  [(.csrr d n, false), (.csrw d a n, true), (.csrs d a n, true), (.csrc d a n, true)]

/-- The register instructions: reads and writes. -/
def Obligations.CsrInstructions : Prop := Clause.CsrReads ∧ Clause.CsrWrites

/-- R43, R44, R51: an instruction that its core or slot cannot run (a link port off the mesh, a register beyond a helper's, a
control instruction in a helper or the reverse) traps as an illegal instruction with its bits. -/
def Obligations.IllegalHereTraps : Prop :=
  ∀ (i : Instr) (s : State), reachesIssue s = true → illegalHere s.cur.core s.cur.slot i = true → trapsPlainly s = true →
    exec i s = .next { traps i 0x01 (instrBits i) s.me.pc (instrLen i) s with free := s.free + 1 }

/-- Every instruction of the instruction set answers a next state in every state of the machine: none is refused, none stops
the machine. -/
def Clause.ContextInstructionsGoOn : Prop :=
  ∀ (i : Instr) (s : State), encode i ≠ [] → ∃ t : State, exec i s = .next t

/-- R75, R77: an instruction whose conditions do not hold yet leaves the machine as it is. -/
def Clause.WaitingChangesNothing : Prop :=
  ∀ (i : Instr) (s : State), encode i ≠ [] → s.me.blk = none → verdict i s = .wait → exec i s = .next s

/-- No instruction of the instruction set stops the machine, and one that has to wait changes nothing. -/
def Obligations.InstructionsGoOn : Prop := Clause.ContextInstructionsGoOn ∧ Clause.WaitingChangesNothing

/-! Flags, barriers and phases (R183 to R186, R212 to R215, R279, R280). -/

/-- No remote change of a flag has come in this clock, and no flag instruction has named it. -/
def flagStill (f : Flag) : Bool := f.instrSet.isNone && f.sets.isEmpty && f.adds.isEmpty && f.subs.isEmpty

/-- R184, R185: FARM sets COUNT to the signed low 40 bits of its source and OVERSHOOT if that is negative, FCLR clears both,
and FREAD gives the entry as it stood at the start of the clock; no other flag and no other register changes. -/
def Clause.FlagInstructions : Prop :=
  ∀ (f : BitVec 8) (d a : Fin 48) (s : State),
    (issues (.farm f (.x a)) s = true → flagStill (s.flag s.cur.core f.toNat) = true →
      let v := ((s.me.getX a).setWidth 40).toInt
      exec (.farm f (.x a)) s = .next ((issued (.farm f (.x a)) s).updMyCore fun k => { k with
        flags := mset k.flags f.toNat { s.flag s.cur.core f.toNat with
          instrSet := some (v, false), count := v, ovs := (s.flag s.cur.core f.toNat).ovs0 || v < 0 } })) ∧
    (issues (.fclr f) s = true → flagStill (s.flag s.cur.core f.toNat) = true →
      exec (.fclr f) s = .next ((issued (.fclr f) s).updMyCore fun k => { k with
        flags := mset k.flags f.toNat { s.flag s.cur.core f.toNat with
          instrSet := some (0, true), count := 0, ovs := false } })) ∧
    (issues (.fread (.x d) f) s = true →
      let x := s.flag s.cur.core f.toNat
      exec (.fread (.x d) f) s = .next (writesX (.fread (.x d) f) d
        (BitVec.ofNat 64 ((x.count0 % (2 ^ 40 : Nat)).toNat + 2 ^ 63 * b2n x.ovs0)) s))

/-- R186: FWAIT issues and blocks; in the tests of its clock, with no report held, it traps with cause 0x0F when OVERSHOOT is 1,
completes when COUNT is 0 and stays blocked otherwise. -/
def Clause.FlagWait : Prop :=
  ∀ (f : BitVec 8) (s : State),
    (issues (.fwait f) s = true → exec (.fwait f) s = .next (blocks (.fwait f) 1 0 [] s)) ∧
    (blockedIn (.fwait f) 1 s = true → s.me.tagQ = [] → s.me.failQ = [] →
      let x := s.flag s.cur.core f.toNat
      (x.ovs = true → trapsPlainly s = true → exec (.fwait f) s = .next (enters 0x0F (f.setWidth 64)
        ((s.me.blk.map Blk.pc).getD 0) ((s.me.blk.map Blk.len).getD 0) s)) ∧
      (x.ovs = false → x.count = 0 → exec (.fwait f) s = .next (complete s)) ∧
      (x.ovs = false → x.count ≠ 0 → exec (.fwait f) s = .next s))

/-- The waits that deliver reports (R163), with the stages in which a context is blocked in them: a PHASE before its arrival and after it. -/
def reportWaits (f : BitVec 8) (b : BitVec 6) (level : BitVec 3) : List (Instr × Nat) :=
  [(.fwait f, 1), (.barw b, 1), (.phase level, 1), (.phase level, 2)]

/-- R163, R167, R182, R215, R280: a FWAIT, BARW or PHASE of a context that holds a tag report traps with cause 0x09, the failing address,
and its own address in TEPC, a BARW or PHASE at its issue, and each of them while the context is blocked in it; TAGREP takes the report's detail with the reports dropped before it, and the report leaves the queue. With
no tag report, the oldest failure report traps with its cause and value, and leaves its queue. -/
def Clause.ReportsDelivered : Prop :=
  ∀ (f : BitVec 8) (b : BitVec 6) (level : BitVec 3) (s : State), trapsPlainly s = true →
    (∀ r q, s.me.tagQ = r :: q →
      let taken (u : State) : State := u.updMe fun x =>
        { x with tagQ := q, tagrep := r.detail ||| BitVec.ofNat 64 (s.me.tagDropped * 2 ^ 40), tagDropped := 0 }
      (∀ row ∈ reportWaits f b level, blockedIn row.1 row.2 s = true → ∀ w, s.me.blk = some w →
        exec row.1 s = .next (taken (enters 0x09 (wordOf r.addr) w.pc w.len s))) ∧
      (issues (.barw b) s = true → exec (.barw b) s = .next (taken (traps (.barw b) 0x09 (wordOf r.addr) s.me.pc 1 s))) ∧
      (issues (.phase level) s = true →
        exec (.phase level) s = .next (taken (traps (.phase level) 0x09 (wordOf r.addr) s.me.pc 1 s)))) ∧
    (s.me.tagQ = [] → ∀ r q, s.me.failQ = r :: q →
      let taken (u : State) : State := u.updMe fun x => { x with failQ := q }
      (∀ row ∈ reportWaits f b level, blockedIn row.1 row.2 s = true → ∀ w, s.me.blk = some w →
        exec row.1 s = .next (taken (enters r.cause r.value w.pc w.len s))) ∧
      (issues (.barw b) s = true → exec (.barw b) s = .next (taken (traps (.barw b) r.cause r.value s.me.pc 1 s))) ∧
      (issues (.phase level) s = true →
        exec (.phase level) s = .next (taken (traps (.phase level) r.cause r.value s.me.pc 1 s))))

/-- The instructions on counted-write flags, and the reports that a wait delivers. -/
def Obligations.CountedFlags : Prop := Clause.FlagInstructions ∧ Clause.FlagWait ∧ Clause.ReportsDelivered

/-- R214, R215: BARA issues and blocks. BARW, with no report held, completes and its state becomes none where the state is not
waiting, and blocks where it is; the tests of a blocked BARW leave it blocked while the state is waiting, and complete it, with the state
none, once it has been released. -/
def Clause.BarrierIssue : Prop :=
  ∀ (b : BitVec 6) (s : State),
    (issues (.bara b) s = true → exec (.bara b) s = .next (blocks (.bara b) 1 (b.setWidth 64) [] s)) ∧
    (issues (.barw b) s = true → s.me.tagQ = [] → s.me.failQ = [] → s.me.barWaiting.getLsbD b.toNat = true →
      exec (.barw b) s = .next (blocks (.barw b) 1 0 [] s)) ∧
    (issues (.barw b) s = true → s.me.tagQ = [] → s.me.failQ = [] → s.me.barWaiting.getLsbD b.toNat = false →
      exec (.barw b) s = .next ((issued (.barw b) s).updMe fun x =>
        { x with barReleased := x.barReleased &&& ~~~BitVec.ofNat 64 (2 ^ b.toNat) })) ∧
    (blockedIn (.barw b) 1 s = true → s.me.tagQ = [] → s.me.failQ = [] →
      (s.me.barWaiting.getLsbD b.toNat = true → exec (.barw b) s = .next s) ∧
      (s.me.barWaiting.getLsbD b.toNat = false → exec (.barw b) s = .next ((complete s).updMe fun x =>
        { x with barReleased := x.barReleased &&& ~~~BitVec.ofNat 64 (2 ^ b.toNat) })))

/-- R214: when the earlier local accesses of a context blocked in BARA are performed, it arrives: its state is waiting and
ARRIVED counts one more; at EXPECT (0 taken as 16) ARRIVED is 0, RELEASES counts one more, every context in state waiting is
released, and every live context's event bit is set. -/
def Clause.BarrierArrive : Prop :=
  ∀ (b : BitVec 6) (s : State), blockedIn (.bara b) 1 s = true →
    earlierLocal s s.cur.core s.cur.slot s.nextId true = false →
    let n := b.toNat
    let bar := mgetD s.myCore.bars n {}
    ∃ t : State, exec .baraArrive s = .next t ∧ t.me.blk = none ∧ t.me.x = s.me.x ∧ t.myCore.spad = s.myCore.spad ∧
      (bar.arrived + 1 ≠ (if bar.expect = 0 then 16 else bar.expect) →
        mgetD t.myCore.bars n {} = { bar with arrived := bar.arrived + 1 } ∧
        t.me.barWaiting.getLsbD n = true ∧ t.me.barReleased.getLsbD n = false ∧
        ∀ u : Nat, u ≠ s.cur.slot → t.ctx s.cur.core u = s.ctx s.cur.core u) ∧
      (bar.arrived + 1 = (if bar.expect = 0 then 16 else bar.expect) →
        mgetD t.myCore.bars n {} = { bar with arrived := 0, releases := (bar.releases + 1) % 2 ^ 16 } ∧
        t.me.barWaiting.getLsbD n = false ∧ t.me.barReleased.getLsbD n = true ∧
        (∀ u : Nat, u ≠ s.cur.slot → (s.ctx s.cur.core u).barWaiting.getLsbD n = true →
          (t.ctx s.cur.core u).barWaiting.getLsbD n = false ∧ (t.ctx s.cur.core u).barReleased.getLsbD n = true) ∧
        ∀ u : Nat, (t.ctx s.cur.core u).status = .live → (t.ctx s.cur.core u).evt = true)

/-- The barrier instructions. -/
def Obligations.NamedBarriers : Prop := Clause.BarrierIssue ∧ Clause.BarrierArrive

/-- R279, R280: PHASE at a level whose B is above 63, or in a frontier or card launch, completes; otherwise it blocks with the
level's B. When the drain of a blocked PHASE has ended, the group's ARRIVED bit of the level is set and one arrival is
counted, unless the bit is set already. -/
def Clause.PhaseArrives : Prop :=
  ∀ (level : BitVec 3) (l : Launch) (g : Group) (s : State), s.myCore.group = some g → mget s.launches g.launch = some l →
    let b := s.myCore.domm.toNat / 2 ^ (8 * level.toNat) % 256
    (issues (.phase level) s = true → s.me.tagQ = [] → s.me.failQ = [] → 63 < b ∨ l.kind = 1 ∨ l.kind = 2 →
      exec (.phase level) s = .next (issued (.phase level) s)) ∧
    (issues (.phase level) s = true → s.me.tagQ = [] → s.me.failQ = [] → b ≤ 63 → l.kind ≠ 1 → l.kind ≠ 2 →
      exec (.phase level) s = .next (blocks (.phase level) 1 (wordOf b) [] s)) ∧
    (blockedIn (.phase level) 1 s = true → s.me.tagQ = [] → s.me.failQ = [] →
      released s s.cur.core s.cur.slot s.nextId = true →
      (s.myCore.domArrived.getLsbD level.toNat = true → exec .phaseArrive s = .next (updBlk s fun b => { b with stage := 2 })) ∧
      (s.myCore.domArrived.getLsbD level.toNat = false → ∃ t : State, exec .phaseArrive s = .next t ∧
        t.myCore.domArrived = s.myCore.domArrived ||| BitVec.ofNat 8 (2 ^ level.toNat) ∧
        t.myCore.domPhase = s.myCore.domPhase ∧ (t.me.blk.map Blk.stage) = some 2 ∧ t.myCore.spad = s.myCore.spad ∧
        ∃ r ∈ t.rounds, r.launch = g.launch ∧ r.level = level.toNat ∧ g.lin ∈ r.arrived))

/-- R280: the release of a round that is due at a core clears the group's ARRIVED bit of the level, inverts its PHASEBIT and
ends the block of every context that waits in PHASE at the level. -/
def Clause.DomainReleases : Prop :=
  ∀ (r : Round) (g : Group) (s : State), s.myCore.group = some g → roundDue s s.cur.core = some r → r.level < 8 →
    ∃ t : State, exec .domainReleaseDeliver s = .next t ∧
      t.myCore.domArrived = s.myCore.domArrived &&& ~~~BitVec.ofNat 8 (2 ^ r.level) ∧
      t.myCore.domPhase = s.myCore.domPhase ^^^ BitVec.ofNat 8 (2 ^ r.level) ∧
      (∀ u : Nat, waitsPhase (s.ctx s.cur.core u) r.level = true → (t.ctx s.cur.core u).blk = none) ∧
      (∀ u : Nat, waitsPhase (s.ctx s.cur.core u) r.level = false → t.ctx s.cur.core u = s.ctx s.cur.core u) ∧
      t.myCore.spad = s.myCore.spad ∧ t.hbm = s.hbm

/-- The rounds of a domain barrier. -/
def Obligations.DomainRounds : Prop := Clause.PhaseArrives ∧ Clause.DomainReleases

/-! Command words, leases and the polynomial instructions (R190, R208, R238, R239, R256 to R259). -/

/-- The four registers of a TCMD as one command word, the first in its low bytes (R190). -/
def pushedCommand (s : State) (a : Fin 48) : BitVec 256 :=
  let w (i : Nat) : Word := s.me.getX (Fin.ofNat 48 (a.val + i))
  w 3 ++ w 2 ++ w 1 ++ w 0

/-- The entry that a command word pushed by the issuing context makes in its queue: its versions, its lease mark (R239), and
whether a step under HOLDDISP holds it (R220). -/
def commandEntry (s : State) (g : Group) (word : BitVec 256) (at_ : Option Nat) (key : Nat) : CmdEnt :=
  { word := word, addr := at_, key := key, nbv2 := s.me.nbv2, width := s.me.pwidth, slot := s.cur.slot, gen := s.me.gen
    group := g.id, launch := g.launch, job := g.job, core := s.cur.core
    leased := s.myCore.lease.state != .none && !s.myCore.lease.releasing
    held := s.me.stepping.isSome && s.myCore.holdDisp, id := s.nextId }

/-- Room for a command word in an engine queue of the issuing core (R56, R190, R191): four words of the copy channel that its EXT
names, sixteen of the array's queue, and for the queues 2 and 3 sixteen records held or reserved. -/
def hasRoom (s : State) (q : Nat) (word : BitVec 256) : Bool :=
  match q with
  | 0 => (mgetD s.myCore.chans (word.extractLsb' 48 2).toNat {}).startQ.length < 4
  | 1 => s.myCore.eq1.length < 16
  | _ => ((s.myCore.res q).halves.length + 1) / 2 + (s.myCore.res q).reserved < 16

/-- The machine after an entry has gone into an engine queue (R190): a channel's, the array's, the collective engine's of the
plain, or as a request to the dispatcher, which it reaches at `due`; the last two reserve the place of a record (R56). -/
def entersQueue (q : Nat) (e : CmdEnt) (due : Nat) (s : State) : State :=
  let u : State := { s with nextId := s.nextId + 1 }
  let r := u.updMyCore fun k => { k with resQ := mset k.resQ q { k.res q with reserved := (k.res q).reserved + 1 } }
  match q with
  | 0 => u.updChan s.cur.core (e.word.extractLsb' 48 2).toNat fun h => { h with startQ := h.startQ ++ [e] }
  | 1 => u.updMyCore fun k => { k with eq1 := k.eq1 ++ [e] }
  | 2 => r.updPlain (coreDie s.cur.core) fun p => { p with coll := p.coll ++ [e] }
  | _ => { r with
      free := s.free + 1
      requests := s.requests ++ [{ id := e.id, kind := 1, core := e.core, slot := e.slot, gen := e.gen, job := e.job, addr := 0
                                   ent := some e, due := due, held := e.held }] }

/-- R190, R208: TCMD with every earlier access of the context performed and room in the queue puts its command word into the
queue; where the queue's assembly buffer holds words, they go first, as a command word filled with zeros; with no room, or an
access to be performed, it blocks and the queue stays. -/
def Clause.CommandPush : Prop :=
  ∀ (q : Fin 4) (a : Fin 48) (g : Group) (s : State), issues (.tcmd q a) s = true → a.val ≤ 44 → s.myCore.group = some g →
    let buf := s.me.asm[q.val]
    let held := (List.range 4).map fun i => v128 (s.me.getX (Fin.ofNat 48 (a.val + i)))
    let done := released s s.cur.core s.cur.slot s.nextId
    (buf = [] → done = true → hasRoom s q.val (pushedCommand s a) = true → ∃ due : Nat, s.now < due ∧
      exec (.tcmd q a) s = .next (entersQueue q.val (commandEntry s g (pushedCommand s a) none 0) due (issued (.tcmd q a) s))) ∧
    (buf = [] → done = false ∨ hasRoom s q.val (pushedCommand s a) = false →
      exec (.tcmd q a) s = .next (blocks (.tcmd q a) 2 0 held s)) ∧
    (buf ≠ [] → done = true → hasRoom s q.val (cmdOfWords buf) = true → ∃ due : Nat, s.now < due ∧
      exec (.tcmd q a) s = .next (entersQueue q.val (commandEntry s g (cmdOfWords buf) none 0) due
        ((blocks (.tcmd q a) 2 0 held s).updMe fun x => { x with asm := x.asm.set q.val [] }))) ∧
    (buf ≠ [] → done = false ∨ hasRoom s q.val (cmdOfWords buf) = false →
      exec (.tcmd q a) s = .next (blocks (.tcmd q a) 1 0 held s))

/-- R144, R170, R190: TCMDM with an empty assembly buffer reads its command word from 32 aligned bytes of the scratchpad whose tags pass
and that no watermark covers, when their banks grant it, and the entry keeps where it stood; where a watermark covers them, a bank
serves another access, an access is to be performed or there is no room, it blocks (that the bytes are read when the word enters its
queue is log entry 31). A misaligned pointer traps with cause 0x04, a failing tag with cause 0x08 and the first failing
byte. -/
def Clause.CommandPushFromMemory : Prop :=
  ∀ (q : Fin 4) (a : Fin 48) (g : Group) (s : State), issues (.tcmdm q (.x a)) s = true → s.myCore.group = some g →
    quietCore s = true →
      let p := s.me.getX a
      let at_ := p.toNat % 2 ^ 52
      let word : BitVec 256 := BitVec.ofNat 256 (memNat s.myCore.spad at_ 32)
      (localAt p 0 32 = some at_ → tagsPass s p at_ 32 = true → s.me.asm[q.val] = [] →
        (released s s.cur.core s.cur.slot s.nextId = true → hasRoom s q.val word = true → wmBlocks s.myCore none at_ 32 = false →
          granted s.myCore 0 [(at_, 32)] = true → ∃ due : Nat, s.now < due ∧ exec (.tcmdm q (.x a)) s = .next (entersQueue q.val
            (commandEntry s g word (some at_) (p.toNat / 2 ^ 52 % 16)) due
            (takeBanks (issued (.tcmdm q (.x a)) s) s.cur.core 0 [(at_, 32)]))) ∧
        (released s s.cur.core s.cur.slot s.nextId = false ∨ hasRoom s q.val word = false ∨ wmBlocks s.myCore none at_ 32 = true ∨
          granted s.myCore 0 [(at_, 32)] = false →
          exec (.tcmdm q (.x a)) s = .next (blocks (.tcmdm q (.x a)) 2 0 [v128 p] s))) ∧
      (at_ + 32 ≤ 0x80000 → at_ % 32 ≠ 0 → trapsPlainly s = true →
        exec (.tcmdm q (.x a)) s = .next (traps (.tcmdm q (.x a)) 0x04 (wordOf at_) s.me.pc 1 s)) ∧
      (localAt p 0 32 = some at_ → trapsPlainly s = true → ∀ k : Nat,
        ((List.range 32).find? fun i => !tagMatch (tagAt s.myCore (at_ + i)) (p.toNat / 2 ^ 52 % 16)) = some k →
          exec (.tcmdm q (.x a)) s = .next (traps (.tcmdm q (.x a)) 0x08 (wordOf (at_ + k)) s.me.pc 1 s))

/-- R144, R190, R208: a context blocked in TCMD or TCMDM, once every earlier access of it is performed, puts its next word into the queue
as soon as there is room, and the banks of a TCMDM grant its read: first the assembly buffer filled with zeros, then the word of the four registers or of the 32 bytes,
with which the instruction completes. -/
def Clause.CommandEnters : Prop :=
  ∀ (q : Fin 4) (a : Fin 48) (p : SOp) (g : Group) (b : Blk) (s : State), s.me.blk = some b → b.outs = [] →
    s.myCore.group = some g → released s s.cur.core s.cur.slot s.nextId = true →
      (b.instr = .tcmd q a ∨ b.instr = .tcmdm q p → b.stage = 1 → hasRoom s q.val (cmdOfWords s.me.asm[q.val]) = true →
        ∃ due : Nat, s.now < due ∧ exec .commandQueueEnter s = .next (entersQueue q.val
          (commandEntry s g (cmdOfWords s.me.asm[q.val]) none 0) due
          (s.updMe fun x => { x with asm := x.asm.set q.val [], blk := some { b with stage := 2, aux := 0 } }))) ∧
      (b.instr = .tcmd q a → b.stage = 2 → hasRoom s q.val (cmdOfWords (b.held.map w64)) = true →
        ∃ due : Nat, s.now < due ∧ exec .commandQueueEnter s = .next (entersQueue q.val
          (commandEntry s g (cmdOfWords (b.held.map w64)) none 0) due (complete s))) ∧
      (b.instr = .tcmdm q p → b.stage = 2 → quietCore s = true →
        let w := w64 (b.held.getD 0 0)
        let at_ := w.toNat % 2 ^ 52
        let word : BitVec 256 := BitVec.ofNat 256 (memNat s.myCore.spad at_ 32)
        wmBlocks s.myCore none at_ 32 = false → hasRoom s q.val word = true → granted s.myCore 0 [(at_, 32)] = true →
          ∃ due : Nat, s.now < due ∧ exec .commandQueueEnter s = .next (entersQueue q.val
            (commandEntry s g word (some at_) (w.toNat / 2 ^ 52 % 16)) due
            (takeBanks (complete s) s.cur.core 0 [(at_, 32)])))

/-- The pushes of command words. -/
def Obligations.CommandPushes : Prop := Clause.CommandPush ∧ Clause.CommandPushFromMemory ∧ Clause.CommandEnters

/-- R238, R239, R256: LEASE n of a core without a lease makes it wait with LIMIT n, of a core with one changes LIMIT and takes
RELEASING back; UNLEASE sets RELEASING where there is a lease; SLOTQ gives its word; GWID sets the coefficient width. -/
def Obligations.LeaseInstructions : Prop :=
  ∀ (n : BitVec 7) (w : BitVec 6) (d : Fin 48) (s : State),
    (issues (.lease n) s = true → s.myCore.lease.state = .none → ∃ p : Nat, exec (.lease n) s =
      .next ((issued (.lease n) s).updMyCore fun k =>
        { k with lease := { k.lease with state := .waiting, limit := n.toNat, pass := p } }) ∧
      ((∀ c : Nat, coreSquare c = coreSquare s.cur.core → (s.core c).lease.state = .none) → p = s.myCore.lease.pass)) ∧
    (issues (.lease n) s = true → s.myCore.lease.state ≠ .none → exec (.lease n) s =
      .next ((issued (.lease n) s).updMyCore fun k => { k with lease := { k.lease with limit := n.toNat, releasing := false } })) ∧
    (issues .unlease s = true → exec .unlease s = .next ((issued .unlease s).updMyCore fun k =>
      { k with lease := { k.lease with releasing := k.lease.releasing || k.lease.state != .none } })) ∧
    (issues (.slotq (.x d)) s = true → exec (.slotq (.x d)) s =
      .next (writesX (.slotq (.x d)) d (slotqWord s s.cur.core) s)) ∧
    (issues (.gwid w) s = true → exec (.gwid w) s = .next ((issued (.gwid w) s).updMe fun x => { x with pwidth := w.toNat }))

/-! Local memory (R143 to R163, R203). -/

/-- The loads of R154 without a full/empty action, with register operands: instruction, byte offset, bytes, sign extension. -/
def loadRows (d a : Fin 48) (e : Fin 32) (o : BitVec 8) (q : BitVec 16) (la : BitVec 4) : List (Instr × Int × Nat × Bool) :=
  [(.ldS8 (.x d) (.x a) o la, o.toInt, 1, true), (.ldZ8 (.x d) (.x a) o la, o.toInt, 1, false),
   (.ldS16 (.x d) (.x a) o la, 2 * o.toInt, 2, true), (.ldZ16 (.x d) (.x a) o la, 2 * o.toInt, 2, false),
   (.ldS32 (.x d) (.x a) o la, 4 * o.toInt, 4, true), (.ldZ32 (.x d) (.x a) o la, 4 * o.toInt, 4, false),
   (.ld (.x d) (.x a) o la, 8 * o.toInt, 8, false), (.ldv (.v e) (.x a) o la, 16 * o.toInt, 16, false)] ++
  [(.ldS8Long (.x d) (.x a) q la, q.toInt, 1, true), (.ldZ8Long (.x d) (.x a) q la, q.toInt, 1, false),
   (.ldS16Long (.x d) (.x a) q la, q.toInt, 2, true), (.ldZ16Long (.x d) (.x a) q la, q.toInt, 2, false),
   (.ldS32Long (.x d) (.x a) q la, q.toInt, 4, true), (.ldZ32Long (.x d) (.x a) q la, q.toInt, 4, false),
   (.ldLong (.x d) (.x a) q la, q.toInt, 8, false), (.ldvLong (.v e) (.x a) q la, q.toInt, 16, false)]

/-- The .fe and .fec loads of R154: instruction, byte offset, bytes, whether it leaves its granule empty. -/
def emptyLoadRows (d a : Fin 48) (e : Fin 32) (o : BitVec 8) (q : BitVec 16) (la : BitVec 4) :
    List (Instr × Int × Nat × Bool) :=
  [(.ldFe (.x d) (.x a) o la, 8 * o.toInt, 8, false), (.ldFec (.x d) (.x a) o la, 8 * o.toInt, 8, true),
   (.ldvFe (.v e) (.x a) o la, 16 * o.toInt, 16, false), (.ldvFec (.v e) (.x a) o la, 16 * o.toInt, 16, true),
   (.ldFeLong (.x d) (.x a) q la, q.toInt, 8, false), (.ldFecLong (.x d) (.x a) q la, q.toInt, 8, true),
   (.ldvFeLong (.v e) (.x a) q la, q.toInt, 16, false), (.ldvFecLong (.v e) (.x a) q la, q.toInt, 16, true)]

/-- R151, R154, R162: a load by an aligned pointer into the scratchpad whose tags pass issues and is pending; a misaligned
address traps with cause 0x04 and the address, a failing tag with cause 0x08 and the first failing byte. -/
def Clause.LoadIssues : Prop :=
  ∀ (d a : Fin 48) (e : Fin 32) (o : BitVec 8) (q : BitVec 16) (la : BitVec 4) (s : State),
    ∀ row ∈ loadRows d a e o q la, issues row.1 s = true → quietCore s = true →
      let p := s.me.getX a
      let at_ : Int := (p.toNat % 2 ^ 52 : Nat) + row.2.1
      (∀ n, localAt p row.2.1 row.2.2.1 = some n → tagsPass s p n row.2.2.1 = true →
        exec row.1 s = .next (pends row.1 (.loc (.load n row.2.2.1 row.2.2.2 .plain) (p.toNat / 2 ^ 52 % 16))
          (s.clk s.cur.core + 4) none s)) ∧
      (0 ≤ at_ → at_ + row.2.2.1 ≤ 0x80000 → at_ % row.2.2.1 ≠ 0 → trapsPlainly s = true →
        exec row.1 s = .next (traps row.1 0x04 (wordOf at_.toNat) s.me.pc (instrLen row.1) s)) ∧
      (∀ n, localAt p row.2.1 row.2.2.1 = some n → tagsPass s p n row.2.2.1 = false → trapsPlainly s = true →
        ∀ k, ((List.range row.2.2.1).find? fun i => !tagMatch (tagAt s.myCore (n + i)) (p.toNat / 2 ^ 52 % 16)) = some k →
          exec row.1 s = .next (traps row.1 0x08 (wordOf (n + k)) s.me.pc (instrLen row.1) s))

/-- R152, R158: a .fe or .fec load enters the order of its granule. One that finds the granule full, with no load waiting for it,
nothing older of its context unperformed and no watermark, waits for its bank alone and holds no place among the sixteen that wait
(log entries 7 and 31); of an empty granule, or behind another load, it waits. -/
def Clause.FullEmptyLoads : Prop :=
  ∀ (d a : Fin 48) (e : Fin 32) (o : BitVec 8) (q : BitVec 16) (la : BitVec 4) (s : State),
    ∀ row ∈ emptyLoadRows d a e o q la, issues row.1 s = true → quietCore s = true →
      let p := s.me.getX a
      ∀ n, localAt p row.2.1 row.2.2.1 = some n → tagsPass s p n row.2.2.1 = true →
        let act : FeAct := if row.2.2.2 then .fec else .fe
        let kind : PendKind := .loc (.load n row.2.2.1 false act) (p.toNat / 2 ^ 52 % 16)
        let enters (once : List Nat) : State := (pends row.1 kind (s.clk s.cur.core + 4) none s).updMyCore fun k =>
          { k with feTable := k.feTable ++ [(n / 16, s.cur.slot, s.nextId)], feOnce := k.feOnce ++ once }
        (mgetD s.myCore.fulls (n / 16) 0 = 1 → (∀ x ∈ s.myCore.feTable, x.1 ≠ n / 16) → s.me.pend = [] →
          s.myCore.storeQ = [] → (∀ c ∈ s.myCore.chans, c.2.wm = none) → exec row.1 s = .next (enters [s.nextId])) ∧
        (mgetD s.myCore.fulls (n / 16) 0 = 0 ∨ (∃ x ∈ s.myCore.feTable, x.1 = n / 16) → exec row.1 s = .next (enters []))

/-- The issue of local loads. -/
def Obligations.LocalLoadsIssue : Prop := Clause.LoadIssues ∧ Clause.FullEmptyLoads

/-- The stores of R154 with register operands: instruction, byte offset, bytes, whether it fills its granule. -/
def storeRows (x a : Fin 48) (o : BitVec 12) (q : BitVec 16) : List (Instr × Int × Nat × Bool) :=
  [(.st8 (.x x) (.x a) o, o.toInt, 1, false), (.st16 (.x x) (.x a) o, 2 * o.toInt, 2, false),
   (.st32 (.x x) (.x a) o, 4 * o.toInt, 4, false), (.st (.x x) (.x a) o, 8 * o.toInt, 8, false),
   (.stSf (.x x) (.x a) o, 8 * o.toInt, 8, true)] ++
  [(.st8Long (.x x) (.x a) q, q.toInt, 1, false), (.st16Long (.x x) (.x a) q, q.toInt, 2, false),
   (.st32Long (.x x) (.x a) q, q.toInt, 4, false), (.stLong (.x x) (.x a) q, q.toInt, 8, false),
   (.stSfLong (.x x) (.x a) q, q.toInt, 8, true)]

/-- The 16-byte stores of R154. -/
def vectorStoreRows (x : Fin 32) (a : Fin 48) (o : BitVec 12) (q : BitVec 16) : List (Instr × Int × Nat × Bool) :=
  [(.stv (.v x) (.x a) o, 16 * o.toInt, 16, false), (.stvSf (.v x) (.x a) o, 16 * o.toInt, 16, true),
   (.stvLong (.v x) (.x a) q, q.toInt, 16, false), (.stvSfLong (.v x) (.x a) q, q.toInt, 16, true)]

/-- The machine after a store has issued and completed by entering the store queue of its core (R152). -/
def queues (i : Instr) (key : Nat) (act : StoreAct) (s : State) : State :=
  ({ issued i s with nextId := s.nextId + 1 } : State).updMyCore fun k => { k with
    storeQ := k.storeQ ++ [{ id := s.nextId, slot := s.cur.slot, gen := s.me.gen, key := key, act := act, nbv2 := s.me.nbv2 }] }

/-- R151, R152, R154: a store by an aligned pointer into the scratchpad issues, enters the store queue with its address and its
data, and completes; no byte of memory has changed yet. A misaligned address traps with cause 0x04. -/
def Clause.StoreIssues : Prop :=
  ∀ (x a : Fin 48) (v : Fin 32) (o : BitVec 12) (q : BitVec 16) (s : State), quietCore s = true →
    let p := s.me.getX a
    (∀ row ∈ storeRows x a o q, issues row.1 s = true → ∀ n, localAt p row.2.1 row.2.2.1 = some n →
      exec row.1 s = .next (queues row.1 (p.toNat / 2 ^ 52 % 16)
        (.bytes n row.2.2.1 (v128 (s.me.getX x)) row.2.2.2) s)) ∧
    (∀ row ∈ vectorStoreRows v a o q, issues row.1 s = true → ∀ n, localAt p row.2.1 row.2.2.1 = some n →
      exec row.1 s = .next (queues row.1 (p.toNat / 2 ^ 52 % 16) (.bytes n 16 (s.me.v[v.val]) row.2.2.2) s)) ∧
    (∀ row ∈ storeRows x a o q ++ vectorStoreRows v a o q, issues row.1 s = true → trapsPlainly s = true →
      let at_ : Int := (p.toNat % 2 ^ 52 : Nat) + row.2.1
      0 ≤ at_ → at_ + row.2.2.1 ≤ 0x80000 → at_ % row.2.2.1 ≠ 0 →
        exec row.1 s = .next (traps row.1 0x04 (wordOf at_.toNat) s.me.pc (instrLen row.1) s))

/-- A store at the head of a core's queue can be performed: nothing older of its context is unperformed, no watermark covers its
bytes (R170, R203), and their banks grant it (R144). -/
def headReady (s : State) (e : StoreEnt) (n : Nat) (len : Nat) : Bool :=
  !((s.ctx s.cur.core e.slot).gen == e.gen && earlierLocal s s.cur.core e.slot e.id false) && !wmBlocks s.myCore none n len &&
  granted s.myCore 0 [(n, len)]

/-- The detail of a tag report (R167) of a local store: its fields, from the failing byte and the key of the access. -/
def detailOf (k : Core) (a key : Nat) (w : Word) : Prop :=
  let tag := tagAt k a
  let g := a / 32
  let covers (e : Word) : Bool := (e.extractLsb' 26 14).toNat ≤ g && g ≤ (e.extractLsb' 26 14).toNat + (e.extractLsb' 44 12).toNat
  w.extractLsb' 63 1 = (if tag = 15 then 1 else 0) ∧ w.extractLsb' 60 3 = (0 : BitVec 3) ∧
  (w.extractLsb' 56 4).toNat = key ∧ (w.extractLsb' 52 4).toNat = tag ∧
  (w.extractLsb' 48 4).toNat = ((k.retagLog.find? covers).map fun e => (e.extractLsb' 60 4).toNat).getD tag ∧
  w.extractLsb' 19 29 = (0 : BitVec 29) ∧ (w.extractLsb' 14 5).toNat = a / 16 % 32 ∧
  (w.extractLsb' 0 14).toNat = 16 * (a / 512) + a % 16

/-- R152, R154, R163: STORE_PERFORM of a store whose tags pass leaves the queue and writes its bytes, the low one first, and no
other byte of the scratchpad; .sf leaves its granule full. A failing tag writes nothing; its issuer, where it is still live, has
a report of the first failing byte, or counts a fifth one dropped. -/
def Clause.StorePerforms : Prop :=
  ∀ (e : StoreEnt) (r : List StoreEnt) (n len : Nat) (data : VWord) (sf : Bool) (s : State),
    s.myCore.storeQ = e :: r → e.act = .bytes n len data sf → len ≤ 16 → headReady s e n len = true → quietCore s = true →
      ∃ t : State, exec .storePerform s = .next t ∧ t.myCore.storeQ = r ∧ t.hbm = s.hbm ∧ t.host = s.host ∧
        (∀ c : Nat, c ≠ s.cur.core → t.core c = s.core c) ∧
        (((List.range len).all fun i => tagMatch (tagAt s.myCore (n + i)) e.key) = true →
          (∀ i : Nat, i < len → memGet t.myCore.spad (n + i) = (data >>> (8 * i)).setWidth 8) ∧
          (∀ j : Nat, j < n ∨ n + len ≤ j → memGet t.myCore.spad j = memGet s.myCore.spad j) ∧
          (sf = true → mgetD t.myCore.fulls (n / 16) 0 = 1) ∧ (sf = false → t.myCore.fulls = s.myCore.fulls)) ∧
        (((List.range len).all fun i => tagMatch (tagAt s.myCore (n + i)) e.key) = false →
          t.myCore.spad = s.myCore.spad ∧ t.myCore.fulls = s.myCore.fulls ∧
          (sameCtx s s.cur.core e.slot e.gen = true → n + len ≤ 0x80000 → e.key < 16 → (∀ j : Nat, tagAt s.myCore j < 16) →
            ∀ k : Nat, ((List.range len).find? fun i => !tagMatch (tagAt s.myCore (n + i)) e.key) = some k →
              let x := s.ctx s.cur.core e.slot
              (x.tagQ.length < 4 → ∃ w, detailOf s.myCore (n + k) e.key w ∧
                t.ctx s.cur.core e.slot = { x with tagQ := x.tagQ ++ [{ addr := n + k, detail := w }] }) ∧
              (4 ≤ x.tagQ.length → x.tagDropped < 255 →
                t.ctx s.cur.core e.slot = { x with tagDropped := x.tagDropped + 1 })))

/-- The context after a pending instruction has written its register and left the pending list (R79). -/
def lands (p : Pend) (v : VWord) (x : Ctx) : Ctx :=
  { (match p.dst with
     | .s (.x r) => x.setX r (w64 v)
     | .v (.v r) => x.setV r v
     | _ => x) with pend := x.pend.filter fun q => q.id != p.id }

/-- A pending instruction of the issuing context that writes a register (or none) and whose time has come. -/
def mayLand (p : Pend) (s : State) : Bool :=
  p.due ≤ s.clk s.cur.core && match p.dst with
    | .none => true
    | .s (.x _) => true
    | .v (.v _) => true
    | _ => false

/-- R79, R97, R141, R159, R181: a divide, an approximation, or a local or remote load or atomic whose value has come writes it to
its register when its time has come, and is pending no longer; no other register changes. -/
def Clause.PendingCompletes : Prop :=
  ∀ (s : State), ∀ p, findPend s.me s.cur.id = some p → ∀ (v : VWord), p.res = some (.value v) → mayLand p s = true →
    (p.kind = .divide → exec .divideComplete s = .next (s.updMe (lands p v))) ∧
    (p.kind = .approx → exec .approximationComplete s = .next (s.updMe (lands p v))) ∧
    (∀ (a : LocalAcc) (key : Nat), p.kind = .loc a key → exec .localLoadComplete s = .next (s.updMe (lands p v))) ∧
    (∀ (ms : List (Nat × Nat)), p.kind = .remote ms → mget s.msgs s.cur.id = none →
      exec .remoteLoadComplete s = .next (s.updMe (lands p v)))

/-- R156: the new value of an atomic operation on n bits, but for FADD, which R156 takes from the FP32 addition. -/
def atomicNew (n : Nat) (op : AmoOp) (old v cmp : BitVec n) : BitVec n :=
  match op with
  | .add => old + v
  | .and => old &&& v
  | .or => old ||| v
  | .xor => old ^^^ v
  | .min => if old.toInt ≤ v.toInt then old else v
  | .max => if v.toInt ≤ old.toInt then old else v
  | .minu => if old.toNat ≤ v.toNat then old else v
  | .maxu => if v.toNat ≤ old.toNat then old else v
  | .swap => v
  | .cas => if old = cmp then v else old
  | .fadd => BitVec.ofNat n (faddCode old.toNat v.toNat)

/-- No bank of a core has granted an access in this clock, and none has another requester's turn (R144). -/
def banksFree (k : Core) : Bool := k.bankUsed.isEmpty && k.bankWin.isEmpty

/-- Nothing older of the context's accesses holds a pending local access back, no watermark is active, it does not wait in the
table of R158, and no bank is taken in this clock (R144). -/
def turnComes (s : State) (p : Pend) : Bool :=
  !earlierLocal s s.cur.core s.cur.slot p.id true && s.myCore.chans.all (fun c => c.2.wm == none) &&
  s.myCore.feTable.all (fun e => e.2.2 != p.id) && banksFree s.myCore

/-- R27, R152, R154 to R156, R203: LOCAL_LOAD_COMPLETE of a load writes the bytes that stand at its address, extended, to its
register, and changes no memory; of an element load the decoded element, as an integer or as FP32, with the metadata of its block
where its format has any; of an atomic it writes the old value, and the new value to its bytes alone. That the
bytes are read in the completion clock is the model's choice (log entry 31). -/
def Clause.LocalCompletes : Prop :=
  ∀ (key : Nat) (s : State), ∀ p, findPend s.me s.cur.id = some p → p.res = none → mayLand p s = true →
    turnComes s p = true → quietCore s = true →
      (∀ (n size : Nat) (sgn : Bool), p.kind = .loc (.load n size sgn .plain) key → (size = 1 ∨ size = 2 ∨ size = 4 ∨ size = 8 ∨
          size = 16) →
        let raw := memNat s.myCore.spad n size
        let v : VWord := if sgn then BitVec.ofNat 128 ((BitVec.ofNat (8 * size) raw).signExtend 64).toNat else BitVec.ofNat 128 raw
        (sgn = true → size ≠ 16) → exec .localLoadComplete s = .next (takeBanks (s.updMe (lands p v)) s.cur.core 0 [(n, size)])) ∧
      (∀ (ptr : Word) (index : Nat), p.kind = .loc (.lde ptr index) key → ∀ f, ptrE ptr = some f →
        let l := elementLoc f (ptrBlog ptr) (ptrAddr ptr) index
        let code := memNat s.myCore.spad l.byte l.size / 2 ^ l.bit % 2 ^ f.width
        let block := (l.metaAt.map fun m => memNat s.myCore.spad m f.meta).getD 0
        let v : VWord := match f.decode code block with
          | .i x => v128 (BitVec.ofInt 64 x)
          | .f y => BitVec.ofNat 128 (FFmt.fp32.ne y)
        exec .localLoadComplete s = .next (takeBanks (s.updMe (lands p v)) s.cur.core 0
          ((l.byte, l.size) :: (l.metaAt.map fun m => [(m, f.meta)]).getD []))) ∧
      (∀ (op : AmoOp) (n : Nat) (w cmp : Word), p.kind = .loc (.amo op true n w cmp) key →
        let old : Word := BitVec.ofNat 64 (memNat s.myCore.spad n 8)
        ∃ t : State, exec .localLoadComplete s = .next t ∧ t.me = lands p (v128 old) s.me ∧
          memNat t.myCore.spad n 8 = (atomicNew 64 op old w cmp).toNat ∧
          (∀ j : Nat, j < n ∨ n + 8 ≤ j → memGet t.myCore.spad j = memGet s.myCore.spad j) ∧
          (∀ c : Nat, c ≠ s.cur.core → t.core c = s.core c) ∧ t.hbm = s.hbm ∧ t.host = s.host) ∧
      (∀ (op : AmoOp) (n : Nat) (w cmp : Word), p.kind = .loc (.amo op false n w cmp) key → w.toNat < 2 ^ 32 →
        cmp.toNat < 2 ^ 32 →
        let old : BitVec 32 := BitVec.ofNat 32 (memNat s.myCore.spad n 4)
        ∃ t : State, exec .localLoadComplete s = .next t ∧ t.me = lands p (v128 (old.signExtend 64)) s.me ∧
          memNat t.myCore.spad n 4 = (atomicNew 32 op old (w.setWidth 32) (cmp.setWidth 32)).toNat ∧
          (∀ j : Nat, j < n ∨ n + 4 ≤ j → memGet t.myCore.spad j = memGet s.myCore.spad j) ∧
          (∀ c : Nat, c ≠ s.cur.core → t.core c = s.core c) ∧ t.hbm = s.hbm ∧ t.host = s.host)

/-- R80, R152, R159: the first load of the wait table's entries for a granule, once the granule is full, takes its data and leaves
the table, to write its register three clocks later; .fec leaves the granule empty, .fe leaves it full. That the bytes are read when it is
served is the model's choice (log entry 31). -/
def Clause.FullEmptyServes : Prop :=
  ∀ (key n size : Nat) (act : FeAct) (s : State), ∀ p, findPend s.me s.cur.id = some p →
    p.kind = .loc (.load n size false act) key → act = .fe ∨ act = .fec → size = 8 ∨ size = 16 →
    !earlierLocal s s.cur.core s.cur.slot p.id true && s.myCore.chans.all (fun c => c.2.wm == none) → quietCore s = true →
    banksFree s.myCore = true → mgetD s.myCore.fulls (n / 16) 0 = 1 →
    (s.myCore.feTable.find? fun e => e.1 == n / 16) = some (n / 16, s.cur.slot, p.id) →
      let v : PendRes := .value (BitVec.ofNat 128 (memNat s.myCore.spad n size))
      exec .fullEmptyServe s = .next (((takeBanks s s.cur.core 0 [(n, size)]).updMyCore fun k => { k with
        feTable := k.feTable.filter fun e => e.2.2 != p.id
        feOnce := k.feOnce.filter fun id => id != p.id
        fulls := if act = .fec then mdel k.fulls (n / 16) else k.fulls }).updMe fun x =>
          { x with pend := updWhere (·.id == p.id) (fun q => { q with res := some v, due := s.clk s.cur.core + 3 }) x.pend })

/-- The completion of pending instructions. -/
def Obligations.PendingEnds : Prop := Clause.PendingCompletes ∧ Clause.LocalCompletes ∧ Clause.FullEmptyServes

/-- The bytes of an element lie in the scratchpad, and those of its block's metadata, where it has any, aligned to their size. -/
def elementLies (f : EFmt) (l : ELoc) : Bool :=
  localAt 0 l.byte l.size == some l.byte && l.metaAt.all fun (m : Nat) => localAt 0 m f.meta == some m

/-- The tags of an element's bytes and of its metadata pass a pointer's key (R162). -/
def elementTagsPass (s : State) (p : Word) (f : EFmt) (l : ELoc) : Bool :=
  tagsPass s p l.byte l.size && l.metaAt.all fun m => tagsPass s p m f.meta

/-- R155, R156: LDE of a valid element pointer, with or without block metadata, and AMO of an aligned address, whose bytes lie in
the scratchpad and whose tags pass, issue and are pending for 5 and 6 clocks; STE enters the store queue with its pointer, index
and value; a pointer of no valid format traps with cause 0x06. -/
def Clause.ElementsAndAtomicsIssue : Prop :=
  ∀ (d a b c : Fin 48) (op : AmoOp) (wide : Bool) (o : BitVec 16) (la : BitVec 4) (s : State), quietCore s = true →
    let p := s.me.getX a
    let n : Nat := if wide then 8 else 4
    (issues (.lde (.x d) (.x a) (.x b) la) s = true → ∀ r, ptrE p = some r →
      let l := elementLoc r (ptrBlog p) (ptrAddr p) (s.me.getX b).toNat
      ptrAddr p % r.align = 0 → elementLies r l = true → elementTagsPass s p r l = true →
        exec (.lde (.x d) (.x a) (.x b) la) s = .next (pends (.lde (.x d) (.x a) (.x b) la)
          (.loc (.lde p (s.me.getX b).toNat) (p.toNat / 2 ^ 52 % 16)) (s.clk s.cur.core + 5) none s)) ∧
    (issues (.ste (.x d) (.x a) (.x b)) s = true → ∀ r, ptrE p = some r →
      let l := elementLoc r (ptrBlog p) (ptrAddr p) (s.me.getX b).toNat
      ptrAddr p % r.align = 0 → elementLies r l = true →
        exec (.ste (.x d) (.x a) (.x b)) s = .next (queues (.ste (.x d) (.x a) (.x b)) (p.toNat / 2 ^ 52 % 16)
          (.elem p (s.me.getX b).toNat (s.me.getX d)) s)) ∧
    (ptrE p = none → trapsPlainly s = true →
      (issues (.lde (.x d) (.x a) (.x b) la) s = true →
        exec (.lde (.x d) (.x a) (.x b) la) s = .next (traps (.lde (.x d) (.x a) (.x b) la) 0x06 p s.me.pc 1 s)) ∧
      (issues (.ste (.x d) (.x a) (.x b)) s = true →
        exec (.ste (.x d) (.x a) (.x b)) s = .next (traps (.ste (.x d) (.x a) (.x b)) 0x06 p s.me.pc 1 s))) ∧
    (issues (.amo op wide (.x d) (.x a) (.x b) (.x c) o la) s = true → ∀ m, localAt p o.toInt n = some m →
      tagsPass s p m n = true → exec (.amo op wide (.x d) (.x a) (.x b) (.x c) o la) s =
        .next (pends (.amo op wide (.x d) (.x a) (.x b) (.x c) o la)
          (.loc (.amo op wide m (wordOf ((s.me.getX b).toNat % 2 ^ (8 * n)))
            (if op = .cas then wordOf ((s.me.getX c).toNat % 2 ^ (8 * n)) else 0)) (p.toNat / 2 ^ 52 % 16))
          (s.clk s.cur.core + 6) none s))

/-- The machine after an instruction has issued and taken the translation fault of an address outside what it reaches: REASON 7,
LEVEL 0 and KIND 3 in TFDETAIL (R151, R319). -/
def rangeTraps (i : Instr) (at_ : Int) (s : State) : State :=
  (traps i 0x07 (wordOf (at_ % (2 ^ 52 : Nat)).toNat) s.me.pc (instrLen i) s).updMe fun x => { x with tfdetail := 0x370 }

/-- R150, R151: a local load or store below address 0 or, aligned, above the scratchpad traps with cause 0x07 and the address,
REASON 7 and KIND 3; one that lies across the end of the scratchpad traps with cause 0x05 and its first address, ahead of the
alignment check. -/
def Clause.LocalRangeTraps : Prop :=
  ∀ (x a : Fin 48) (v : Fin 32) (ol : BitVec 8) (o : BitVec 12) (q : BitVec 16) (la : BitVec 4) (s : State),
    trapsPlainly s = true →
      ∀ row ∈ loadRows x a v ol q la ++ emptyLoadRows x a v ol q la ++ storeRows x a o q ++ vectorStoreRows v a o q,
        issues row.1 s = true →
          let at_ : Int := ((s.me.getX a).toNat % 2 ^ 52 : Nat) + row.2.1
          (at_ < 0 → exec row.1 s = .next (rangeTraps row.1 at_ s)) ∧
          (0x80000 ≤ at_ → at_ % row.2.2.1 = 0 → exec row.1 s = .next (rangeTraps row.1 at_ s)) ∧
          (0 ≤ at_ → at_ < 0x80000 → 0x80000 < at_ + row.2.2.1 →
            exec row.1 s = .next (traps row.1 0x05 (wordOf at_.toNat) s.me.pc (instrLen row.1) s))

/-- The issue of local stores, element accesses and atomics. -/
def Obligations.LocalStoresIssue : Prop := Clause.StoreIssues ∧ Clause.LocalRangeTraps ∧ Clause.ElementsAndAtomicsIssue

/-- R27, R155: STE_PERFORM of an element whose tags pass, and those of its block's metadata where its format has any, leaves the
queue and puts the value, encoded under that metadata, into the element's bits, changing no other byte of the scratchpad, and its
flags into FPSTAT. -/
def Clause.ElementStorePerforms : Prop :=
  ∀ (r : List StoreEnt) (p v : Word) (n : Nat) (s : State), ∀ e, s.myCore.storeQ.head? = some e →
    s.myCore.storeQ = e :: r → e.act = .elem p n v → quietCore s = true → ∀ f, ptrE p = some f →
      let l := elementLoc f (ptrBlog p) (ptrAddr p) n
      headReady s e l.byte l.size = true → (∀ m, l.metaAt = some m → headReady s e m f.meta = true) →
      ((List.range l.size).all fun i => tagMatch (tagAt s.myCore (l.byte + i)) e.key) = true →
      (∀ m, l.metaAt = some m → ((List.range f.meta).all fun i => tagMatch (tagAt s.myCore (m + i)) e.key) = true) →
        let block := (l.metaAt.map fun m => memNat s.myCore.spad m f.meta).getD 0
        let code := f.encode block (!e.nbv2) (match f with
          | .int _ => .i v.toInt
          | _ => .f (FFmt.fp32.decode (v.toNat % 2 ^ 32)))
        let old := memNat s.myCore.spad l.byte l.size
        ∃ t : State, exec .stePerform s = .next t ∧ t.myCore.storeQ = r ∧
          memRead t.myCore.spad l.byte l.size = natBytes l.size
            (old - old / 2 ^ l.bit % 2 ^ f.width * 2 ^ l.bit + code.1 % 2 ^ f.width * 2 ^ l.bit) ∧
          (∀ j : Nat, j < l.byte ∨ l.byte + l.size ≤ j → memGet t.myCore.spad j = memGet s.myCore.spad j) ∧
          (sameCtx s s.cur.core e.slot e.gen = true →
            (t.ctx s.cur.core e.slot).fpstat = (s.ctx s.cur.core e.slot).fpstat ||| code.2) ∧
          t.hbm = s.hbm ∧ t.host = s.host ∧ ∀ c : Nat, c ≠ s.cur.core → t.core c = s.core c

/-- The performance of stores. -/
def Obligations.StoresPerform : Prop := Clause.StorePerforms ∧ Clause.ElementStorePerforms

/-- R144, R147, R170: INSTRUCTION_FETCH of a context with room in its buffer keeps what the buffer holds and appends the scratchpad
bytes that follow, a word at a time, up to 32 bytes, as far as the words can be fetched; nothing else of the machine changes but
the banks that grant it, where no bank is taken yet, no word of the scratchpad fails and no watermark holds a word back. -/
def Obligations.FetchFills : Prop :=
  ∀ (s : State), s.me.status = .live → s.me.ffault = none → s.me.fbuf.length ≤ 28 → s.myCore.group ≠ none →
    quietCore s = true → s.me.fbuf.length % 4 = 0 → s.me.pc % 4 = 0 → s.myCore.bankUsed = [] → s.myCore.bankWin = [] →
    (∀ k : Nat, k < 8 → wmBlocks s.myCore none (s.me.pc + s.me.fbuf.length + 4 * k) 4 = false) →
      ∃ t : State, exec .instructionFetch s = .next t ∧
        t.updMyCore (fun k => { k with bankUsed := s.myCore.bankUsed, bankLast := s.myCore.bankLast }) =
          s.updMe (fun x => { x with fbuf := t.me.fbuf, ffault := t.me.ffault }) ∧
        t.me.fbuf = s.me.fbuf ++ memRead s.myCore.spad (s.me.pc + s.me.fbuf.length) (t.me.fbuf.length - s.me.fbuf.length) ∧
        ((∀ k : Nat, k < 8 → fetchable s.myCore (s.me.pc + 4 * k) = true) → t.me.fbuf.length = 32 ∧ t.me.ffault = none) ∧
        (fetchable s.myCore (s.me.pc + s.me.fbuf.length) = false → t.me.fbuf = s.me.fbuf ∧
          t.me.ffault = some { cause := 0x03, value := wordOf (s.me.pc + s.me.fbuf.length), pc := s.me.pc })

/-! The packed SIMD instructions (R118 to R142). -/

/-- The machine after a vector instruction has issued and written n lanes of width w to d: each lane's code, and the flags of
all lanes to FPSTAT (R112, R119). -/
def writesLanes (i : Instr) (w n : Nat) (d : Fin 32) (r : Nat → Nat × FFlags) (s : State) : State :=
  (issued i s).updMe fun x => { x.setV d (ofLanes w ((List.range n).map fun k => (r k).1)) with
    fpstat := x.fpstat ||| orFlags ((List.range n).map fun k => (r k).2) }

/-- R119: an active lane takes its result; an inactive lane keeps its contents and raises no flag. -/
def masked (t : VType) (m : Fin 8) (d : Fin 32) (r : Nat → Nat × FFlags) (s : State) (k : Nat) : Nat × FFlags :=
  if m.val = 0 ∨ (s.me.getK m.val).getLsbD k = true then r k else (lane (s.me.v[d.val]) t.width k, 0)

/-- A floating-point result of a lane, rounded once (R127). -/
def rounded (t : VType) (s : State) (x : FVal) : Nat × FFlags := (vFmt t).round .ne (!s.me.nbv2) x

/-- The two-source lane instructions of R127 to R129: the result of a lane from a, b and c, lane of vs1, vs2 and vd. -/
def laneRows (t : VType) (m : Fin 8) (s : State) : List ((VOp → VOp → VOp → Instr) × (Nat → Nat → Nat → Nat × FFlags)) :=
  let nan (a b : Nat) : FFlags := if laneNan t a || laneNan t b then flagNV else 0
  (if t.isFloat then
    [(.vadd t m, fun a b _ => rounded t s ((fval t a).add (fval t b))),
     (.vsub t m, fun a b _ => rounded t s ((fval t a).add (fval t b).neg)),
     (.vmul t m, fun a b _ => rounded t s ((fval t a).mul (fval t b))),
     (.vfma t m, fun a b c => rounded t s (((fval t a).mul (fval t b)).add (fval t c))),
     (.vfms t m, fun a b c => rounded t s (((fval t a).mul (fval t b)).add (fval t c).neg)),
     (.vnfma t m, fun a b c => rounded t s ((fval t c).add ((fval t a).mul (fval t b)).neg))]
  else
    [(.vadd t m, fun a b _ => (wrapT t (ival t a + ival t b), 0)), (.vsub t m, fun a b _ => (wrapT t (ival t a - ival t b), 0)),
     (.vmul t m, fun a b _ => (wrapT t (ival t a * ival t b), 0)),
     (.vand t m, fun a b _ => (a &&& b, 0)), (.vor t m, fun a b _ => (a ||| b, 0)), (.vxor t m, fun a b _ => (a ^^^ b, 0)),
     (.vshl t m, fun a b _ => (if b < t.width then a * 2 ^ b % 2 ^ t.width else 0, 0)),
     (.vshr t m, fun a b _ => (if b < t.width then a / 2 ^ b else 0, 0)),
     (.vshra t m, fun a b _ => (wrapT t (if b < t.width then ival t a / (2 ^ b : Nat) else if ival t a < 0 then -1 else 0), 0))]) ++
  [(.vmin t m, fun a b _ => (if laneNan t a then a else if laneNan t b then b else if rankLt t b a then b else a, nan a b)),
   (.vmax t m, fun a b _ => (if laneNan t a then a else if laneNan t b then b else if rankLt t a b then b else a, nan a b))]

/-- VABS and VNEG (R127). -/
def signRows (t : VType) (m : Fin 8) : List ((VOp → VOp → Instr) × (Nat → Nat)) :=
  if t.isFloat then
    [(.vabs t m, fun a => if laneNan t a then (vFmt t).nanCode else a % 2 ^ (t.width - 1)),
     (.vneg t m, fun a => if laneNan t a then (vFmt t).nanCode else (a + 2 ^ (t.width - 1)) % 2 ^ t.width)]
  else [(.vabs t m, fun a => wrapT t (if ival t a < 0 then -ival t a else ival t a)), (.vneg t m, fun a => wrapT t (0 - ival t a))]

/-- R119, R127 to R129: a lane instruction of vector registers issues, and every active lane of d takes the result of the
tables, computed from the lanes before the instruction; the flags of active lanes go to FPSTAT. -/
def Obligations.LanesResult : Prop :=
  ∀ (t : VType) (m : Fin 8) (d a b : Fin 32) (s : State),
    (∀ row ∈ laneRows t m s, issues (row.1 (.v d) (.v a) (.v b)) s = true →
      exec (row.1 (.v d) (.v a) (.v b)) s = .next (writesLanes (row.1 (.v d) (.v a) (.v b)) t.width t.lanes d
        (masked t m d (fun k => row.2 (lane (s.me.v[a.val]) t.width k) (lane (s.me.v[b.val]) t.width k)
          (lane (s.me.v[d.val]) t.width k)) s) s)) ∧
    (∀ row ∈ signRows t m, issues (row.1 (.v d) (.v a)) s = true →
      exec (row.1 (.v d) (.v a)) s = .next (writesLanes (row.1 (.v d) (.v a)) t.width t.lanes d
        (masked t m d (fun k => (row.2 (lane (s.me.v[a.val]) t.width k), 0)) s) s))

/-- The relation of a VCMP predicate on two lanes (R130). -/
def laneHolds (p : CmpOp) (t : VType) (a b : Nat) : Bool :=
  let less (x y : Nat) : Bool := if t.isFloat then (fval t x).lt (fval t y) else ival t x < ival t y
  let nan := laneNan t a || laneNan t b
  match p with
  | .eq => !nan && !less a b && !less b a
  | .ne => nan || less a b || less b a
  | .lt => !nan && less a b
  | .le => !nan && !less b a
  | .gt => !nan && less b a
  | .ge => !nan && !less a b
  | .ltu => !t.isFloat && a < b
  | .geu => !t.isFloat && b ≤ a

/-- R129 to R131: VSEL writes every lane from one of its sources by the mask, VBCAST the scalar to every active lane; VCMP
writes the whole mask register, 0 where a lane is inactive; VSHUF selects lanes of two sources by index; VINS changes one lane,
VEXT reads one. -/
def Clause.LanesMove : Prop :=
  ∀ (t : VType) (m k : Fin 8) (d a b c : Fin 32) (x : Fin 48) (l : BitVec 4) (p : CmpOp) (s : State),
    let at_ (r : Fin 32) (n : Nat) : Nat := lane (s.me.v[r.val]) t.width n
    let on (n : Nat) : Bool := m.val == 0 || (s.me.getK m.val).getLsbD n
    let nans := (p != .eq && p != .ne) && (List.range t.lanes).any fun n => on n && (laneNan t (at_ a n) || laneNan t (at_ b n))
    (issues (.vsel t m (.v d) (.v a) (.v b)) s = true →
      exec (.vsel t m (.v d) (.v a) (.v b)) s = .next (writesLanes (.vsel t m (.v d) (.v a) (.v b)) t.width t.lanes d
        (fun n => (if (s.me.getK m.val).getLsbD n = true then at_ a n else at_ b n, 0)) s)) ∧
    (issues (.vbcast t m (.v d) (.x x)) s = true →
      exec (.vbcast t m (.v d) (.x x)) s = .next (writesLanes (.vbcast t m (.v d) (.x x)) t.width t.lanes d
        (masked t m d (fun _ => ((s.me.getX x).toNat % 2 ^ t.width, 0)) s) s)) ∧
    (issues (.vcmp p t m k (.v a) (.v b)) s = true → ∃ w : BitVec 16,
      exec (.vcmp p t m k (.v a) (.v b)) s = .next ((issued (.vcmp p t m k (.v a) (.v b)) s).updMe fun q =>
        { q.setK k w with fpstat := q.fpstat ||| (if nans then flagNV else 0) }) ∧
      ∀ n : Nat, n < 16 → w.getLsbD n = (n < t.lanes && on n && laneHolds p t (at_ a n) (at_ b n))) ∧
    (issues (.vshuf t m (.v d) (.v a) (.v b) (.v c)) s = true →
      exec (.vshuf t m (.v d) (.v a) (.v b) (.v c)) s = .next (writesLanes (.vshuf t m (.v d) (.v a) (.v b) (.v c)) t.width t.lanes d
        (masked t m d (fun n => (if at_ c n < t.lanes then at_ a (at_ c n)
          else if at_ c n < 2 * t.lanes then at_ b (at_ c n - t.lanes) else 0, 0)) s) s)) ∧
    (issues (.vins t (.v d) (.x x) l) s = true → l.toNat < t.lanes →
      exec (.vins t (.v d) (.x x) l) s = .next (writesLanes (.vins t (.v d) (.x x) l) t.width t.lanes d
        (fun n => (if n = l.toNat then (s.me.getX x).toNat % 2 ^ t.width else at_ d n, 0)) s)) ∧
    (issues (.vext t (.x x) (.v a) l) s = true → l.toNat < t.lanes →
      exec (.vext t (.x x) (.v a) l) s = .next (writesX (.vext t (.x x) (.v a) l) x
        (if t.isFloat then BitVec.ofNat 64 (at_ a l.toNat) else BitVec.ofInt 64 (ival t (at_ a l.toNat))) s))

/-- A lane that a search finds (R133, R134): the first NaN if there is one, else a lane that no other active lane outranks and
that outranks every active lane before it. -/
def bestAt (t : VType) (top : Bool) (ls : List (Nat × Nat)) (p : Nat × Nat) : Prop :=
  let above (x y : Nat) : Bool := if top then rankLt t y x else rankLt t x y
  p ∈ ls ∧
  (laneNan t p.2 = true → ∀ q ∈ ls, q.1 < p.1 → laneNan t q.2 = false) ∧
  (laneNan t p.2 = false → ∀ q ∈ ls, laneNan t q.2 = false ∧ above q.2 p.2 = false ∧ (q.1 < p.1 → above p.2 q.2 = true))

/-- The register after VMAXI or VMINI: the index to S3, then the value to D, so that the value stays where both are one
register (R134). -/
def findsLane (i : Instr) (d c : Fin 48) (index value : Word) (fl : FFlags) (s : State) : State :=
  (issued i s).updMe fun x => { (x.setX c index).setX d value with fpstat := x.fpstat ||| fl }

/-- R133, R134: VREDM, VMAXI and VMINI find the best active lane; with no active lane VREDM gives the lowest value of the type and
VMAXI and VMINI give all ones and 0. An active NaN sets NV. VREDS of integer lanes gives the wrapped sum of the active lanes
(R132). -/
def Clause.LanesReduce : Prop :=
  ∀ (t : VType) (m : Fin 8) (d a : Fin 32) (x y : Fin 48) (s : State),
    let ls := activeLanes t m (s.me.v[a.val]) s
    let fl : FFlags := if ls.any (fun p => laneNan t p.2) then flagNV else 0
    let present := (List.range t.lanes).map fun k => if laneOn s m k then some (lane (s.me.v[a.val]) t.width k) else none
    let sum := redSum t (!s.me.nbv2) present
    let word (c : Nat) : Word := if t.isFloat then BitVec.ofNat 64 c else BitVec.ofInt 64 (ival t c)
    (issues (.vreds t m (.v d) (.v a)) s = true → t.isFloat = false →
      exec (.vreds t m (.v d) (.v a)) s = .next (writesLanes (.vreds t m (.v d) (.v a)) t.width t.lanes d
        (fun _ => (wrapT t ((ls.map fun p => ival t p.2).foldl (· + ·) 0), 0)) s)) ∧
    (issues (.vreds t m (.v d) (.v a)) s = true → t.isFloat = true →
      exec (.vreds t m (.v d) (.v a)) s = .next (writesLanes (.vreds t m (.v d) (.v a)) t.width t.lanes d
        (fun k => (sum.1, if k = 0 then sum.2 else 0)) s)) ∧
    (issues (.vredm t m (.v d) (.v a)) s = true → ∃ c : Nat,
      exec (.vredm t m (.v d) (.v a)) s = .next (writesLanes (.vredm t m (.v d) (.v a)) t.width t.lanes d
        (fun k => (c, if k = 0 then fl else 0)) s) ∧
      (ls = [] → c = if t.isFloat then (vFmt t).infCode true else 2 ^ (t.width - 1)) ∧
      (ls ≠ [] → ∃ n : Nat, bestAt t true ls (n, c))) ∧
    ∀ top : Bool, let i : Instr := if top then .vmaxi t m (.x x) (.x y) (.v a) else .vmini t m (.x x) (.x y) (.v a)
      issues i s = true →
        (ls = [] → exec i s = .next (findsLane i x y (BitVec.allOnes 64) 0 0 s)) ∧
        (ls ≠ [] → ∃ n c : Nat, bestAt t top ls (n, c) ∧ exec i s = .next (findsLane i x y (BitVec.ofNat 64 n) (word c) fl s))

/-- The vector instructions that move, compare and reduce lanes. -/
def Obligations.LanesMoveAndReduce : Prop := Clause.LanesMove ∧ Clause.LanesReduce

/-- The product of byte k of two vectors under the signs of a VDOT4 (R142). -/
def dotTerm (sg : DotSign) (a b : VWord) (k : Nat) : Int :=
  let u (v : VWord) : Int := (lane v 8 k : Nat)
  let i (v : VWord) : Int := if u v < 128 then u v else u v - 256
  match sg with
  | .uu => u a * u b
  | .su => i a * u b
  | .ss => i a * i b

/-- R135 to R137, R142: VCVT converts every active element to the destination's format and VCVTEF writes what the narrowing lost
to S3 as well (the sign of a residual that is exactly zero is log entry 31); VDOT4 adds four products of bytes to each active 32-bit lane, wrapped. -/
def Clause.LanesConvert : Prop :=
  ∀ (m : Fin 8) (d a b c : Fin 32) (s : State),
    let on (n : Nat) : Bool := m.val == 0 || (s.me.getK m.val).getLsbD n
    (∀ (dst src : CvtFmt) (r : CvtRnd),
      let n := min 16 (128 / max src.width dst.width)
      issues (.vcvt dst src r m (.v d) (.v a)) s = true →
        exec (.vcvt dst src r m (.v d) (.v a)) s = .next (writesLanes (.vcvt dst src r m (.v d) (.v a)) dst.width n d
          (fun k => if on k then convert dst src r (!s.me.nbv2) (lane (s.me.v[a.val]) src.width k)
            else (lane (s.me.v[d.val]) dst.width k, 0)) s)) ∧
    (∀ (dst src : CvtFmt) (r : CvtRnd), issues (.vcvtef dst src r m (.v d) (.v c) (.v a)) s = true →
      let n := min 16 (128 / src.width)
      let y (k : Nat) : Nat × FFlags := convert dst src r (!s.me.nbv2) (lane (s.me.v[a.val]) src.width k)
      exec (.vcvtef dst src r m (.v d) (.v c) (.v a)) s = .next
        ((issued (.vcvtef dst src r m (.v d) (.v c) (.v a)) s).updMe fun q =>
          { (q.setV c (ofLanes src.width ((List.range n).map fun k => if on k then
              residual dst src (!s.me.nbv2) (lane (s.me.v[a.val]) src.width k) (y k).1 else lane (s.me.v[c.val]) src.width k))).setV d
              (ofLanes dst.width ((List.range n).map fun k => if on k then (y k).1 else lane (s.me.v[d.val]) dst.width k)) with
            fpstat := q.fpstat ||| orFlags ((List.range n).map fun k => if on k then (y k).2 else 0) })) ∧
    (∀ sg : DotSign, issues (.vdot4 sg m (.v d) (.v a) (.v b)) s = true →
      let x (k : Nat) : Int := dotTerm sg (s.me.v[a.val]) (s.me.v[b.val]) k
      exec (.vdot4 sg m (.v d) (.v a) (.v b)) s = .next (writesLanes (.vdot4 sg m (.v d) (.v a) (.v b)) 32 4 d
        (masked .i32 m d (fun k => (((lane (s.me.v[d.val]) 32 k : Nat) + x (4 * k) + x (4 * k + 1) + x (4 * k + 2) + x (4 * k + 3)) %
          2 ^ 32 |>.toNat, 0)) s) s))

/-- The approximations of one operand (R139): the instruction, its clocks and its result on a lane. -/
def approxRows (t : VType) (d a : VOp) (la : BitVec 4) : List (Instr × Nat × (VType → Bool → Nat → Nat × FFlags)) :=
  [(.vrcp t d a la, 8, rcpLane), (.vrsq t d a la, 8, rsqLane), (.vexp2 t d a la, 12, exp2Lane), (.vlog2 t d a la, 12, log2Lane)]

/-- The machine after an approximation has issued: its flags stand in FPSTAT at once, its result is pending (R123, R141). -/
def approximates (i : Instr) (t : VType) (clocks : Nat) (r : Nat → Nat × FFlags) (s : State) : State :=
  (pends i .approx (s.clk s.cur.core + clocks)
    (some (.value (ofLanes t.width ((List.range t.lanes).map fun k => (r k).1)))) s).updMe fun x =>
      { x with fpstat := x.fpstat ||| orFlags ((List.range t.lanes).map fun k => (r k).2) }

/-- R139 to R141: an approximation issues and is pending with its result for 8 or 12 clocks, a Newton step for 6, counted from its
issue. The operands R139 lists give the results it lists: NaN gives NaN with NV; a reciprocal, its root and a logarithm of a zero an
infinity with DZ, a power the 1; of an infinity they give a zero or an infinity, and of minus infinity the root and the logarithm
NaN with NV, as of every number below zero. (The sign of a Newton step that is exactly zero is log entry 31.) -/
def Clause.Approximations : Prop :=
  ∀ (t : VType) (d a b : Fin 32) (la : BitVec 4) (s : State),
    (∀ row ∈ approxRows t (.v d) (.v a) la, issues row.1 s = true →
      exec row.1 s = .next (approximates row.1 t row.2.1
        (fun k => row.2.2 t (!s.me.nbv2) (lane (s.me.v[a.val]) t.width k)) s) ∧
      ∀ (v1 : Bool) (c : Nat), laneNan t c = true → row.2.2 t v1 c = ((vFmt t).nanCode, flagNV)) ∧
    (∀ sqrt : Bool, let i : Instr := if sqrt then .vrsqs t (.v d) (.v a) (.v b) la else .vrcps t (.v d) (.v a) (.v b) la
      issues i s = true → exec i s = .next (approximates i t 6 (fun k => newtonLane sqrt t (!s.me.nbv2)
        (lane (s.me.v[a.val]) t.width k) (lane (s.me.v[b.val]) t.width k)) s)) ∧
    (∀ (v1 n : Bool) (c : Nat) (e : Int), fval t c = .fin n 0 e →
      rcpLane t v1 c = ((vFmt t).infCode n, flagDZ) ∧ rsqLane t v1 c = ((vFmt t).infCode n, flagDZ) ∧
      exp2Lane t v1 c = ((vFmt t).ne (FVal.ofInt 1), 0) ∧ log2Lane t v1 c = ((vFmt t).infCode true, flagDZ)) ∧
    (∀ (v1 n : Bool) (c : Nat), fval t c = .inf n → rcpLane t v1 c = ((vFmt t).signed n 0, 0) ∧
      rsqLane t v1 c = (if n then ((vFmt t).nanCode, flagNV) else (0, 0)) ∧
      exp2Lane t v1 c = (if n then 0 else (vFmt t).infCode false, 0) ∧
      log2Lane t v1 c = (if n then ((vFmt t).nanCode, flagNV) else ((vFmt t).infCode false, 0))) ∧
    (∀ (v1 : Bool) (c m : Nat) (e : Int), fval t c = .fin true m e → m ≠ 0 →
      rsqLane t v1 c = ((vFmt t).nanCode, flagNV) ∧ log2Lane t v1 c = ((vFmt t).nanCode, flagNV))

/-- The vector instructions that convert and approximate. -/
def Obligations.LanesConvertAndApproximate : Prop := Clause.LanesConvert ∧ Clause.Approximations

/-! Remote access (R172 to R182). -/

/-- What the message of a remote instruction carries besides its action: who issued it, and for which launch and job. -/
def fromMe (s : State) (a : Fin 48) (n : Nat) (h : Home) (act : MsgAct) (flag : Option Nat) : Msg :=
  { issuer := .ctx s.cur.core s.cur.slot s.me.gen s.nextId, act := act, home := h, va := n
    key := (s.me.getX a).toNat / 2 ^ 52 % 16, flag := flag, launch := coreLaunch s s.cur.core, job := coreJob s s.cur.core }

/-- The place 8 bytes on. -/
def next8 : Home → Home
  | .spad c o => .spad c (o + 8)
  | .hbm p => .hbm (p + 8)
  | .host p => .host (p + 8)
  | .fabric p => .fabric (p + 8)
  | h => h

/-- The low n bytes of a word. -/
def lowBytes (n : Nat) (w : Nat) : List Byte := (List.range n).map fun i => BitVec.ofNat 8 (w / 2 ^ (8 * i))

/-- The posted instructions of R178 and R179: instruction, size, kind, and the messages it hands over to a home. -/
def postedRows (s : State) (a b c : Fin 48) (v : Fin 32) (op : AmoOp) (f : BitVec 8) (la : BitVec 4) (n : Nat) (h : Home) :
    List (Instr × Nat × XKind × List Msg) :=
  let w := (s.me.getX b).toNat
  let d := (s.me.v[v.val]).toNat
  let m (act : MsgAct) : Msg := fromMe s a n h act (some f.toNat)
  let cmp (k : Nat) : Word := if op = .cas then wordOf ((s.me.getX c).toNat % 2 ^ k) else 0
  [(.rst8 (.x b) (.x a) f la, 1, .write, [m (.store (lowBytes 1 w))]),
   (.rst16 (.x b) (.x a) f la, 2, .write, [m (.store (lowBytes 2 w))]),
   (.rst32 (.x b) (.x a) f la, 4, .write, [m (.store (lowBytes 4 w))]),
   (.rst (.x b) (.x a) f la, 8, .write, [m (.store (lowBytes 8 w))]),
   (.rstv (.v v) (.x a) f la, 16, .write, [m (.store (lowBytes 8 d)),
     { m (.store (lowBytes 8 (d / 2 ^ 64))) with home := next8 h, va := n + 8, elem := 8 }]),
   (.ramo op true (.x a) (.x b) (.x c) f la, 8, .atomic, [m (.atomic op true (wordOf w) (cmp 64) false)]),
   (.ramo op false (.x a) (.x b) (.x c) f la, 4, .atomic, [m (.atomic op false (wordOf (w % 2 ^ 32)) (cmp 32) false)])]

/-- R176, R178, R179: a posted store or atomic of an aligned address whose home is known issues and is pending with its
messages; a misaligned address traps with cause 0x04 and the address. -/
def Clause.PostedIssues : Prop :=
  ∀ (a b c : Fin 48) (v : Fin 32) (op : AmoOp) (f : BitVec 8) (la : BitVec 4) (h : Home) (s : State),
    let n := (s.me.getX a).toNat % 2 ^ 52
    ∀ row ∈ postedRows s a b c v op f la n h, issues row.1 s = true → regionCheck n (n + row.2.1 - 1) = .ok →
      (n % row.2.1 = 0 → remoteHome s row.1 n row.2.2.1 = .ok h →
        exec row.1 s = .next (pends row.1 (.posted row.2.2.2) 0 none s)) ∧
      (n % row.2.1 ≠ 0 → trapsPlainly s = true → exec row.1 s = .next (traps row.1 0x04 (wordOf n) s.me.pc (instrLen row.1) s))

/-- The remote instructions that return a value (R179, R181): instruction, offset, size, kind, action of a message, and whether it
has two of them, one for each half of 16 bytes (R202). -/
def returningRows (s : State) (d a b c : Fin 48) (v : Fin 32) (op : AmoOp) (o : BitVec 16) (la : BitVec 4) :
    List (Instr × Int × Nat × XKind × MsgAct × Bool) :=
  let w := (s.me.getX b).toNat
  let cmp (k : Nat) : Word := if op = .cas then wordOf ((s.me.getX c).toNat % 2 ^ k) else 0
  [(.rldS8 (.x d) (.x a) o la, o.toInt, 1, .read, .load 1 true, false),
   (.rldZ8 (.x d) (.x a) o la, o.toInt, 1, .read, .load 1 false, false),
   (.rldS16 (.x d) (.x a) o la, o.toInt, 2, .read, .load 2 true, false),
   (.rldZ16 (.x d) (.x a) o la, o.toInt, 2, .read, .load 2 false, false),
   (.rldS32 (.x d) (.x a) o la, o.toInt, 4, .read, .load 4 true, false),
   (.rldZ32 (.x d) (.x a) o la, o.toInt, 4, .read, .load 4 false, false),
   (.rld (.x d) (.x a) o la, o.toInt, 8, .read, .load 8 false, false),
   (.rldv (.v v) (.x a) o la, o.toInt, 16, .read, .load 8 false, true),
   (.ramor op true (.x d) (.x a) (.x b) (.x c) la, 0, 8, .atomic, .atomic op true (wordOf w) (cmp 64) true, false),
   (.ramor op false (.x d) (.x a) (.x b) (.x c) la, 0, 4, .atomic, .atomic op false (wordOf (w % 2 ^ 32)) (cmp 32) true, false)]

/-- The machine after messages have been sent in order, each to arrive at its own time. -/
def sendsAll (ms : List (Nat × Msg)) (s : State) : State := ms.foldl (fun u m => sends m.1 m.2 u) s

/-- Times of arrival that the manual leaves open, one for each of n messages: all later than now (log entry 5). -/
def openTimes (s : State) (n : Nat) (dues : List Nat) : Prop := dues.length = n ∧ ∀ d ∈ dues, s.now < d

/-- R172, R176, R179, R181, R202: a remote load or returning atomic of an aligned address whose home is known issues in a clock in
which the outbound unit has accepted nothing yet, is pending, and its message, or the two halves of 16 bytes, are on their way,
to arrive at times that the manual leaves open; a misaligned address traps with cause 0x04 and the address. -/
def Clause.ReturningIssues : Prop :=
  ∀ (d a b c : Fin 48) (v : Fin 32) (op : AmoOp) (o : BitVec 16) (la : BitVec 4) (h : Home) (s : State),
    let base : Int := ((s.me.getX a).toNat % 2 ^ 52 : Nat)
    ∀ row ∈ returningRows s d a b c v op o la, issues row.1 s = true →
      let at_ := base + row.2.1
      let m := fromMe s a at_.toNat h row.2.2.2.2.1 none
      let ms := if row.2.2.2.2.2 then [m, { m with home := next8 h, va := at_.toNat + 8, elem := 8 }] else [m]
      regionCheck at_ (at_ + row.2.2.1 - 1) = .ok →
      (at_ % row.2.2.1 = 0 → remoteHome s row.1 at_.toNat row.2.2.2.1 = .ok h →
        (outOpen s s.cur.core = true → ∃ dues, openTimes s ms.length dues ∧ exec row.1 s = .next
          (sendsAll (dues.zip ms) (takeOut (pends row.1 (.remote []) 0 none s) s.cur.core))) ∧
        (outOpen s s.cur.core = false → ∃ held : List VWord, exec row.1 s = .next (blocks row.1 1 0 held s))) ∧
      (at_ % row.2.2.1 ≠ 0 → trapsPlainly s = true →
        exec row.1 s = .next (traps row.1 0x04 (wordOf at_.toNat) s.me.pc (instrLen row.1) s))

/-- The issue of remote instructions. -/
def Obligations.RemoteIssues : Prop := Clause.PostedIssues ∧ Clause.ReturningIssues

/-- R172, R178: POSTED_HANDOFF, while fewer than 16 posted operations are held and the outbound unit has accepted nothing in this
clock, ends the pending instruction and puts its message, or the two halves of 16 bytes, on their way. -/
def Clause.PostedHandsOff : Prop :=
  ∀ (ms : List Msg) (s : State), ∀ p, findPend s.me s.cur.id = some p → p.kind = .posted ms →
    (outboundPosted s s.cur.core).length < 16 → outOpen s s.cur.core = true → ∃ dues, openTimes s ms.length dues ∧
      exec .postedHandoff s = .next (sendsAll (dues.zip ms)
        ((takeOut s s.cur.core).updMe fun x => { x with pend := x.pend.filter fun q => q.id != p.id }))

/-- A message that has reached a core's memory-side unit, which takes it: one to the core's own local addresses, or one of the
launch of its group (R172, R174). -/
def reaches (s : State) (m : Msg) (c : Nat) : Bool :=
  message s == some m && msgReady s s.cur.id m && m.issuer != .foreign && (ownLocal c m || residentFor s c m.launch)

/-- A message has been answered: the answer is on its way back, and a copy engine's access to its own banks has ended (R144). -/
def answers (s t : State) (m : Msg) (r : Reply) : Prop :=
  (m.direct = false → answered s t r) ∧ (m.direct = true → mget t.msgs s.cur.id = none)

/-- The tags of n bytes of a core pass a key (R161). -/
def tagsAt (s : State) (c a n key : Nat) : Bool := (List.range n).all fun i => tagMatch (tagAt (s.core c) (a + i)) key

/-- What a scratchpad home does with a write of n bytes at an address (R175): the bytes, no other byte, and n subtracted from
the named flag; a failing tag writes nothing and subtracts nothing. -/
def storesAt (s t : State) (m : Msg) (c a : Nat) (bytes : List Byte) (r : Reply) : Prop :=
  onlySpad c s t ∧
  (tagsAt s c a bytes.length m.key = true →
    memRead (t.core c).spad a bytes.length = bytes ∧
    (∀ j : Nat, j < a ∨ a + bytes.length ≤ j → memGet (t.core c).spad j = memGet (s.core c).spad j) ∧
    (∀ f : Nat, m.flag = some f → (t.flag c f).subs = (s.flag c f).subs ++ [(bytes.length : Int)]) ∧ answers s t m r) ∧
  (tagsAt s c a bytes.length m.key = false →
    sameSpads s t ∧ (t.core c).flags = (s.core c).flags ∧ (answers s t m .unchanged ∨ answers s t m (.failed 0x07)))

/-- R162, R173 to R175, R179, R194: a store, a nibble store or an atomic that reaches a core's memory-side unit is performed at
that scratchpad; an atomic that returns answers with the old value. -/
def Clause.StoresArrive : Prop :=
  ∀ (c a : Nat) (s : State), quietAt s c = true → ∀ m, message s = some m → reaches s m c = true → m.home = .spad c a →
    (∀ data : List Byte, m.act = .store data → data.length ≤ 16 →
      ∃ t : State, exec .remoteStoreArrive s = .next t ∧ storesAt s t m c a data .ack) ∧
    (∀ b k : Byte, m.act = .nibble b k → ∃ t : State, exec .nibbleMessageArrive s = .next t ∧
      storesAt s t m c a [(memGet (s.core c).spad a &&& ~~~k) ||| (b &&& k)] .ack) ∧
    (∀ (op : AmoOp) (w cmp : Word) (returns : Bool), m.act = .atomic op true w cmp returns →
      let old : BitVec 64 := BitVec.ofNat 64 (memNat (s.core c).spad a 8)
      ∃ t : State, exec .remoteAtomicArrive s = .next t ∧
        storesAt s t m c a (lowBytes 8 (atomicNew 64 op old w cmp).toNat)
          (if returns then .data (v128 old) else .ack)) ∧
    (∀ (op : AmoOp) (w cmp : BitVec 32) (returns : Bool),
      m.act = .atomic op false (w.setWidth 64) (cmp.setWidth 64) returns →
      let old : BitVec 32 := BitVec.ofNat 32 (memNat (s.core c).spad a 4)
      ∃ t : State, exec .remoteAtomicArrive s = .next t ∧
        storesAt s t m c a (lowBytes 4 (atomicNew 32 op old w cmp).toNat)
          (if returns then .data (v128 (old.signExtend 64)) else .ack))

/-- R162, R175, R180, R181, R183, R198: a remote load that reaches a scratchpad changes no memory and answers with its bytes,
extended, or where their tags fail with no data; at a flag entry a load answers with the entry, a store sets it, an atomic
addition adds to it and a subtraction subtracts from it; a posted store or addition there that names a flag of its own also
subtracts 8 from that flag, which may be the same entry. (That a load or a returning atomic answers with the entry as the accesses
before it in the clock left it is log entry 31.) -/
def Clause.LoadsAndFlagsArrive : Prop :=
  ∀ (c a : Nat) (s : State), ∀ m, message s = some m → reaches s m c = true → m.direct = false →
    (∀ (n : Nat) (sgn : Bool), m.act = .load n sgn → m.home = .spad c a → quietAt s c = true → n ≤ 16 → (sgn = true → n ≤ 8) →
      ∃ t : State, exec .remoteLoadArrive s = .next t ∧ sameSpads s t ∧ t.hbm = s.hbm ∧ t.host = s.host ∧
        (tagsAt s c a n m.key = true → answered s t (.data (if sgn then
          BitVec.ofNat 128 ((BitVec.ofNat (8 * n) (memNat (s.core c).spad a n)).signExtend 64).toNat
          else BitVec.ofNat 128 (memNat (s.core c).spad a n)))) ∧
        (tagsAt s c a n m.key = false → ∃ u due, mget t.msgs s.cur.id = some u ∧ s.now < due ∧
          (u.phase = .coming .unchanged due ∨ u.phase = .coming (.failed 0x07) due))) ∧
    (∀ f : Nat, m.home = .flagw c f → m.flag = none →
      let e := s.flag c f
      let entry : VWord := BitVec.ofNat 128 ((e.count % 2 ^ 40).toNat + (if e.ovs then 2 ^ 63 else 0))
      (m.act = .load 8 false → ∃ t : State, exec .flagWindowArrive s = .next t ∧ answered s t (.data entry) ∧ t.cores = s.cores) ∧
      (∀ data : List Byte, m.act = .store data → data.length = 8 →
        let v : Int := (BitVec.ofNat 40 (bytesNat data)).toInt
        ∃ t : State, exec .flagWindowArrive s = .next t ∧ answered s t .ack ∧
          (e.adds = [] → e.subs = [] → (t.flag c f).count = v ∧ (v < 0 → (t.flag c f).ovs = true))) ∧
      (∀ (w cmp : Word) (returns : Bool), m.act = .atomic .add true w cmp returns →
        ∃ t : State, exec .flagWindowArrive s = .next t ∧ answered s t (if returns then .data entry else .ack) ∧
          (t.flag c f).adds = (s.flag c f).adds ++ [(w.setWidth 40).toInt]) ∧
      (∀ n : Nat, m.act = .flagSub n → ∃ t : State, exec .flagWindowArrive s = .next t ∧ answered s t .ack ∧
        (t.flag c f).subs = (s.flag c f).subs ++ [(n : Int)])) ∧
    (∀ f g : Nat, m.home = .flagw c f → m.flag = some g →
      let counts (t : State) : Prop := (t.flag c g).subs = (s.flag c g).subs ++ [(8 : Int)] ∧
        (g ≠ f → (t.flag c f).subs = (s.flag c f).subs)
      (∀ data : List Byte, m.act = .store data → data.length = 8 →
        ∃ t : State, exec .flagWindowArrive s = .next t ∧ answered s t .ack ∧ counts t ∧
          (t.flag c f).sets = (s.flag c f).sets ++ [(BitVec.ofNat 40 (bytesNat data)).toInt]) ∧
      (∀ w cmp : Word, m.act = .atomic .add true w cmp false →
        ∃ t : State, exec .flagWindowArrive s = .next t ∧ answered s t .ack ∧ counts t ∧
          (t.flag c f).adds = (s.flag c f).adds ++ [(w.setWidth 40).toInt]))

/-- The table of R161: whether a granule of a tag matches a key. -/
def keyMatches (tag key : Nat) : Bool := if tag = 0 then true else if tag = 15 then false else key == tag

/-- Every granule that n bytes of a core touch matches the key. -/
def granulesMatch (k : Core) (a n key : Nat) : Bool := (List.range n).all fun i => keyMatches (mgetD k.tags ((a + i) / 32) 0) key

/-- R161: a local load or store and a store that arrives carry the key of their pointer, 0 to 15; each granule that they touch is matched
by the table, and where one fails, the access fails: the load traps with cause 0x08 and the first failing address, the store writes
nothing. -/
def Clause.KeysMatchTags : Prop :=
  ∀ (s : State),
    (∀ (d a : Fin 48) (e : Fin 32) (o : BitVec 8) (q : BitVec 16) (la : BitVec 4), ∀ row ∈ loadRows d a e o q la,
      issues row.1 s = true → quietCore s = true → (∀ g : Nat, mgetD s.myCore.tags g 0 < 16) →
        let key := ((s.me.getX a).extractLsb' 52 4).toNat
        ∀ n, localAt (s.me.getX a) row.2.1 row.2.2.1 = some n →
          (granulesMatch s.myCore n row.2.2.1 key = true → exec row.1 s = .next (pends row.1
            (.loc (.load n row.2.2.1 row.2.2.2 .plain) key) (s.clk s.cur.core + 4) none s)) ∧
          (granulesMatch s.myCore n row.2.2.1 key = false → trapsPlainly s = true →
            ∃ k, keyMatches (mgetD s.myCore.tags ((n + k) / 32) 0) key = false ∧ granulesMatch s.myCore n k key = true ∧
              exec row.1 s = .next (traps row.1 0x08 (wordOf (n + k)) s.me.pc (instrLen row.1) s))) ∧
    (∀ (e : StoreEnt) (r : List StoreEnt) (n len : Nat) (data : VWord), s.myCore.storeQ = e :: r → e.act = .bytes n len data false →
      len ≤ 16 → e.key < 16 → headReady s e n len = true → quietCore s = true → (∀ g : Nat, mgetD s.myCore.tags g 0 < 16) →
        ∃ t : State, exec .storePerform s = .next t ∧ t.myCore.storeQ = r ∧
          (granulesMatch s.myCore n len e.key = true → ∀ i : Nat, i < len → memGet t.myCore.spad (n + i) = (data >>> (8 * i)).setWidth 8) ∧
          (granulesMatch s.myCore n len e.key = false → t.myCore.spad = s.myCore.spad)) ∧
    (∀ (c a : Nat) (data : List Byte), ∀ m, message s = some m → quietAt s c = true → reaches s m c = true → m.home = .spad c a →
      m.act = .store data → data.length ≤ 16 → m.key < 16 → (∀ g : Nat, mgetD (s.core c).tags g 0 < 16) →
        ∃ t : State, exec .remoteStoreArrive s = .next t ∧
          (granulesMatch (s.core c) a data.length m.key = true → memRead (t.core c).spad a data.length = data) ∧
          (granulesMatch (s.core c) a data.length m.key = false → (t.core c).spad = (s.core c).spad))

/-- What messages do at a core, and the match of keys and tags there and of the core's own accesses. -/
def Obligations.MessagesArrive : Prop := Clause.StoresArrive ∧ Clause.LoadsAndFlagsArrive ∧ Clause.KeysMatchTags

/-- R173, R332: a store of a core's context or channel to device memory writes its bytes and no other byte of device memory, where
the place is mapped and no word fails; to host memory likewise. -/
def Clause.MemoryWritesArrive : Prop :=
  ∀ (a : Nat) (data : List Byte) (s : State), s.upsets = [] → data.length ≤ 16 → ∀ m, message s = some m →
    msgReady s s.cur.id m = true → m.issuer ≠ .foreign → m.direct = false → m.act = .store data →
    (m.home = .hbm a → paMapped s a = true → ∃ t : State, exec .hbm4eWriteArrive s = .next t ∧ answered s t .ack ∧
      memRead t.hbm a data.length = data ∧ (∀ j : Nat, j < a ∨ a + data.length ≤ j → memGet t.hbm j = memGet s.hbm j) ∧
      sameSpads s t ∧ t.host = s.host) ∧
    (m.home = .host a → ∃ t : State, exec .hbm4eWriteArrive s = .next t ∧ answered s t .ack ∧
      memRead t.host a data.length = data ∧ (∀ j : Nat, j < a ∨ a + data.length ≤ j → memGet t.host j = memGet s.host j) ∧
      sameSpads s t ∧ t.hbm = s.hbm)

/-- R173, R179, R181: a load from mapped device memory or from host memory answers with its bytes, extended, and changes none; an
atomic on device memory writes the new value to its bytes alone, and one that returns answers with the old value. -/
def Clause.MemoryReadsArrive : Prop :=
  ∀ (a : Nat) (s : State), s.upsets = [] → ∀ m, message s = some m → msgReady s s.cur.id m = true → m.issuer ≠ .foreign →
    m.direct = false →
    (∀ (n : Nat) (sgn : Bool), m.act = .load n sgn → n ≤ 16 → (sgn = true → n ≤ 8) →
      let data (v : Nat) : Reply := .data (if sgn then BitVec.ofNat 128 ((BitVec.ofNat (8 * n) v).signExtend 64).toNat
        else BitVec.ofNat 128 v)
      (m.home = .hbm a → paMapped s a = true → ∃ t : State, exec .remoteLoadArrive s = .next t ∧
        answered s t (data (memNat s.hbm a n)) ∧ t.hbm = s.hbm ∧ t.host = s.host ∧ sameSpads s t) ∧
      (m.home = .host a → ∃ t : State, exec .remoteLoadArrive s = .next t ∧
        answered s t (data (memNat s.host a n)) ∧ t.hbm = s.hbm ∧ t.host = s.host ∧ sameSpads s t)) ∧
    (∀ (op : AmoOp) (w cmp : Word) (returns : Bool), m.act = .atomic op true w cmp returns → m.home = .hbm a →
      paMapped s a = true →
      let old : BitVec 64 := BitVec.ofNat 64 (memNat s.hbm a 8)
      ∃ t : State, exec .remoteAtomicArrive s = .next t ∧ answered s t (if returns then .data (v128 old) else .ack) ∧
        memNat t.hbm a 8 = (atomicNew 64 op old w cmp).toNat ∧
        (∀ j : Nat, j < a ∨ a + 8 ≤ j → memGet t.hbm j = memGet s.hbm j) ∧ t.host = s.host ∧ sameSpads s t)

/-- R173, R181, R182, R202: the acknowledgement of a posted store that a context made to device or host memory subtracts its bytes
from the named flag of the issuing core; a posted operation's failure is queued as a report to the context that issued it, with
cause 0x0A for an uncorrectable word and 0x0B else; a load's value goes to its register when nothing of the instruction is on
its way any more, and a half of 16 bytes is kept until the other comes; a load whose home is absent raises a trap with the
cause 0x0B and the address. -/
def Clause.AnswersReturn : Prop :=
  ∀ (c t g q : Nat) (r : Reply) (s : State), ∀ m, message s = some m → m.issuer = .ctx c t g q →
    ∀ due : Nat, due ≤ s.now → m.phase = .coming r due →
    let alone := s.msgs.all fun o => o.1 == s.cur.id || o.2.issuer != m.issuer
    (∀ (data : List Byte) (f a : Nat), m.act = .store data → m.flag = some f → m.home = .hbm a ∨ m.home = .host a → r = .ack →
      ∃ u : State, exec .remoteAckReturn s = .next u ∧ mget u.msgs s.cur.id = none ∧
        (u.flag c f).subs = (s.flag c f).subs ++ [(data.length : Int)]) ∧
    (∀ (data : List Byte) (st : Nat), m.act = .store data → m.half = false → r = .failed st → sameCtx s c t g = true →
      (s.ctx c t).failQ.length < 4 → ∃ u : State, exec .remoteFailureReturn s = .next u ∧ mget u.msgs s.cur.id = none ∧
        (u.ctx c t).failQ = (s.ctx c t).failQ ++ [{ cause := if st = 0x09 then 0x0A else 0x0B, value := wordOf (m.va - m.elem) }]) ∧
    (∀ (n : Nat) (sgn : Bool), m.act = .load n sgn → (s.ctx c t).gen = g → ∀ p, findPend (s.ctx c t) q = some p →
      p.kind = .remote [] → p.res = none → p.due ≤ s.clk c →
      (∀ (v : VWord) (d : Fin 48), r = .data v → alone = true → p.got = [] → m.elem = 0 → p.dst = .s (.x d) →
        ∃ u : State, exec .remoteLoadComplete s = .next u ∧ mget u.msgs s.cur.id = none ∧
          (u.ctx c t).x = ((s.ctx c t).setX d (w64 v)).x ∧ findPend (u.ctx c t) q = none) ∧
      (∀ (v : VWord) (e : Fin 32), r = .data v → alone = false → p.dst = .v (.v e) →
        ∃ u : State, exec .remoteLoadComplete s = .next u ∧ mget u.msgs s.cur.id = none ∧ (u.ctx c t).v = (s.ctx c t).v ∧
          findPend (u.ctx c t) q = some { p with got := p.got ++ [(m.elem, v)] }) ∧
      (∀ (lo hi : Word) (e : Fin 32), alone = true → p.dst = .v (.v e) →
        (m.elem = 0 ∧ r = .data (v128 lo) ∧ p.got = [(8, v128 hi)]) ∨ (m.elem = 8 ∧ r = .data (v128 hi) ∧ p.got = [(0, v128 lo)]) →
        ∃ u : State, exec .remoteLoadComplete s = .next u ∧ mget u.msgs s.cur.id = none ∧
          (u.ctx c t).v = ((s.ctx c t).setV e (hi ++ lo : BitVec 128)).v ∧ findPend (u.ctx c t) q = none) ∧
      (r = .failed 0x08 → alone = true → (s.ctx c t).trap = none → (s.ctx c t).halted = false →
        ∃ u : State, exec .remoteLoadComplete s = .next u ∧ mget u.msgs s.cur.id = none ∧ (u.ctx c t).x = (s.ctx c t).x ∧
          findPend (u.ctx c t) q = none ∧ (u.ctx c t).trap.map (fun w => (w.cause, w.value)) =
            some (0x0B, wordOf (m.va - m.elem))))

/-- Messages that arrive at device and host memory, and answers that return. -/
def Obligations.MemoryMessages : Prop := Clause.MemoryWritesArrive ∧ Clause.MemoryReadsArrive ∧ Clause.AnswersReturn

/-- R187: LINK_WORD_ARRIVE puts the oldest word that is due at the end of its inbound queue, and sets EVT in the live contexts. -/
def Clause.LinkWordArrives : Prop :=
  ∀ (side : Nat) (w : Word) (due : Nat) (s : State),
    (∃ f, s.myCore.linkFly.find? (fun g => g.2.2 ≤ s.clk s.cur.core) = some f ∧ f = (side, w, due)) →
      ∃ t : State, exec .linkWordArrive s = .next t ∧ mgetD t.myCore.linkQ side [] = mgetD s.myCore.linkQ side [] ++ [w] ∧
        t.myCore.linkFly = s.myCore.linkFly.erase (side, w, due) ∧
        ∀ n : Nat, (s.ctx s.cur.core n).status = .live → (t.ctx s.cur.core n).evt = true

/-- A posted operation leaves its core, and a word comes over a link. -/
def Obligations.HandOffs : Prop := Clause.PostedHandsOff ∧ Clause.LinkWordArrives

/-! Polynomial instructions (R256 to R259) and task queues (R282 to R285). -/

/-- Nothing of the issuing context's local accesses is unperformed, and no watermark is active. -/
def localClear (s : State) : Bool :=
  !earlierLocal s s.cur.core s.cur.slot s.nextId true && s.myCore.chans.all fun c => c.2.wm == none

/-- The issuing context is blocked in an instruction at a stage of its own with these values. -/
def waitsIn (i : Instr) (stage : Nat) (aux : Word) (held : List VWord) (s : State) : Bool :=
  blockedIn i stage s && match s.me.blk with
    | some b => b.aux == aux && b.held == held
    | none => false

/-- The blocked instruction completes with a value for d. -/
def endsX (d : Fin 48) (w : Word) (s : State) : State := s.updMe fun x => { x.setX d w with blk := none }

/-- The machine with the banks that the issuing core has granted in this clock (R144). -/
def grants (used : List Nat) (last : Map Nat) (s : State) : State :=
  s.updMyCore fun k => { k with bankUsed := used, bankLast := last }

/-- R35, R144, R256, R259: PEXT of an 8-aligned image in the scratchpad, whose tags pass, gives the coefficient of the whole image,
sign-extended: at once where nothing of its context is unperformed, no watermark is active and the banks grant its reads, and else
behind the block in which it waits; a misaligned image traps with cause 0x04. -/
def Clause.PextResult : Prop :=
  ∀ (d a b : Fin 48) (s : State), quietCore s = true → 0 < s.me.pwidth →
    let i : Instr := .pext (.x d) (.x a) (.x b)
    let p := s.me.getX a
    let bits (x : Nat) : Nat := if x / 2 ^ 16 % 2 = 1 then 1152 else 576
    let coeff (n x : Nat) : Word :=
      BitVec.ofInt 64 (polyExtract (sextN (memNat s.myCore.spad n (bits x / 8)) (bits x)) s.me.pwidth (x % 2 ^ 16))
    let n := p.toNat % 2 ^ 52
    let x := (s.me.getX b).toNat
    (issues i s = true → n % 8 = 0 → n + bits x / 8 ≤ 0x80000 → tagsPass s p n (bits x / 8) = true →
      (localClear s = true → banksFree s.myCore = true → ∃ u l,
        exec (.pext (.x d) (.x a) (.x b)) s = .next (grants u l (writesX i d (coeff n x) s))) ∧
      (earlierLocal s s.cur.core s.cur.slot s.nextId true = true ∨ (∀ k : Nat, k < 32 → k ∈ s.myCore.bankUsed) →
        exec (.pext (.x d) (.x a) (.x b)) s = .next (blocks i 1 0 [v128 p, v128 (s.me.getX b)] s))) ∧
    (∀ v w : Word, waitsIn i 1 0 [v128 v, v128 w] s = true → v.toNat % 2 ^ 52 % 8 = 0 →
      (localClear s = true → banksFree s.myCore = true → ∃ u l,
        exec (.pext (.x d) (.x a) (.x b)) s = .next (grants u l (endsX d (coeff (v.toNat % 2 ^ 52) w.toNat) s))) ∧
      (earlierLocal s s.cur.core s.cur.slot s.nextId true = true ∨ (∀ k : Nat, k < 32 → k ∈ s.myCore.bankUsed) →
        exec (.pext (.x d) (.x a) (.x b)) s = .next s)) ∧
    (issues i s = true → n % 8 ≠ 0 → trapsPlainly s = true →
      exec (.pext (.x d) (.x a) (.x b)) s = .next (traps i 0x04 (wordOf n) s.me.pc 1 s))

/-- Element i of a pointer to integers, and its bytes. -/
def intAt (m : Memory) (w : Nat) (p : Word) (i : Nat) : Int :=
  let l := elementLoc (.int w) 0 (p.toNat % 2 ^ 52) i
  sextN (memNat m l.byte l.size / 2 ^ l.bit) w

/-- The bytes of n elements lie in the scratchpad, and their tags pass. -/
def elementsPass (s : State) (w : Nat) (p : Word) (n : Nat) : Bool :=
  (List.range n).all fun i =>
    let l := elementLoc (.int w) 0 (p.toNat % 2 ^ 52) i
    l.byte + l.size ≤ 0x80000 && tagsPass s p l.byte l.size

/-- The machine has put the entries of a list behind those of its store queue, as far as the queue has room for them, from place
`k` on; the context waits in its instruction to enter the rest, or for them all to be performed (R257, R258). -/
def entersFrom (i : Instr) (k : Nat) (acts : List StoreAct) (s t : State) : Prop :=
  let room := 8 - s.myCore.storeQ.length
  t.myCore.storeQ.map (·.act) = s.myCore.storeQ.map (·.act) ++ (acts.drop k).take room ∧
  (k + room < acts.length → blockedIn i 2 t = true ∧ t.me.blk.map Blk.aux = some (wordOf (k + room))) ∧
  (acts.length ≤ k + room → blockedIn i 3 t = true)

/-- What the reads of a blocked PACK come to in a clock in which the banks are free: from the elements it holds it reads on, at least
one; with an element outside the guard range among them it traps with its index; with elements left it waits on with what it has;
with the last it goes on to its stores (R144, R257). -/
def packReads (i : Instr) (w n x : Nat) (p v : Word) (got : List VWord) (s t : State) : Prop :=
  let loc (k : Nat) : ELoc := elementLoc (.int w) 0 (p.toNat % 2 ^ 52) k
  let vals (m : Nat) : List VWord := got ++ (List.range (m - got.length)).map fun k =>
    BitVec.ofNat 128 (memNat s.myCore.spad (loc (got.length + k)).byte (loc (got.length + k)).size)
  let elem (k : Nat) : Int := sextN (((vals n).getD k 0).toNat / 2 ^ (loc k).bit) w
  let outside (k : Nat) : Bool := got.length ≤ k && !inGuard (elem k) s.me.pwidth
  let image := (polyPack s.me.pwidth ((List.range n).map elem) % (2 ^ 576 : Nat)).toNat
  ∃ m, got.length ≤ m ∧ m ≤ n ∧ (got.length < n → got.length < m) ∧
    (∀ k : Nat, k < m → outside k = true → (∀ j : Nat, j < k → outside j = false) → trapsPlainly s = true → ∃ u l,
      t = grants u l (enters 0x10 (wordOf k) ((s.me.blk.map Blk.pc).getD 0) ((s.me.blk.map Blk.len).getD 0) s)) ∧
    ((∀ k : Nat, k < m → outside k = false) → m < n →
      waitsIn i 1 0 (v128 p :: v128 v :: vals m) t = true ∧ t.myCore.spad = s.myCore.spad ∧ t.myCore.storeQ = s.myCore.storeQ) ∧
    ((∀ k : Nat, k < m → outside k = false) → m = n → t.myCore.spad = s.myCore.spad ∧ t.me.pc = s.me.pc ∧
      entersFrom i 0 ((List.range 9).map fun k =>
        StoreAct.bytes (x % 2 ^ 19 + 8 * k) 8 (BitVec.ofNat 128 (image / 2 ^ (64 * k) % 2 ^ 64)) false) s t)

/-- R257: PACK of elements that fit reads them in order as the banks grant them, and traps with cause 0x10 and the index at one outside
the guard range, with nothing written; with the last it enters its nine words in the store queue as it has room, waiting while
there is none; once they are performed it completes with the low word. -/
def Clause.PackRuns : Prop :=
  ∀ (d a b : Fin 48) (w : Nat) (s : State),
    let i : Instr := .pack (.x d) (.x a) (.x b)
    let p := s.me.getX a
    let x := (s.me.getX b).toNat
    let n := x / 2 ^ 32 % 2 ^ 16
    let act (at_ k : Nat) (v : VWord) : StoreAct := .bytes (at_ % 2 ^ 19 + 8 * k) 8 v false
    (issues i s = true → quietCore s = true → localClear s = true → ptrE p = some (.int w) →
      p.toNat % 2 ^ 52 % ((w + 7) / 8) = 0 → x % 2 ^ 19 % 8 = 0 → x % 2 ^ 19 + 72 ≤ 0x80000 → elementsPass s w p n = true →
      (n ≤ 576 / s.me.pwidth → banksFree s.myCore = true → ∃ t : State, exec (.pack (.x d) (.x a) (.x b)) s = .next t ∧
        packReads i w n x p (s.me.getX b) [] (blocks i 1 0 [v128 p, v128 (s.me.getX b)] s) t) ∧
      (576 / s.me.pwidth < n → trapsPlainly s = true → exec (.pack (.x d) (.x a) (.x b)) s =
        .next (traps i 0x10 (wordOf (576 / s.me.pwidth)) s.me.pc 1 s))) ∧
    (∀ (got : List VWord) (v y : Word), waitsIn i 1 0 (v128 v :: v128 y :: got) s = true → quietCore s = true →
      localClear s = true → banksFree s.myCore = true → ptrE v = some (.int w) → got.length ≤ y.toNat / 2 ^ 32 % 2 ^ 16 →
      ∃ t : State, exec (.pack (.x d) (.x a) (.x b)) s = .next t ∧
        packReads i w (y.toNat / 2 ^ 32 % 2 ^ 16) y.toNat v y got s t) ∧
    (∀ (ws : List VWord) (v y : Word) (k : Nat), waitsIn i 2 (wordOf k) (v128 v :: v128 y :: ws) s = true → k < 9 →
      ws.length = 9 → s.myCore.storeQ.length < 8 →
      ∃ t : State, exec (.pack (.x d) (.x a) (.x b)) s = .next t ∧
        entersFrom i k ((List.range 9).map fun j => act y.toNat j (ws.getD j 0)) s t) ∧
    (∀ (ws : List VWord) (v y : Word), waitsIn i 3 0 (v128 v :: v128 y :: ws) s = true → ownStores s = false →
      exec (.pack (.x d) (.x a) (.x b)) s = .next (endsX d (w64 (ws.getD 0 0)) s))

/-- R258: UNPACK of the coefficients of an image, once the banks grant its reads, enters their saturated values as element stores in the store queue as it has
room, and completes, once they are performed, with the number that were clamped. -/
def Clause.UnpackRuns : Prop :=
  ∀ (d a b : Fin 48) (w : Nat) (s : State),
    let i : Instr := .unpack (.x d) (.x a) (.x b)
    let p := s.me.getX a
    let x := (s.me.getX b).toNat
    let n := x / 2 ^ 32 % 2 ^ 16
    let bits := if x / 2 ^ 48 % 2 = 1 then 1152 else 576
    let goesOn (v y : Word) (s t : State) : Prop :=
      let n := y.toNat / 2 ^ 32 % 2 ^ 16
      let bits := if y.toNat / 2 ^ 48 % 2 = 1 then 1152 else 576
      let image := sextN (memNat s.myCore.spad (y.toNat % 2 ^ 19) (bits / 8)) bits
      let sat (k : Nat) : Int := max (-((2 ^ (w - 1) : Nat) : Int)) (min (polyExtract image s.me.pwidth k) ((2 ^ (w - 1) : Nat) - 1))
      entersFrom i 0 ((List.range n).map fun k => StoreAct.elem v k (BitVec.ofInt 64 (sat k))) s t ∧
      t.me.blk.map (fun q => q.held.getLastD 0) = some (BitVec.ofNat 128 ((List.range n).countP fun k =>
        polyExtract image s.me.pwidth k != sat k))
    (issues i s = true → quietCore s = true → localClear s = true → ptrE p = some (.int w) → 0 < s.me.pwidth →
      p.toNat % 2 ^ 52 % ((w + 7) / 8) = 0 → x % 2 ^ 19 % 8 = 0 → x % 2 ^ 19 + bits / 8 ≤ 0x80000 → elementsPass s w p n = true →
      tagsPass s p (x % 2 ^ 19) (bits / 8) = true → banksFree s.myCore = true →
        ∃ t : State, exec (.unpack (.x d) (.x a) (.x b)) s = .next t ∧ goesOn p (s.me.getX b) s t) ∧
    (∀ v y : Word, waitsIn i 1 0 [v128 v, v128 y] s = true → quietCore s = true → localClear s = true →
      banksFree s.myCore = true → ptrE v = some (.int w) → 0 < s.me.pwidth → y.toNat % 2 ^ 19 % 8 = 0 →
        ∃ t : State, exec (.unpack (.x d) (.x a) (.x b)) s = .next t ∧ goesOn v y s t) ∧
    (∀ (ws : List VWord) (v y : Word) (c : VWord) (k : Nat),
      waitsIn i 2 (wordOf k) (v128 v :: v128 y :: (ws ++ [c])) s = true → k < ws.length → ws.length < 2 ^ 16 →
      s.myCore.storeQ.length < 8 → ∃ t : State, exec (.unpack (.x d) (.x a) (.x b)) s = .next t ∧
        entersFrom i k ((List.range ws.length).map fun j => StoreAct.elem v j (w64 (ws.getD j 0))) s t) ∧
    (∀ ws : List VWord, waitsIn i 3 0 ws s = true → ownStores s = false →
      exec (.unpack (.x d) (.x a) (.x b)) s = .next (endsX d (w64 (ws.getLastD 0)) s))

/-- The instructions on polynomial images. -/
def Obligations.PolynomialImages : Prop := Clause.PextResult ∧ Clause.PackRuns ∧ Clause.UnpackRuns

/-- R283, R285: TKPUT of a packet in the scratchpad to a queue in scope issues and waits for a free place, and one that has to wait
to read its header, for an earlier access or its bank, blocks before it; a header outside R285 traps with cause 0x04. TKGET issues and its request goes to the
queue's home, and a destination that is no multiple of 8 traps with cause 0x04. A use outside the scope traps with cause 0x11
and the handle's upper bits. -/
def Clause.TaskQueueIssue : Prop :=
  ∀ (d a b : Fin 48) (la : BitVec 4) (s : State),
    let h := s.me.getX a
    let p := s.me.getX b
    let n := p.toNat % 2 ^ 52
    let dst := h.toNat % 2 ^ 19
    (issues (.tkput (.x a) (.x b)) s = true → queueUse s s.cur.core h ≠ none → quietCore s = true → localClear s = true →
      localAt p 0 8 = some n → ∀ len, packetLength (memNat s.myCore.spad n 8) = some len → n + len ≤ 0x80000 →
      tagsPass s p n len = true → banksFree s.myCore = true → exec (.tkput (.x a) (.x b)) s =
        .next (takeBanks (blocks (.tkput (.x a) (.x b)) 2 (wordOf len) [v128 h, v128 p] s) s.cur.core 0 [(n, 8)])) ∧
    (issues (.tkput (.x a) (.x b)) s = true → queueUse s s.cur.core h ≠ none → quietCore s = true → localAt p 0 8 = some n →
      (earlierLocal s s.cur.core s.cur.slot s.nextId true = true ∨ granted s.myCore 0 [(n, 8)] = false → exec (.tkput (.x a) (.x b)) s =
        .next (blocks (.tkput (.x a) (.x b)) 1 0 [v128 h, v128 p] s)) ∧
      (localClear s = true → packetLength (memNat s.myCore.spad n 8) = none → trapsPlainly s = true → banksFree s.myCore = true →
        exec (.tkput (.x a) (.x b)) s =
          .next (takeBanks (traps (.tkput (.x a) (.x b)) 0x04 (wordOf n) s.me.pc 1 s) s.cur.core 0 [(n, 8)]))) ∧
    (issues (.tkget (.x d) (.x a) la) s = true → queueUse s s.cur.core h ≠ none → dst % 8 ≠ 0 → trapsPlainly s = true →
      exec (.tkget (.x d) (.x a) la) s = .next (traps (.tkget (.x d) (.x a) la) 0x04 (wordOf dst) s.me.pc 1 s)) ∧
    (issues (.tkget (.x d) (.x a) la) s = true → ∀ u, queueUse s s.cur.core h = some u → dst % 8 = 0 → dst + 256 ≤ 0x80000 →
      ∃ due : Nat, s.now < due ∧ exec (.tkget (.x d) (.x a) la) s = .next (sends due
        { issuer := .ctx s.cur.core s.cur.slot s.me.gen s.nextId, act := .tkget h dst (h.toNat / 2 ^ 52 % 16)
          home := .queue u (hNumber h), va := dst, key := h.toNat / 2 ^ 52 % 16, job := coreJob s s.cur.core }
        (pends (.tkget (.x d) (.x a) la) (.query []) 0 none s))) ∧
    (queueUse s s.cur.core h = none → trapsPlainly s = true →
      let top := wordOf (h.toNat / 2 ^ 33 * 2 ^ 33)
      (issues (.tkput (.x a) (.x b)) s = true →
        exec (.tkput (.x a) (.x b)) s = .next (traps (.tkput (.x a) (.x b)) 0x11 top s.me.pc 1 s)) ∧
      (issues (.tkget (.x d) (.x a) la) s = true →
        exec (.tkget (.x d) (.x a) la) s = .next (traps (.tkget (.x d) (.x a) la) 0x11 top s.me.pc 1 s)))

/-- R285: TASK_PACKET_APPEND puts the whole packet of a waiting TKPUT at the tail of its queue, while a place is free and the banks grant its read, and the
TKPUT completes; TASK_PACKET_REMOVE takes the head packet for a TKGET, or finds the queue empty; TKGET_COMPLETE writes the
packet's bytes to the scratchpad and its header to the register. -/
def Clause.TaskPacketsMove : Prop :=
  ∀ (a b : Fin 48) (h p len : Word) (u : Nat) (q : TQueue) (s : State), hQueue s (coreJob s s.cur.core) u h = some q → u ≠ 11 →
    (waitsIn (.tkput (.x a) (.x b)) 2 len [v128 h, v128 p] s = true → queueUse s s.cur.core h = some u → localClear s = true →
      quietCore s = true → banksFree s.myCore = true →
      q.packets.length < q.depth → ∃ t : State, exec .taskPacketAppend s = .next t ∧
        hQueue t (coreJob s s.cur.core) u h =
          some { q with packets := q.packets ++ [memRead s.myCore.spad (p.toNat % 2 ^ 52) len.toNat] } ∧
        t.me = { s.me with blk := none }) ∧
    (∀ m, message s = some m → ∀ (dst key due : Nat), m.act = .tkget h dst key → m.issuer ≠ .foreign → m.home = .queue u (hNumber h) →
      m.phase = .going due → due ≤ s.now → m.job = coreJob s s.cur.core →
        ∃ t : State, exec .taskPacketRemove s = .next t ∧ answered s t (.packet (q.packets.headD [])) ∧
          hQueue t m.job u h = some { q with packets := q.packets.drop 1 })

/-- R285: TKGET_COMPLETE writes the packet to the destination, no other byte of the scratchpad, and its header to the register. -/
def Clause.TaskPacketLands : Prop :=
  ∀ (h : Word) (dst key c slot g q due : Nat) (bs : List Byte) (d : Fin 48) (s : State), ∀ m, message s = some m →
    m.act = .tkget h dst key → m.issuer = .ctx c slot g q → m.phase = .coming (.packet bs) due → due ≤ s.now →
    quietAt s c = true → banksFree (s.core c) = true → (s.core c).chans.all (fun k => k.2.wm == none) = true → (s.ctx c slot).gen = g →
    tagsAt s c dst bs.length key = true → bs.length ≤ 256 →
    ∀ p, findPend (s.ctx c slot) q = some p → p.dst = .s (.x d) → p.due ≤ s.clk c →
      ∃ t : State, exec .tkgetComplete s = .next t ∧ memRead (t.core c).spad dst bs.length = bs ∧
        (∀ j : Nat, j < dst ∨ dst + bs.length ≤ j → memGet (t.core c).spad j = memGet (s.core c).spad j) ∧
        onlySpad c s t ∧ (t.ctx c slot).x = ((s.ctx c slot).setX d (BitVec.ofNat 64 (bytesNat (bs.take 8)))).x ∧
        findPend (t.ctx c slot) q = none ∧ mget t.msgs s.cur.id = none

/-- Packets of task queues. -/
def Obligations.TaskQueues : Prop := Clause.TaskQueueIssue ∧ Clause.TaskPacketsMove ∧ Clause.TaskPacketLands

/-- The issuing context is blocked in a CSR instruction that waits for the action of a register at a stage. -/
def acts (s : State) (stage : Nat) (v : Word) : Bool :=
  match s.me.blk with
  | some b => (csrOf b.instr).isSome && b.stage == stage && b.aux == v && b.outs == []
  | none => false

/-- An answer for the issuing context is on its way. -/
def replied (s t : State) (w : Word) : Prop :=
  ∃ due : Nat, s.now < due ∧
    t.replies = s.replies ++ [{ core := s.cur.core, slot := s.cur.slot, gen := s.me.gen, value := w, due := due }]

/-- No context is blocked in a TKPUT. -/
def noPuts (s : State) : Bool :=
  s.cores.all fun p => p.2.ctxs.all fun x => x.2.blk.all fun b => match b.instr with
    | .tkput _ _ => false
    | _ => true

/-- R284, R286: TQCFG_CREATE makes an empty queue where its home has room and no queue of the number, TQCFG_DESTROY removes a queue
of the job, wherever the agent stands; each answers 1, a refused one 2 (a create of a number in use or without the packet places, a
destroy of no queue or of a pipe's), and the answer goes to TQRESULT and ends the CSR
instruction. -/
def Obligations.TaskQueueActions : Prop :=
  ∀ (v : Word) (u : Nat) (s : State),
    let job := coreJob s s.cur.core
    let depth := v.toNat / 4 % 256 + 1
    let ok := hNumber v ≤ 63 && hInside s.cur.core u v
    (acts s 8 v = true → hHome s job v = some u → u ≠ 11 →
      (v.toNat % 4 = 1 → ∃ t : State, exec .tqcfgCreate s = .next t ∧
        (ok && (mget (unitPlain s u).queues (hNumber v)).isNone && placesUsed (unitPlain s u) + depth ≤ 4096 →
          mget (unitPlain t u).queues (hNumber v) =
            some { job := job, scope := hScope v, square := hSquare v, depth := depth } ∧ replied s t 1) ∧
        (!ok || (mget (unitPlain s u).queues (hNumber v)).isSome || 4096 < placesUsed (unitPlain s u) + depth →
          unitPlain t u = unitPlain s u ∧ replied s t 2)) ∧
      (v.toNat % 4 = 2 → noPuts s = true → ∃ t : State, exec .tqcfgDestroy s = .next t ∧
        (∀ q, hQueue s job u v = some q → hNumber v ≤ 63 → q.pipe = none →
          mget (unitPlain t u).queues (hNumber v) = none ∧ replied s t 1) ∧
        (hQueue s job u v = none ∨ (∃ q, hQueue s job u v = some q ∧ q.pipe ≠ none) → unitPlain t u = unitPlain s u ∧ replied s t 2))) ∧
    (acts s 8 v = true → hHome s job v = none →
      (v.toNat % 4 = 1 → ∃ t : State, exec .tqcfgCreate s = .next t ∧ replied s t 2 ∧ t.plains = s.plains ∧ t.north = s.north) ∧
      (v.toNat % 4 = 2 → ∃ t : State, exec .tqcfgDestroy s = .next t ∧ replied s t 2 ∧ t.plains = s.plains ∧ t.north = s.north)) ∧
    (acts s 11 v = true → ∀ r, ctxReply s = some r →
      exec .tqcfgReply s = .next (({ s with replies := s.replies.erase r } : State).updMe fun x =>
        { x with tqresult := r.value.toNat, blk := none }))

/-! Ports, trap entry, register actions, debug, trace, and translation at a core (R77, R86 to R89, R165, R187, R212 to R234, R316). -/

/-- Everything but the first transfer lets an instruction issue (R75, R77). -/
def mayTransfer (i : Instr) (s : State) : Bool :=
  mayIssue s && (s.me.pend.all fun p => p.n < p.l && (touched i).all fun r => !p.uses.contains r) && impDue s == none &&
  execHit s == none && !illegalHere s.cur.core s.cur.slot i && csrVerdict i s == .go && (!drains i || s.me.pend.isEmpty) &&
  unitFree i s && !(i == .brk && s.myCore.brkHalt) && walkVerdict i s == .go

/-- The machine after an instruction has trapped in the tests before its issue. -/
def trapsFirst (i : Instr) (cause : Nat) (value : Word) (s : State) : State :=
  { traps i cause value s.me.pc (instrLen i) s with free := s.free + 1 }

/-- R43, R55, R77, R171, R187, R188, R286: a two-source instruction whose first source is a port that holds a word (an inbound link,
a result queue, a read stream, a pipe) takes the word, leaves the rest and completes. -/
def Clause.PortSources : Prop :=
  ∀ row ∈ twoSourceRows, ∀ (d b : Fin 48) (l : Dir) (q : Fin 4) (w : Word) (r : List Word) (s : State),
    let result (i : Instr) (t : State) : Prop := t.me = (writesX i d (row.2 w (s.me.getX b)) s).me
    (issues (row.1 (.x d) (.port (.ln l)) (.x b)) s = true → mgetD s.myCore.linkQ (dirNum l) [] = w :: r → ∃ t : State,
      exec (row.1 (.x d) (.port (.ln l)) (.x b)) s = .next t ∧ result (row.1 (.x d) (.port (.ln l)) (.x b)) t ∧
        mgetD t.myCore.linkQ (dirNum l) [] = r) ∧
    (issues (row.1 (.x d) (.port (.eq q)) (.x b)) s = true → (s.myCore.res q.val).halves = w :: r → ∃ t : State,
      exec (row.1 (.x d) (.port (.eq q)) (.x b)) s = .next t ∧ result (row.1 (.x d) (.port (.eq q)) (.x b)) t ∧
        t.myCore.res q.val = { s.myCore.res q.val with halves := r }) ∧
    (issues (row.1 (.x d) (.port (.st q)) (.x b)) s = true → (mgetD s.myCore.streams q.val {}).mode = 1 →
      (mgetD s.myCore.streams q.val {}).words = w :: r → ∃ t : State,
      exec (row.1 (.x d) (.port (.st q)) (.x b)) s = .next t ∧ result (row.1 (.x d) (.port (.st q)) (.x b)) t ∧
        (mgetD t.myCore.streams q.val {}).words = r) ∧
    (issues (row.1 (.x d) (.port (.pp q)) (.x b)) s = true → ∀ u h tq, pipeAt s s.cur.core q.val = .ok (u, h, tq) →
      tq.words = w :: r → ∃ t : State,
      exec (row.1 (.x d) (.port (.pp q)) (.x b)) s = .next t ∧ result (row.1 (.x d) (.port (.pp q)) (.x b)) t ∧
        pipeAt t s.cur.core q.val = .ok (u, h, { tq with words := r }))

/-- R8, R77, R171, R187, R188, R190, R286: a two-source instruction whose destination is a port with room puts its result there and
completes: on the way to a resident neighbour, 2 or 8 of its clocks long; in the assembly buffer of an engine queue, of which
the fourth word makes a command word; in a write stream; at the end of a pipe. (That the words in flight on a link count towards the eight that fill its
queue is the model's choice and no words of R187: log entry 31.) -/
def Clause.PortDestinations : Prop :=
  ∀ row ∈ twoSourceRows, ∀ (a b : Fin 48) (l : Dir) (q : Fin 4) (s : State),
    let w := row.2 (s.me.getX a) (s.me.getX b)
    (issues (row.1 (.port (.ln l)) (.x a) (.x b)) s = true → ∀ n, neighbour s.cur.core l = some n →
      linkPresent s s.cur.core l = true →
      (mgetD (s.core n).linkQ (dirNum (opposite l)) []).length +
        ((s.core n).linkFly.filter fun f => f.1 == dirNum (opposite l)).length < 8 →
      ∃ t : State, exec (row.1 (.port (.ln l)) (.x a) (.x b)) s = .next t ∧
        t.me = (issued (row.1 (.port (.ln l)) (.x a) (.x b)) s).me ∧
        (t.core n).linkFly = (s.core n).linkFly ++ [(dirNum (opposite l), w,
          s.clk n + (if coreDie n = coreDie s.cur.core then 2 else 8))]) ∧
    (issues (row.1 (.port (.eq q)) (.x a) (.x b)) s = true →
      (s.me.asm[q.val].length < 3 → exec (row.1 (.port (.eq q)) (.x a) (.x b)) s =
        .next ((issued (row.1 (.port (.eq q)) (.x a) (.x b)) s).updMe fun x =>
          { x with asm := x.asm.set q.val (s.me.asm[q.val] ++ [w]) })) ∧
      (∀ g, s.myCore.group = some g → s.me.asm[q.val].length = 3 → released s s.cur.core s.cur.slot s.nextId = true →
        let word := cmdOfWords (s.me.asm[q.val] ++ [w])
        hasRoom s q.val word = true → ∃ due : Nat, s.now < due ∧ exec (row.1 (.port (.eq q)) (.x a) (.x b)) s =
          .next (entersQueue q.val (commandEntry s g word none 0) due
            ((issued (row.1 (.port (.eq q)) (.x a) (.x b)) s).updMe fun x => { x with asm := x.asm.set q.val [] })))) ∧
    (issues (row.1 (.port (.st q)) (.x a) (.x b)) s = true → (mgetD s.myCore.streams q.val {}).mode = 2 →
      (mgetD s.myCore.streams q.val {}).words.length < 8 → ∃ t : State,
      exec (row.1 (.port (.st q)) (.x a) (.x b)) s = .next t ∧ t.me = (issued (row.1 (.port (.st q)) (.x a) (.x b)) s).me ∧
        mgetD t.myCore.streams q.val {} =
          { mgetD s.myCore.streams q.val {} with words := (mgetD s.myCore.streams q.val {}).words ++ [w] }) ∧
    (issues (row.1 (.port (.pp q)) (.x a) (.x b)) s = true → ∀ u h tq, pipeAt s s.cur.core q.val = .ok (u, h, tq) →
      tq.words.length < tq.depth → ∃ t : State,
      exec (row.1 (.port (.pp q)) (.x a) (.x b)) s = .next t ∧ t.me.x = s.me.x ∧ t.me.blk = none ∧
        t.me.pc = (s.me.pc + 4 * instrLen (row.1 (.port (.pp q)) (.x a) (.x b))) % 2 ^ 52 ∧
        pipeAt t s.cur.core q.val = .ok (u, h, { tq with words := tq.words ++ [w] }))

/-- R43, R77: PORT_TRANSFER_CONTINUE of an instruction with two port sources that has popped its first word takes its second, of an
inbound link, a result queue, a read stream or a pipe, when it is there, and completes; while it is not there the instruction stays
blocked with the word it holds. One that has still to put its result on a link or in a write stream goes on once there is room. (That the
words in flight on a link count towards the eight that fill its queue is the model's choice: log entry 31.) -/
def Clause.TransferContinues : Prop :=
  (∀ row ∈ twoSourceRows, ∀ (d : Fin 48) (p : Port) (l : Dir) (q : Fin 4) (v : VWord) (w : Word) (r : List Word) (s : State),
    let waits (o : Port) : Prop := waitsIn (row.1 (.x d) (.port p) (.port o)) 0 0 [v] s = true
    let result (t : State) : Prop := t.me = { s.me.setX d (row.2 (w64 v) w) with blk := none }
    let stays : Prop := exec .portTransferContinue s = .refused .notEnabled
    let stream := mgetD s.myCore.streams q.val {}
    (waits (.ln l) →
      (mgetD s.myCore.linkQ (dirNum l) [] = w :: r →
        ∃ t : State, exec .portTransferContinue s = .next t ∧ result t ∧ mgetD t.myCore.linkQ (dirNum l) [] = r) ∧
      (mgetD s.myCore.linkQ (dirNum l) [] = [] → linkPresent s s.cur.core l = true → stays)) ∧
    (waits (.eq q) →
      ((s.myCore.res q.val).halves = w :: r → ∃ t : State, exec .portTransferContinue s = .next t ∧ result t ∧
        t.myCore.res q.val = { s.myCore.res q.val with halves := r }) ∧
      ((s.myCore.res q.val).halves = [] → stays)) ∧
    (waits (.st q) →
      (stream.mode = 1 → stream.words = w :: r →
        ∃ t : State, exec .portTransferContinue s = .next t ∧ result t ∧ (mgetD t.myCore.streams q.val {}).words = r) ∧
      (stream.mode ≠ 1 ∨ stream.words = [] → stays)) ∧
    (waits (.pp q) → ∀ u h tq, pipeAt s s.cur.core q.val = .ok (u, h, tq) →
      (tq.words = w :: r → ∃ t : State, exec .portTransferContinue s = .next t ∧ result t ∧
        pipeAt t s.cur.core q.val = .ok (u, h, { tq with words := r })) ∧
      (tq.words = [] → stays))) ∧
  (∀ (b : Blk) (l : Dir) (q : Fin 4) (v : VWord) (s : State), s.me.blk = some b → b.stage = 99 →
    (b.outs = [(.ln l, v, false)] → ∀ n, neighbour s.cur.core l = some n → linkPresent s s.cur.core l = true →
      (mgetD (s.core n).linkQ (dirNum (opposite l)) []).length +
        ((s.core n).linkFly.filter fun f => f.1 == dirNum (opposite l)).length < 8 →
      ∃ t : State, exec .portTransferContinue s = .next t ∧ t.me = { s.me with blk := none } ∧
        (t.core n).linkFly = (s.core n).linkFly ++ [(dirNum (opposite l), w64 v,
          s.clk n + (if coreDie n = coreDie s.cur.core then 2 else 8))]) ∧
    (b.outs = [(.st q, v, false)] → (mgetD s.myCore.streams q.val {}).mode = 2 →
      (mgetD s.myCore.streams q.val {}).words.length < 8 →
      ∃ t : State, exec .portTransferContinue s = .next t ∧ t.me = { s.me with blk := none } ∧
        mgetD t.myCore.streams q.val {} =
          { mgetD s.myCore.streams q.val {} with words := (mgetD s.myCore.streams q.val {}).words ++ [w64 v] }))

/-- R55, R77, R171, R187, R188, R286: an instruction whose first source is a port with no word, or whose destination is a port with
no room, leaves the machine as it is; a link whose neighbour is not resident traps with cause 0x0C and the specifier, a pipe that
the group may not use with cause 0x11 and its handle, at issue and, where it is the second source, in the instruction that waits for it.
(That the words in flight on a link count towards the eight that fill its
queue is the model's choice: log entry 31.) -/
def Clause.PortsWaitOrTrap : Prop :=
  ∀ row ∈ twoSourceRows, ∀ (d a b : Fin 48) (l : Dir) (q : Fin 4) (s : State),
    let pop (p : Port) : Instr := row.1 (.x d) (.port p) (.x b)
    let push (p : Port) : Instr := row.1 (.port p) (.x a) (.x b)
    let stream := mgetD s.myCore.streams q.val {}
    (mayTransfer (pop (.ln l)) s = true → mgetD s.myCore.linkQ (dirNum l) [] = [] →
      (linkPresent s s.cur.core l = true → exec (pop (.ln l)) s = .next s) ∧
      (linkPresent s s.cur.core l = false → trapsPlainly s = true →
        exec (pop (.ln l)) s = .next (trapsFirst (pop (.ln l)) 0x0C (wordOf (48 + dirNum l)) s))) ∧
    (mayTransfer (pop (.eq q)) s = true → (s.myCore.res q.val).halves = [] → exec (pop (.eq q)) s = .next s) ∧
    (mayTransfer (pop (.st q)) s = true → stream.mode ≠ 1 ∨ stream.words = [] → exec (pop (.st q)) s = .next s) ∧
    (mayTransfer (push (.ln l)) s = true →
      (linkPresent s s.cur.core l = true → (∀ n, neighbour s.cur.core l = some n →
        8 ≤ (mgetD (s.core n).linkQ (dirNum (opposite l)) []).length +
          ((s.core n).linkFly.filter fun f => f.1 == dirNum (opposite l)).length) → exec (push (.ln l)) s = .next s) ∧
      (linkPresent s s.cur.core l = false → trapsPlainly s = true →
        exec (push (.ln l)) s = .next (trapsFirst (push (.ln l)) 0x0C (wordOf (48 + dirNum l)) s))) ∧
    (mayTransfer (push (.st q)) s = true → stream.mode ≠ 2 ∨ 8 ≤ stream.words.length → exec (push (.st q)) s = .next s) ∧
    (∀ u h tq, pipeAt s s.cur.core q.val = .ok (u, h, tq) →
      (mayTransfer (pop (.pp q)) s = true → tq.words = [] → exec (pop (.pp q)) s = .next s) ∧
      (mayTransfer (push (.pp q)) s = true → tq.depth ≤ tq.words.length → exec (push (.pp q)) s = .next s)) ∧
    (∀ h, pipeAt s s.cur.core q.val = .error (some h) → trapsPlainly s = true →
      (mayTransfer (pop (.pp q)) s = true → exec (pop (.pp q)) s = .next (trapsFirst (pop (.pp q)) 0x11 h s)) ∧
      (mayTransfer (push (.pp q)) s = true → exec (push (.pp q)) s = .next (trapsFirst (push (.pp q)) 0x11 h s))) ∧
    (∀ (p : Port) (v : VWord) (w : Blk), s.me.blk = some w → trapsPlainly s = true →
      (waitsIn (row.1 (.x d) (.port p) (.port (.ln l))) 0 0 [v] s = true → mgetD s.myCore.linkQ (dirNum l) [] = [] →
        linkPresent s s.cur.core l = false → exec .portTransferContinue s =
          .next { enters 0x0C (wordOf (48 + dirNum l)) w.pc w.len s with free := s.free + 1 }) ∧
      (waitsIn (row.1 (.x d) (.port p) (.port (.pp q))) 0 0 [v] s = true → ∀ h, pipeAt s s.cur.core q.val = .error (some h) →
        exec .portTransferContinue s = .next { enters 0x11 h w.pc w.len s with free := s.free + 1 }))

/-- Operands that are ports. That a link is full with eight words in its queue and in flight together is the model's choice (log
entry 31, R187). -/
def Obligations.PortTransfers : Prop := Clause.PortSources ∧ Clause.PortDestinations ∧ Clause.TransferContinues ∧ Clause.PortsWaitOrTrap

/-- The context after it has taken a raised trap at the next level (R86, R87). -/
def entered (r : TrapReq) (ilen : Nat) (x : Ctx) : Ctx :=
  let b := x.bank (x.tl + 1)
  { x.setBank (x.tl + 1) { b with
      tcause := BitVec.ofNat 64 r.cause, tvalue := r.value, tepc := BitVec.ofNat 64 (r.pc % 2 ^ 52)
      tstat := BitVec.ofNat 64 (256 * ilen + (if x.mode = .runtime then 1024 else 0) + (if r.defer then 2048 else 0) +
        4096 * (r.win % 16)) } with
    tl := x.tl + 1, mode := .runtime, pc := b.tvec.toNat, fbuf := [], ffault := none, trap := none, blk := none, walking := none }

/-- R86 to R89, R144, R170: TRAP_ENTRY of a running context with no pending instruction writes the next level's registers and goes to its
vector in runtime mode; where the length of the word at the saved program counter is not known, it reads that word, once no
watermark covers it and its bank is free; at level 2 a helper is killed with its kill record and keeps its registers, and a control context ends its
group. Other contexts do not change but for EVT and the YIELD holds that waited for the slot. -/
def Obligations.TrapIsTaken : Prop :=
  ∀ (s : State), s.me.status = .live → s.me.pend = [] → s.me.halted = false → s.me.stepping = none →
    tracesSlot s.myCore s.cur.slot = false → ∀ r, s.me.trap = some r → r.note = .plain →
      let kr : KillRecord := { cause := r.cause, value := r.value, pc := r.pc, slot := s.cur.slot, core := s.cur.core }
      (s.me.tl < 2 → ∀ n, r.ilen = some n → exec .trapEntry s =
        .next (s.updMe fun x => { entered r n x with notBefore := s.clk s.cur.core + 1 })) ∧
      (s.me.tl < 2 → r.ilen = none → lengthKnown s r.pc = true → exec .trapEntry s =
        .next (s.updMe fun x => { entered r (lengthAt s.myCore s.me r.pc) x with notBefore := s.clk s.cur.core + 1 })) ∧
      (s.me.tl < 2 → r.ilen = none → lengthKnown s r.pc = false → s.upsets = [] → wmBlocks s.myCore none r.pc 4 = false →
        granted s.myCore 0 [(r.pc, 4)] = true → exec .trapEntry s =
          .next ((takeBanks s s.cur.core 0 [(r.pc, 4)]).updMe fun x =>
            { entered r (lengthOf (memNat s.myCore.spad r.pc 4)) x with notBefore := s.clk s.cur.core + 1 })) ∧
      (s.me.tl = 2 → s.cur.slot ≠ 0 → ∃ t : State, exec .trapEntry s = .next t ∧
        t.me = { s.me.ended .killed with pc := r.pc, killCause := r.cause, killRec := some kr } ∧
        t.me.x = s.me.x ∧ t.me.v = s.me.v ∧ t.me.gen = s.me.gen ∧ t.myCore.dump.kill = some kr ∧
        ∀ n : Nat, n ≠ s.cur.slot → (s.ctx s.cur.core n).status = .live →
          t.ctx s.cur.core n = { (s.ctx s.cur.core n).sawIssue s.cur.slot with evt := true }) ∧
      (s.me.tl = 2 → s.cur.slot = 0 → s.myCore.group.isSome = true → tracing s.myCore = false → ∃ t : State,
        exec .trapEntry s = .next t ∧ t.myCore.group = none ∧ t.myCore.ready = false ∧ t.me.status = .killed ∧
        t.me.killRec = some kr ∧ t.me.x = s.me.x ∧ t.myCore.spad = s.myCore.spad ∧ liveSlots t s.cur.core = [])

/-- A trace record of a core is on its way: a 16-byte store of the type, slot, sequence number and body (R228, R229). -/
def tracedAs (t : State) (c ty slot seq body : Nat) : Prop :=
  ∃ p ∈ t.msgs, p.2.issuer = .trace c ∧ p.2.act = .store (natBytes 16 (ty + 16 * slot + 256 * seq + 65536 * body))

/-- The body of a FLOW record (R229): instructions, branch history, its length, the last indirect target. -/
def flowBody (x : Ctx) : Nat :=
  x.icount % 65536 + 2 ^ 16 * (x.hist.zipIdx.map fun p => if p.1 then 2 ^ p.2 else 0).sum + 2 ^ 48 * x.hist.length +
    2 ^ 54 * (x.jlrTarget % 2 ^ 52)

/-- The trace encoder of a core is on for a slot, has room for two records, and owes the slot no SYNC and no LOST record. -/
def traceClear (s : State) (c t : Nat) : Bool :=
  tracesSlot (s.core c) t && (s.core c).trace.lost == 0 && (s.core c).trace.flying.length < 7 &&
  !(s.core c).trace.unsynced.contains t && !(s.ctx c t).needSync

/-- A record of a slot is on its way behind the FLOW record that goes ahead of it (R229). -/
def recorded (s t : State) (c ty slot body : Nat) : Prop :=
  tracedAs t c 2 slot (s.core c).trace.seq (flowBody (s.ctx c slot)) ∧
  tracedAs t c ty slot (((s.core c).trace.seq + 1) % 256) body

/-- R165, R168, R212, R219, R227, R233: the actions of register writes: RETAG, once the slot's stores are done and no earlier RETAG
is in progress, starts with its granules' old tags, writes one granule a clock, ascending, and logs itself when the last is written;
BARCFG sets EXPECT and releases a barrier that has arrivals enough; HALT and RESUME; HOLDDISP cleared lets held work go; ENABLE
starts a ring at HEAD 0; TRCMARK makes a record; START starts a dump. Each ends the CSR instruction that waits for it. -/
def Clause.RegisterActions : Prop :=
  ∀ (w : Word) (s : State),
    let c := s.cur.core
    let first := w.toNat / 2 ^ 5 % 2 ^ 14
    let n := w.toNat / 2 ^ 36 % 2 ^ 12 + 1
    let sel := s.myCore.dbgsel.toNat
    let bar := mgetD s.myCore.bars s.me.barsel.toNat {}
    let bit : BitVec 64 := BitVec.ofNat 64 (2 ^ s.me.barsel.toNat)
    (acts s 1 w = true → (∀ e ∈ s.myCore.storeQ, e.slot = s.cur.slot → e.gen ≠ s.me.gen) →
      retagAhead s.myCore s.cur.slot s.me.lastIssue = false → ∃ t : State, exec .retag s = .next t ∧
        acts t 10 (wordOf (w.toNat % 2 ^ 48 + 2 ^ 60 * mgetD s.myCore.tags first 0)) = true ∧
        t.me.notBefore = s.clk c + n ∧ t.myCore.tags = s.myCore.tags) ∧
    (acts s 10 w = true → s.me.notBefore ≤ s.clk c → ∃ t : State, exec .retagComplete s = .next t ∧ t.me.blk = none ∧
      t.myCore.tags = s.myCore.tags ∧ t.myCore.spad = s.myCore.spad ∧ t.myCore.fulls = s.myCore.fulls ∧
      t.myCore.retagLog = (wordOf (w.toNat / 2 ^ 60 * 2 ^ 60 + w.toNat % 16 * 2 ^ 56 + (n - 1) * 2 ^ 44 + s.cur.slot * 2 ^ 40 +
        first * 2 ^ 26 + s.ptime / 2 ^ 10 % 2 ^ 26) :: s.myCore.retagLog).take 64) ∧
    (acts s 10 w = true → ∀ i : Nat, i < n → s.me.notBefore = s.clk c + n - i →
      (∀ x ∈ s.myCore.ctxs, x.1 ≠ s.cur.slot → retagGranule x.2 (s.clk c) = none) →
      ∀ g : Nat, mgetD (retagClock s c).myCore.tags g 0 = if g = first + i then w.toNat % 16 else mgetD s.myCore.tags g 0) ∧
    (acts s 2 w = true → bar.arrived < (if w.toNat % 16 = 0 then 16 else w.toNat % 16) →
      exec .barcfgWrite s = .next ((s.updMyCore fun k => { k with
        bars := mupd k.bars s.me.barsel.toNat {} fun b => { b with expect := w.toNat % 16 } }).updMe fun x =>
          { x with blk := none })) ∧
    (acts s 2 w = true → (if w.toNat % 16 = 0 then 16 else w.toNat % 16) ≤ bar.arrived → ∃ t : State,
      exec .barcfgWrite s = .next t ∧ t.me.blk = none ∧
      mgetD t.myCore.bars s.me.barsel.toNat {} =
        { bar with expect := w.toNat % 16, arrived := 0, releases := (bar.releases + 1) % 2 ^ 16 } ∧
      ∀ m : Nat, (s.ctx c m).barWaiting.getLsbD s.me.barsel.toNat = true →
        (t.ctx c m).barWaiting = (s.ctx c m).barWaiting &&& ~~~bit ∧ (t.ctx c m).barReleased = (s.ctx c m).barReleased ||| bit ∧
        ((s.ctx c m).status = .live → (t.ctx c m).evt = true)) ∧
    (acts s 3 w = true → w.toNat % 4 = 1 → w.toNat < 2 ^ 32 → sel ≠ s.cur.slot → tracesSlot s.myCore sel = false →
      (s.ctx c sel).status = .live → (s.ctx c sel).halted = false → exec .debugHalt s =
        .next ((s.updMe fun x => { x with blk := none }).updCtx c sel fun x => { x with halted := true, hcause := 1 })) ∧
    (acts s 3 w = true → w.toNat % 4 = 2 → w.toNat < 2 ^ 32 → sel ≠ s.cur.slot → (s.ctx c sel).halted = true →
      s.myCore.held = [] → ∃ t : State, exec .debugResume s = .next t ∧ t.me.blk = none ∧ (t.ctx c sel).halted = false ∧
        (t.ctx c sel).hcause = 0 ∧ (t.ctx c sel).evt = true ∧ (t.ctx c sel).exempt = true ∧
        ((t.ctx c sel).stepping.isSome = (s.ctx c sel).step) ∧
        (∀ r, (s.ctx c sel).heldFault = some r → (t.ctx c sel).heldFault = none ∧ (t.ctx c sel).blk = none ∧
          (t.ctx c sel).trap.map (fun x => (x.cause, x.value)) = some (r.cause, r.value)) ∧
        ((s.ctx c sel).heldFault = none → (s.ctx c sel).trap ≠ none →
          (t.ctx c sel).blk = none ∧ (t.ctx c sel).trap = (s.ctx c sel).trap)) ∧
    (acts s 3 w = true → 2 ^ 32 ≤ w.toNat → ∃ t : State, exec .debugHoldRelease s = .next t ∧ t.myCore.holdDisp = false ∧
      t.myCore.held = [] ∧ (∀ e ∈ t.myCore.eq1, e.core = c → e.held = false) ∧ (w.toNat % 4 = 0 → t.me.blk = none)) ∧
    (acts s 5 w = true → ∃ t : State, exec .traceEnable s = .next t ∧ t.me.blk = none ∧
      t.myCore.trace.ctl.toNat / 16 % 2 ^ 24 = 0 ∧ t.myCore.trace.unsynced = List.range 11) ∧
    (acts s 6 w = true → traceClear s c s.cur.slot = true → ∃ t : State, exec .trcmark s = .next t ∧ t.me.blk = none ∧
      recorded s t c 8 s.cur.slot (w.toNat % 2 ^ 32)) ∧
    (acts s 7 w = true → s.myCore.dump.stat.toNat < 2 ^ 63 → ∃ t : State, exec .dumpStart s = .next t ∧ t.me.blk = none ∧
      t.myCore.dump.stat.toNat = 2 ^ 63 + s.myCore.dump.stat.toNat / 2 ^ 62 % 2 * 2 ^ 62 ∧ t.myCore.dump.pos = 0 ∧
      (s.myCore.group = none → t.myCore.ready = false))

/-- What the CSR instruction in which the issuing context is blocked makes of a field of all bits (R107). -/
def fieldOf (s : State) (old w : Word) : Word :=
  match s.me.blk.map Blk.instr with
  | some (.csrs _ _ _) => old ||| w
  | some (.csrc _ _ _) => old &&& ~~~w
  | _ => w

/-- What it leaves of a W1C field of bit 63 (R107). -/
def clearedBy (s : State) (old w : Word) : Word :=
  match s.me.blk.map Blk.instr with
  | some (.csrs _ _ _) => old
  | _ => old &&& ~~~(w &&& BitVec.ofNat 64 (2 ^ 63))

/-- R107, R220, R221: DBGRDATA_WRITE writes the register of a halted slot that DBGRNUM names, as CSRW, CSRS or CSRC does: an x register,
half a v register, a k register or the program counter; of a CSR each field acts by its own code, so that VALID of WPHIT is cleared by
a 1 of a CSRW or CSRC and left by a CSRS; of a slot that is not halted it writes nothing. (That a write of the program counter ends the instruction
in which the slot is blocked is log entry 31.) -/
def Clause.DebugRegisterWrite : Prop :=
  ∀ (w : Word) (s : State), acts s 4 w = true → s.myCore.dbgsel.toNat ≤ 10 → s.myCore.dbgsel.toNat ≠ s.cur.slot →
    let c := s.cur.core
    let d := s.myCore.dbgsel.toNat
    let n := s.myCore.dbgrnum.toNat
    let x := s.ctx c d
    ∃ t : State, exec .dbgrdataWrite s = .next t ∧ t.me.blk = none ∧
      (x.halted = false → n < 256 → t.ctx c d = x) ∧
      (x.halted = true → n < 256 → dbgRead s.myCore d n = none → t.ctx c d = x) ∧
      (x.halted = true → n = 256 + 0x036 → s.myCore.events.contains 0x036 = false →
        t.myCore.wphit = clearedBy s s.myCore.wphit w ∧ t.ctx c d = x) ∧
      (∀ old, x.halted = true → dbgRead s.myCore d n = some old →
        let w := fieldOf s old w
        (∀ r : Fin 48, n = r.val → t.ctx c d = { x with x := x.x.set r.val w }) ∧
        (∀ r : Fin 32, n = 64 + 2 * r.val → t.ctx c d =
          { x with v := x.v.set r.val (x.v[r.val].extractLsb' 64 64 ++ w : BitVec 128) }) ∧
        (∀ r : Fin 32, n = 65 + 2 * r.val → t.ctx c d =
          { x with v := x.v.set r.val (w ++ x.v[r.val].extractLsb' 0 64 : BitVec 128) }) ∧
        (∀ r : Fin 8, n = 128 + r.val → t.ctx c d = { x with k := x.k.set r.val (w.setWidth 16) }) ∧
        (n = 136 → (t.ctx c d).pc = w.toNat % 2 ^ 52 / 4 * 4))

/-- Register writes that start an action. -/
def Obligations.RegisterWritesAct : Prop := Clause.RegisterActions ∧ Clause.DebugRegisterWrite

/-- The word of an address is covered by a comparator, and its byte is watched (R222, R223). -/
def covered (ctl : Word) (a : Nat) : Bool :=
  let span := (ctl.extractLsb' 35 5).toNat
  span ≤ 16 && a / 8 / 2 ^ span == (ctl.extractLsb' 3 16).toNat / 2 ^ span

/-- The first watched byte of a local access that a comparator of the issuing core matches (R222, R223). -/
def hitsAt (s : State) (k : Nat) (reads : Bool) (a n : Nat) : Option Nat :=
  let ctl := (mgetD s.myCore.comps k {}).ctl
  let kind := ctl.extractLsb' 60 2
  if ctl.extractLsb' 62 2 ≠ 0 ∧ (kind = 3 ∨ kind = if reads then 1 else 2) ∧ ctl.getLsbD 40 = true ∧ ctl.getLsbD (49 + s.cur.slot) = true then
    ((List.range n).map (a + ·)).find? fun j => covered ctl j && ctl.getLsbD (27 + j % 8)
  else none

/-- An execute comparator of the issuing core matches the instruction at the program counter (R223). -/
def executeAt (s : State) (k : Nat) : Bool :=
  let ctl := (mgetD s.myCore.comps k {}).ctl
  ctl.extractLsb' 62 2 != 0 && ctl.extractLsb' 60 2 == 0 && ctl.getLsbD (49 + s.cur.slot) && s.me.pc < 0x80000 && covered ctl s.me.pc

/-- The machine with WPHIT of a precise hit (R226). -/
def hitBy (k off : Nat) (s : State) : State :=
  s.updMyCore fun x => { x with
    wphit := wordOf (2 ^ 63 + k * 2 ^ 58 + s.cur.slot * 2 ^ 54 + s.cur.core * 2 ^ 38 + off % 2 ^ 19) }

/-- R222 to R224, R226: the lowest comparator that a local load or store matches, at its issue ahead of the tag check, is recorded in
WPHIT with the first watched byte, and traps with cause 0x12 and that byte, or halts the context before the instruction issues, or
lets it go on; so does the lowest execute comparator that the address of an instruction matches, ahead of its decode. -/
def Clause.PreciseComparators : Prop :=
  ∀ (x a : Fin 48) (v : Fin 32) (ol : BitVec 8) (o : BitVec 12) (q : BitVec 16) (la : BitVec 4) (k : Nat) (s : State), k < 4 →
    let action := (mgetD s.myCore.comps k {}).ctl.extractLsb' 62 2
    (∀ reads : Bool, ∀ row ∈ (if reads then loadRows x a v ol q la else storeRows x a o q ++ vectorStoreRows v a o q),
      issues row.1 s = true → s.me.exempt = false → ∀ n, localAt (s.me.getX a) row.2.1 row.2.2.1 = some n →
        ∀ b, hitsAt s k reads n row.2.2.1 = some b → (∀ j : Nat, j < k → hitsAt s j reads n row.2.2.1 = none) →
          (action = 1 → trapsPlainly s = true →
            exec row.1 s = .next (hitBy k b (traps row.1 0x12 (wordOf b) s.me.pc (instrLen row.1) s))) ∧
          (action = 2 → tracesSlot s.myCore s.cur.slot = false →
            exec row.1 s = .next ((hitBy k b s).updMe fun y => { y with halted := true, hcause := 4 })) ∧
          (action = 3 → tracing s.myCore = false → s.upsets = [] → reads = true → tagsPass s (s.me.getX a) n row.2.2.1 = true →
            exec row.1 s = .next (hitBy k b (pends row.1 (.loc (.load n row.2.2.1 row.2.2.2 .plain)
              ((s.me.getX a).toNat / 2 ^ 52 % 16)) (s.clk s.cur.core + 4) none s)))) ∧
    (∀ i : Instr, encode i ≠ [] → mayIssue s = true → (s.me.pend.all fun p => p.n < p.l) → impDue s = none →
      holdsBack i s = false → s.me.exempt = false → executeAt s k = true → (∀ j : Nat, j < k → executeAt s j = false) →
        (action = 1 → trapsPlainly s = true → exec i s = .next (trapsFirst i 0x12 (wordOf s.me.pc) s) ∧
          (traps i 0x12 (wordOf s.me.pc) s.me.pc (instrLen i) s).myCore.wphit = (hitBy k s.me.pc s).myCore.wphit) ∧
        (action = 2 → tracesSlot s.myCore s.cur.slot = false →
          exec i s = .next ((hitBy k s.me.pc s).updMe fun y => { y with halted := true, hcause := 4 })))

/-- R220, R225, R229 to R234: a stepped instruction's end halts the context; a due imprecise hit traps or halts; SYNC and FLOW
records are made; a failed trace write stops the encoder; a wrapping counter sets its overflow bit; a dump that has written its
last unit ends. That a later imprecise hit takes the place of one that waits, and that SYNC carries the next instruction's address also
while the context is blocked, are the model's choices (log entry 31). -/
def Clause.DebugEvents : Prop :=
  ∀ (s : State),
    let c := s.cur.core
    let t0 := s.cur.slot
    (stepDone s.me = true → tracesSlot s.myCore t0 = false →
      exec .debugStepHalt s = .next (s.updMe fun x => { x with stepping := none, halted := true, hcause := 2 })) ∧
    (∀ (h : ImpHit) (r : List ImpHit), s.myCore.impHits = h :: r → h.due ≤ s.clk c → wpAction h.ctl = 1 →
      (s.ctx c (wpTarget h.ctl)).status = .live → (s.ctx c (wpTarget h.ctl)).blk = none → ∃ t : State,
        exec .watchpointImpreciseDeliver s = .next t ∧ t.myCore.impHits = r ∧
        t.ctx c (wpTarget h.ctl) = { s.ctx c (wpTarget h.ctl) with impTrap := some (h.due, h.offset) }) ∧
    (∀ (h : ImpHit) (r : List ImpHit), s.myCore.impHits = h :: r → h.due ≤ s.clk c → wpAction h.ctl = 2 → ∃ t : State,
        exec .watchpointImpreciseDeliver s = .next t ∧ t.myCore.impHits = r ∧
        ∀ n : Nat, n ∈ liveSlots s c → wpSlot h.ctl n = true → (s.ctx c n).halted = false →
          (t.ctx c n).halted = true ∧ (t.ctx c n).hcause = 4) ∧
    (tracesSlot s.myCore t0 = true → s.me.needSync = true → s.myCore.trace.lost = 0 → s.myCore.trace.flying.length < 8 →
      s.myCore.trace.unsynced.contains t0 = true → ∃ t : State, exec .traceSyncRecord s = .next t ∧ t.me.needSync = false ∧
        t.me.syncCount = 0 ∧ s.cur.slot ∉ t.myCore.trace.unsynced ∧
        tracedAs t c 1 t0 s.myCore.trace.seq (s.me.pc % 2 ^ 52 + 2 ^ 52 * (s.ptime % 2 ^ 60))) ∧
    (tracesSlot s.myCore t0 = true → s.me.needSync = true → s.myCore.trace.lost = 0 → s.myCore.trace.flying.length < 7 →
      s.myCore.trace.unsynced.contains t0 = false → ∃ t : State, exec .traceSyncRecord s = .next t ∧
        t.me.needSync = false ∧ t.me.icount = 0 ∧ t.me.hist = [] ∧ tracedAs t c 2 t0 s.myCore.trace.seq (flowBody s.me) ∧
        tracedAs t c 1 t0 ((s.myCore.trace.seq + 1) % 256) (s.me.pc % 2 ^ 52 + 2 ^ 52 * (s.ptime % 2 ^ 60))) ∧
    (tracesSlot s.myCore t0 = true → s.myCore.trace.unsynced.contains t0 = false → owesFlow s.me = true → s.myCore.trace.lost = 0 →
      s.myCore.trace.flying.length < 8 → ∃ t : State, exec .traceFlowRecord s = .next t ∧ t.me.hist = [] ∧ t.me.icount = 0 ∧
        tracedAs t c 2 t0 s.myCore.trace.seq (flowBody s.me)) ∧
    (∀ m, message s = some m → ∀ (st due : Nat), m.issuer = .trace c → m.phase = .coming (.failed st) due → due ≤ s.now →
      ∃ t : State, exec .traceWriteFail s = .next t ∧ t.myCore.trace.flying = [] ∧
        t.myCore.trace.ctl.toNat = s.myCore.trace.ctl.toNat % 2 ^ 62 + 2 ^ 62) ∧
    (∀ p, mget s.myCore.pmcs s.cur.id = some p → p.wrote = none → 2 ^ 48 ≤ p.val + p.bump → tracing s.myCore = false →
      exec .counterOverflow s = .next (s.updMyCore fun k => { k with
        pmcs := mset k.pmcs s.cur.id { ctl := p.ctl ||| wordOf (2 ^ 63), val := (p.val + p.bump) % 2 ^ 48 } })) ∧
    (2 ^ 63 ≤ s.myCore.dump.stat.toNat → s.myCore.dump.flying = none → s.myCore.dump.fresh = false → dumpOver s c = true → ∃ t : State,
      exec .dumpEnd s = .next t ∧ t.myCore.dump.stat.toNat < 2 ^ 63 ∧ t.myCore.dump.stat.toNat / 2 ^ 62 % 2 = 1)

/-- R230: SAMPLING_PULSE, once the time that the core would read as GTIME has reached a pulse, of a tracing core with one live traced slot and no sampled counter makes the slot's SAMPLE record with the
pulse's number, and the core has taken the pulse. -/
def Clause.SamplingPulse : Prop :=
  ∀ (n : Nat) (s : State), tracing s.myCore = true → s.myCore.pulse + 1 = pulsesDue s (coreDie s.cur.core) → s.myCore.trace.lost = 0 →
    (liveSlots s s.cur.core).filter (tracesSlot s.myCore) = [n] → sampledCounters s.myCore = [] →
    traceClear s s.cur.core n = true → ∃ t : State, exec .samplingPulse s = .next t ∧ t.myCore.pulse = s.myCore.pulse + 1 ∧
      ∃ st ∈ sampleStates s s.cur.core n, recorded s t s.cur.core 5 n
        (st + 2 ^ 8 * ((match (s.ctx s.cur.core n).blk with
          | some b => b.pc
          | none => (s.ctx s.cur.core n).pc) % 2 ^ 52) + 2 ^ 60 * (s.myCore.pulse % 2 ^ 52))

/-- Stepping, comparators, trace and dump. -/
def Obligations.DebugAndTrace : Prop := Clause.PreciseComparators ∧ Clause.DebugEvents ∧ Clause.SamplingPulse

/-- R316 to R318: a walk that hits the last-level TLB enters the TLBs of the cores that wait for it and ends; a walk of the tables
waits for its registration, and a failed one tells its contexts; a registered walk enters both TLBs; a full directory first begins
to retire its least recently registered page. TLBINV, once the context's accesses are performed, goes to every die that holds a
translation of its range; a die removes its entries, and acknowledges when their accesses are done; with the last
acknowledgement the directory drops the registrations of the range and the CSR instruction ends. -/
def Obligations.Translation : Prop :=
  ∀ (s : State), s.cur.core < 2 ^ 14 →
    let d := coreDie s.cur.core
    (∀ w, theWalk s = some w → w.begun = true → w.due ≤ s.now → w.stale = false → invalidating s w.job w.va = false →
      w.core = s.cur.core → w.joined = [] →
      (w.res = none → s.upsets = [] → ∀ e, tlbFind (s.plain d).tlb w.job w.va = some e → ∃ t : State,
        exec .tlbWalkComplete s = .next t ∧ e ∈ t.myCore.tlb ∧ { id := w.id, va := w.va, fail := none } ∈ t.myCore.walks ∧
        theWalk t = none) ∧
      (w.res = none → s.upsets = [] → tlbFind (s.plain d).tlb w.job w.va = none →
        (∀ r, (walk s w.job w.va).1 = .error r → ∃ t : State, exec .tlbWalkComplete s = .next t ∧
          { id := w.id, va := w.va, fail := some r } ∈ t.myCore.walks ∧ theWalk t = none) ∧
        (∀ e, (walk s w.job w.va).1 = .ok e → ∃ t : State, exec .tlbWalkComplete s = .next t ∧
          theWalk t = some { w with res := some e })) ∧
      (∀ e, w.res = some e → s.cur.flag = false → overtaken s e = false → directoryFull s = false → ∃ t : State,
        exec .translationRegister s = .next t ∧
        e ∈ t.myCore.tlb ∧ { id := w.id, va := w.va, fail := none } ∈ t.myCore.walks ∧ theWalk t = none)) ∧
    (∀ (r : Reg) (l : List Reg), s.cur.flag = true → s.regs = r :: l → directoryFull s = true → r.size ≠ 0 →
      (∀ v ∈ s.invals, v.core ≠ noCore) → invalDies s r.job r.page r.size ≠ [] → ∃ t : State,
        exec .translationRegister s = .next t ∧ ∃ v, t.invals = s.invals ++ [v] ∧ v.core = noCore ∧ v.job = r.job ∧ v.lo = r.page ∧
        v.len = r.size ∧ v.dies = invalDies s r.job r.page r.size) ∧
    (∀ w : Word, acts s 9 w = true → released s s.cur.core s.cur.slot s.nextId = true →
      let job := coreJob s s.cur.core
      let range := invalRange w
      let dies := invalDies s job range.1 range.2
      (dies = [] → (∀ v ∈ s.invals, v.id ≠ s.nextId) → exec .tlbinv s = .next (({ s with nextId := s.nextId + 1 } : State).updMe fun x => { x with blk := none })) ∧
      (dies ≠ [] → ∃ t : State, exec .tlbinv s = .next t ∧ acts t 12 (wordOf s.nextId) = true ∧
        t.invals = s.invals ++ [{ id := s.nextId, core := s.cur.core, slot := s.cur.slot, gen := s.me.gen, job := job
                                  lo := range.1, len := range.2, dies := dies
                                  pages := (s.regs.filter fun r => r.within job range.1 range.2).map fun r => (r.page, r.size) }])) ∧
    (∀ v, s.invals.find? (fun x => x.id == s.cur.id) = some v → v.dies.contains s.cur.slot = true →
      (mget v.removed s.cur.slot = none → ∃ t : State, exec .tlbinvDieAck s = .next t ∧
        (∀ e ∈ (unitPlain t s.cur.slot).tlb, e.within v.job v.lo v.len = false) ∧ t.regs = s.regs ∧
        ∃ x ∈ t.invals, x.id = v.id ∧ mget x.removed s.cur.slot = some s.nextId) ∧
      (∀ k, mget v.removed s.cur.slot = some k → invalQuiet s v s.cur.slot k = true → v.dies.filter (· != s.cur.slot) = [] →
        sameCtx s v.core v.slot v.gen = true → ∃ t : State, exec .tlbinvDieAck s = .next t ∧
          (∀ x ∈ t.invals, x.id ≠ v.id) ∧ (∀ r ∈ t.regs, r.within v.job v.lo v.len = false) ∧
          (acts ({ s with cur := { s.cur with core := v.core, slot := v.slot } } : State) 12 (wordOf v.id) = true →
            (t.ctx v.core v.slot).blk = none)))

/-! The copy engine (R171, R191 to R200, R320, R321). -/

/-- A channel of the core the step is for. -/
def chan0 (s : State) : Chan := s.chan s.cur.core s.cur.slot

/-- The channel after a change. -/
def withChan (f : Chan → Chan) (s : State) : State := s.updChan s.cur.core s.cur.slot f

/-- R191, R196, R197: an idle channel takes the head of its start queue; it reads the next word of its list from the
scratchpad, where its banks are granted and no watermark covers it; it
pushes its record into the eq0 result queue while that has room. -/
def Clause.CopyLists : Prop :=
  ∀ (s : State),
    (∀ (e : CmdEnt) (q : List CmdEnt), (chan0 s).startQ = e :: q → (chan0 s).active = false → e.held = false →
      exec .copyListStart s = .next (withChan (fun _ => { startQ := q, active := true, ent := some e, word := some e.word
                                                          addr := e.addr.getD 0x7FFFF, next := e.addr.map (· + 32), key := e.key }) s)) ∧
    (∀ a, wordDue s s.cur.core s.cur.slot = some a → chanFree s s.cur.core s.cur.slot a 32 = true ∨ 0x80000 ≤ a → quietCore s = true →
      (a + 32 ≤ 0x80000 → tagsAt s s.cur.core a 32 (chan0 s).key = true →
        exec .commandWordRead s = .next (withChan (fun x => { x with
          word := some (BitVec.ofNat 256 (memNat s.myCore.spad a 32)), addr := a, next := some (a + 32), first := false })
          (takeBanks s s.cur.core 2 [(a, 32)]))) ∧
      (0x80000 ≤ a → ∃ t : State, exec .commandWordRead s = .next t ∧ (chan0 t).ending = true ∧
        (chan0 t).recd.map (fun r => r.toNat / 2 ^ 8 % 2 ^ 8) = some 0x06)) ∧
    (∀ r, (chan0 s).recd = some r → groupHere s (chanEnt s s.cur.core s.cur.slot) = true → (s.myCore.res 0).places < 16 →
      ∃ t : State, exec .copyRecordPush s = .next t ∧ (chan0 t).recd = none ∧
        (t.myCore.res 0).halves = (s.myCore.res 0).halves ++ [w64 r, BitVec.ofNat 64 (r.toNat / 2 ^ 64)])

/-- A field of the shape record a pointer names. -/
def shapeAt (s : State) (p : Word) (i : Nat) : Nat := memNat s.myCore.spad (p.toNat % 2 ^ 52 + 4 * i) 4

/-- The copy commands: the shape pointer if there is one, and the run it starts (R193, R194). -/
def copyRows (s : State) (h : CmdHdr) (src dst shape : Word) (n : BitVec 32) (key : BitVec 4) (l : BitVec 19) :
    List (Instr × Option Word × CopyRun) :=
  let f := shapeAt s shape
  let one (op : Nat) (k : CopyOp) : CopyRun :=
    { h := h, opcode := op, op := k, src := src, dst := dst, counts := [n.toNat, 1, 1], sstr := [0, 0], dstr := [0, 0]
      total := n.toNat, limit := n.toNat }
  let listed (op : Nat) (k : CopyOp) : CopyRun := { one op k with lists := l.toNat, lkey := key.toNat }
  let shaped (op : Nat) : CopyRun :=
    { h := h, opcode := op, op := .affine, src := src, dst := dst, counts := [f 0, f 1, f 2], sstr := [f 3, f 4]
      dstr := [f 5, f 6], total := f 0 * f 1 * f 2, limit := f 0 * f 1 * f 2 }
  [(.ccopy h src dst n, none, one 0x01 .affine), (.cfill h src dst n, none, one 0x04 .fill),
   (.ccopy2 h src dst shape, some shape, shaped 0x02), (.ccopy3 h src dst shape, some shape, shaped 0x03),
   (.cgather h src dst n key l, none, listed 0x05 .gather), (.cscatter h src dst n key l, none, listed 0x06 .scatter)]

/-- The checks that let a copy start (R150, R192 to R194): its pointers, its blocks, its ranges. -/
def copyGood (s : State) (r : CopyRun) : Bool :=
  let job := (chanEnt s s.cur.core s.cur.slot).job
  let side (p : Word) (strides : List Nat) : Bool := sideRange s job p (topIndex r.counts strides) == 0
  (r.op == .fill || sideStatus r.src == 0) && sideStatus r.dst == 0 && (r.op == .affine || r.op == .fill || r.lists % 4 == 0) &&
  (!r.same || (r.counts.getD 0 1 :: (r.sstr ++ r.dstr)).all fun n => n % dstBlock r.dst == 0) &&
  (r.total == 0 || match r.op with
    | .affine => side r.src r.sstr && side r.dst r.dstr
    | .fill => side r.dst r.dstr
    | .gather => rangeStatus s job r.lists (r.lists + 4 * r.total - 1) == 0 && side r.dst r.dstr
    | _ => rangeStatus s job r.lists (r.lists + 4 * r.total - 1) == 0 && side r.src r.sstr)

/-- The shape record of a copy is in the scratchpad and can be read now, its tags pass, and it has no reserved field (R193). -/
def shapeGood (s : State) (i : Instr) (p : Option Word) : Bool :=
  match p with
  | none => true
  | some p => localPtr p 32 32 == 0 && tagsPass s p (p.toNat % 2 ^ 52) 32 && shapeAt s p 7 == 0 &&
      chanFree s s.cur.core s.cur.slot (p.toNat % 2 ^ 52) 32 &&
      (match i with
       | .ccopy2 _ _ _ _ => shapeAt s p 2 == 1 && shapeAt s p 4 == 0 && shapeAt s p 6 == 0
       | _ => true)

/-- The core after a shape record has been read: its banks have served the channel (R144). -/
def shapeRead (s : State) (p : Option Word) : State :=
  match p with
  | none => s
  | some p => takeBanks s s.cur.core 2 [(p.toNat % 2 ^ 52, 32)]

/-- The watermark of a copy on a local destination (R195): its lowest and highest byte. -/
def markOf (r : CopyRun) (w : Option (Nat × Nat)) : Option (Nat × Nat) :=
  if r.total ≠ 0 ∧ r.op ≠ .scatter ∧ r.dst.toNat % 2 ^ 52 < 0x80000 then
    (ptrE r.dst).map fun e => arrayRange e (ptrBlog r.dst) (ptrAddr r.dst) (topIndex r.counts r.dstr)
  else w

/-- R191 to R195: a copy command at the head of its channel whose checks pass starts with its pattern, its watermark on a local
destination; one of no elements has nothing left to do; one whose EXT names another channel is recorded with status 0x02. -/
def Clause.CopiesStart : Prop :=
  ∀ (h : CmdHdr) (src dst shape : Word) (n : BitVec 32) (key : BitVec 4) (l : BitVec 19) (s : State),
    ∀ row ∈ copyRows s h src dst shape n key l, cmdReady s s.cur.core s.cur.slot row.1 = true → quietCore s = true →
      (h.ext.toNat % 4 = s.cur.slot → shapeGood s row.1 row.2.1 = true → copyGood s row.2.2 = true →
        exec row.1 s = .next (withChan (fun x => { x with run := some row.2.2, wm := markOf row.2.2 x.wm }) (shapeRead s row.2.1))) ∧
      (h.ext.toNat % 4 ≠ s.cur.slot → (∀ p, row.2.1 = some p → recordFree s p = true) → ∃ t : State, exec row.1 s = .next t ∧ (chan0 t).run = none ∧ (chan0 t).ending = true ∧
        (chan0 t).recd.map (fun r => r.toNat / 2 ^ 8 % 2 ^ 8) = some 0x02 ∧ sameSpads s t ∧ t.hbm = s.hbm)

/-- R195 to R198: CFLAG sends a subtraction to a flag of its own core or of a peer; CLINK sends the list to its pointer, CEND ends
it; a command that has moved all its elements and has no access outstanding is over, with its record if it asked for one; one that
faulted issues no further access and is over, with its status and the number of the element that failed, and ends its list. -/
def Clause.CopyControl : Prop :=
  ∀ (h : CmdHdr) (a : BitVec 52) (v : BitVec 40) (p : Word) (s : State),
    let c := s.cur.core
    let ch := s.cur.slot
    let e := chanEnt s c ch
    let ended (op : Nat) : CopyRun := { h := h, opcode := op, op := .affine }
    let flagAt (d f launch : Nat) : Prop := ∃ t : State, exec (.cflag h a v) s = .next t ∧ ∃ id due,
      mget t.msgs id = some { issuer := .chan c ch e.slot e.gen, act := .flagSub v.toNat, home := .flagw d f, va := a.toNat
                              launch := launch, job := e.job, phase := .going due } ∧
      chanRun t c ch = some { ended 0x08 with outstanding := [id] }
    (cmdReady s c ch (.cflag h a v) = true → h.ext.toNat % 4 = ch →
      (∀ f : Nat, f < 256 → a.toNat = 0x80000 + 8 * f → flagAt c f 0) ∧
      (∀ g d f : Nat, regionOf a.toNat = .peerFlag g → peerCore s e.job a.toNat = some (d, 0x80000 + 8 * f) →
        flagAt d f e.launch)) ∧
    (cmdReady s c ch (.clink h p) = true → h.ext.toNat % 4 = ch → localPtr p 32 32 = 0 →
      exec (.clink h p) s = .next (withChan (fun x => { x with
        run := some (ended 0x09), next := some (p.toNat % 2 ^ 52), key := p.toNat / 2 ^ 52 % 16 }) s)) ∧
    (cmdReady s c ch (.cend h) = true → h.ext.toNat % 4 = ch →
      exec (.cend h) s = .next (withChan (fun x => { x with run := some (ended 0x0A), next := none }) s)) ∧
    (∀ r, chanRun s c ch = some r → badWord s c ch = none → r.quiet = true → r.opcode < 256 →
      let moved := r.limit ≤ r.idx ∧ (r.op = .near → r.total ≤ r.idx)
      (r.fault = none → r.op ≠ .stream → moved → ∃ t : State, exec .copyCommandEnd s = .next t ∧ (chan0 t).run = none ∧
        (chan0 t).word = none ∧ (chan0 t).wm = none ∧ (r.h.result = true → (chan0 t).recd.map (fun w => w.toNat % 2 ^ 32) =
          some (r.opcode % 2 ^ 8 + 2 ^ 16 * r.h.tag.toNat)) ∧ (r.h.result = false → (chan0 t).recd = none)) ∧
      (∀ i st : Nat, r.fault = some (i, st) → 2 < st → st < 256 →
        (moved ∨ r.drains = false ∧ r.op ≠ .stream ∧ r.op ≠ .near) → ∃ t : State, exec .copyCommandEnd s = .next t ∧
        (chan0 t).run = none ∧ (chan0 t).ending = true ∧ (chan0 t).recd.map (fun w => (w.toNat % 2 ^ 32, w.toNat / 2 ^ 32 % 2 ^ 32)) =
          some (r.opcode + 2 ^ 8 * st + 2 ^ 16 * r.h.tag.toNat, i % 2 ^ 32)))

/-- The commands of a copy channel. -/
def Obligations.CopyChannels : Prop := Clause.CopyLists ∧ Clause.CopiesStart ∧ Clause.CopyControl

/-- Whole-byte elements of a pointer that are not in blocks. -/
def plainFmt (e : EFmt) : Bool := !e.isBlock && e.width % 8 == 0

/-- The home of a channel's access, which it reaches as things stand: no translation has to be made for it first (R173). -/
def homed (s : State) (a : Nat) (k : XKind) (h : Home) : Prop :=
  engineHome s s.cur.core (chanEnt s s.cur.core s.cur.slot).job a k = (some h, s)

/-- An access of a channel for element i is on its way, and the command waits for it by its identity. -/
def chanSent (s t : State) (a key i role id : Nat) (act : MsgAct) (flag : Option Nat) (h : Home) : Prop :=
  let e := chanEnt s s.cur.core s.cur.slot
  let own := regionOf a == .spad
  ∃ due, mget t.msgs id = some
    { issuer := .chan s.cur.core s.cur.slot e.slot e.gen, act := act, home := h, va := a, key := key, flag := flag
      launch := if own then 0 else e.launch, job := e.job, elem := 16 * i + role, direct := own, phase := .going due }

/-- The reads of a step have been issued and the command has it as its last (R194): of the bytes of its elements and of metadata. -/
def readsIssued (r : CopyRun) (x : CopyStep) (s t : State) : Prop :=
  ∃ ids : List Nat, ids.length = (r.readsOf x).length ∧
    (∀ q ∈ (r.readsOf x).zip ids, ∃ h, homed s q.1.1 .read h ∧
      chanSent s t q.1.1 (ptrKey (if q.1.2.2 % 16 = 2 then r.dst else r.src)) x.idx q.1.2.2 q.2 (.load q.1.2.1 false) none h) ∧
    chanRun t s.cur.core s.cur.slot = some { r with ridx := x.idx + x.n, steps := r.steps ++ [{ x with waits := ids }] }

/-- The writes of the next elements of a command have been issued, each with the command's flag (R194). -/
def writesIssued (r : CopyRun) (s t : State) : Prop :=
  let n := r.writeSpan
  let ws := r.writesOf n
  ∃ ids : List Nat, ids.length = ws.length ∧
    (∀ q ∈ ws.zip ids, ∃ h, homed s q.1.1 .write h ∧
      chanSent s t q.1.1 (ptrKey r.dst) r.idx 15 q.2 q.1.2 (if r.h.flagen = true then some r.h.flag.toNat else none) h) ∧
    (chanRun t s.cur.core s.cur.slot).map (fun x => (x.idx, x.ridx, x.fault)) = some (r.idx + n, r.ridx, r.fault) ∧
    (chanRun t s.cur.core s.cur.slot).map (·.writes.map fun w => (w.idx, w.waits)) =
      some ((r.writes.map fun w => (w.idx, w.waits)) ++ [(r.idx, ids)])

/-- The list entry of the next element is good (R192, R194): it can be read now, its tags pass, and the element it names passes the
range test. -/
def entryGood (s : State) (r : CopyRun) (m : Nat) : Bool :=
  let a := r.lists + 4 * r.ridx
  chanFree s s.cur.core s.cur.slot a 4 && tagsAt s s.cur.core a 4 r.lkey && m == memNat s.myCore.spad a 4 &&
  entryStatus s (chanEnt s s.cur.core s.cur.slot).job (if r.op = .gather then r.src else r.dst) m == 0

/-- R194: a copy issues the reads of its next elements, or the writes of those it has read, where only one of them is possible that
one; with a list it reads the entry first. -/
def Clause.ElementMoves : Prop :=
  ∀ (es : List Nat) (s : State), quietCore s = true → ∀ r, chanRun s s.cur.core s.cur.slot = some r → r.op ≠ .stream → r.op ≠ .near →
    (∀ w ∈ r.writes, w.idx < r.idx) → (∀ x ∈ r.steps, x.idx < r.ridx) →
    let x : CopyStep := { idx := r.ridx, n := r.readSpan, entries := es }
    let mayRead := r.stopped = false ∧ r.ridx < r.limit ∧ (r.listed = false → es = []) ∧ (r.listed = true → ∃ m, es = [m] ∧ entryGood s r m = true) ∧
      ∀ q ∈ r.readsOf x, ∃ h, homed s q.1 .read h
    let mayWrite := r.canWrite = true ∧ ∀ q ∈ r.writesOf r.writeSpan, ∃ h, homed s q.1 .write h
    (mayRead → r.canWrite = false → ∃ t : State, exec .copyAccessPerform s = .next t ∧ readsIssued r x s t) ∧
    (mayWrite → canRead s s.cur.core s.cur.slot r = false → ∃ t : State, exec .copyAccessPerform s = .next t ∧ writesIssued r s t) ∧
    (mayRead → mayWrite → ∃ t : State, exec .copyAccessPerform s = .next t ∧ (readsIssued r x s t ∨ writesIssued r s t))

/-- R144, R194: a channel's read of its core's own scratchpad, where its banks are granted, changes no memory and gives its bytes to
the element that waits for them. -/
def Clause.ReadsReturn : Prop :=
  ∀ (c ch t g a n : Nat) (s : State), quietAt s c = true → ∀ m, message s = some m → msgReady s s.cur.id m = true →
    m.issuer = .chan c ch t g → m.direct = true → m.home = .spad c a → m.va = a → a < 0x80000 → m.act = .load n false → n ≤ 16 →
    tagsAt s c a n m.key = true → ∀ r, chanRun s c ch = some r → ∃ u : State, exec .remoteLoadArrive s = .next u ∧
      mget u.msgs s.cur.id = none ∧ sameSpads s u ∧ u.hbm = s.hbm ∧ u.host = s.host ∧
      (chanRun u c ch).map (fun x => (x.idx, x.ridx, x.fault, x.steps)) = some (r.idx, r.ridx, r.fault, r.steps.map fun x =>
        if x.waits.contains s.cur.id then
          { x with waits := x.waits.filter (· != s.cur.id)
                   reads := x.reads ++ [(m.elem - 16 * x.idx, BitVec.ofNat 128 (memNat (s.core c).spad a n))] }
        else x)

/-- R23, R26, R27, R194: the write of an element whose bytes have been read stores at the location of its destination: the bits of
the source where both sides have one format, with the metadata before the first element of a block, and else the encoding of the
decoded value, or of the value of a fill; a 4-bit element writes its nibble alone. Elements that lie side by side go in one write. -/
def Clause.ElementWrites : Prop :=
  ∀ (r : CopyRun) (x : CopyStep) (ed : EFmt), r.op ≠ .stream → r.op ≠ .near → r.stepOf r.idx = some x → ptrE r.dst = some ed →
    let place (i : Nat) : ELoc := elementLoc ed (ptrBlog r.dst) (ptrAddr r.dst) (r.indices i (r.entryOf i)).2.1
    let b := place r.idx
    let put (v : Nat) : Nat × MsgAct := (b.byte,
      if ed.width = 4 then .nibble (BitVec.ofNat 8 (v * 2 ^ b.bit)) (BitVec.ofNat 8 (15 * 2 ^ b.bit)) else .store (lowBytes b.size v))
    let first := (r.indices r.idx (r.entryOf r.idx)).2.2
    (r.op = .fill → r.writesOf 1 = [put ((ed.encode (x.metaOf 2 r.idx) false (steValue ed r.src)).1 % 2 ^ ed.width)]) ∧
    (r.op ≠ .fill → ∀ es, ptrE r.src = some es →
      let from_ (i entry : Nat) : ELoc := elementLoc es (ptrBlog r.src) (ptrAddr r.src) (r.indices i entry).1
      let a := from_ r.idx (r.entryOf r.idx)
      let a0 := from_ x.idx (x.entries.getD 0 0)
      let code := x.got 0 / 2 ^ (8 * (a.byte - a0.byte) + a.bit) % 2 ^ es.width
      (r.same = false → r.writesOf 1 =
        [put ((ed.encode (x.metaOf 2 r.idx) false (es.decode code (x.metaOf 1 r.idx))).1 % 2 ^ ed.width)]) ∧
      (r.same = true → (first = false ∨ b.metaAt = none) → r.writesOf 1 = [put code]) ∧
      (r.same = true → first = true → ∀ m, b.metaAt = some m →
        r.writesOf 1 = [(m, .store (metaBytes ed (x.metaOf 1 r.idx))), put code])) ∧
    (∀ n : Nat, 1 ≤ n → ed.width % 8 = 0 → (∀ j : Nat, j < n → (r.stepOf (r.idx + j)).isSome = true ∧
      (place (r.idx + j)).byte = b.byte + j * b.size) →
      let codeAt (i : Nat) : Nat := (match r.stepOf i with
        | some y => r.newCode y i % 2 ^ ed.width
        | none => 0)
      r.packed n = some (b.byte, .store (lowBytes (n * b.size)
        ((List.range n).map fun j => codeAt (r.idx + j) * 2 ^ (8 * (j * b.size))).sum)))

/-- The run of a CSTREAM with the fields of its shape record; what it drains is flushed as STE flushes at version 1 (R38). -/
def streamRun (h : CmdHdr) (m : Word) (dir : Bool) (q : BitVec 2) (flush : Bool) (f : Nat → Nat) : CopyRun :=
  { h := h, opcode := 0x07, op := .stream, src := m, dst := m, counts := [f 0, f 1, f 2], sstr := [f 3, f 4]
    dstr := [f 3, f 4], total := f 0 * f 1 * f 2, limit := f 0 * f 1 * f 2, stream := q.toNat, wdir := dir
    flush := flush }

/-- R38, R171, R199: CSTREAM binds an unbound register in its direction and holds its channel; a read binding reads its next element while
its buffer has room, and what has been read enters the buffer, as LDE decodes it; a write binding takes a word
from its buffer and writes it to the next element, encoded as STE encodes it, with the flush of R38 at version 1. -/
def Clause.Streams : Prop :=
  ∀ (h : CmdHdr) (m shape : Word) (dir : Bool) (q : BitVec 2) (s : State), quietCore s = true →
    let c := s.cur.core
    let f := shapeAt s shape
    let i : Instr := .cstream h m shape dir q
    let run := streamRun h m dir q (!(chanEnt s c s.cur.slot).nbv2) f
    (cmdReady s c s.cur.slot i = true → h.ext.toNat % 4 = s.cur.slot → shapeGood s i (some shape) = true → f 5 = 0 → f 6 = 0 →
      sideStatus m = 0 → run.total ≠ 0 → sideRange s (chanEnt s c s.cur.slot).job m (topIndex run.counts run.sstr) = 0 →
      (mgetD s.myCore.streams q.toNat {}).mode = 0 → ∃ t : State, exec (.cstream h m shape dir q) s = .next t ∧
        chanRun t c s.cur.slot = some run ∧ mgetD t.myCore.streams q.toNat {} =
          { mode := if dir = true then 2 else 1, chan := s.cur.slot, left := run.total }) ∧
    (∀ b, boundStream s c s.cur.slot = some b → (∀ x ∈ b.1.steps, x.idx < b.1.ridx) → (∀ w ∈ b.1.writes, w.idx < b.1.idx) →
      let buffer (t : State) : Stream := mgetD t.myCore.streams b.1.stream {}
      (b.1.wdir = false → b.1.headRead = none → b.1.stopped = false → b.2.words.length + b.1.steps.length < 8 → b.1.ridx < b.1.limit →
        (∀ x ∈ b.1.readsOf { idx := b.1.ridx, n := 1 }, ∃ h, homed s x.1 .read h) → ∃ t : State, exec .streamRefill s = .next t ∧
          readsIssued b.1 { idx := b.1.ridx, n := 1 } s t ∧ buffer t = b.2) ∧
      (∀ (y : CopyStep) (l : List CopyStep) (e : EFmt), b.1.wdir = false → b.1.steps = y :: l → y.waits = [] → b.1.idx < b.1.limit →
        y.idx = b.1.idx → y.n = 1 → y.entries = [] → ptrE b.1.src = some e → ∃ t : State, exec .streamRefill s = .next t ∧
          sameSpads s t ∧ (buffer t).words = b.2.words ++ [w64 (elementValue e
            (y.got 0 / 2 ^ (elementLoc e (ptrBlog b.1.src) (ptrAddr b.1.src) (b.1.indices y.idx 0).1).bit % 2 ^ e.width) (y.got 1))] ∧
          (buffer t).left = b.1.total - b.1.idx - 1 ∧
          chanRun t c s.cur.slot = some { b.1 with idx := b.1.idx + 1, steps := l }) ∧
      (∀ (w : Word) (l : List Word), b.1.wdir = true → b.1.canWrite = false → b.1.stopped = false → b.2.words = w :: l → b.1.ridx < b.1.limit →
        let x : CopyStep := { idx := b.1.ridx, n := 1, reads := [(8, v128 w)] }
        (∀ y ∈ b.1.readsOf x, ∃ h, homed s y.1 .read h) → ∃ t : State, exec .streamDrain s = .next t ∧ (buffer t).words = l ∧
          (buffer t).left = b.1.total - b.1.ridx - 1 ∧ readsIssued b.1 x s t) ∧
      (b.1.wdir = true → b.1.canWrite = true → (∀ x ∈ b.1.writesOf b.1.writeSpan, ∃ h, homed s x.1 .write h) → ∃ t : State,
        exec .streamDrain s = .next t ∧ writesIssued b.1 s t) ∧
      (∀ (y : CopyStep) (e : EFmt), b.1.wdir = true → b.1.stepOf b.1.idx = some y → y.entries = [] → ptrE b.1.dst = some e →
        let p := elementLoc e (ptrBlog b.1.dst) (ptrAddr b.1.dst) (b.1.indices b.1.idx 0).2.1
        let v := (e.encode (y.metaOf 2 b.1.idx) b.1.flush (steValue e (wordOf (y.got 8)))).1 % 2 ^ e.width
        b.1.writesOf 1 = [(p.byte, if e.width = 4 then .nibble (BitVec.ofNat 8 (v * 2 ^ p.bit)) (BitVec.ofNat 8 (15 * 2 ^ p.bit))
          else .store (lowBytes p.size v))]))

/-- R202, R321, R325: an NGEMV whose checks pass takes its channel with the fields of its record; the channel tests, row by row, that the
pages of its matrix lie in one stack, and a matrix in two stacks ends the command with status 0x05; then it reads its vector, all that
lies in one aligned 8 bytes at once, with the metadata of each block, and sends the command to the stack's unit once that has room, from
the row it was saved at; the unit takes the commands of running jobs and their rows in order, row by row (log entry 18), and writes each
row's product with the vector, in FP32 or INT32, with the command's flag; a row that cannot be read ends the command with its number and
status. A misaligned shape pointer is recorded with status 0x04. -/
def Clause.NearMemory : Prop :=
  ∀ (h : CmdHdr) (m v shape : Word) (s : State), quietCore s = true →
    let c := s.cur.core
    let ready := cmdReady s c s.cur.slot (.ngemv h m v shape) && h.ext.toNat % 4 == s.cur.slot
    let job := (chanEnt s c s.cur.slot).job
    (ready = true → recordFree s shape = true → ∀ r, (startNgemv h m v shape s).1 = .ok r →
      mustWait s (startNgemv h m v shape s).2 = false → ∃ t : State, exec (.ngemv h m v shape) s = .next t ∧
        chanRun t c s.cur.slot = some r ∧ r.opcode = 0x0B ∧ r.op = .near ∧ r.src = m ∧ r.vptr = v ∧ r.total = shapeAt s shape 2 ∧
        r.counts = [shapeAt s shape 3, shapeAt s shape 4] ∧ r.probe = 0 ∧ r.stack = noStack ∧ r.served = 0 ∧ r.ridx = 0 ∧ r.vec = [] ∧
        r.asked = false ∧ t.near = s.near) ∧
    (ready = true → shape.toNat / 2 ^ 56 = 0 → shape.toNat % 32 ≠ 0 → ∃ t : State, exec (.ngemv h m v shape) s = .next t ∧
      (chan0 t).recd.map (fun r => r.toNat / 2 ^ 8 % 2 ^ 8) = some 0x04) ∧
    (∀ r, chanRun s c s.cur.slot = some r → r.op = .near → r.asked = false → r.fault = none → r.probe < r.total → s.held = none →
      let pages (i : Nat) : List Nat := rowPages r.src (i * r.counts.getD 1 0) (r.counts.getD 0 0)
      (∀ st : Nat, r.stack = noStack ∨ r.stack = st → pages r.probe ≠ [] →
        (∀ i : Nat, r.probe ≤ i → i < r.total → ∀ va ∈ pages i, stackOf s (coreDie c) job va = (some st, s)) →
        ∃ t : State, exec .copyAccessPerform s = .next t ∧ sameSpads s t ∧
          chanRun t c s.cur.slot = some { r with probe := r.total, stack := st }) ∧
      (∀ st x a, r.stack = st → st ≠ noStack → st ≠ x → (pages r.probe).head? = some a →
        stackOf s (coreDie c) job a = (some x, s) → ∃ t : State, exec .copyAccessPerform s = .next t ∧ sameSpads s t ∧
          (chanRun t c s.cur.slot).bind (·.fault) = some (0, 0x05))) ∧
    (∀ r, chanRun s c s.cur.slot = some r → r.op = .near → r.asked = false → r.fault = none → r.total ≤ r.probe →
      (∀ e, r.ridx < r.counts.getD 0 0 → ptrE r.vptr = some e → piecesFree s c s.cur.slot (vectorPieces r) = true →
        (∀ p ∈ vectorPieces r, tagsAt s c p.1 p.2 (ptrKey r.vptr) = true) →
        let loc (i : Nat) : ELoc := elementLoc e (ptrBlog r.vptr) (ptrAddr r.vptr) i
        let code (i : Nat) : Nat := memNat s.myCore.spad (loc i).byte (loc i).size / 2 ^ (loc i).bit % 2 ^ e.width
        let place (i : Nat) : Option Nat := (loc (i * e.blockLen (ptrBlog r.vptr))).metaAt
        ∃ t n k u, exec .copyAccessPerform s = .next t ∧ sameSpads s t ∧ 0 < n + k ∧ r.ridx + n ≤ r.counts.getD 0 0 ∧
          (∀ i : Nat, i < n → (loc (r.ridx + i)).byte / 8 = u) ∧
          (r.ridx + n < r.counts.getD 0 0 → (loc (r.ridx + n)).byte / 8 ≠ u) ∧
          (∀ i : Nat, i < k → (place (r.vmeta.length + i)).map (· / 8) = some u) ∧
          chanRun t c s.cur.slot = some { r with
            ridx := r.ridx + n, vec := r.vec ++ (List.range n).map fun i => code (r.ridx + i)
            vmeta := r.vmeta ++ (List.range k).filterMap fun i =>
              (place (r.vmeta.length + i)).map fun a => memNat s.myCore.spad a e.meta }) ∧
      (r.counts.getD 0 0 ≤ r.ridx → (mgetD s.near r.stack []).length < 256 → ∃ t : State, exec .copyAccessPerform s = .next t ∧
        chanRun t c s.cur.slot = some { r with asked := true } ∧ ∃ q : NearReq, mgetD t.near r.stack [] = mgetD s.near r.stack [] ++ [q] ∧
          q.core = c ∧ q.ch = s.cur.slot ∧ q.matrix = r.src ∧ q.vptr = r.vptr ∧ q.dst = r.dst ∧ q.vec = r.vec ∧ q.vmeta = r.vmeta ∧
          q.rows = r.total ∧ q.row = r.served ∧ q.cols = r.counts.getD 0 0 ∧ q.stride = r.counts.getD 1 0)) ∧
    (∀ (q : NearReq) (l : List NearReq) (r : CopyRun) (ev : EFmt), mgetD s.near s.cur.id [] = q :: l → chanRun s q.core q.ch = some r →
      ptrE q.vptr = some ev → r.fault = none →
      let job := (chanEnt s q.core q.ch).job
      let leaves (t : State) : Prop := mgetD t.near s.cur.id [] = l ∧ (chanRun t q.core q.ch).map (·.idx) = some r.total
      jobHeld s job = false →
      (∀ (b : TileRow) (w : Home), nearRow s (coreDie q.core) job q q.row = (.ok b, s) →
        engineHome s q.core job (ptrAddr q.dst + 4 * q.row) .write = (some w, s) → ∃ t : State, exec .ngemvServe s = .next t ∧
          (∃ id m, mget t.msgs id = some m ∧ m.home = w ∧ m.flag = (if r.h.flagen = true then some r.h.flag.toNat else none) ∧
            m.act = .store (lowBytes 4 (tileDot q.nbv2
              { e := ev, len := ev.blockLen (ptrBlog q.vptr), codes := q.vec, metas := q.vmeta } b 0).1) ∧
            (chanRun t q.core q.ch).map (fun x => (x.outstanding, x.fault)) = some (r.outstanding ++ [id], none)) ∧
          (q.row + 1 < q.rows → mgetD t.near s.cur.id [] = { q with row := q.row + 1 } :: l ∧
            (chanRun t q.core q.ch).map (·.idx) = some r.idx) ∧
          (q.rows ≤ q.row + 1 → leaves t)) ∧
      (∀ st : Nat, nearRow s (coreDie q.core) job q q.row = (.error st, s) → ∃ t : State, exec .ngemvServe s = .next t ∧
        leaves t ∧ (chanRun t q.core q.ch).bind (·.fault) = some (q.row, st) ∧ t.msgs = s.msgs))

/-- What a channel moves. -/
def Obligations.ElementsAndStreams : Prop :=
  Clause.ElementMoves ∧ Clause.ReadsReturn ∧ Clause.ElementWrites ∧ Clause.Streams ∧ Clause.NearMemory

/-! The square (R235 to R263, R333). -/

/-- The square of the core the step is for. -/
def sq0 (s : State) : Square := s.square (coreSquare s.cur.core)

/-- A slot of that square. -/
def slot0 (s : State) (n : Nat) : Slot := slotOf s s.cur.core n

/-- A command at the head of the queue of the core the step is for may start: its core holds the array and nothing is busy
(R240, R241), it names no flag it may not name (R241), and no token is lacking (R333). -/
def mayBegin (i : Instr) (e : CmdEnt) (s : State) : Prop :=
  mayStart s s.cur.core = some e ∧ decodeCmd 1 e.word = .ok i ∧ needsToken s (coreSquare s.cur.core) = false ∧
  sending s s.cur.core s.cur.id i = false ∧ e.core = s.cur.core

/-- A command has left the queue and is busy for some clocks of its square, and its run, as `f` says it, ends some clocks after
them (R241). -/
def begins (e : CmdEnt) (busy after : Nat) (s t : State) (f : ArrRun → Prop) : Prop :=
  t.myCore.eq1 = s.myCore.eq1.drop 1 ∧ (sq0 t).busyTill = sqNow s (coreSquare s.cur.core) + busy ∧
  ∃ r, (sq0 t).runs = (sq0 s).runs ++ [r] ∧ r.ent = e ∧ r.endAt = (sq0 t).busyTill + after ∧ f r

/-- Nothing of the square's slots is changed but slot n. -/
def onlySlot (n : Nat) (s t : State) : Prop := ∀ k, k ≠ n → slot0 t k = slot0 s k

/-- How far the PASS of a core is from another value, modulo 2^32 (R240). -/
def passFrom (s : State) (p c : Nat) : Nat := ((s.core c).lease.pass + 2 ^ 32 - p) % 2 ^ 32

/-- R239 to R241: with no holder in the square the eligible core of the least PASS gets the array with LEFT = LIMIT: where the PASSes of
the eligible cores span less than 2^31, one whose PASS is below every other's, or equal to those of higher core numbers only; a turn that is
over ends; a released lease without a leased command ends; an unleased head is removed with a record of status 0x0A. -/
def Clause.LeaseTurns : Prop :=
  ∀ (s : State),
    let sq := coreSquare s.cur.core
    (∀ c, grantee s sq = some c → holderOf s sq = none → (sq0 s).startAt ≤ sqNow s sq → ∃ t : State, exec .leaseGrant s = .next t ∧
      eligible s c = true ∧ (∀ p : Nat, p < 2 ^ 32 → (∀ n : Nat, n < 8 → eligible s (squareCore sq n) = true → passFrom s p (squareCore sq n) < 2 ^ 31) →
        ∃ k : Nat, k < 8 ∧ c = squareCore sq k ∧ ∀ n : Nat, n < 8 → n ≠ k → eligible s (squareCore sq n) = true →
          passFrom s p c < passFrom s p (squareCore sq n) ∨ passFrom s p c = passFrom s p (squareCore sq n) ∧ k < n) ∧
      (t.core c).lease = { (s.core c).lease with state := .held, left := (s.core c).lease.limit, stall := 0 } ∧
      (∀ k : Nat, k ≠ c → t.core k = s.core k)) ∧
    (∀ c, holderOf s sq = some c → turnOver s c = true → ∃ t : State, exec .leaseTurnEnd s = .next t ∧
      (t.core c).lease = { (s.core c).lease with state := .waiting, stall := 0 } ∧ (t.core c).eq1 = (s.core c).eq1) ∧
    (s.myCore.lease.state ≠ .none → s.myCore.lease.releasing = true → hasLeased s s.cur.core = false →
      ∃ t : State, exec .leaseReleaseDone s = .next t ∧ t.myCore.lease.state = .none ∧ t.myCore.lease.releasing = false ∧
        (s.myCore.lease.groupEnding = false → (sq0 t).slots = (sq0 s).slots) ∧
        (s.myCore.lease.groupEnding = true → ∀ n : Nat, (slot0 s n).alloc = true → (slot0 s n).owner = coreInSquare s.cur.core →
          mget (sq0 s).slots n = some (slot0 s n) → (slot0 t n).alloc = false)) ∧
    (∀ e, arrHead s s.cur.core = some e → e.leased = false → ∃ t : State, exec .unleasedCommandReject s = .next t ∧
      t.myCore.eq1 = s.myCore.eq1.drop 1 ∧ t.myCore.lease = s.myCore.lease ∧ ∃ r, waitingRecs t e.core = waitingRecs s e.core ++ [r] ∧
        r.recd.toNat / 2 ^ 8 % 2 ^ 8 = 0x0A ∧ r.recd.toNat % 2 ^ 8 = e.word.toNat % 2 ^ 8)

/-- The bytes that a load of n elements of a row reads, without their metadata; 4-bit elements that begin in the middle of a byte take
one more. -/
def rowBytes (f : EFmt) (first n : Nat) : Nat := (n * f.width + (if f.width = 4 ∧ first % 2 = 1 then 4 else 0) + 7) / 8

/-- The reads of 32 rows of n elements (R26, R248): the bytes of each element, and before the first of a block those of its metadata. -/
def elementReads (f : EFmt) (p : Word) (stride n : Nat) : List ArrRead :=
  (List.range 32).flatMap fun i => (List.range n).flatMap fun j =>
    let l := elementLoc f (ptrBlog p) (ptrAddr p) (i * stride + j)
    (match l.metaAt with
      | some m => if j % f.blockLen (ptrBlog p) = 0 then
          [{ addr := m, size := f.meta, key := ptrKey p, width := 8 * f.meta, block := true }] else []
      | none => []) ++ [{ addr := l.byte, size := l.size, key := ptrKey p, bit := l.bit, width := f.width }]

/-- The values of some reads, of metadata or not. -/
def valuesOf (m : Memory) (ofMeta : Bool) (rs : List ArrRead) : List Nat :=
  (rs.filter fun x => x.block == ofMeta).map fun x => memNat m x.addr x.size / 2 ^ x.bit % 2 ^ x.width

/-- The command of the array that the step names can go on with its reads, whose tags pass. -/
def mayReadOn (i : Instr) (r : ArrRun) (s : State) : Prop :=
  runOf s s.cur.core s.cur.id = some r ∧ r.reads ≠ [] ∧ reading s s.cur.core s.cur.id i = true ∧ quietCore s = true ∧
  ∀ x ∈ r.reads, tagsAt s s.cur.core x.addr x.size x.key = true

/-- The command of the array has made the next of its reads (R144, R202, R241): those in some of the aligned 8 bytes that lie next, at least
one of them and in all no more than 64 bytes in the clock, each of them read whole in one access (the two images of a product apart). It has their values and reads on in the next
clock, or with the last of them has come to its end, as `ends` says of the codes and metadata. -/
def readsOn (r : ArrRun) (ends : List Nat → List Nat → Prop) (s t : State) : Prop :=
  t.myCore.spad = s.myCore.spad ∧ t.myCore.eq1 = s.myCore.eq1 ∧ ∃ us : List (Nat × Bool), us ≠ [] ∧ us <+: nextUnits 64 none [] r.reads ∧
    let now := r.reads.filter fun x => us.contains (x.addr / 8, x.block)
    let rest := r.reads.filter fun x => !us.contains (x.addr / 8, x.block)
    let codes := r.codes ++ valuesOf s.myCore.spad false now
    let metas := r.metas ++ valuesOf s.myCore.spad true now
    (rest ≠ [] → (sq0 t).slots = (sq0 s).slots ∧ t.myCore.bufA = s.myCore.bufA ∧ t.myCore.bufB = s.myCore.bufB ∧
      runOf t s.cur.core s.cur.id = some { r with
        reads := rest, codes := codes, metas := metas, nextAt := sqNow s (coreSquare s.cur.core) + 1 }) ∧
    (rest = [] → (∃ u, runOf t s.cur.core s.cur.id = some u ∧ u.reads = [] ∧ u.endAt = r.endAt) ∧ ends codes metas)

/-- R236, R241, R248: TLDA and TLDB of a format of R249, aligned, of a stride of at least a row and whole blocks, in the scratchpad,
with no watermark active, start to read 32 rows of KB K-blocks, 64 bytes a clock, with their buffer unloaded; as the banks grant
them, the reads are made in order, and with the last the buffer holds the codes and metadata. A read whose tag check fails ends the command with
status 0x07, and a stride below a row gets status 0x02; either leaves the buffer unloaded. -/
def Clause.OperandLoads : Prop :=
  ∀ (h : CmdHdr) (src : Word) (stride : BitVec 32) (kbm1 : BitVec 2) (s : State),
    ∀ row ∈ [(Instr.tlda h src stride kbm1, Core.bufA), (Instr.tldb h src stride kbm1, Core.bufB)],
      let kb := kbm1.toNat + 1
      (∀ (e : CmdEnt) (f : EFmt) (c : TileClass), mayBegin row.1 e s → ptrE src = some f → tileClass (ptrFmt src) = some c → h.ext = 0 →
        ptrAddr src % f.align = 0 →
        let len := f.blockLen (ptrBlog src)
        let rg := arrayRange f (ptrBlog src) (ptrAddr src) (31 * stride.toNat + 32 * kb - 1)
        let bytes := ((List.range 32).map fun i => rowBytes f (i * stride.toNat) (32 * kb) + (32 * kb + len - 1) / len * f.meta).sum
        (32 * kb ≤ stride.toNat → stride.toNat % len = 0 → rg.2 < 0x80000 → (∀ x ∈ s.myCore.chans, x.2.wm = none) →
          ∃ t : State, exec row.1 s = .next t ∧ begins e ((bytes + 63) / 64) 8 s t (fun r => r.status = 0 ∧
              r.reads = elementReads f src stride.toNat (32 * kb) ∧ r.codes = [] ∧ r.metas = []) ∧
            row.2 t.myCore = none ∧ t.myCore.spad = s.myCore.spad ∧ (sq0 t).slots = (sq0 s).slots) ∧
        (stride.toNat < 32 * kb → ∃ t : State, exec row.1 s = .next t ∧ begins e 1 0 s t (fun r => r.status = 2) ∧
            row.2 t.myCore = none ∧ t.myCore.spad = s.myCore.spad)) ∧
      (∀ (r : ArrRun) (f : EFmt), mayReadOn row.1 r s → r.ent.core = s.cur.core → ptrE src = some f → ∃ t : State, exec row.1 s = .next t ∧ readsOn r (fun codes metas =>
        let blocks := if metas = [] then 0 else (32 * kb + f.blockLen (ptrBlog src) - 1) / f.blockLen (ptrBlog src)
        row.2 t.myCore = some { fmt := ptrFmt src, blog := ptrBlog src, kb := kb
                                codes := (List.range 32).map fun i => (codes.drop (i * (32 * kb))).take (32 * kb)
                                metas := (List.range 32).map fun i => (metas.drop (i * blocks)).take blocks }) s t) ∧
      (∀ (r : ArrRun) (x : ArrRead) (l : List ArrRead), runOf s s.cur.core s.cur.id = some r → reading s s.cur.core s.cur.id row.1 = true →
        r.reads = x :: l → tagsAt s s.cur.core x.addr x.size x.key = false → ∃ t : State, exec row.1 s = .next t ∧
          row.2 t.myCore = row.2 s.myCore ∧ t.myCore.spad = s.myCore.spad ∧
          ∃ u, runOf t s.cur.core s.cur.id = some u ∧ u.status = 7 ∧ u.reads = [] ∧ u.endAt = r.endAt)

/-- The elements of a tile product: row i of A times row j of B on the earlier element (R28 to R31). -/
def tileIs (v2 : Bool) (a b : OpBuf) (fa fb : EFmt) (old new : List Nat) : Prop :=
  ∀ i j, i < 32 → j < 32 → 32 * i + j < old.length →
    new.getD (32 * i + j) 0 = (tileDot v2 (a.row fa i) (b.row fb j) (old.getD (32 * i + j) 0)).1

/-- R245, R249, R250: TMMA of two loaded buffers whose checks pass gives each element (i, j) of its slot row i of A times row j of B
on its earlier element, or on zero for FRESH or a new slot, for the type of the pair; a slot of another type gets status 0x02. -/
def Clause.TileProduct : Prop :=
  ∀ (h : CmdHdr) (slot : BitVec 16) (fresh : Bool) (a b : OpBuf) (e : CmdEnt) (fa fb : EFmt) (s : State),
    mayBegin (.tmma h slot fresh) e s → s.myCore.bufA = some a → s.myCore.bufB = some b → tmmaStatus a b = 0 → s.upsets = [] →
    eFmtOf a.fmt a.blog = some fa → eFmtOf b.fmt b.blog = some fb →
      let kind : SlotTy := if intPair a.fmt b.fmt then .int32 else .fp32
      (∀ n : Nat, resolveSlot s s.cur.core h slot true = some (.old n) → (slot0 s n).version = h.ext.toNat →
        ((fresh = true ∨ (slot0 s n).ty = kind) → ∃ t : State, exec (.tmma h slot fresh) s = .next t ∧
          begins e (tmmaClocks a b) 12 s t (fun r => r.slot = some n ∧ r.status = 0) ∧ onlySlot n s t ∧ (slot0 t n).ty = kind ∧
          (slot0 t n).version = (slot0 s n).version ∧
          tileIs e.nbv2 a b fa fb (if fresh = true then List.replicate 1024 0 else (slot0 s n).elems) (slot0 t n).elems) ∧
        (fresh = false → (slot0 s n).ty ≠ kind → ∃ t : State, exec (.tmma h slot fresh) s = .next t ∧
          begins e 1 0 s t (fun r => r.slot = some n ∧ r.status = 2) ∧ slot0 t n = slot0 s n)) ∧
      (∀ n : Nat, slot = 0xFFFF → h.ext = 0 → takeRes s s.cur.core = .take n → ∃ t : State, exec (.tmma h slot fresh) s = .next t ∧
        begins e (tmmaClocks a b) 12 s t (fun r => r.slot = some n ∧ r.status = 0 ∧ r.fresh = true) ∧ onlySlot n s t ∧
        (slot0 t n).alloc = true ∧ (slot0 t n).owner = coreInSquare s.cur.core ∧ (slot0 t n).ty = kind ∧ (slot0 t n).version = 0 ∧
        t.myCore.last = some n ∧ tileIs e.nbv2 a b fa fb (List.replicate 1024 0) (slot0 t n).elems)

/-- R244, R251, R254: TZPS zeroes a slot and sets its type, taking a free one for the new-slot handle; TREL of a slot at its version
runs for a clock; at its end the slot is free. A slot on the free list gets status 0x02, and so does TYPE 3 (before the handle is resolved and the version waited for: log entry 31). A
command
that lacks a wake token asks for it and waits (R333). -/
def Clause.SlotCommands : Prop :=
  ∀ (h : CmdHdr) (slot : BitVec 16) (ty : BitVec 2) (e : CmdEnt) (s : State),
    let tys : List SlotTy := [.fp32, .int32, .poly]
    (mayBegin (.tzps h slot ty) e s →
      (∀ k : SlotTy, tys[ty.toNat]? = some k →
        (∀ n : Nat, resolveSlot s s.cur.core h slot true = some (.old n) → (slot0 s n).version = h.ext.toNat → ∃ t : State,
          exec (.tzps h slot ty) s = .next t ∧ begins e 16 0 s t (fun r => r.slot = some n ∧ r.status = 0) ∧ onlySlot n s t ∧
          slot0 t n = { owner := (slot0 s n).owner, ty := k, version := (slot0 s n).version
                        elems := List.replicate 1024 0, prods := [0] }) ∧
        (∀ n : Nat, slot = 0xFFFF → h.ext = 0 → takeRes s s.cur.core = .take n → ∃ t : State, exec (.tzps h slot ty) s = .next t ∧
          begins e 16 0 s t (fun r => r.slot = some n ∧ r.status = 0 ∧ r.fresh = true) ∧ onlySlot n s t ∧ t.myCore.last = some n ∧
          slot0 t n = { owner := coreInSquare s.cur.core, ty := k, elems := List.replicate 1024 0, prods := [0] })) ∧
      (ty = 3 → ∃ t : State, exec (.tzps h slot ty) s = .next t ∧ begins e 1 0 s t (fun r => r.status = 2))) ∧
    (mayBegin (.trel h slot) e s →
      (∀ n : Nat, resolveSlot s s.cur.core h slot false = some (.old n) → (slot0 s n).version = h.ext.toNat → ∃ t : State,
        exec (.trel h slot) s = .next t ∧ begins e 1 0 s t (fun r => r.slot = some n ∧ r.status = 0 ∧ r.frees = true) ∧
        slot0 t n = slot0 s n) ∧
      (slot.toNat < 128 → (∀ x : Slot, mget (sq0 s).slots slot.toNat = some x → x.alloc = false) → ∃ t : State,
        exec (.trel h slot) s = .next t ∧ begins e 1 0 s t (fun r => r.slot = none ∧ r.status = 2))) ∧
    (∀ n : Nat, mayStart s s.cur.core = some e → decodeCmd 1 e.word = .ok (.trel h slot) → sending s s.cur.core s.cur.id (.trel h slot) = false →
      e.core = s.cur.core → needsToken s (coreSquare s.cur.core) = true → (sq0 s).wantToken = false →
      resolveSlot s s.cur.core h slot false = some (.old n) → (slot0 s n).version = h.ext.toNat → ∃ t : State,
        exec (.trel h slot) s = .next t ∧ (sq0 t).wantToken = true ∧ t.myCore = s.myCore ∧ slot0 t n = slot0 s n)

/-- The bytes of a write with their addresses. -/
def bytesOf (m : Msg) : List (Nat × Byte) :=
  match m.act with
  | .store l => l.zipIdx.map fun p => (m.va + p.2, p.1)
  | _ => []

/-- The stores of a tile (R252): slot type, destination format, and the bytes each element becomes. -/
def tileStoreRows : List (SlotTy × EFmt × (Nat → List Byte)) :=
  [(.fp32, .flt .fp32, natBytes 4), (.int32, .int 32, natBytes 4),
   (.fp32, .flt .bf16, fun v => natBytes 2 (FFmt.bf16.ne (FFmt.fp32.decode v))),
   (.fp32, .flt .fp16, fun v => natBytes 2 (FFmt.fp16.ne (FFmt.fp32.decode v)))]

/-- The adds of a tile (R253). -/
def tileAddRows : List (SlotTy × EFmt × AmoOp) := [(.fp32, .flt .fp32, .fadd), (.int32, .int 32, .add)]

/-- A write that a command has to send: its element, address and action, its flag and its launch. -/
def partIs (m : Msg) (e : CmdEnt) (h : CmdHdr) (elem va : Nat) (act : MsgAct) : Prop :=
  m.elem = elem ∧ m.va = va ∧ m.act = act ∧ m.flag = (if h.flagen then some h.flag.toNat else none) ∧ m.launch = e.launch ∧ m.job = e.job

/-- The writes of some elements of w bytes, in order: their bytes in order, each write in one aligned 8 bytes by the index of its first
element, and elements that lie next to each other in one aligned 8 bytes in one write (R202). -/
def packedParts (ps : List Msg) (e : CmdEnt) (h : CmdHdr) (base w : Nat) (es : List (Nat × List Byte)) : Prop :=
  ps.flatMap bytesOf = es.flatMap (fun x => x.2.zipIdx.map fun p => (base + w * x.1 + p.2, p.1)) ∧
  (∀ m ∈ ps, ∃ k l, partIs m e h k (base + w * k) (.store l) ∧ l ≠ [] ∧ (m.va + l.length - 1) / 8 = m.va / 8) ∧
  ∀ (k : Nat) (m n : Msg), ps[k]? = some m → ps[k + 1]? = some n → n.va = m.va + (bytesOf m).length → n.va / 8 ≠ m.va / 8

/-- R202, R252, R253: TSTO of a tile writes each element (i, j) at index i·STRIDE + j of the destination, in ascending order, after its
checks, elements side by side in one access; TADDS adds each there; TSTO of polynomials has the 8-byte words of the images. A
combination of no row gets 0x02. -/
def Clause.TileStores : Prop :=
  ∀ (h : CmdHdr) (slot : BitVec 16) (dst : Word) (stride : BitVec 32) (e : CmdEnt) (n : Nat) (f : EFmt) (s : State),
    resolveSlot s s.cur.core h slot false = some (.old n) → (slot0 s n).version = h.ext.toNat → s.upsets = [] → ptrE dst = some f →
      let index (k : Nat) : Nat := k / 32 * stride.toNat + k % 32
      let inRange (add : Bool) : Prop :=
        let rg := arrayRange f 0 (ptrAddr dst) (31 * stride.toNat + 31)
        32 ≤ stride.toNat ∧ ptrAddr dst % f.align = 0 ∧ rangeStatus s e.job rg.1 rg.2 = 0 ∧ (add = true → regionOf rg.1 ≠ .host)
      (∀ row ∈ tileStoreRows, mayBegin (.tsto h slot dst stride) e s → (slot0 s n).ty = row.1 → f = row.2.1 → inRange false →
        ∃ t : State, exec (.tsto h slot dst stride) s = .next t ∧ (sq0 t).slots = (sq0 s).slots ∧
          begins e 32 0 s t (fun r => r.slot = some n ∧ r.status = 0 ∧ r.rate = 32 ∧ packedParts r.parts e h (ptrAddr dst) (f.width / 8)
            ((slot0 s n).elems.zipIdx.map fun v => (index v.2, row.2.2 v.1)))) ∧
      (∀ row ∈ tileAddRows, mayBegin (.tadds h slot dst stride) e s → (slot0 s n).ty = row.1 → f = row.2.1 → inRange true →
        ∃ t : State, exec (.tadds h slot dst stride) s = .next t ∧ (sq0 t).slots = (sq0 s).slots ∧
          begins e 32 0 s t (fun r => r.slot = some n ∧ r.status = 0 ∧ r.rate = 32 ∧ r.parts.length = (slot0 s n).elems.length ∧
            ∀ k m, r.parts[k]? = some m → partIs m e h (index k) (ptrAddr dst + 4 * index k)
              (.atomic row.2.2 false (BitVec.ofNat 64 ((slot0 s n).elems.getD k 0)) 0 false))) ∧
      (mayBegin (.tsto h slot dst stride) e s → (slot0 s n).ty = .poly → f = .int 64 → stride = 0 → ptrAddr dst % 8 = 0 →
        rangeStatus s e.job (ptrAddr dst) (ptrAddr dst + 144 * (slot0 s n).prods.length - 1) = 0 → ∃ t : State,
          exec (.tsto h slot dst stride) s = .next t ∧ begins e 32 0 s t (fun r => r.slot = some n ∧ r.status = 0 ∧
            r.parts.length = 18 * (slot0 s n).prods.length ∧ ∀ k m, r.parts[k]? = some m → partIs m e h k (ptrAddr dst + 8 * k)
              (.store (natBytes 8 ((slot0 s n).prods.getD (k / 18) 0 / 2 ^ (64 * (k % 18)))))) ∧ (sq0 t).slots = (sq0 s).slots) ∧
      (mayBegin (.tadds h slot dst stride) e s → (slot0 s n).ty = .poly → ∃ t : State, exec (.tadds h slot dst stride) s = .next t ∧
        begins e 1 0 s t (fun r => r.slot = some n ∧ r.status = 2) ∧ (sq0 t).slots = (sq0 s).slots)

/-- The images that some words make, 9 words each (R257). -/
def imagesIn (ws : List Nat) (count : Nat) : List Int :=
  (List.range count).map fun q => sextN ((List.range 9).map fun k => ws.getD (9 * q + k) 0 * 2 ^ (64 * k)).sum 576

/-- Reads of the words of the images of a product, 8 bytes each (R257), to the first or the second list. -/
def wordReads (second : Bool) (p : Word) (count : Nat) : List ArrRead :=
  (List.range (9 * count)).map fun i => { addr := ptrAddr p + 8 * i, size := 8, key := ptrKey p, width := 64, block := second }

/-- The products, running coefficients and guards of PMUL and PMAC of some images at a width; onto those of a slot if it adds. -/
def productsOf (w : Nat) (split : Bool) (as bs : List Int) (x : Slot) (adds : Bool) : List (Nat × List Int × Option Nat) :=
  (List.range (if split then 4 else 1)).map fun q =>
    let cap := if split then 288 else 576
    let ia := as.getD q 0
    let ib := bs.getD q 0
    let c := polyMul.addL (if adds then x.coeffs.getD q [] else []) (polyMul (polyDigits ia w cap) (polyDigits ib w cap))
    (lowBits (ia * ib + (if adds then (x.prods.getD q 0 : Int) else 0)) 1152, c, guardIndex w cap ia ib c)

/-- A product command has come to its end: slot n has the products, and the status, the report and GUARD are those of the guard. -/
def multiplied (r : ArrRun) (n : Nat) (split mac : Bool) (l : List (Nat × List Int × Option Nat)) (s t : State) : Prop :=
  (∃ u, runOf t s.cur.core s.cur.id = some u ∧ u.slot = some n ∧ u.status = (if firstGuard l = none then 0 else 0x0C) ∧
    u.fresh = r.slot.isNone ∧ (r.report = none → u.report = (firstGuard l).map fun g => wordOf (n + g.1 * 2 ^ 16 + g.2 * 2 ^ 32))) ∧
  onlySlot n s t ∧ (slot0 t n).ty = .poly ∧ (slot0 t n).width = r.ent.width ∧ (slot0 t n).split = split ∧
  (slot0 t n).prods = l.map (·.1) ∧ (slot0 t n).coeffs = l.map (·.2.1) ∧
  (slot0 t n).guard = ((firstGuard l).isSome || (mac && (slot0 s n).guard))

/-- R236, R241, R246, R247, R260, R261: PMUL and PMAC of images in the scratchpad, with no watermark active, start to read them, for 1 busy
clock and 24 after it; with the last read each product is written: A[q] × B[q], on the earlier one for a PMAC of a slot that has
products, into the slot or a new one, with status 0x0C and GUARD where the guard holds, else 0x00; a PMUL that finds no free slot then
stalls with its images read until there is one, or ends with status 0x0B where its core owns them all (R247). A PMAC of products of another
width or split gets 0x0C and GUARD at once, images off 8 bytes status 0x04, and a PMAC of a tile 0x02. (That the pointers are checked
before the wait for the version is log entry 31.) -/
def Clause.PolynomialProducts : Prop :=
  ∀ (h : CmdHdr) (slot : BitVec 16) (split : Bool) (p1 p2 : Word) (s : State), s.upsets = [] →
      let count := if split then 4 else 1
      let pmul : Instr := .pmul h slot split p1 p2
      let pmac : Instr := .pmac h slot split p1 p2
      let starts (i : Instr) (e : CmdEnt) (ref : Option Nat) : Prop := ∃ t : State, exec i s = .next t ∧ (sq0 t).slots = (sq0 s).slots ∧
        begins e 1 24 s t (fun r => r.slot = ref ∧ r.status = 0 ∧ r.reads = wordReads false p1 count ++ wordReads true p2 count ∧
            r.codes = [] ∧ r.metas = [])
      (∀ e : CmdEnt, mayBegin pmul e s → p1.toNat / 2 ^ 56 = 0 → p1.toNat % 8 ≠ 0 → ∃ t : State,
        exec pmul s = .next t ∧ begins e 1 0 s t (fun r => r.slot = none ∧ r.status = 4) ∧ (sq0 t).slots = (sq0 s).slots) ∧
      (∀ (e : CmdEnt) (n : Nat), localPtr p1 8 (72 * count) = 0 → localPtr p2 8 (72 * count) = 0 → (∀ x ∈ s.myCore.chans, x.2.wm = none) →
        let named (mac : Bool) : Prop := resolveSlot s s.cur.core h slot (!mac) = some (.old n) ∧ (slot0 s n).version = h.ext.toNat
        let fits := (slot0 s n).width = 0 ∨ (slot0 s n).width = e.width ∧ (slot0 s n).split = split
        (mayBegin pmul e s → named false → (slot0 s n).ty = .poly → starts pmul e (some n)) ∧
        (mayBegin pmul e s → slot = 0xFFFF → h.ext = 0 → starts pmul e none) ∧
        (mayBegin pmac e s → named true → (slot0 s n).ty = .poly → fits → starts pmac e (some n)) ∧
        (mayBegin pmac e s → named true → (slot0 s n).ty = .poly → ¬ fits → ∃ t : State, exec pmac s = .next t ∧ onlySlot n s t ∧
          slot0 t n = { slot0 s n with guard := true } ∧ begins e 1 24 s t (fun r => r.slot = some n ∧ r.status = 0x0C)) ∧
        (mayBegin pmac e s → named true → (slot0 s n).ty ≠ .poly → ∃ t : State, exec pmac s = .next t ∧
          begins e 1 0 s t (fun r => r.slot = some n ∧ r.status = 2) ∧ (sq0 t).slots = (sq0 s).slots)) ∧
      (∀ (mac : Bool) (r : ArrRun) (n : Nat), mayReadOn (if mac then pmac else pmul) r s → r.ent.core = s.cur.core →
        (r.slot = some n ∨ r.slot = none ∧ mac = false ∧ takeRes s s.cur.core = .take n) →
        let adds := mac && (slot0 s n).width != 0
        (adds = true → (slot0 s n).prods.length = count ∧ (slot0 s n).coeffs.length = count) →
        ∃ t : State, exec (if mac then pmac else pmul) s = .next t ∧ readsOn r (fun as bs =>
          multiplied r n split mac (productsOf r.ent.width split (imagesIn as count) (imagesIn bs count)
            (slot0 s n) adds) s t ∧ (r.slot = none → t.myCore.last = some n)) s t) ∧
      (∀ r : ArrRun, r.ent.core = s.cur.core → r.slot = none →
        let exhausted (t : State) : Prop := (sq0 t).slots = (sq0 s).slots ∧
          ∃ u, runOf t s.cur.core s.cur.id = some u ∧ u.status = 0x0B ∧ u.slot = none ∧ u.codes = []
        (mayReadOn pmul r s → takeRes s s.cur.core = .stall → ∃ t : State, exec pmul s = .next t ∧ readsOn r (fun as bs =>
          (sq0 t).slots = (sq0 s).slots ∧ ∃ u, runOf t s.cur.core s.cur.id = some u ∧ u.slot = none ∧ u.codes = as ∧ u.metas = bs) s t) ∧
        (mayReadOn pmul r s → takeRes s s.cur.core = .exhausted → ∃ t : State, exec pmul s = .next t ∧
          readsOn r (fun _ _ => exhausted t) s t) ∧
        (runOf s s.cur.core s.cur.id = some r → r.reads = [] → reading s s.cur.core s.cur.id pmul = true →
          (∀ n : Nat, takeRes s s.cur.core = .take n → ∃ t : State, exec pmul s = .next t ∧ t.myCore.last = some n ∧
            multiplied r n split false (productsOf r.ent.width split (imagesIn r.codes count) (imagesIn r.metas count) (slot0 s n) false) s t) ∧
          (takeRes s s.cur.core = .exhausted → ∃ t : State, exec pmul s = .next t ∧ exhausted t)))

/-- Coefficient FIRST + k of a product of a slot (R35, R262). -/
def coeffAt (x : Slot) (q : BitVec 2) (first : BitVec 16) (k : Nat) : Int :=
  if x.width = 0 then 0 else polyExtract (sextN (x.prods.getD q.toNat 0) 1152) x.width (first.toNat + k)

/-- R35, R202, R262: PEXTB of a polynomial slot to whole-byte integers writes each coefficient, saturated, those side by side in
one access (4-bit ones by the byte), and its record counts the clamped ones; a slot of no products gives zeros; a tile gets
status 0x02. -/
def Clause.CoefficientStores : Prop :=
  ∀ (h : CmdHdr) (slot : BitVec 16) (q : BitVec 2) (first count : BitVec 16) (dst : Word) (e : CmdEnt) (n wd : Nat) (s : State),
    mayBegin (.pextb h slot q first count dst) e s → resolveSlot s s.cur.core h slot false = some (.old n) →
    (slot0 s n).version = h.ext.toNat → s.upsets = [] →
      let x := slot0 s n
      (x.ty = .poly → (q = 0 ∨ x.split = true) → ptrE dst = some (.int wd) → wd ≠ 4 → ptrAddr dst % (wd / 8) = 0 →
        (count ≠ 0 → rangeStatus s e.job (ptrAddr dst) (ptrAddr dst + wd / 8 * count.toNat - 1) = 0) → ∃ t : State,
          exec (.pextb h slot q first count dst) s = .next t ∧
          begins e ((count.toNat + 7) / 8) 0 s t (fun r => r.slot = some n ∧ r.status = 0 ∧ 
            r.aux = ((List.range count.toNat).filter fun k => satInt (coeffAt x q first k) wd true != coeffAt x q first k).length ∧
            packedParts r.parts e h (ptrAddr dst) (wd / 8)
              ((List.range count.toNat).map fun k => (k, natBytes (wd / 8) (lowBits (satInt (coeffAt x q first k) wd true) wd)))) ∧
          (sq0 t).slots = (sq0 s).slots) ∧
      (x.ty = .poly → (q = 0 ∨ x.split = true) → ptrE dst = some (.int 4) →
        (count ≠ 0 → rangeStatus s e.job (ptrAddr dst) (ptrAddr dst + (count.toNat - 1) / 2) = 0) →
        let nib (k : Nat) : Nat := lowBits (satInt (coeffAt x q first k) 4 true) 4
        ∃ t : State, exec (.pextb h slot q first count dst) s = .next t ∧ begins e ((count.toNat + 7) / 8) 0 s t (fun r =>
          r.slot = some n ∧ r.status = 0 ∧ r.parts.length = (count.toNat + 1) / 2 ∧ ∀ k m, r.parts[k]? = some m →
            partIs m e h (2 * k) (ptrAddr dst + k) (if 2 * k + 1 = count.toNat then .nibble (BitVec.ofNat 8 (nib (2 * k))) 0x0F
              else .nibble (BitVec.ofNat 8 (nib (2 * k) + 16 * nib (2 * k + 1))) 0xFF)) ∧ (sq0 t).slots = (sq0 s).slots) ∧
      (x.ty ≠ .poly → ∃ t : State, exec (.pextb h slot q first count dst) s = .next t ∧
        begins e 1 0 s t (fun r => r.slot = some n ∧ r.status = 2) ∧ (sq0 t).slots = (sq0 s).slots)

/-- R242, R245, R333: the first command of the core that has ended is removed, the version of its slot goes up by one, and its record is
queued if it asked for one, failed, or took a slot; the record enters the result queue while it has room, or is dropped once its
group has ended; LIMITER_TOKEN_RENEW hands RAMP tokens, less those that waiting squares take, and a token that is left goes
to the first square after the die served last; a guard overflow is reported to the context. -/
def Clause.ArrayEnds : Prop :=
  ∀ (s : State),
    (∀ r, (sq0 s).runs.find? (fun r => r.ent.core == s.cur.core && runEnded s r) = some r → r.report = none →
      r.ent.core = s.cur.core → ∃ t : State, exec .arrayCommandEnd s = .next t ∧
        (sq0 t).runs = (sq0 s).runs.filter (fun x => x.ent.id != r.ent.id) ∧
        (∀ n : Nat, r.slot = some n → (slot0 t n).version = ((slot0 s n).version + 1) % 2 ^ 16 ∧
          (slot0 t n).alloc = ((slot0 s n).alloc && !r.frees) ∧ (slot0 t n).elems = (slot0 s n).elems ∧ onlySlot n s t) ∧
        (r.status = 0 → r.h.result = false → r.fresh = false → waitingRecs t s.cur.core = waitingRecs s s.cur.core) ∧
        ((r.status ≠ 0 ∨ r.h.result = true ∨ r.fresh = true) → ∃ w, waitingRecs t s.cur.core = waitingRecs s s.cur.core ++ [w] ∧
          (r.status < 2 ^ 8 → r.opcode < 2 ^ 8 → w.recd.toNat % 2 ^ 32 = r.opcode + 2 ^ 8 * r.status + 2 ^ 16 * r.h.tag.toNat))) ∧
    (∀ r v, (sq0 s).runs.find? (fun r => r.ent.core == s.cur.core && runEnded s r) = some r → r.report = some v →
      sameCtx s s.cur.core r.ent.slot r.ent.gen = true → (s.ctx s.cur.core r.ent.slot).failQ.length < 4 → ∃ t : State,
        exec .arrayCommandEnd s = .next t ∧ (t.ctx s.cur.core r.ent.slot).failQ =
          (s.ctx s.cur.core r.ent.slot).failQ ++ [{ cause := Cause.guard.code, value := v }]) ∧
    (∀ (r : ArrRec) (l : List ArrRec), waitingRecs s s.cur.core = r :: l →
      (∀ g : Group, s.myCore.group = some g → g.id = r.group → (s.myCore.res 1).places < 16 → ∃ t : State,
        exec .arrayRecordPush s = .next t ∧ waitingRecs t s.cur.core = l ∧
        (t.myCore.res 1).halves = (s.myCore.res 1).halves ++ [w64 r.recd, BitVec.ofNat 64 (r.recd.toNat / 2 ^ 64)]) ∧
      (s.myCore.group = none → ∃ t : State, exec .arrayRecordPush s = .next t ∧ waitingRecs t s.cur.core = l ∧
        (t.myCore.res 1).halves = (s.myCore.res 1).halves)) ∧
    (s.mgmt.tokenAt < s.ptime / 64 → ∃ t : State, exec .limiterTokenRenew s = .next t ∧ t.mgmt.tokenAt = s.ptime / 64 ∧
      (s.mgmt.limRamp = 0 → t.squares.all (fun p => !p.2.wantToken) = true) ∧
      (tokenQueue s = [] → t.mgmt.tokens = s.mgmt.limRamp) ∧ t.mgmt.tokens ≤ s.mgmt.limRamp ∧ t.cores = s.cores) ∧
    (∀ (q : Nat) (l : List Nat), tokenQueue s = q :: l → s.ptime / 64 ≤ s.mgmt.tokenAt → s.mgmt.tokens = 1 → s.mgmt.limRamp ≠ 0 →
      ∃ t : State, exec .limiterTokenRenew s = .next t ∧ (t.square q).token = true ∧ (t.square q).wantToken = false ∧
        t.mgmt.tokens = 0 ∧ t.mgmt.lastDie = q / 256 ∧ t.cores = s.cores)

/-- The array: its leases and the end of its commands. -/
def Obligations.ArrayTurns : Prop := Clause.LeaseTurns ∧ Clause.ArrayEnds

/-- R252, R255, R262: a command that is sending issues the next of its writes, up to its rate, in ascending order, and goes on in the
next clock; each goes to its home with the command's flag. -/
def Clause.ArraySends : Prop :=
  ∀ (i : Instr) (s : State), sending s s.cur.core s.cur.id i = true →
    (match i with
     | .tsto _ _ _ _ | .tadds _ _ _ _ | .pextb _ _ _ _ _ _ => true
     | _ => false) = true →
    ∀ r, (sq0 s).runs.find? (fun r => r.ent.id == s.cur.id) = some r → r.status = 0 → r.bad = none →
    (∀ x ∈ (sq0 s).runs, ∀ y ∈ (sq0 s).runs, x.ent.id = y.ent.id → x = y) →
      let kind (m : Msg) : XKind := match m.act with
        | .atomic _ _ _ _ _ => .atomic
        | _ => .write
      let issuer : Issuer := .arr s.cur.core r.ent.id r.ent.slot r.ent.gen
      (∀ m ∈ r.parts.take r.rate, m.issuer = issuer ∧ ∃ w, engineHome s s.cur.core m.job m.va (kind m) = (some w, s)) →
      ∃ t : State, exec i s = .next t ∧ t.myCore.eq1 = s.myCore.eq1 ∧ (sq0 t).slots = (sq0 s).slots ∧
        (∃ u, (sq0 t).runs.find? (fun r => r.ent.id == s.cur.id) = some u ∧ u.parts = r.parts.drop r.rate ∧ u.status = 0 ∧
          u.endAt = r.endAt ∧ u.nextAt = sqNow s (coreSquare s.cur.core) + 1) ∧
        ∀ m ∈ r.parts.take r.rate, ∀ w, engineHome s s.cur.core m.job m.va (kind m) = (some w, s) → ∃ p ∈ t.msgs,
          p.2.home = w ∧ p.2.act = m.act ∧ p.2.va = m.va ∧ p.2.key = m.key ∧ p.2.flag = m.flag ∧ p.2.issuer = issuer

/-- The commands on tiles, and the writes that array commands send. -/
def Obligations.TileCommands : Prop :=
  Clause.OperandLoads ∧ Clause.TileProduct ∧ Clause.SlotCommands ∧ Clause.TileStores ∧ Clause.ArraySends

/-- The commands on polynomials. -/
def Obligations.PolynomialCommands : Prop := Clause.PolynomialProducts ∧ Clause.CoefficientStores

/-! Frontier and card launches (R287, R291 to R301). -/

/-- The command of eq3 that the step is for, where it can be served (R298). -/
def serves (i : Instr) (e : CmdEnt) (s : State) : Prop :=
  (servedCmd s).map (·.2) = some e ∧ decodeCmd 3 e.word = .ok i

/-- A command of eq3 is done: its request is gone, and its record is on its way to its core (R55, R56). -/
def reports (e : CmdEnt) (h : CmdHdr) (status value detail : Nat) (s t : State) : Prop :=
  t.requests = s.requests.filter (fun r => r.id != e.id) ∧ ∃ r, (t.core e.core).recFly = (s.core e.core).recFly ++ [r] ∧
    r.q = 3 ∧ r.recd = record detail value h.tag.toNat status (e.word.toNat % 2 ^ 8) ∧ r.group = e.group ∧ s.now < r.due

/-- The frontier of a launch. -/
def frontierOf (s : State) (n : Nat) : Option Frontier := (s.launch? n).bind (·.frontier)

/-- R287: KCARD of a card launch deals the next chunk of its records: at most what remains, at least one, and else the remaining
records over twice the groups, rounded up; the record names the chunk and its address. Another launch gets status 0x0D. -/
def Clause.CardChunks : Prop :=
  ∀ (h : CmdHdr) (e : CmdEnt) (s : State), serves (.kcard h) e s →
    (∀ l, s.launch? e.launch = some l → l.kind = 2 →
      let left := l.ext.1 - l.cardDealt
      let chunk := min left (max 1 ((left + 2 * l.ext.2.2 - 1) / (2 * l.ext.2.2)))
      ∃ t : State, exec (.kcard h) s = .next t ∧ (t.launch? e.launch).map (·.cardDealt) = some (l.cardDealt + chunk) ∧
        reports e h 0 chunk (if chunk = 0 then 0 else dArgs l.words + l.cardDealt * l.ext.2.1) s t) ∧
    ((∀ l, s.launch? e.launch = some l → l.kind ≠ 2) → ∃ t : State, exec (.kcard h) s = .next t ∧
      reports e h 0x0D 0 0 s t ∧ t.launches = s.launches)

/-- R298: FRSAVE of a live frontier launch of the job, in a range that can be written, with no save in progress, starts its save; in
MODE 1 and 2 a firing launch drains, and its points not yet dealt return to unfired. A launch that is none gets status 0x0D; one
whose points were abandoned gets 0x09, as R303 gives it to a drain in progress (log entry 31). -/
def Clause.SaveStarts : Prop :=
  ∀ (h : CmdHdr) (n : BitVec 16) (mode : BitVec 2) (image : BitVec 52) (limit : BitVec 32) (e : CmdEnt) (s : State),
    serves (.frsave h n mode image limit) e s → featureOn s 3 = true →
      (∀ (l : Launch) (f : Frontier), s.launch? n.toNat = some l → l.frontier = some f → l.job = e.job → imageRange image.toNat limit.toNat = 0 →
        f.state ≠ .abandoned → f.saves = [] → ∃ t : State, exec (.frsave h n mode image limit) s = .next t ∧
          t.requests = s.requests.filter (fun r => r.id != e.id) ∧ t.hbm = s.hbm ∧ ∃ g, frontierOf t n.toNat = some g ∧
          g.saves = [{ ent := e, h := h, mode := mode.toNat, image := image.toNat, limit := limit.toNat }] ∧ g.stair = f.stair ∧
          (f.state = .firing → 1 ≤ mode.toNat → g.state = .draining ∧ g.offered = [] ∧
            g.pending = f.pending.filter (!f.offered.contains ·)) ∧
          ((f.state ≠ .firing ∨ mode = 0) → g.state = f.state ∧ g.offered = f.offered ∧ g.pending = f.pending)) ∧
      (∀ (l : Launch) (f : Frontier), s.launch? n.toNat = some l → l.frontier = some f → l.job = e.job → imageRange image.toNat limit.toNat = 0 →
        f.state = .abandoned → ∃ t : State, exec (.frsave h n mode image limit) s = .next t ∧ reports e h 0x09 0 0 s t ∧
          t.launches = s.launches) ∧
      (s.launch? n.toNat = none → ∃ t : State, exec (.frsave h n mode image limit) s = .next t ∧ reports e h 0x0D 0 0 s t)

/-- R298, R299: a save that need not wait for points writes its image where LIMIT allows it: one store of 64 bytes for each unit, in
order; longer than LIMIT it fails with status 0x05 and writes nothing. When the stores are done, the record tells the length and the
points, and the launch is parked by MODE 1, finished by MODE 2, and goes on in MODE 0. -/
def Clause.SaveEnds : Prop :=
  ∀ (l : Launch) (f : Frontier) (v : FrSave) (s : State), s.launch? s.cur.id = some l → l.frontier = some f → f.saves = [v] →
    s.upsets = [] → v.late = none → unwrittenSave s s.cur.id = none →
    (∀ j, mget s.jobs l.job = some j → j.stopped = false → v.written = false → (f.state = .draining → f.pending = []) →
      let image : List Byte × Nat := imageBytes l f v.mode
      (v.limit < image.2 → ∃ t : State, exec .frsaveImageWrite s = .next t ∧ t.msgs = s.msgs ∧ t.hbm = s.hbm ∧
        (frontierOf t s.cur.id).map (·.saves) =
          some [{ v with written := true, length := image.2, points := stairTotal f, failed := some 0x05 }]) ∧
      (∀ (pa : Nat → Nat), image.2 ≤ v.limit →
        (∀ k : Nat, k < image.2 → (tlbFind (unitPlain s (f.home.getD 10)).tlb l.job (v.image + 64 * k)).map
          (fun x => leafCheck s x (v.image + 64 * k) .write) = some (.ok (pa k))) →
        ∃ t : State, exec .frsaveImageWrite s = .next t ∧ ∃ g, frontierOf t s.cur.id = some g ∧
          g.saves = [{ v with written := true, length := image.2, points := stairTotal f, failed := none
                              outstanding := v.outstanding ++ (List.range image.2).map (s.nextId + ·) }] ∧
          ∀ k : Nat, k < image.2 → (mget t.msgs (s.nextId + k)).map (fun m => (m.act, m.home)) =
            some (.store ((image.1.drop (64 * k)).take 64), .hbm (pa k)))) ∧
    (v.written = true → v.outstanding = [] → lateSave s s.cur.id = none → jobHeld s v.ent.job = false → ∃ t : State, exec .frsaveEnd s = .next t ∧
      (∃ r, (t.core v.ent.core).recFly = (s.core v.ent.core).recFly ++ [r] ∧ r.q = 3 ∧
        r.recd = record (if v.failed.getD 0 = 0 ∨ v.limit < v.length then v.points else 0) v.length v.h.tag.toNat (v.failed.getD 0) 0x60) ∧
      ∃ g, frontierOf t s.cur.id = some g ∧ g.saves = [] ∧ g.stair = f.stair ∧
        g.state = (if (f.state = .draining ∨ f.state = .parked) ∧ v.failed = none ∧ v.mode = 2 then .finished
          else if f.state = .draining ∨ (f.state = .finished ∧ v.failed = none ∧ v.mode = 1) then .parked else f.state) ∧
        (g.state = .parked → f.state ≠ .parked → g.home = none))

/-- R298: a save that stands when its launch ends goes on: it writes the image that the launch left, where LIMIT allows it, and its
record is made when its writes are performed. -/
def Clause.LateSaves : Prop :=
  ∀ (s : State),
    (∀ (n : Nat) (v : FrSave), lateSave s s.cur.id = some (n, v) → ∃ t : State, exec .frsaveEnd s = .next t ∧
      t.lateSaves = s.lateSaves.erase (n, v) ∧ t.launches = s.launches ∧
      ∃ r, (t.core v.ent.core).recFly = (s.core v.ent.core).recFly ++ [r] ∧ r.q = 3 ∧
        r.recd = record (if v.failed.getD 0 = 0 ∨ v.limit < v.length then v.points else 0) v.length v.h.tag.toNat (v.failed.getD 0) 0x60) ∧
    (∀ (v : FrSave) (i : LateImage), unwrittenSave s s.cur.id = some (v, i) → s.upsets = [] →
      let left (t : State) (w : FrSave) : Prop := exec .frsaveImageWrite s = .next t ∧ t.launches = s.launches ∧ (s.cur.id, w) ∈ t.lateSaves
      (v.limit < i.units → ∃ t : State, t.msgs = s.msgs ∧ t.hbm = s.hbm ∧
        left t { v with written := true, length := i.units, points := i.points, failed := some 0x05 }) ∧
      (∀ (pa : Nat → Nat), i.units ≤ v.limit →
        (∀ k : Nat, k < i.units → (tlbFind (unitPlain s i.die).tlb v.ent.job (v.image + 64 * k)).map
          (fun x => leafCheck s x (v.image + 64 * k) .write) = some (.ok (pa k))) →
        ∃ t : State, left t { v with
            written := true, length := i.units, points := i.points, failed := none
            outstanding := v.outstanding ++ (List.range i.units).map (s.nextId + ·) } ∧
          ∀ k : Nat, k < i.units → (mget t.msgs (s.nextId + k)).map (fun m => (m.act, m.home)) =
            some (.store ((i.bytes.drop (64 * k)).take 64), .hbm (pa k))))

/-- The north pass die reaches a place of a job's device memory for a write as things stand: its TLB holds the page (R316, R350). -/
def northAt (s : State) (job va pa : Nat) : Prop :=
  s.held = none ∧ s.upsets = [] ∧ regionOf va = .device ∧
  (tlbFind (unitPlain s 10).tlb job va).map (fun e => leafCheck s e va .write) = some (.ok pa)

/-- Eight bytes of device memory hold a number, and no other byte of it has changed. -/
def putsWord (pa v : Nat) (s t : State) : Prop :=
  memNat t.hbm pa 8 = v ∧ ∀ j : Nat, j < pa ∨ pa + 8 ≤ j → memGet t.hbm j = memGet s.hbm j

/-- R301: FRLOAD of an image that fails gets its status and loads nothing; of one whose descriptor no live launch of the job holds, it
waits for a home with room; then it enters the launch with the next number, at the home, in state firing, writes W7 of its descriptor
with the number and STATE 1, and records both; a parked launch that holds the descriptor, with no save in progress, ends, and the new
one takes its place. -/
def Clause.ImageLoads : Prop :=
  ∀ (h : CmdHdr) (image : BitVec 52) (e : CmdEnt) (s : State),
    (serves (.frload h image) e s → featureOn s 3 = true →
      (∀ (st : Nat) (u : State), readFrontier s e.job image.toNat = (.fail st, u) → u.held = none → ∃ t : State, exec (.frload h image) s = .next t ∧
        reports e h st 0 0 u t ∧ t.launches = u.launches) ∧
      (∀ (l : Launch) (u : State), readFrontier s e.job image.toNat = (.ok l, u) → liveAt u e.job l.addr false = none →
        u.held = none → u.launches.length < 1024 → ∃ t : State, exec (.frload h image) s = .next t ∧ t.launches = u.launches ∧
          t.requests = updWhere (fun r => r.id == e.id) (fun r => { r with loading := some l }) u.requests) ∧
      (∀ (l : Launch) (u : State), readFrontier s e.job image.toNat = (.ok l, u) → (liveAt u e.job l.addr false).isSome = true →
        u.held = none → ∃ t : State, exec (.frload h image) s = .next t ∧ reports e h 0x0D 0 0 u t)) ∧
    (∀ (r : DispReq) (l : Launch) (f : Frontier) (p pa : Nat), findReq s s.cur.id = some r → r.ent = some e → r.loading = some l → l.frontier = some f →
      liveAt s l.job l.addr false = none → frontierHome s l.job = some p → f.reserve ≤ storeRoom s p →
      l.addr % 64 = 0 → northAt s l.job (l.addr + 56) pa →
      let loads (n : Nat) : Prop := ∃ t : State, exec .frloadTakeEffect s = .next t ∧
        (t.launch? n).map (fun x => { x with seq := 0 }) = some { l with frontier := some { f with home := some p }, seq := 0 } ∧
        t.lastLaunch = n ∧ reports e (CmdHdr.ofNat e.word.toNat) 0 n (stairTotal f) s t ∧ putsWord pa (n + 2 ^ 16) s t ∧
        ∀ o : Nat, liveAt s l.job l.addr true = some o → o ≠ n → t.launch? o = none
      (liveAt s l.job l.addr true = none → s.launches.length < 1024 → loads (freshNumber s)) ∧
      (∀ o : Nat, liveAt s l.job l.addr true = some o → (frontierOf s o).map (·.saves) = some [] → s.launches.length ≤ 1024 →
        loads (freshNumber { s with launches := mdel s.launches o })))

/-- R295: a home whose partition runs takes the oldest notice, one in a clock: the point's row has one more complete point, and the point
is pending no more; it offers the eligible point of lowest index while fewer than 4,096 are pending, one in a clock. -/
def Clause.FrontierSteps : Prop :=
  ∀ (p : Nat) (l : Launch) (f : Frontier) (s : State), frontierAt s s.cur.id = some (p, l, f) →
    (∀ (q : Nat) (r : List Nat), f.intake = q :: r → f.tookAt ≠ (s.die p).clk + 1 → ∃ t : State,
      exec .frontierNoticeTake s = .next t ∧ ∃ g, frontierOf t s.cur.id = some g ∧ g.intake = r ∧ g.pending = f.pending.erase q ∧
        g.offered = f.offered ∧ mgetD g.stair (rowOf l.dims l.ext q).1 0 = mgetD f.stair (rowOf l.dims l.ext q).1 0 + 1 ∧
        ∀ k : Nat, k ≠ (rowOf l.dims l.ext q).1 → mgetD g.stair k 0 = mgetD f.stair k 0) ∧
    (∀ q, eligiblePoint l.dims l.ext f = some q → f.state = .firing → f.pending.length < 4096 → f.firedAt ≠ (s.die p).clk + 1 →
      ∃ t : State, exec .frontierFire s = .next t ∧ ∃ g, frontierOf t s.cur.id = some g ∧ g.pending = f.pending ++ [q] ∧
        g.offered = f.offered ++ [q] ∧ g.stair = f.stair ∧ g.intake = f.intake)

/-- The commands of eq3, and what a frontier home does. The end of a parked launch by MODE 2 is the model's choice (log entry 31). -/
def Obligations.FrontierLaunches : Prop :=
  Clause.CardChunks ∧ Clause.SaveStarts ∧ Clause.SaveEnds ∧ Clause.LateSaves ∧ Clause.ImageLoads ∧ Clause.FrontierSteps

/-! Meetings and stream routers (R366 to R376). -/

/-- The rejection record holds no entry of a handle's member, and the handle names a package (R369). -/
def admits (s : State) (h : Word) : Bool := !s.myCore.rejects.contains (mIdent h, mMember h) && mPackage h != 0x1FF

/-- A rejection of a handle's member is on its way to a core (R373). -/
def rejection (t : State) (c : Nat) (h : Word) : Prop :=
  ∃ p ∈ t.msgs, p.2.act = .reject (mIdent h) (mMember h) ∧ p.2.home = .core c

/-- R172, R369, R373: MEET hands its vector to the outbound unit, which has room and has accepted nothing in this clock, and completes;
MEETR sends its request in a clock in which that unit accepts it and is pending; either blocks before it while the unit does not. With
a rejection of the member on record either takes it off and traps with cause 0x13 and the handle without round and low bits. -/
def Clause.MeetingInstructions : Prop :=
  ∀ (a : Fin 48) (v : Fin 32) (la : BitVec 4) (s : State),
    let h := s.me.getX a
    let meet : Instr := .meet (.x a) (.v v)
    let meetr : Instr := .meetr (.v v) (.x a) la
    let room : Prop := (outboundPosted s s.cur.core).length < 16 ∧ outOpen s s.cur.core = true
    (issues meet s = true → admits s h = true →
      (room → ∃ due : Nat, s.now < due ∧ exec (.meet (.x a) (.v v)) s =
        .next (sends due (meetMsg s h (.meet h s.me.v[v])) (takeOut { issued meet s with nextId := s.nextId + 1 } s.cur.core))) ∧
      (¬ room → exec (.meet (.x a) (.v v)) s = .next (blocks meet 2 0 [v128 h, s.me.v[v]] s))) ∧
    (∀ (g : Word) (w : VWord), waitsIn meet 2 0 [v128 g, w] s = true → room → ∃ due : Nat, s.now < due ∧
      exec (.meet (.x a) (.v v)) s =
        .next (sends due (meetMsg s g (.meet g w)) (takeOut { complete s with nextId := s.nextId + 1 } s.cur.core))) ∧
    (issues meetr s = true → admits s h = true →
      (outOpen s s.cur.core = true → ∃ due : Nat, s.now < due ∧ exec (.meetr (.v v) (.x a) la) s =
        .next (sends due (meetMsg s h (.meetr h)) (takeOut (pends meetr (.query []) 0 none s) s.cur.core))) ∧
      (outOpen s s.cur.core = false → exec (.meetr (.v v) (.x a) la) s = .next (blocks meetr 2 0 [v128 h] s))) ∧
    (∀ g : Word, waitsIn meetr 2 0 [v128 g] s = true → outOpen s s.cur.core = true → ∃ t p, exec (.meetr (.v v) (.x a) la) s = .next t ∧
      t.me.blk = none ∧ t.me.pend = s.me.pend ++ [p] ∧ p.kind = .query [] ∧ p.res = none ∧
      ∃ q ∈ t.msgs, q.2.act = .meetr g ∧ q.2.home = (meetMsg s g (.meetr g)).home) ∧
    (∀ i ∈ [meet, meetr], issues i s = true → trapsPlainly s = true →
      s.myCore.rejects.contains (mIdent h, mMember h) = true → exec i s =
        .next (traps i 0x13 (wordOf (h.toNat % 2 ^ 48 / 2 ^ 23 * 2 ^ 23)) s.me.pc 2
          (s.updMyCore fun k => { k with rejects := k.rejects.erase (mIdent h, mMember h) })))

/-- A contribution that has reached a meeting of the issuer's job at a plain, from a core. -/
def contributes (s : State) (c p n : Nat) (h : Word) (data : VWord) (x : Meeting) : Prop :=
  ∃ m, meetDue s = some m ∧ m.act = .meet h data ∧ m.home = .meeting p n ∧ p < 8 ∧ meetingAt s p n = some x ∧ x.job = m.job ∧
    m.issuer.core? = some c

/-- What a release publishes of round C: the contributions in ascending member, then the late ones by the weight (R371). -/
def published (x : Meeting) (d : Bool) (u : Pub) : Prop :=
  let sum := x.ontime.foldl (fun r q => combine x.op r q.2) (identity x.op)
  let late := lateOrder x.late
  u.tag = x.c ∧ u.byDeadline = d ∧ u.count = x.ontime.length ∧ u.latemap = x.latemap ∧ u.latecount = x.latecount ∧
  u.result = (if x.weight = 1 then late.foldl (fun r e => combine x.op r e.2.2) sum
    else if x.weight = 2 then late.foldl (fun r e => combine x.op r (scaleVec x.op e.2.1 e.2.2)) sum else sum) ∧
  u.lateacc = (if x.weight = 3 then late.foldl (fun r e => combine x.op r e.2.2) (identity x.op) else identity x.op)

/-- The meeting after a release with no early contribution: round C is published, the next one open and empty (R371). -/
def opened (x y : Meeting) (d : Bool) : Prop :=
  (∃ u, published x d u ∧ y.pubs = (x.pubs ++ [u]).drop (x.pubs.length - 15)) ∧ y.c = (x.c + 1) % 2 ^ 16 ∧ y.ontime = [] ∧
  y.late = [] ∧ y.latemap = 0 ∧ y.latecount = 0 ∧ y.timer = none ∧ ∀ m : Nat, mgetD y.seen m 0 = mgetD x.seen m 0 * 2 % 2 ^ 16

/-- R370, R371: a contribution for the open round is held, and a first one starts the deadline; one that makes the quorum releases the
round. One for the next round is held early; a late one within LAG is marked, and held unless the weight drops it. One that is held or marked
already is dropped. One of no member, of two or more rounds ahead, in an early place that another round holds, or later than LAG or with
64 late entries held, is rejected. -/
def Clause.Contributions : Prop :=
  ∀ (c p n : Nat) (h : Word) (data : VWord) (x : Meeting) (s : State), contributes s c p n h data x →
    let m := mMember h
    let seen := mgetD x.seen m 0
    let d := roundDiff (mRound h) x.c
    let x1 : Meeting := { x with ontime := mset x.ontime m data, seen := mset x.seen m (seen / 2 * 2 + 1) }
    (m < x.n → d = 0 → seen % 2 = 0 → x1.ontime.length < x.k → ∃ t : State, exec .meetArrive s = .next t ∧ answered s t .ack ∧
      ∃ y, meetingAt t p n = some y ∧ y.ontime = x1.ontime ∧ y.seen = x1.seen ∧ y.c = x.c ∧ y.pubs = x.pubs ∧
        y.timer = (if x1.ontime.length = 1 ∧ x.deadline ≠ 0 then some (s.ptime + x.deadline) else x.timer)) ∧
    (m < x.n → d = 0 → seen % 2 = 0 → x.k ≤ x1.ontime.length → 1 ≤ x.k → x.early = [] → ∃ t : State,
      exec .meetArrive s = .next t ∧ answered s t .ack ∧ ∃ y, meetingAt t p n = some y ∧ opened x1 y false) ∧
    (m < x.n → d = 1 → mget x.early m = none → x.ontime.length < x.k → ∃ t : State, exec .meetArrive s = .next t ∧ answered s t .ack ∧
      ∃ y, meetingAt t p n = some y ∧ y.early = mset x.early m (mRound h, data) ∧ y.ontime = x.ontime ∧ y.c = x.c) ∧
    (m < x.n → d < 0 → -d ≤ x.lag → x.lag ≤ 15 → seen / 2 ^ (-d).toNat % 2 = 0 → x.late.length < 64 → x.ontime.length < x.k →
      ∃ t : State, exec .meetArrive s = .next t ∧ answered s t .ack ∧ ∃ y, meetingAt t p n = some y ∧
        y.seen = mset x.seen m (seen + 2 ^ (-d).toNat) ∧ y.latemap = x.latemap ||| BitVec.ofNat 64 (2 ^ m) ∧
        y.latecount = x.latecount + 1 ∧ y.late = (if x.weight = 0 then x.late else x.late ++ [(m, (-d).toNat, data)]) ∧
        y.ontime = x.ontime ∧ y.c = x.c) ∧
    (m < x.n → (d = 0 ∧ seen % 2 = 1 ∨ d = 1 ∧ (∃ v, mget x.early m = some (mRound h, v)) ∨
        d < 0 ∧ -d ≤ 15 ∧ seen / 2 ^ (-d).toNat % 2 = 1) → ∃ t : State, exec .meetArrive s = .next t ∧ answered s t .ack ∧
      meetingAt t p n = some x ∧ ∀ q ∈ t.msgs, q.1 ≠ s.cur.id → q ∈ s.msgs) ∧
    ((x.n ≤ m ∨ 2 ≤ d ∨ d = 1 ∧ (∃ r v, mget x.early m = some (r, v) ∧ r ≠ mRound h) ∨
        d < 0 ∧ (x.lag < -d ∨ 64 ≤ x.late.length) ∧ (-d ≤ 15 → seen / 2 ^ (-d).toNat % 2 = 0)) → ∃ t : State,
      exec .meetArrive s = .next t ∧ answered s t .ack ∧ meetingAt t p n = some x ∧ rejection t c h)

/-- R369, R370, R373: a deadline that is reached releases its round; a MEETR is answered from the open round if it probes, from the first
publication that is not before its round, or waits; its answer completes it. A rejection joins the record, the eight newest stay. -/
def Clause.MeetingReads : Prop :=
  ∀ (s : State),
    (∀ x, meetingAt s (s.cur.id / 64) (s.cur.id % 64) = some x → ∀ due, x.timer = some due → due ≤ s.ptime →
      jobStopped s x.job = false → x.early = [] → 1 ≤ x.k → ∃ t : State, exec .meetingDeadline s = .next t ∧
        ∃ y, meetingAt t (s.cur.id / 64) (s.cur.id % 64) = some y ∧ opened x y true) ∧
    (∀ m, meetDue s = some m → ∀ (h : Word) (p n : Nat), m.act = .meetr h → m.home = .meeting p n → p < 8 →
      (∀ x, meetingAt s p n = some x → x.job = m.job →
        (mProbe h = true → ∃ t : State, exec .meetrRequestArrive s = .next t ∧ answered s t (.data (openPart x (mSel h)))) ∧
        (∀ u, x.pubs.find? (fun u => decide (0 ≤ roundDiff u.tag (mRound h))) = some u → mProbe h = false → ∃ t : State,
          exec .meetrRequestArrive s = .next t ∧ answered s t (.data (pubPart u (mSel h) x.c)) ∧ t.plains = s.plains) ∧
        ((∀ u ∈ x.pubs, roundDiff u.tag (mRound h) < 0) → mProbe h = false → ∃ t : State, exec .meetrRequestArrive s = .next t ∧
          (meetingAt t p n).map (·.waiting) = some (x.waiting ++ [s.cur.id]) ∧
          mget t.msgs s.cur.id = some { m with phase := waitsAtHome })) ∧
      (meetingAt s p n = none → ∀ c, m.issuer.core? = some c → ∃ t : State, exec .meetrRequestArrive s = .next t ∧
        answered s t .unchanged ∧ rejection t c h)) ∧
    (∀ m, message s = some m → ∀ (c t g q due : Nat) (h : Word) (v : VWord), m.issuer = .ctx c t g q → m.act = .meetr h →
      m.phase = .coming (.data v) due → due ≤ s.now → (∃ p n, m.home = .meeting p n) → (s.ctx c t).gen = g →
      ∀ w, findPend (s.ctx c t) q = some w → ∀ d : Fin 32, w.dst = .v (.v d) → w.kind = .query [] → w.got = [] →
      m.elem = 0 → (∀ o ∈ s.msgs, o.1 ≠ s.cur.id → o.2.issuer ≠ m.issuer) → w.due ≤ s.clk c → ∃ u : State,
        exec .meetrComplete s = .next u ∧ mget u.msgs s.cur.id = none ∧ (u.ctx c t).v = (s.ctx c t).v.set d v ∧
        findPend (u.ctx c t) q = none) ∧
    (∀ m, message s = some m → ∀ (i k c due : Nat), m.act = .reject i k → m.home = .core c → m.phase = .going due → due ≤ s.now →
      ∃ t : State, exec .meetRejectionArrive s = .next t ∧ mget t.msgs s.cur.id = none ∧
        (t.core c).rejects = ((s.core c).rejects ++ [(i, k)]).drop ((s.core c).rejects.length - 7))

/-- The command of eq2 that the step is for, at the engine of its core's plain. -/
def engineHas (i : Instr) (e : CmdEnt) (s : State) : Prop := collCmd s = some e ∧ decodeCmd 2 e.word = .ok i

/-- A command of eq2 is done: it has left its engine, and its record is on its way (R55). -/
def concludes (e : CmdEnt) (status value detail : Nat) (s t : State) : Prop :=
  (t.plain (coreDie e.core)).coll = (s.plain (coreDie e.core)).coll.filter (fun x => x.id != e.id) ∧
  ∃ r, (t.core e.core).recFly = (s.core e.core).recFly ++ [r] ∧ r.q = 2 ∧
    r.recd = record detail value (e.word.toNat / 2 ^ 32 % 2 ^ 16) status (e.word.toNat % 2 ^ 8)

/-- R366 to R368: MDEF of a definition in the scratchpad that can be read now (R144) and keeps R367 sets up a meeting of the job at a number that is
free at its home, and one in use gets 0x0D; a destroy takes the job's meeting away, and one that is not there gets 0x0D; either fails
with 0x02 where the definition breaks R367. -/
def Clause.MeetingDefinitions : Prop :=
  ∀ (h : CmdHdr) (deff meeting parent : Word) (e : CmdEnt) (p : Nat) (s : State),
    let n := mNumber meeting
    let d := memNat (s.core e.core).spad (ptrAddr deff) 32
    meetPlain s e.job meeting = p → p < 8 → quietAt s e.core = true → localPtr deff 32 32 = 0 →
    granted (s.core e.core) 1 [(ptrAddr deff, 32)] = true → wmBlocks (s.core e.core) none (ptrAddr deff) 32 = false → tagsAt s e.core (ptrAddr deff) 32 (ptrKey deff) = true →
      (defOk d = true →
        (engineHas (.mdefDefine h deff meeting parent) e s →
          (meetingAt s p n = none → ∃ t : State, exec (.mdefDefine h deff meeting parent) s = .next t ∧ concludes e 0 n 0 s t ∧
            meetingAt t p n = some { job := e.job, n := d % 2 ^ 7, k := d / 2 ^ 8 % 2 ^ 7, op := d / 2 ^ 16 % 16, lag := d / 2 ^ 20 % 16
                                     weight := d / 2 ^ 24 % 4, c := d / 2 ^ 32 % 2 ^ 16, deadline := d / 2 ^ 64 % 2 ^ 32
                                     parent := if parent.toNat % 2 = 1 then some parent else none }) ∧
          ((meetingAt s p n).isSome = true → ∃ t : State, exec (.mdefDefine h deff meeting parent) s = .next t ∧
            concludes e 0x0D n 0 s t ∧ meetingAt t p n = meetingAt s p n)) ∧
        (engineHas (.mdefDestroy h deff meeting parent) e s →
          (∀ x, meetingAt s p n = some x → x.job = e.job → x.waiting = [] → ∃ t : State,
            exec (.mdefDestroy h deff meeting parent) s = .next t ∧ concludes e 0 n 0 s t ∧ meetingAt t p n = none) ∧
          (meetingAt s p n = none → ∃ t : State, exec (.mdefDestroy h deff meeting parent) s = .next t ∧
            concludes e 0x0D n 0 s t))) ∧
      (defOk d = false → ∀ i ∈ [Instr.mdefDefine h deff meeting parent, .mdefDestroy h deff meeting parent], engineHas i e s →
        ∃ t : State, exec i s = .next t ∧ concludes e 2 n 0 s t ∧ meetingAt t p n = meetingAt s p n)

/-- R374, R375: an SROUTE load of an entry that keeps its rules and shares no link with another stream enters it with CUR 0, and one that
shares a link names the stream and set with status 0x0D; a step moves CUR on in the cycle of its sets; a clear takes the entry away. -/
def Clause.StreamRouters : Prop :=
  ∀ (h : CmdHdr) (w1 sets : Word) (e : CmdEnt) (s : State),
    let p := coreDie e.core
    let v := w1.toNat % 2 ^ 8
    let table := (s.plain p).streams
    (engineHas (.srouteLoad h w1 sets) e s →
      (∀ x, streamOf w1.toNat sets.toNat = some x →
        (streamClash table v x = none → ∃ t : State, exec (.srouteLoad h w1 sets) s = .next t ∧ concludes e 0 0 0 s t ∧
          mget (t.plain p).streams v = some x ∧ x.cur = 0 ∧ x.sets.length = w1.toNat / 2 ^ 13 % 4 + 1) ∧
        (∀ (u i : Nat), streamClash table v x = some (u, i) → ∃ t : State, exec (.srouteLoad h w1 sets) s = .next t ∧
          concludes e 0x0D (streamCur s p v) (u + 2 ^ 8 * i) s t ∧ (t.plain p).streams = table)) ∧
      (streamOf w1.toNat sets.toNat = none → ∃ t : State, exec (.srouteLoad h w1 sets) s = .next t ∧
        concludes e 2 (streamCur s p v) 0 s t ∧ (t.plain p).streams = table)) ∧
    (engineHas (.srouteStep h w1 sets) e s →
      (∀ x, mget table v = some x → x.sets ≠ [] → ∃ t : State, exec (.srouteStep h w1 sets) s = .next t ∧
        concludes e 0 ((x.cur + 1) % x.sets.length) 0 s t ∧
        mget (t.plain p).streams v = some { x with cur := (x.cur + 1) % x.sets.length }) ∧
      (mget table v = none → ∃ t : State, exec (.srouteStep h w1 sets) s = .next t ∧ concludes e 2 0 0 s t)) ∧
    (engineHas (.srouteClear h w1 sets) e s →
      (∀ x, mget table v = some x → ∃ t : State, exec (.srouteClear h w1 sets) s = .next t ∧ concludes e 0 0 0 s t ∧
        mget (t.plain p).streams v = none) ∧
      (mget table v = none → ∃ t : State, exec (.srouteClear h w1 sets) s = .next t ∧ concludes e 2 0 0 s t))

/-- R54, R56: a record that is due at its core joins its result queue and gives its reserved place back, or is dropped when its group has
ended; the word of a queue that is no command is recorded with its status. -/
def Clause.EngineRecords : Prop :=
  ∀ (s : State),
    (∀ f, s.myCore.recFly.find? (fun f => decide (f.due ≤ s.now)) = some f → s.cur.flag = false →
      (∀ g : Group, s.myCore.group = some g → g.id = f.group → ∃ t : State, exec .engineRecordArrive s = .next t ∧
        t.myCore.recFly = s.myCore.recFly.erase f ∧ (t.myCore.res f.q).reserved = (s.myCore.res f.q).reserved - 1 ∧
        (t.myCore.res f.q).halves = (s.myCore.res f.q).halves ++ [w64 f.recd, BitVec.ofNat 64 (f.recd.toNat / 2 ^ 64)]) ∧
      (s.myCore.group = none → ∃ t : State, exec .engineRecordArrive s = .next t ∧
        t.myCore.recFly = s.myCore.recFly.erase f ∧ t.myCore.resQ = s.myCore.resQ)) ∧
    (∀ (e : CmdEnt) (st : Nat), collCmd s = some e → decodeCmd 2 e.word = .error st → s.cur.flag = true → ∃ t : State,
      exec .engineRecordArrive s = .next t ∧ (t.plain (coreDie e.core)).coll = (s.plain (coreDie s.cur.core)).coll.filter (fun x => x.id != e.id) ∧
      ∃ r, (t.core e.core).recFly = (s.core e.core).recFly ++ [r] ∧ r.q = 2 ∧ r.recd.toNat / 2 ^ 8 % 2 ^ 8 = st % 2 ^ 8)

/-- Meetings: the instructions, and what their homes do. -/
def Obligations.Meetings : Prop := Clause.MeetingInstructions ∧ Clause.Contributions ∧ Clause.MeetingReads

/-- The commands of the collective engines, and the records of the engines. -/
def Obligations.CollectiveCommands : Prop := Clause.MeetingDefinitions ∧ Clause.StreamRouters ∧ Clause.EngineRecords

/-! Launches and groups (R264 to R278). -/

/-- R269: LAUNCH of a descriptor in device memory whose address is translated, with every earlier access of the context
performed, sends its request, to arrive at a time that the manual leaves open, and blocks; a misaligned address traps with
cause 0x04, an address outside device memory with cause 0x07; nothing of memory changes. -/
def Clause.LaunchIssues : Prop :=
  ∀ (d a : Fin 48) (s : State), issues (.launch (.x d) (.x a)) s = true →
    let i : Instr := .launch (.x d) (.x a)
    let n : Nat := (s.me.getX a).toNat % 2 ^ 52
    (n % 64 = 0 → regionCheck n (n + 63) = .ok → regionOf n = .device → (∃ pa, xlate s n .read = .ok pa) →
      released s s.cur.core s.cur.slot s.nextId = true → s.me.stepping = none →
      ∃ due : Nat, s.now < due ∧ exec i s = .next { blocks i 3 (wordOf n) [v128 (s.me.getX a)] s with
        free := s.free + 1, nextId := s.nextId + 1
        requests := s.requests ++ [{ id := s.nextId, kind := 0, core := s.cur.core, slot := s.cur.slot, gen := s.me.gen
                                     job := coreJob s s.cur.core, addr := n, due := due }] }) ∧
    (n % 64 ≠ 0 → trapsPlainly s = true → exec i s = .next (traps i 0x04 (wordOf n) s.me.pc 1 s)) ∧
    (n % 64 = 0 → regionCheck n (n + 63) = .ok → regionOf n ≠ .device → trapsPlainly s = true → ∃ t : State,
      exec i s = .next t ∧ t.me.tl = s.me.tl + 1 ∧ (t.me.bank t.me.tl).tcause = 0x07 ∧ (t.me.bank t.me.tl).tvalue = wordOf n ∧
      t.requests = s.requests ∧ t.hbm = s.hbm ∧ t.host = s.host ∧ t.myCore.spad = s.myCore.spad)

/-- R269: the dispatcher's answer, once it is due at a context that waits in LAUNCH, goes to its register and ends the LAUNCH. -/
def Clause.LaunchReplies : Prop :=
  ∀ (d : Fin 48) (a : SOp) (r : CtxReply) (b : Blk) (s : State), ctxReply s = some r → s.me.blk = some b →
    b.instr = .launch (.x d) a → b.stage = 3 → b.outs = [] →
      exec .launchReplyArrive s = .next (({ s with replies := s.replies.erase r } : State).updMe fun x =>
        { x.setX d r.value with blk := none })

/-- The instruction LAUNCH and its answer. -/
def Obligations.LaunchInstruction : Prop := Clause.LaunchIssues ∧ Clause.LaunchReplies

/-- A launch number that R268 may give: from 1 to 65535, and held by no live launch. -/
def givesNumber (s : State) (n : Nat) : Prop := 1 ≤ n ∧ n ≤ 65535 ∧ mget s.launches n = none

/-- R267, R268, R294: a LAUNCH request of one descriptor that passes every check enters the live launches under the number its answer
carries, with the fields of its descriptor, a frontier launch with its reservation at its home; the members of a gang enter together;
W7 of its descriptor is written with the number and STATE 1; one that fails a check is answered 0 and no launch enters, whether or not its members would find room. The request is gone. No
translation that the dispatcher makes has to wait (log entry 20). A request that HOLDDISP holds is accepted too, and its
launch is held back (R220). -/
def Clause.RequestsJudged : Prop :=
  ∀ (r : DispReq) (ms : List Member) (u s : State), findReq s s.cur.id = some r → r.kind = 0 → r.due ≤ s.now →
    s.upsets = [] → readMembers r.job (fun s i => (some (r.addr + 64 * i), s)) (2 ^ 46) 0 s = (ms, u) → ms ≠ [] →
    s.launches.length < 1024 → u.held = none → (judge u r.job r.held false ms).2.held = none →
      let answers (t : State) (n : Nat) : Prop := t.requests = s.requests.filter (fun q => q.id != r.id) ∧
        ∃ due : Nat, s.now < due ∧
          t.replies = s.replies ++ [{ core := r.core, slot := r.slot, gen := r.gen, value := wordOf n, due := due }]
      let enters (t : State) (m : Member) (w : List Word) (n : Nat) (l : Launch) : Prop := givesNumber s n ∧
        mget t.launches n = some l ∧ l.job = r.job ∧ l.addr = m.addr ∧ l.words = w ∧ l.kind = dKind w ∧ l.total = dGroups w ∧
        l.running = 0 ∧ l.next = 0 ∧ l.heldBack = r.held
      (∀ (m : Member) (w : List Word), ms = [m] → m.words = some w → rejectReason u r.job ms = none →
        (dKind w = 0 ∨ dKind w = 2 → ∃ t : State, exec .launchRequest s = .next t ∧ ∃ n l, answers t n ∧ enters t m w n l ∧
          ∀ pa : Nat, m.addr % 64 = 0 → northAt u r.job (m.addr + 56) pa → putsWord pa (n + 2 ^ 16) u t) ∧
        (dKind w = 1 → ∀ p, frontierHome u r.job = some p → worstCase (dDims w) (dExt w) ≤ storeRoom u p → ∃ t : State,
          exec .launchRequest s = .next t ∧ ∃ n l f, answers t n ∧ enters t m w n l ∧ l.frontier = some f ∧ f.home = some p ∧
            f.reserve = worstCase (dDims w) (dExt w) ∧ f.state = .firing ∧ f.stair = [] ∧
            storeRoom t p = storeRoom u p - worstCase (dDims w) (dExt w))) ∧
      (rejectReason u r.job ms = none → s.launches.length + ms.length ≤ 1024 → (∀ m ∈ ms, ∃ w, m.words = some w ∧ dKind w = 3) → ∃ t : State,
        exec .launchRequest s = .next t ∧ ∃ (ns : List Nat) (g : Nat), ns.length = ms.length ∧ answers t (ns.headD 0) ∧
          ∀ (i n : Nat) (m : Member) (w : List Word), ns[i]? = some n → ms[i]? = some m → m.words = some w →
            ∃ l, enters t m w n l ∧ l.gang = g ∧ l.member = i) ∧
      (∀ q, rejectReason u r.job ms = some q → ∃ t : State, exec .launchRequest s = .next t ∧ t.launches = s.launches ∧
        answers t 0)

/-- R350, R351: a notification is taken up at once where the dispatcher reads no entries of the job, and WRITE becomes its limit; a
malformed header gives no reading and sets LQERR; while it reads entries the notification waits. A number that is no job changes
nothing, nor does any notification after a failed boot. (A header whose translation has to wait is read later: log entry 20.) -/
def Clause.QueueNotices : Prop :=
  ∀ (s : State),
    let job := s.cur.word.toNat % 64
    (mget s.jobs job = none ∨ s.mgmt.error ≠ 0 → exec .launchQueueNotify s = .next s) ∧
    (∀ j, mget s.jobs job = some j → s.mgmt.error = 0 →
      let u : State := { s with jobs := mset s.jobs job { j with lqPending := true } }
      (j.lqLimit ≠ none → exec .launchQueueNotify s = .next u) ∧
      (∀ h v, j.lqLimit = none → s.upsets = [] → queueHeader u job { j with lqPending := true } = (h, v) → v.held = none → ∃ t : State,
        exec .launchQueueNotify s = .next t ∧
        (∀ wr rd lg : Nat, h = some (wr, rd, lg) →
          (mget t.jobs job).map (fun q => (q.lqPending, q.lqLimit)) = some (false, if rd < wr then some wr else none)) ∧
        (h = none → t.mgmt.lqerr = true ∧ (mget t.jobs job).map (fun q => (q.lqPending, q.lqLimit)) = some (false, none))))

/-- R268, R350: while entries are left, the dispatcher takes the next one, with those of its gang, and READ advances by as many; behind
the last it stops at its limit, and takes up a notification that is pending: WRITE becomes its limit. A rejected entry enters no
launch. A header that is malformed and an entry that cannot be read end the reading and set LQERR. A gang that finds too few places
among the 1,024 waits. (That an entry which cannot be read ends the reading is the model's choice: log entry 20.) -/
def Clause.QueueEntries : Prop :=
  ∀ (j : Job) (lim : Nat) (h : Option (Nat × Nat × Nat)) (u s : State), mget s.jobs s.cur.id = some j → j.lqLimit = some lim →
    queueHeader s s.cur.id j = (h, u) → s.upsets = [] → u.held = none →
      let me (t : State) : Option (Bool × Option Nat) := (mget t.jobs s.cur.id).map fun q => (q.lqPending, q.lqLimit)
      let ends (t : State) : Prop := exec .launchQueueEntry s = .next t ∧ t.launches = s.launches ∧ me t = some (false, none)
      (j.lqPending = false → h = none → ∃ t : State, ends t ∧ t.mgmt.lqerr = true) ∧
      (∀ wr rd lg : Nat, h = some (wr, rd, lg) →
        (j.lqPending = false → lim ≤ rd → ∃ t : State, ends t) ∧
        (rd < lim → roomLive u 1 = true → ∀ (ms : List Member) (x : State),
          readMembers s.cur.id (queueEntry s.cur.id j lg) (lim - rd) rd u = (ms, x) → x.held = none →
          (ms = [] → j.lqPending = false → ∃ t : State, ends t ∧ t.mgmt.lqerr = true) ∧
          (mayJudge x s.cur.id ms = false → ms ≠ [] → j.lqAt = none → ∃ t : State, exec .launchQueueEntry s = .next t ∧
            t.launches = s.launches ∧ me t = some (j.lqPending, some lim)) ∧
          (∀ y : State, ms ≠ [] → mayJudge x s.cur.id ms = true →
            northPut (judge (updJob x s.cur.id fun j => { j with lqAt := none }) s.cur.id false true ms).2 s.cur.id (j.launchq + 8) 8
              (rd + ms.length) = (true, y) → y.held = none →
            (rd + ms.length < lim → exec .launchQueueEntry s = .next y ∧ me y = some (j.lqPending, some lim)) ∧
            (lim ≤ rd + ms.length → j.lqPending = false → ∃ t : State, exec .launchQueueEntry s = .next t ∧ t.launches = y.launches ∧
              t.hbm = y.hbm ∧ me t = some (false, none)) ∧
            (lim ≤ rd + ms.length → j.lqPending = true → ∀ (wr' rd' lg' : Nat) (z : State),
              queueHeader (updJob y s.cur.id fun j => { j with lqLimit := none, lqAt := none }) s.cur.id j = (some (wr', rd', lg'), z) →
              z.held = none → ∃ t : State, exec .launchQueueEntry s = .next t ∧ t.launches = y.launches ∧
                me t = some (false, if rd' < wr' then some wr' else none)) ∧
            (∀ q, rejectReason x s.cur.id ms = some q → y.launches = s.launches))))

/-- The acceptance of launches: from LAUNCH instructions and from the launch queue of a job. -/
def Obligations.LaunchAcceptance : Prop := Clause.RequestsJudged ∧ Clause.QueueNotices ∧ Clause.QueueEntries

/-- R270, R271, R274, R295: a batch goes to the plain of the job with the most free cores, of those the one of the lowest virtual die, and
holds the next groups of the chosen launch in ascending linear index, those that were returned first, and of a
frontier launch the points that are offered and not yet dealt: at most 64, no more than are
undealt, no more than that plain has free cores. -/
def Clause.BatchDeals : Prop :=
  ∀ (j : Job) (n p : Nat) (l : Launch) (s : State), mget s.jobs s.cur.id = some j → j.stopped = false →
    dealChoice s s.cur.id = some (n, l) → bestPlain s s.cur.id = some p → freeCount s p ≠ 0 →
      let left := match l.frontier with
        | some f => f.offered.length
        | none => l.returned.length + (l.total - l.next)
      let k := min 64 (min left (freeCount s p))
      let deals (gs : List Nat) (t : State) : Prop := exec .batchDeal s = .next t ∧ t.cores = s.cores ∧
        (t.plain p).batches = (s.plain p).batches ++
          [{ prio := l.prio, seq := s.nextId, groups := gs.map fun g => { launch := n, lin := g } }] ∧
        (∀ q : Nat, q ≠ p → (t.plain q).batches = (s.plain q).batches)
      (∃ before after, (jobPlains s s.cur.id).filter (fun q => !leaving s s.cur.id q) = before ++ p :: after ∧
        (∀ q ∈ before, freeCount s q < freeCount s p) ∧ ∀ q ∈ after, freeCount s q ≤ freeCount s p) ∧
      (∀ f, l.frontier = some f → ∃ (t : State) (gs rest : List Nat), deals gs t ∧ gs.length = k ∧ (gs ++ rest).Perm f.offered ∧
        (gs ++ rest).Pairwise (· ≤ ·) ∧
        t.launch? n = some { l with frontier := some { f with offered := rest }, running := l.running + k }) ∧
      (l.frontier = none → l.returned = [] → ∃ t : State, deals ((List.range k).map (l.next + ·)) t ∧
        t.launch? n = some { l with next := l.next + k, running := l.running + k }) ∧
      (l.frontier = none → l.returned.Nodup → (∀ x ∈ l.returned, x < l.next) → ∃ (t : State) (gs : List Nat), deals gs t ∧ gs.length = k ∧
        gs.Pairwise (· < ·) ∧ (∀ x ∈ gs, x < l.next → x ∈ l.returned) ∧ (∀ x ∈ l.returned, x ∉ gs → ∀ y ∈ gs, y < x) ∧
        ∃ more, gs.filter (l.next ≤ ·) = (List.range more).map (l.next + ·) ∧ t.launch? n = some { l with
          returned := l.returned.filter (!gs.contains ·), next := l.next + more, running := l.running + k })

/-- R272: when every group of a gang has been placed and its partition runs, the starts of all its members are released. -/
def Clause.GangReleases : Prop :=
  ∀ (s : State), s.cur.id ≠ 0 → gangMembers s s.cur.id ≠ [] →
    (∀ p ∈ gangMembers s s.cur.id, undealt p.2 = 0 ∧ p.2.started = false ∧ jobHeld s p.2.job = false) →
      exec .gangStartRelease s = .next { s with launches := s.launches.map fun p =>
        if p.2.gang = s.cur.id then (p.1, { p.2 with started := true }) else p }

/-- R87, R146, R273 to R275, R286: the first group of a plain's head batch starts on a free core of the plain: the core is resident
for it, its control context stands at the entry point with the start registers of the table and every other register zero, its trap
vectors hold the bits of the job's that TVEC has, and the scratchpad is kept for the same job and zero for another (the fill takes
none of R146's clocks, log entry 8). A group of a gang starts so once the starts are released. A code image that is not the last the
core loaded for the job is copied to local offset 0, 64 bytes in each clock before the first instruction; a read of it that fails kills
the group. -/
def Clause.GroupStarts : Prop :=
  ∀ (b : Batch) (g : GroupReq) (rest : List GroupReq) (l : Launch) (j : Job) (c : Nat) (s : State), headBatch s s.cur.id = some b →
    b.groups = g :: rest → s.launch? g.launch = some l → mget s.jobs l.job = some j → j.stopped = false →
    (l.gang = 0 ∨ l.started = true) → chooseCore s s.cur.id g.launch = some c →
    (l.pipes = [] ∨ l.homed = true ∨ l.member ≠ 0 ∨ g.lin ≠ 0 ∨ l.gang = 0) →
    let image := (dImage l.words, dImageLen l.words)
    let kept := (s.core c).lastJob = l.job ∧ (s.core c).lastImage = some image
    (dImageLen l.words = 0 ∨ kept → ∃ t : State, exec .groupStart s = .next t ∧
      coreFree s c = true ∧ coreDie c = s.cur.id ∧
      (∃ q, (t.core c).group = some q ∧ q.launch = g.launch ∧ q.job = l.job ∧ q.lin = g.lin ∧ q.kind = l.kind) ∧
      (t.ctx c 0).status = .live ∧ (t.ctx c 0).pc = dEntry l.words ∧ (t.ctx c 0).mode = .job ∧ (t.ctx c 0).tl = 0 ∧
      (t.ctx c 0).t1.tvec = wordOf (j.vec1.toNat / 4 * 4 % 2 ^ 52) ∧ (t.ctx c 0).t2.tvec = wordOf (j.vec2.toNat / 4 * 4 % 2 ^ 52) ∧
      (l.kind ≠ 2 → (t.ctx c 0).getX 1 = wordOf ((coordOf l.ext g.lin).1 + 2 ^ 21 * (coordOf l.ext g.lin).2.1 +
        2 ^ 42 * (coordOf l.ext g.lin).2.2)) ∧
      (l.kind = 2 → (t.ctx c 0).getX 1 = wordOf g.lin) ∧ (t.ctx c 0).getX 2 = wordOf (dArgs l.words) ∧
      (t.ctx c 0).getX 3 = wordOf (g.launch % 2 ^ 16 + 2 ^ 16 * l.kind + 2 ^ 18 * l.member) ∧ (t.ctx c 0).getX 4 = wordOf g.lin ∧
      (∀ r : Fin 48, r.val = 0 ∨ 4 < r.val → (t.ctx c 0).getX r = 0) ∧ (t.ctx c 0).step = (s.ctx c 0).step ∧
      (t.core c).spad = (if (s.core c).lastJob = l.job then (s.core c).spad else []) ∧
      (∀ k : Nat, k ≠ c → t.core k = s.core k) ∧ t.hbm = s.hbm) ∧
    (dImageLen l.words ≠ 0 → dImageLen l.words ≤ 8192 → ¬ kept → s.upsets = [] →
      let at_ (i : Nat) : Nat := image.1 + 64 * i
      let read (i : Nat) : Option (Except (Nat × Nat) Nat) :=
        (tlbFind (unitPlain s s.cur.id).tlb l.job (at_ i)).map fun e => leafCheck s e (at_ i) .read
      (∀ pa : Nat → Nat, (∀ i : Nat, i < image.2 → read i = some (.ok (pa i))) → ∃ t : State, exec .groupStart s = .next t ∧
        (t.core c).group.isSome = true ∧ (t.ctx c 0).status = .live ∧ (t.ctx c 0).pc = dEntry l.words ∧
        s.clk c + image.2 < (t.ctx c 0).notBefore ∧ (t.core c).lastImage = some image ∧
        (∀ i k : Nat, i < image.2 → k < 64 → memNat (t.core c).spad (64 * i + k) 1 = memNat s.hbm (pa i + k) 1)) ∧
      (∀ f, read 0 = some (.error f) → ∃ t : State, exec .groupStart s = .next t ∧ (t.ctx c 0).status = .killed ∧ (t.core c).group = none))

/-- R271: a core whose group has ended becomes free when its engines are idle (log entry 8). -/
def Clause.CoreFrees : Prop :=
  ∀ (s : State), s.myCore.group = none → s.myCore.ready = false → coreIdle s.myCore = true →
    exec .coreFree s = .next (s.updMyCore fun k => { k with ready := true })

/-- R278: every 2,048 counts a sweep begins, about the launches of jobs that run; it reads each die once, within that time, whether
what the die holds of a launch is idle and how many messages it counts. A sweep that has read all dies closes: it keeps SENT of a
launch found idle with SENT = RECEIVED, ends one that the sweep before found so with the same SENT, writing W7 of its descriptor with STATE 2, and forgets what it knew of
another. -/
def Clause.SweepEnds : Prop :=
  ∀ (s : State),
    (s.sweep = none → s.sweepAt < s.ptime / 2048 → ∃ t w, exec .sweep s = .next t ∧ t.sweep = some w ∧
      t.sweepAt = s.ptime / 2048 ∧ t.launches = s.launches ∧ t.cores = s.cores ∧
      (∀ d : Nat, d < 12 → ∃ due, mget w.due d = some due ∧ s.now ≤ due ∧ due < s.now + 2048 * Config.grainsPerCount) ∧
      w.found = (s.launches.filter fun p => !launchStopped s p.2).map fun p => (p.1, (true, 0, 0))) ∧
    (∀ (w : Sweep) (d due : Nat) (rest : Map Nat), s.sweep = some w → w.due = (d, due) :: rest → due ≤ s.now → ∃ v : Sweep,
      exec .sweep s = .next { s with sweep := some v } ∧ v.due = mdel w.due d ∧ v.found.map Prod.fst = w.found.map Prod.fst ∧
      ∀ (n a b : Nat) (i : Bool) (l : Launch), (n, (i, a, b)) ∈ w.found → s.launch? n = some l →
        (n, (i && idleAt s d n l, a + mgetD l.sent d 0, b + mgetD l.recv d 0)) ∈ v.found) ∧
    (∀ (w : Sweep) (n a b : Nat) (i : Bool) (l : Launch), s.sweep = some w → w.due = [] → w.found = [(n, (i, a, b))] →
      s.launches = [(n, l)] → s.upsets = [] → ∃ t : State, exec .sweep s = .next t ∧ t.sweep = none ∧ sameSpads s t ∧
        (i = true → a = b → (l.sweepSent = some a → ∀ pa : Nat, l.addr % 64 = 0 → northAt s l.job (l.addr + 56) pa → n < 2 ^ 16 →
            t.launches = [] ∧ putsWord pa (n + 2 * 2 ^ 16 + l.killed % 2 ^ 16 * 2 ^ 32) s t) ∧
          (l.sweepSent ≠ some a → t.launches = [(n, { l with sweepSent := some a })])) ∧
        (i = false ∨ a ≠ b → t.launches = [(n, { l with sweepSent := none })]))

/-- Dealing, the start of groups, and the end of launches. -/
def Obligations.DealingAndStart : Prop := Clause.BatchDeals ∧ Clause.GangReleases ∧ Clause.GroupStarts ∧ Clause.CoreFrees ∧
  Clause.SweepEnds

/-! The gang switch and job shrinking (R323 to R328, R335, R336). -/

/-- The writes of GSCTL with GO for OP 0, 1 and 2 (R324). -/
def gangRows : List (Instr × Nat) := [(.gangStopSave, 0), (.gangStopSaveRestore, 1), (.gangRestore, 2)]

/-- A write of GSCTL with GO and an OP to a partition block, once the features are fixed (R324), on a device whose boot has not failed (R351). -/
def arms (s : State) (op : Nat) : Bool :=
  s.cur.core < 8 && s.mgmt.featDone && s.mgmt.error == 0 && 2 ^ 63 ≤ s.cur.word.toNat && s.cur.word.toNat / 2 ^ 16 % 4 == op

/-- R324: a GO that fails a check sets REFUSED and its REASON and changes nothing else of the machine but the interrupt. -/
def Clause.GangRefused : Prop :=
  ∀ row ∈ gangRows, ∀ (r : Nat) (s : State), arms s row.2 = true →
    goReason s s.cur.core row.2 (s.cur.word.toNat % 256) = some r → ∃ t : State, exec row.1 s = .next t ∧
      t.gang s.cur.core = { s.gang s.cur.core with refused := true, reason := r } ∧
      (∀ p : Nat, p ≠ s.cur.core → t.gang p = s.gang p) ∧ t.jobs = s.jobs ∧ t.cores = s.cores ∧ t.hbm = s.hbm ∧
      t.mgmt.intstat.getLsbD 5 = true

/-- R324, R328: a GO with OP 0 or 1 that passes every check arms the stop of the job whose partition PLAINS is, at TIME or at
the end of an earlier slice of the partition, whichever comes later; a GO with OP 2 begins the restore, or is refused with
reason 4 where no image can be restored. -/
def Clause.GangArms : Prop :=
  ∀ (s : State),
    let p := s.cur.core
    let plains := s.cur.word.toNat % 256
    (∀ row ∈ [(Instr.gangStopSave, 0), (Instr.gangStopSaveRestore, 1)], arms s row.2 = true → goReason s p row.2 plains = none →
      ∃ t : State, exec row.1 s = .next t ∧ (t.gang p).state = 1 ∧ (t.gang p).runOp = row.2 ∧ (t.gang p).runPlains = plains ∧
        (t.gang p).runSave = (s.gang p).save ∧ (t.gang p).runRest = (s.gang p).rest ∧ (∀ j, mget s.jobs (t.gang p).job = some j → (t.gang p).stopTime = max (s.gang p).time j.sliceEnd) ∧
        some (t.gang p).job = runningJob s plains ∧ (t.gang p).stopped = [] ∧ t.cores = s.cores ∧ t.jobs = s.jobs) ∧
    (arms s 2 = true → goReason s p 2 plains = none → ∃ t : State, exec .gangRestore s = .next t ∧ t.cores = s.cores ∧
      (∀ i, i ∈ s.images → s.images = [i] → i.addr = (s.gang p).rest → i.plains = plains → i.retired = false →
        (mget s.jobs i.job).isSome = true → memNat s.hbm i.addr 32 = imageHeader i →
          (t.gang p).state = 4 ∧ s.now < (t.gang p).due ∧ (t.gang p).job = i.job) ∧
      (s.images = [] → (t.gang p).state = 0 ∧ (t.gang p).refused = true ∧ (t.gang p).reason = 4))

/-- R278, R325: when package time, as a plain of an armed block reads it, comes to the stop time, the cores of that plain stop, and no other core changes; its job is stopped, the
sweep in progress forgets the job's launches, and the block goes on to the save when the last of its plains has stopped. -/
def Clause.GangStops : Prop :=
  ∀ (j : Job) (s : State),
    let p := s.cur.core
    let d := s.cur.slot
    let g := s.gang p
    g.state = 1 ∨ g.state = 2 → (maskPlains g.runPlains).contains d = true → g.stopped.contains d = false → g.stopTime ≤ plainTime s d →
    relocking s d = false → mget s.jobs g.job = some j → (g.state = 1 → j.stopped = false) → ∃ t : State,
      exec .gangStop s = .next t ∧ (t.gang p).stopped = g.stopped ++ [d] ∧
      (t.gang p).state = (if (maskPlains g.runPlains).all (g.stopped ++ [d]).contains then 3 else 2) ∧
      (mget t.jobs g.job).map (·.stopped) = some true ∧
      (∀ c : Nat, coreDie c = d → (mget s.cores c).isSome = true → t.core c = { s.core c with stopped := true }) ∧
      (∀ c : Nat, coreDie c ≠ d → t.core c = s.core c) ∧ t.hbm = s.hbm ∧ t.sweep.isSome = s.sweep.isSome ∧
      (∀ v, t.sweep = some v → ∀ x ∈ v.found, ∃ l, s.launch? x.1 = some l ∧ l.job ≠ g.job)

/-- R302, R315, R325 to R327: when everything on the plains has come to rest, the save takes the job's cores, squares, messages and the
frontiers whose home is there into an image, whose header stands in device memory (its other bytes are the model's structure, log entry
21); the job leaves the plains, whose cores are as after reset but for their translations. A core is saved as it stands; a channel whose
command a near-memory unit served keeps how far it was served. With OP 0 the block is idle; with OP 1 the restore begins of the image
that stands at the restore address, and where none stands there the save holds and the block refuses with reason 4. -/
def Clause.GangSaves : Prop :=
  ∀ (s : State),
    let p := s.cur.core
    let g := s.gang p
    let plains := maskPlains g.runPlains
    g.state = 3 → g.due ≤ s.now → gangQuiet s plains = true → (mget s.jobs g.job).isSome = true → g.runPlains < 256 → s.retireDue = [] →
      ∃ t : State, exec .gangSaveEnd s = .next t ∧ (g.runOp ≠ 1 → (t.gang p).state = 0) ∧
        (∃ i ∈ t.images, i.addr = g.runSave ∧ i.job = g.job ∧ i.plains = g.runPlains ∧ i.time = g.stopTime ∧
          (∀ c k, (c, k) ∈ s.cores → plains.contains (coreDie c) = true → (∀ n ∈ s.near, ∀ q ∈ n.2, q.core ≠ c) →
            (c, { k with stopped := false }) ∈ i.cores) ∧
          (∀ n q r, s.near = [(n, [q])] → plains.contains (coreDie q.core) = true → chanRun s q.core q.ch = some r →
            ∃ k, (q.core, k) ∈ i.cores ∧ (mgetD k.chans q.ch {}).run = some { r with asked := false, served := q.row }) ∧
          (∀ q k, (q, k) ∈ s.squares → plains.contains (q / 256) = true → (q, k) ∈ i.squares) ∧
          (∀ d k, (d, k) ∈ s.plains → plains.contains d = true → (d, k) ∈ i.plainSt) ∧
          (∀ n l f, (n, l) ∈ s.launches → l.job = g.job → l.frontier = some f → f.home.any plains.contains = true →
            (n, f) ∈ i.frontiers) ∧
          ∀ m ∈ s.msgs, spills g.job m.2 = true → m ∈ i.msgs) ∧
        memNat t.hbm g.runSave 8 = 1 ∧ (g.job < 64 → memNat t.hbm (g.runSave + 8) 8 = g.job * 2 ^ 8 + g.runPlains ∧
          memNat t.hbm (g.runSave + 16) 8 = g.stopTime % 2 ^ 64) ∧
        (g.runOp ≠ 1 → ∀ j, mget s.jobs g.job = some j → ∃ k, mget t.jobs g.job = some k ∧ ∀ d : Nat, d < 8 →
          k.partition.getLsbD d = (j.partition.getLsbD d && !plains.contains d)) ∧
        (∀ q ∈ t.squares, plains.contains (q.1 / 256) = false) ∧
        (∀ x ∈ t.cores, plains.contains (coreDie x.1) = true → ∃ k, (x.1, k) ∈ s.cores ∧ x.2 = { tlb := k.tlb }) ∧
        (∀ d ∈ plains, (t.plain d).tlb = (s.plain d).tlb ∧ (t.plain d).batches = [] ∧ (t.plain d).queues = []) ∧
        (∀ m ∈ t.msgs, spills g.job m.2 = false) ∧
        (∀ c : Nat, plains.contains (coreDie c) = false → t.core c = s.core c) ∧
        (∀ n ∈ t.near, ∀ q ∈ n.2, plains.contains (coreDie q.core) = false) ∧
        (g.runOp = 1 → ∀ i, s.images = [i] → i.addr = g.runRest → i.plains = g.runPlains → i.retired = false →
          i.addr + saveBytes plains.length ≤ g.runSave ∨ g.runSave + saveBytes plains.length ≤ i.addr →
          memNat s.hbm i.addr 32 = imageHeader i → ∀ j, mget s.jobs i.job = some j → (t.gang p).state = 4 ∧ s.now < (t.gang p).due ∧
            (t.gang p).job = i.job ∧ (t.gang p).stopTime = g.stopTime ∧
            (mget t.jobs i.job).map (fun k => (k.partition, k.stopped)) = some (BitVec.ofNat 8 g.runPlains, true)) ∧
        (g.runOp = 1 → s.images = [] → g.runRest ≠ g.runSave → (t.gang p).state = 0 ∧ (t.gang p).refused = true ∧ (t.gang p).reason = 4)

/-- R309, R327, R337: a unit of the plains that has failed for good is retired between the save and the restore: its square and its cores
are gone and wait for nothing more, and no image of those plains can be restored any more. -/
def Clause.SwitchRetires : Prop :=
  ∀ (u : Upset) (s : State),
    let g := s.gang s.cur.core
    let plains := maskPlains g.runPlains
    g.state = 3 → g.due ≤ s.now → gangQuiet s plains = true → (mget s.jobs g.job).isSome = true → g.runPlains < 256 →
      s.retireDue = [u] → u.kind = 1 ∨ u.kind = 4 ∨ u.kind = 5 ∨ u.kind = 8 → u.unit < 16384 → plains.contains (coreDie u.unit) = true →
      ∃ t : State, exec .gangSaveEnd s = .next t ∧ t.retireDue = [] ∧ coreSquare u.unit ∈ t.retiredSquares ∧
        (∀ q ∈ s.retiredSquares, q ∈ t.retiredSquares) ∧ (∀ c ∈ t.cores, coreSquare c.1 ≠ coreSquare u.unit) ∧
        (∀ i ∈ t.images, i.plains = g.runPlains → i.retired = true) ∧ (t.gang s.cur.core).state = 0 ∧
        (g.runOp = 1 → (t.gang s.cur.core).refused = true ∧ (t.gang s.cur.core).reason = 4) ∧
        (∀ c : Nat, plains.contains (coreDie c) = false → t.core c = s.core c)

/-- R302, R315, R327, R328: at the end of a restore the cores hold what the image holds of them, with EVT set in every live context and the
translations they now have, the frontiers of the image are back, each message that had left the mesh is on its way again, the job runs on, for a whole slice at least, and the block tells so with STATE 5. Where
no image can be restored any more the block is idle and refuses with reason 4. -/
def Clause.GangRestores : Prop :=
  ∀ (s : State), (s.gang s.cur.core).state = 4 → (s.gang s.cur.core).due ≤ s.now →
    (∀ i, imageToRestore s s.cur.core = some i → (i.cores.map Prod.fst).Nodup → ∃ t : State, exec .gangRestoreEnd s = .next t ∧
      (t.gang s.cur.core).state = 5 ∧ (mget t.jobs i.job).map (fun j => (j.stopped, j.sliceEnd)) =
        some (false, s.ptime + 1024 * (s.gang s.cur.core).slice) ∧
      (∀ c k, (c, k) ∈ i.cores → (t.core c).spad = k.spad ∧ (t.core c).group = k.group ∧ (t.core c).flags = k.flags ∧
        (t.core c).tlb = (s.core c).tlb ∧ ∀ n x, (n, x) ∈ (t.core c).ctxs → x.status = .live → x.evt = true) ∧
      (∀ c : Nat, c ∉ i.cores.map Prod.fst → t.core c = s.core c) ∧ t.hbm = s.hbm ∧
      ((i.frontiers.map Prod.fst).Nodup → ∀ n f l, (n, f) ∈ i.frontiers → s.launch? n = some l →
        t.launch? n = some { l with frontier := some f }) ∧
      ((∀ m ∈ s.msgs, m.2.job ≠ i.job) → (i.msgs.map Prod.fst).Nodup → ∀ n m, (n, m) ∈ i.msgs → ∃ due : Nat, s.now < due ∧
        (∀ at_, m.phase = .going at_ → mget t.msgs n = some { m with phase := .going due }) ∧
        (∀ r at_, m.phase = .coming r at_ → mget t.msgs n = some { m with phase := .coming r due }))) ∧
    (imageToRestore s s.cur.core = none → ∃ t : State, exec .gangRestoreEnd s = .next t ∧ (t.gang s.cur.core).state = 0 ∧
      (t.gang s.cur.core).refused = true ∧ (t.gang s.cur.core).reason = 4 ∧ t.cores = s.cores)

/-- R335, R336: a GO that fails a check gets STATE 4 and its REASON. -/
def Clause.ShrinkRefused : Prop :=
  ∀ (s : State) (r : Nat),
    let w := s.cur.word.toNat
    2 ^ 63 ≤ w → featureOn s 8 = true → shrinkReason s (w / 2 ^ 8 % 64) (w % 256) = some r →
      ∃ t : State, exec .shrinkGo s = .next t ∧ t.shrink.state = 4 ∧ t.shrink.reason = r ∧
        t.shrink.phase = s.shrink.phase ∧ t.plains = s.plains ∧ t.jobs = s.jobs ∧ t.launches = s.launches

/-- R273, R336: a GO that passes the checks starts draining, and the groups that the removed plains have not started return to their
launches: their linear indices are among those returned or offered again, and they run no more. -/
def Clause.ShrinkStarts : Prop :=
  ∀ (s : State),
    let w := s.cur.word.toNat
    let job := w / 2 ^ 8 % 64
    let remove := w % 256
    let back := (maskPlains remove).flatMap fun p => (s.plain p).batches.flatMap fun b => b.groups
    let mine (n : Nat) : List Nat := (back.filter fun g => g.launch == n).map fun g => g.lin
    2 ^ 63 ≤ w → featureOn s 8 = true → shrinkReason s job remove = none → ∃ t : State, exec .shrinkGo s = .next t ∧
      t.shrink.state = 1 ∧ t.shrink.phase = 1 ∧ t.shrink.runJob = job ∧ t.shrink.runRemove = remove ∧ t.jobs = s.jobs ∧
      (∀ d ∈ maskPlains remove, (t.plain d).batches = []) ∧
      ∀ (n : Nat) (l : Launch), s.launch? n = some l → ∃ l' : Launch, t.launch? n = some l' ∧
        l'.running = l.running - (mine n).length ∧
        (l.frontier = none → l'.frontier = none ∧ l'.returned = l.returned ++ mine n) ∧
        ∀ f : Frontier, l.frontier = some f → l'.frontier = some { f with offered := f.offered ++ mine n }

/-- R336: once no removed plain holds work of the job the sequence waits for the frontier launches homed there. -/
def Clause.ShrinkDrains : Prop :=
  ∀ (s : State), s.shrink.phase = 1 → jobStopped s s.shrink.runJob = false →
    (∀ d ∈ maskPlains s.shrink.runRemove, plainWorks s s.shrink.runJob d = false) → ∃ t : State,
      exec .shrinkDrained s = .next t ∧ t.shrink.state = 2 ∧ t.shrink.phase = 2 ∧ t.jobs = s.jobs ∧ t.cores = s.cores

/-- R336: when those are parked or ended the plains leave the job's partition and its virtual die table, whose entries that name them
lose PRESENT alone; the job's translations there are gone, their cores are as after reset but for other jobs' translations, and STATE
is 3. The other jobs stay as they are. -/
def Clause.ShrinkCompletes : Prop :=
  ∀ (s : State),
    let x := s.shrink
    let plains := maskPlains x.runRemove
    x.phase = 2 → x.runRemove < 256 → jobStopped s x.runJob = false → s.retireDue = [] → keepsHome s x.runJob plains = false →
      ∃ t : State, exec .shrinkComplete s = .next t ∧ t.shrink.state = 3 ∧ t.shrink.phase = 0 ∧
        (∀ j, mget s.jobs x.runJob = some j → ∃ k, mget t.jobs x.runJob = some k ∧
          (∀ d : Nat, d < 8 → k.partition.getLsbD d = (j.partition.getLsbD d && !x.runRemove.testBit d)) ∧
          k.root = j.root ∧ k.vec1 = j.vec1 ∧ k.vec2 = j.vec2 ∧
          ∀ i : Nat, i % 8 ≠ 7 → k.vdtlo.getLsbD i = j.vdtlo.getLsbD i ∧ k.vdthi.getLsbD i = j.vdthi.getLsbD i) ∧
        (∀ v : Nat, vdtEntry t x.runJob v = (vdtEntry s x.runJob v).filter fun p => !plains.contains p) ∧
        (∀ n : Nat, n ≠ x.runJob → mget t.jobs n = mget s.jobs n) ∧
        (∀ d ∈ plains, ∀ e ∈ (t.plain d).tlb, e.within x.runJob 0 0 = false) ∧
        ∀ c ∈ t.cores, coreDie c.1 ∈ plains → c.2 = { tlb := c.2.tlb } ∧ ∀ e ∈ c.2.tlb, e.within x.runJob 0 0 = false

/-- R332, R336: with GATE the removed plains are gated then, each one that a write of GATE could gate; without it no die is. -/
def Clause.ShrinkGates : Prop :=
  ∀ (s t : State),
    let x := s.shrink
    let plains := maskPlains x.runRemove
    x.phase = 2 → x.runRemove < 256 → jobStopped s x.runJob = false → s.retireDue = [] → keepsHome s x.runJob plains = false →
      exec .shrinkComplete s = .next t →
        (x.runGate = false → t.dies = s.dies) ∧
        (x.runGate = true → featureOn s 9 = true → ∀ d ∈ plains, (s.die d).gated = false → homeOfAny s d = false →
          (∀ j ∈ s.jobs, j.1 ≠ x.runJob → j.2.partition.getLsbD d = false) → (t.die d).gated = true ∧ (t.plain d).tlb = [])

/-- The gang switch, and job shrinking: its refusals, its start, its drain and its end (R324 to R328, R335, R336). -/
def Obligations.GangSwitch : Prop :=
  Clause.GangRefused ∧ Clause.GangArms ∧ Clause.GangStops ∧ Clause.GangSaves ∧ Clause.SwitchRetires ∧ Clause.GangRestores ∧ Clause.ShrinkRefused ∧
  Clause.ShrinkStarts ∧ Clause.ShrinkDrains ∧ Clause.ShrinkCompletes ∧ Clause.ShrinkGates

/-! Power states (R330 to R332, R355). -/

/-- A write of DPCTL to the die the step is for, once the features are fixed. -/
def writesPower (s : State) : Bool := s.cur.core < 12 && s.mgmt.featDone && s.mgmt.error == 0

/-- No change, no throttling: the die runs at its TARGET. -/
def steady (x : Die) : Bool := x.change == none && !x.throttling && !x.gated && x.target == x.current

/-- R331: on a steady die a TARGET of a faster state first ramps the supply, at 5 mV in a microsecond, and one of a slower state
first relocks for 4 microseconds; the die runs on at its old clock meanwhile. During a change only TARGET is written. -/
def Clause.TargetChanges : Prop :=
  ∀ (s : State), writesPower s = true → asksWidth s s.cur.core s.cur.word = false → dpGate s.cur.word = false →
    dpUngate s.cur.word = false →
      let x := s.die s.cur.core
      let n := s.cur.word.toNat % 8
      n ≠ x.target → ∃ t : State, exec .performanceStateRequest s = .next t ∧ (∀ e : Nat, e ≠ s.cur.core → t.die e = s.die e) ∧
        t.cores = s.cores ∧ t.hbm = s.hbm ∧
        (steady x = true → n < x.current → t.die s.cur.core = { x with
          target := n, change := some (.ramp (s.now + (max x.milliv (Config.supplyMillivolts n) -
            min x.milliv (Config.supplyMillivolts n)) * Config.microsecond / 5) n) }) ∧
        (steady x = true → x.current < n → t.die s.cur.core = { x with
          target := n, change := some (.relock (s.now + 4 * Config.microsecond) n true) }) ∧
        (x.change ≠ none → t.die s.cur.core = { x with target := n })

/-- R331: a LINKW on a die whose clock is the one it is to run at takes effect a microsecond later at the earliest, in the ramp that
follows a relock too; where the clock is still to change, the width waits for it. -/
def Clause.WidthRequests : Prop :=
  ∀ (s : State), writesPower s = true → asksWidth s s.cur.core s.cur.word = true → dpGate s.cur.word = false →
    dpUngate s.cur.word = false →
      let x := s.die s.cur.core
      s.cur.word.toNat % 8 = x.target → ∃ t : State, exec .linkWidthRequest s = .next t ∧
        (steady x = true ∨ (x.throttling = false ∧ x.target = x.current ∧ ∃ till, x.change = some (.ramp till x.current)) →
          ∃ till : Nat, s.now + Config.microsecond ≤ till ∧ t.die s.cur.core =
            { x with
              linkw := s.cur.word.toNat / 16 % 4, wnext := s.cur.word.toNat / 16 % 4, wchange := some till, wantWidth := false }) ∧
        ((∃ till n r, x.change = some (.relock till n r)) ∨ (∃ till n, x.change = some (.ramp till n) ∧ n ≠ x.current) →
          t.die s.cur.core = { x with linkw := s.cur.word.toNat / 16 % 4, wantWidth := true })

/-- R331: a ramp that ends has the supply at its new voltage; one to a faster state goes on to the relock, one that follows a relock
ends the change, and a width that still waits goes on its way. A relock that ends has the die at its new clock, and where the clock was lowered the supply ramps down;
a width that waits begins once the clock that the last TARGET asks for is locked, and waits on before. A width on its way takes effect. -/
def Clause.ChangesEnd : Prop :=
  ∀ (s : State) (till target : Nat),
    let x := s.die s.cur.core
    (x.change = some (.ramp till target) → till ≤ s.now → ∃ t : State, exec .supplyRampEnd s = .next t ∧
      (x.current ≠ target → t.die s.cur.core = { x with
        milliv := Config.supplyMillivolts target, change := some (.relock (s.now + 4 * Config.microsecond) target false) }) ∧
      (x.current = target → x.target = target → x.throttling = false → x.wantWidth = false → t.die s.cur.core = { x with
        milliv := Config.supplyMillivolts target, change := none }) ∧
      (x.current = target → x.target = target → x.throttling = false → x.wantWidth = true →
        (t.die s.cur.core).change = none ∧ ∃ due, (t.die s.cur.core).wchange = some due ∧ s.now + Config.microsecond ≤ due)) ∧
    (∀ ramps : Bool, x.change = some (.relock till target ramps) → till ≤ s.now → ∃ t : State,
      exec .relockEnd s = .next t ∧ (t.die s.cur.core).current = target ∧
      (t.die s.cur.core).edge = s.now + Config.clockGrains target ∧
      (ramps = true → (t.die s.cur.core).change = some (.ramp (s.now + (max x.milliv (Config.supplyMillivolts target) -
        min x.milliv (Config.supplyMillivolts target)) * Config.microsecond / 5) target)) ∧
      (ramps = false → x.target = target → x.throttling = false → (t.die s.cur.core).change = none) ∧
      (x.wantWidth = true → x.target = target → x.throttling = false → ∃ due, (t.die s.cur.core).wchange = some due ∧
        s.now + Config.microsecond ≤ due ∧ (t.die s.cur.core).wnext = x.linkw ∧ (t.die s.cur.core).wantWidth = false) ∧
      (x.wantWidth = true → x.target ≠ target → x.throttling = false → x.gated = false →
        (t.die s.cur.core).wchange = x.wchange ∧ (t.die s.cur.core).wantWidth = true)) ∧
    (x.wchange = some till → till ≤ s.now → ∃ t : State, exec .linkWidthChange s = .next t ∧
      t.die s.cur.core = { x with width := min x.wnext 2, wchange := none })

/-- R332: GATE of a plain of no partition that is idle, of a valley die or of the south pass die takes its power, and a plain's
cores are as after reset and its translations are gone; a GATE that is not accepted does nothing. UNGATE brings a gated die back within 2 ms, at P7 with links
of full width. -/
def Clause.Gating : Prop :=
  ∀ (s : State), writesPower s = true → s.cur.word.toNat % 8 = (s.die s.cur.core).target →
    asksWidth s s.cur.core s.cur.word = false →
      let d := s.cur.core
      let x := s.die d
      (dpGate s.cur.word = true → dpUngate s.cur.word = false → steady x = true → s.retireDue = [] → ∃ t : State,
        exec .dieGate s = .next t ∧
        (gateOk s d = true → (t.die d).gated = true ∧ (d < 8 → (t.plain d).tlb = [] ∧ ∀ c ∈ t.cores, coreDie c.1 = d → c.2 = { tlb := c.2.tlb }) ∧
          ∀ c : Nat, coreDie c ≠ d → t.core c = s.core c) ∧
        (gateOk s d = false → t.die d = x ∧ t.cores = s.cores ∧ t.squares = s.squares)) ∧
      (dpGate s.cur.word = false → dpUngate s.cur.word = true → featureOn s 9 = true → x.gated = true → x.ungate = none →
        ∃ t till, exec .dieUngate s = .next t ∧ (t.die d).ungate = some till ∧ s.now < till ∧
          till ≤ s.now + 2000 * Config.microsecond ∧ (t.die d).gated = true)

/-- R332: when the power is back the die runs at P7 with links of full width. -/
def Clause.PowerReturns : Prop :=
  ∀ (s : State) (till : Nat), (s.die s.cur.core).ungate = some till → till ≤ s.now → (s.die s.cur.core).gated = true →
    ∃ t : State, exec .dieUngateComplete s = .next t ∧ (t.die s.cur.core).gated = false ∧ (t.die s.cur.core).current = 7 ∧
      (t.die s.cur.core).width = 0 ∧ (t.die s.cur.core).milliv = 420 ∧ t.cores = s.cores

/-- R355: a reading above LIMIT starts throttling, whose first step is a millisecond away, one at CRIT stops every clock and sets
THERMAL, and one below LIMIT less 5 ends the throttling; a throttled die is lowered by a state each millisecond until then. -/
def Clause.Throttling : Prop :=
  ∀ (s : State), s.cur.core < 12 →
    let x := s.die s.cur.core
    let r := s.cur.word.toNat % 2 ^ 12
    (∃ t : State, exec .tempSensorReading s = .next t ∧ (t.die s.cur.core).temp = r ∧
      (8 * s.mgmt.limit < r → (t.die s.cur.core).throttling = true) ∧
      (8 * s.mgmt.limit < r → x.throttling = false → (t.die s.cur.core).throttleAt = s.now + 1000 * Config.microsecond) ∧
      (r < 8 * (s.mgmt.limit - 5) → (t.die s.cur.core).throttling = false) ∧
      (8 * (s.mgmt.limit - 5) ≤ r → r ≤ 8 * s.mgmt.limit → (t.die s.cur.core).throttling = x.throttling) ∧
      (8 * s.mgmt.crit ≤ r → t.halt = true ∧ t.mgmt.thermal = true) ∧
      (r < 8 * s.mgmt.crit → t.halt = s.halt ∧ t.mgmt.thermal = s.mgmt.thermal) ∧
      (∀ e : Nat, e ≠ s.cur.core → t.die e = s.die e) ∧ t.cores = s.cores) ∧
    (x.throttling = true → x.throttleAt ≤ s.now → ∃ t : State, exec .thermalThrottleStep s = .next t ∧ t.cores = s.cores ∧
      (x.temp < 8 * (s.mgmt.limit - 5) → (t.die s.cur.core).throttling = false) ∧
      (8 * (s.mgmt.limit - 5) ≤ x.temp → (t.die s.cur.core).throttling = true ∧
        (t.die s.cur.core).throttleTo = min 7 (max x.current x.target + 1)))

/-- Performance states, widths, gating and temperature. -/
def Obligations.PowerStates : Prop :=
  Clause.TargetChanges ∧ Clause.WidthRequests ∧ Clause.ChangesEnd ∧ Clause.Gating ∧ Clause.PowerReturns ∧ Clause.Throttling

/-! The checks of the register instructions (R108). -/

/-- R108: the checks of a CSR instruction in their order. An unassigned number, a write to a register whose fields are all RO,
and HSTAT in a helper are illegal instructions (cause 0x01); a register that is not for job mode, in job mode, is privileged
access (cause 0x02). TVALUE is the instruction's bits, and nothing else happens, whatever the operands: no port
is popped. -/
def Obligations.CsrChecksInOrder : Prop :=
  ∀ (d a : SOp) (n : BitVec 12) (s : State), ∀ row ∈ csrInstrRows d a n,
    reachesIssue s = true → illegalHere s.cur.core s.cur.slot row.1 = false → trapsPlainly s = true →
      ((csrKnown n.toNat = false ∨ (row.2 = true ∧ csrReadOnly n.toNat = true) ∨ (n = 0x003 ∧ s.cur.slot ≠ 0)) →
        exec row.1 s = .next { traps row.1 0x01 (instrBits row.1) s.me.pc 1 s with free := s.free + 1 }) ∧
      (csrKnown n.toNat = true → ¬(row.2 = true ∧ csrReadOnly n.toNat = true) → ¬(n = 0x003 ∧ s.cur.slot ≠ 0) →
        s.me.mode = .job → csrRuntime n.toNat = true →
        exec row.1 s = .next { traps row.1 0x02 (instrBits row.1) s.me.pc 1 s with free := s.free + 1 })

/-! Failures and the registers that count them (R169, R289, R337, R339, R344, R363). -/

/-- R337, R339: a flit whose resend succeeds counts as a transient failure, one whose resend fails as a lasting one, recorded with
its die and its node of the mesh, whose number is the model's (log entry 35). -/
def Clause.LinkFailures : Prop :=
  ∀ (s : State), s.cur.core < 12 → ∃ t : State, exec .meshFlitError s = .next t ∧
    (s.cur.flag = false → t = { s with mgmt := { s.mgmt with errTransient := min (s.mgmt.errTransient + 1) (2 ^ 32 - 1) } }) ∧
    (s.cur.flag = true → t.mgmt.errLasting = min (s.mgmt.errLasting + 1) (2 ^ 32 - 1) ∧
      t.mgmt.errlast = BitVec.ofNat 64 (2 ^ 60 * 4 + 2 ^ 56 * s.cur.core + nodeNumber (dieNode s.cur.core s.cur.id)) ∧
      t.mgmt.intstat.getLsbD 9 = true)

/-- R289, R337: the failure of a router or die dispatcher removes its plain: it is retired, its cores are as after reset, no job's
partition holds it, and the failure is recorded with its die and its node of the mesh, whose number is the model's (log entry 35). -/
def Clause.PlainRemoved : Prop :=
  ∀ (s : State), s.cur.core < 8 → (s.plain s.cur.core).retired = false → s.retireDue = [] → s.upsets = [] → ∃ t : State,
    exec .routerFailure s = .next t ∧ (t.plain s.cur.core).retired = true ∧ (t.plain s.cur.core).tlb = [] ∧
    (∀ c ∈ t.cores, coreDie c.1 = s.cur.core → c.2 = { tlb := c.2.tlb }) ∧
    (∀ j ∈ t.jobs, j.2.partition.getLsbD s.cur.core = false) ∧
    t.mgmt.errlast = wordOf (2 ^ 60 * 5 + 2 ^ 56 * s.cur.core + nodeNumber (dieNode s.cur.core s.cur.id)) ∧
    t.mgmt.errLasting = min (s.mgmt.errLasting + 1) (2 ^ 32 - 1) ∧ t.mgmt.intstat.getLsbD 9 = true

/-- R9, R169, R339, R344, R363: a read of ERRCNT, ECCSTAT, LINKSTAT, PORTSTAT or UESTAT returns the counts and clears them;
of a register that does not respond it returns zero (R343). -/
def Clause.CountsCleared : Prop :=
  ∀ (s : State),
    (s.mgmt.featDone = false ∨ s.mgmt.error ≠ 0 → exec .errcntRead s = .next { s with regReply := 0 }) ∧
    (responds s 0x040 = false → exec .linkstatRead s = .next { s with regReply := 0 }) ∧
    (s.cur.core < 36 → responds s (0x3608 + 16 * s.cur.core) = false → exec .portstatRead s = .next { s with regReply := 0 }) ∧
    (s.cur.core < 8 → responds s (0x3848 + 16 * s.cur.core) = false → exec .uestatRead s = .next { s with regReply := 0 }) ∧
    (s.mgmt.featDone = true → s.mgmt.error = 0 → exec .errcntRead s = .next { s with
      regReply := wordOf (s.mgmt.errLasting * 2 ^ 32 + s.mgmt.errTransient)
      mgmt := { s.mgmt with errLasting := 0, errTransient := 0 } }) ∧
    (s.cur.core < 16384 → ∃ t : State, exec .eccstatRead s = .next t ∧ t.regReply.toNat % 2 ^ 16 = s.myCore.eccCount % 2 ^ 16 ∧
      t.myCore.eccCount = 0 ∧ t.myCore.spad = s.myCore.spad) ∧
    (responds s 0x040 = true → ∃ t : State, exec .linkstatRead s = .next t ∧ t.mgmt = { s.mgmt with retrains := 0 } ∧
      t.regReply = wordOf (2 ^ 32 * s.mgmt.retrains + 2 ^ 8 * s.mgmt.linkLanes + 2 ^ 5 * s.mgmt.linkSpeed +
        16 * (if s.mgmt.linkFlit256 then 1 else 0) + 4 * s.mgmt.linkOrder + s.mgmt.linkMode)) ∧
    (∀ p : Nat, s.cur.core = p → p < 36 → responds s (0x3608 + 16 * p) = true → ∃ t : State, exec .portstatRead s = .next t ∧
      t.sport p = { s.sport p with resends := 0 } ∧ ((s.sport p).resends < 2 ^ 16 → portCarries s p (s.sport p) = false →
        (s.sport p).harvest < 16 → t.regReply.toNat / 2 ^ 32 % 2 ^ 16 = (s.sport p).resends ∧ t.regReply.toNat < 2 ^ 60)) ∧
    (∀ e : Nat, s.cur.core = e → e < 8 → responds s (0x3848 + 16 * e) = true → ∃ t : State, exec .uestatRead s = .next t ∧
      t.uport e = { s.uport e with resends := 0 } ∧ ((s.uport e).resends < 2 ^ 16 → (s.uport e).speed < 4 →
        t.regReply.toNat / 2 ^ 32 % 2 ^ 16 = (s.uport e).resends))

/-- The channel's count of spare rows for a device address: 64 pseudo-channels a stack, rows of 1 KiB (log entry 23). -/
def sparesUsed (s : State) (pa : Nat) : Nat := mgetD s.spares (64 * (pa / 2 ^ 36) + pa / 1024 % 64) 0

/-- R337 to R339: a scratchpad word that a local load meets, and a word of device memory that a load of a message meets, fail. Where the
retry succeeds the load has the good data and the failure is counted as a transient one. Where it fails the load has no data (cause 0x0A
at the instruction, status 0x09 for the message), and the failure is counted as a lasting one and recorded with its place. The square of
a core in a partition awaits the next gang switch, which ERRLAST.PENDING shows; the row of device memory, which is in no partition, is replaced by a spare one
that reads zero, if one is left (its size and its pseudo-channel are the model's, log entry 23). A store of a whole word makes the word
good. -/
def Clause.WordsFail : Prop :=
  ∀ (u : Upset) (s : State), s.upsets = [u] →
    let counted (t : State) (kind die place : Nat) : Prop := t.mgmt.errLasting = min (s.mgmt.errLasting + 1) (2 ^ 32 - 1) ∧
      t.mgmt.errTransient = s.mgmt.errTransient ∧ t.mgmt.intstat.getLsbD 9 = true ∧
      t.mgmt.errlast = BitVec.ofNat 64 (2 ^ 60 * kind + 2 ^ 56 * die + place)
    let mended (t : State) : Prop := t.upsets = [] ∧ t.retireDue = s.retireDue ∧ t.retiredSquares = s.retiredSquares ∧
      t.mgmt = { s.mgmt with errTransient := min (s.mgmt.errTransient + 1) (2 ^ 32 - 1) }
    (∀ (n size key : Nat) (sgn : Bool), ∀ p, findPend s.me s.cur.id = some p → p.kind = .loc (.load n size sgn .plain) key →
      p.res = none → mayLand p s = true → turnComes s p = true → size = 1 ∨ size = 2 ∨ size = 4 ∨ size = 8 ∨ size = 16 →
      (sgn = true → size ≠ 16) → u.kind = 1 → u.unit = s.cur.core → s.cur.core < 16384 → u.addr < 2 ^ 19 →
      u.addr / 8 * 8 < n + size → n < u.addr / 8 * 8 + 8 →
        let raw := memNat s.myCore.spad n size
        let v : VWord := if sgn then BitVec.ofNat 128 ((BitVec.ofNat (8 * size) raw).signExtend 64).toNat else BitVec.ofNat 128 raw
        ∃ t : State, exec .localLoadComplete s = .next t ∧ t.myCore.spad = s.myCore.spad ∧
          (u.lasting = false → t.me = lands p v s.me ∧ mended t) ∧
          (u.lasting = true → inPartition s (coreDie s.cur.core) = true → counted t 1 (coreDie s.cur.core) (s.cur.core * 2 ^ 19 + u.addr) ∧
            t.me.x = s.me.x ∧ t.me.v = s.me.v ∧ findPend t.me s.cur.id = none ∧ u ∈ t.retireDue ∧ errlastWord t / 2 ^ 52 % 16 = 1 ∧
            t.retiredSquares = s.retiredSquares ∧ (s.me.trap = none → s.me.halted = false →
              t.me.trap.map (fun r => (r.cause, r.value, r.pc, r.defer)) = some (0x0A, wordOf n, p.pc, false)))) ∧
    (∀ (a n : Nat) (sgn : Bool), ∀ m, message s = some m → msgReady s s.cur.id m = true → m.issuer ≠ .foreign → m.direct = false →
      m.home = .hbm a → m.act = .load n sgn → n ≤ 16 → (sgn = true → n ≤ 8) → paMapped s a = true → a / 2 ^ 36 < 12 →
      u.kind = 3 → u.addr / 8 * 8 < a + n → a < u.addr / 8 * 8 + 8 → u.addr < 2 ^ 40 →
        let data (v : Nat) : Reply := .data (if sgn then BitVec.ofNat 128 ((BitVec.ofNat (8 * n) v).signExtend 64).toNat
          else BitVec.ofNat 128 v)
        ∃ t : State, exec .remoteLoadArrive s = .next t ∧ sameSpads s t ∧ t.host = s.host ∧
          (u.lasting = false → answered s t (data (memNat s.hbm a n)) ∧ mended t ∧ t.hbm = s.hbm) ∧
          (u.lasting = true → answered s t (.failed 0x09) ∧ counted t 3 (if a / 2 ^ 36 < 6 then 8 else 9) (u.addr / 8 * 8) ∧
            t.retireDue = s.retireDue ∧
            (sparesUsed s u.addr < 64 → t.upsets = [] ∧ sparesUsed t u.addr = sparesUsed s u.addr + 1 ∧
              ∀ j : Nat, memGet t.hbm j = if j / 1024 = u.addr / 1024 then 0 else memGet s.hbm j) ∧
            (64 ≤ sparesUsed s u.addr → t.upsets = [u] ∧ t.hbm = s.hbm))) ∧
    (∀ (a : Nat) (data : List Byte), ∀ m, message s = some m → msgReady s s.cur.id m = true → m.issuer ≠ .foreign → m.direct = false →
      m.home = .hbm a → m.act = .store data → data.length = 8 → paMapped s a = true → u.kind = 3 → u.addr / 8 * 8 = a →
        ∃ t : State, exec .hbm4eWriteArrive s = .next t ∧ answered s t .ack ∧ memRead t.hbm a 8 = data ∧ t.upsets = [] ∧
          t.mgmt = s.mgmt)

/-- Failures of links, routers and words, and the counts of failures. -/
def Obligations.FailuresAndCounts : Prop := Clause.LinkFailures ∧ Clause.PlainRemoved ∧ Clause.CountsCleared ∧ Clause.WordsFail

/-! Reset, boot and the host's link (R11, R340 to R342, R344, R351). -/

/-- R11, R351: a module reset leaves the machine as after reset, at boot stage 0, but for what lies outside the device, units retired
for good, its fuses, and the counters of the model. That time starts at 0 again is the model's choice (log entry 2). -/
def Clause.ResetResets : Prop :=
  ∀ (s : State), ∃ t : State, exec .moduleReset s = .next t ∧ t.cores = [] ∧ t.squares = [] ∧ t.jobs = [] ∧ t.launches = [] ∧
    t.msgs = [] ∧ t.hbm = [] ∧ t.dies = [] ∧ t.mgmt = State.reset.mgmt ∧ t.gangs = [] ∧ t.ports = [] ∧ t.shrink = {} ∧ t.halt = false ∧
    t.now = 0 ∧ t.host = s.host ∧ t.inputs = s.inputs ∧ t.fuses = s.fuses ∧ t.sweep = none ∧ ∀ p, (t.plain p).tlb = [] ∧ (t.plain p).queues = []

/-- R341, R351: a boot stage other than 1 and 2 that ends well leads to the next, and the fourth needs a trained link; one that fails
leaves its ERROR code, one of those the table gives the stage. -/
def Clause.BootStages : Prop :=
  ∀ (s : State), s.mgmt.stage < 5 → s.mgmt.error = 0 → s.mgmt.stage ≠ 1 → s.mgmt.stage ≠ 2 →
    (s.cur.flag = false → (s.mgmt.stage = 4 → s.mgmt.linkMode ≠ 0) → ∃ t : State, exec .bootStageComplete s = .next t ∧
      t.mgmt.stage = s.mgmt.stage + 1 ∧ t.mgmt.error = 0 ∧ (s.mgmt.stage = 4 → t.mgmt.intstat.getLsbD 0 = true)) ∧
    (s.cur.flag = true → (s.mgmt.stage, s.cur.word.toNat) ∈ [(0, 1), (3, 4), (4, 5)] →
      ∃ t : State, exec .bootStageComplete s = .next t ∧ t.mgmt.stage = s.mgmt.stage ∧ t.mgmt.error = s.cur.word.toNat)

/-- R351, R352: stages 1 and 2 verify their image. One whose key is none of the fused hashes' or is revoked, or whose signature does not
verify, stops the boot with ERROR 2; one whose version is below the fused one with ERROR 3; another is accepted, and its digest is
kept as a measurement. The bytes a signature covers, and the fuses, are open values of the configuration (log entry 13). -/
def Clause.ImagesVerified : Prop :=
  ∀ (f : Firmware) (s : State), s.mgmt.stage = 1 ∨ s.mgmt.stage = 2 → s.mgmt.error = 0 → s.cur.fw = some f → f.key.length = 64 →
    let digest := sha256 (Config.signedBytes f.body f.svn)
    let known : Bool := (Config.keyHash 0 == sha256 f.key && !Config.keyRevoked 0) ||
      (Config.keyHash 1 == sha256 f.key && !Config.keyRevoked 1)
    let verified := ecdsaVerify (bigEndian (f.key.take 32), bigEndian (f.key.drop 32)) digest f.r f.s
    ∃ t : State, exec .bootStageComplete s = .next t ∧ t.cores = s.cores ∧
      (known = false ∨ verified = false → t.mgmt.error = 2 ∧ t.mgmt.stage = s.mgmt.stage) ∧
      (known = true → verified = true → f.svn < Config.fusedSvn → t.mgmt.error = 3 ∧ t.mgmt.stage = s.mgmt.stage) ∧
      (known = true → verified = true → Config.fusedSvn ≤ f.svn → t.mgmt.error = 0 ∧ t.mgmt.stage = s.mgmt.stage + 1 ∧
        mgetD t.mgmt.measures s.mgmt.stage 0 = digest)

/-- R341, R344: a link that trains shows its row, speed and lanes in LINKSTAT; one that fails goes down and counts a retrain. -/
def Clause.HostLink : Prop :=
  ∀ (s : State),
    (4 ≤ s.mgmt.stage → s.mgmt.error = 0 → s.mgmt.linkMode = 0 →
      ∀ order speed lanes : Nat, linkOutcome order speed lanes = true →
        s.cur.word.toNat = 4 * order + 32 * speed + 256 * lanes → exec .hostLinkTrain s = .next { s with mgmt := { s.mgmt with
          linkMode := if order = 3 then 2 else 1, linkOrder := order, linkFlit256 := order == 1, linkSpeed := speed
          linkLanes := lanes } }) ∧
    (s.mgmt.linkMode ≠ 0 → exec .hostLinkError s = .next { s with mgmt := { s.mgmt with
      linkMode := 0, linkOrder := 0, linkFlit256 := false, linkSpeed := 0, linkLanes := 0
      retrains := min (s.mgmt.retrains + 1) 65535 } })

/-- Reset, boot and the training of the host's link. -/
def Obligations.ResetAndBoot : Prop := Clause.ResetResets ∧ Clause.BootStages ∧ Clause.ImagesVerified ∧ Clause.HostLink

/-- The device address of a host access: in the CXL.mem range, or in the aperture (R342, R344); after a failed boot nothing
is decoded (R351), and that such an access is answered with an error is the model's choice (log entry 31). -/
def hostPa (s : State) (aperture : Bool) : Option Nat :=
  if aperture then (if s.mgmt.error = 0 then some (s.mgmt.apBase * 2 ^ 32 + s.cur.word.toNat) else none)
  else hdmAddress s s.cur.word.toNat

/-- The rows of the host's accesses: whether they go through the aperture, and the link mode they need. -/
def hostRows (writes : Bool) : List (Instr × Bool × Nat) :=
  [(if writes then .hostMemWrite else .hostMemRead, false, 1), (.hostApertureAccess, true, 2)]

/-- R340, R342, R344: a host write to mapped device memory writes its bytes, no other byte of it, and completes; a read of words
that do not fail returns the bytes. An address that nothing decodes, and one that is decoded but not mapped, is answered with an error:
nothing is written and no data returned. -/
def Clause.HostAccesses : Prop :=
  ∀ (s : State), s.upsets = [] → s.cur.word.toNat < 2 ^ 32 ∨ s.mgmt.linkMode = 1 →
    (∀ bs, s.cur.bytes = some bs → ∀ row ∈ hostRows true, s.mgmt.linkMode = row.2.2 → ∃ t : State, exec row.1 s = .next t ∧
      sameSpads s t ∧ t.host = s.host ∧
      (∀ a, hostPa s row.2.1 = some a → bytesMapped s a bs.length = true →
        memRead t.hbm a bs.length = bs ∧ (∀ j : Nat, j < a ∨ a + bs.length ≤ j → memGet t.hbm j = memGet s.hbm j) ∧
        t.hostReply = some [] ∧ t.hostError = false) ∧
      ((∀ a, hostPa s row.2.1 = some a → bytesMapped s a bs.length = false) → t.hbm = s.hbm ∧ t.hostReply = none ∧
        t.hostError = true)) ∧
    (s.cur.bytes = none → ∀ row ∈ hostRows false, s.mgmt.linkMode = row.2.2 → ∃ t : State, exec row.1 s = .next t ∧
      t.hbm = s.hbm ∧ sameSpads s t ∧ t.host = s.host ∧
      (∀ a, hostPa s row.2.1 = some a → bytesMapped s a s.cur.id = true →
        t.hostReply = some (memRead s.hbm a s.cur.id) ∧ t.hostError = false) ∧
      ((∀ a, hostPa s row.2.1 = some a → bytesMapped s a s.cur.id = false) → t.hostReply = none ∧ t.hostError = true))

/-- R337, R342: a host read that meets a word whose retry fails is answered with an error and no data, and the failure is counted as a
lasting one; where the retry succeeds the read returns the bytes, and the failure is counted as a transient one. -/
def Clause.HostReadFails : Prop :=
  ∀ (a : Nat) (u : Upset) (s : State), s.upsets = [u] → u.kind = 3 → u.addr / 8 * 8 < a + s.cur.id → a < u.addr / 8 * 8 + 8 →
    s.cur.word.toNat < 2 ^ 32 ∨ s.mgmt.linkMode = 1 → s.cur.bytes = none → ∀ row ∈ hostRows false, s.mgmt.linkMode = row.2.2 →
      hostPa s row.2.1 = some a → bytesMapped s a s.cur.id = true → ∃ t : State, exec row.1 s = .next t ∧ sameSpads s t ∧
        (u.lasting = true → t.hostReply = none ∧ t.hostError = true ∧
          t.mgmt.errLasting = min (s.mgmt.errLasting + 1) (2 ^ 32 - 1)) ∧
        (u.lasting = false → t.hostReply = some (memRead s.hbm a s.cur.id) ∧ t.hostError = false ∧ t.hbm = s.hbm ∧
          t.mgmt.errTransient = min (s.mgmt.errTransient + 1) (2 ^ 32 - 1))

/-- The host's accesses to device memory. -/
def Obligations.HostAccess : Prop := Clause.HostAccesses ∧ Clause.HostReadFails

/-! The management window and the package control block (R107, R306, R345, R347, R348, R353, R354). -/

/-- R346, R347: while FEATCTL responds (R343) a write of ACCEPT with features that the part offers fixes them, with another leaves REFUSED; once fixed it
changes nothing. -/
def Clause.FeaturesFixed : Prop :=
  ∀ (s : State), s.cur.word.getLsbD 0 = true → responds s 0x028 = true →
    (s.mgmt.featDone = true → exec .featureAccept s = .next s) ∧
    (s.mgmt.featDone = false → ∃ t : State, exec .featureAccept s = .next t ∧
      ((∀ k : Nat, s.mgmt.featreq.testBit k = true → s.fuses.offer.testBit k = true) →
        t.mgmt.featDone = true ∧ t.mgmt.featon = s.mgmt.featreq) ∧
      (∀ k : Nat, s.fuses.offer.testBit k = false → s.mgmt.featreq.testBit k = true → t.mgmt.featDone = false ∧
        t.mgmt.featRefused = true ∧ t.mgmt.featon = s.mgmt.featon))

/-- R306, R307, R348: JOBCTL GO with OP 0 installs the job of a good record at a mapped address whose number and plains are free, and
answers 1; another record is answered 2 and no job changes. OP 1 removes the job: none of it is left in the package. -/
def Clause.JobsComeAndGo : Prop :=
  ∀ (s : State), s.upsets = [] → s.retireDue = [] →
    let pa := s.cur.word.toNat / 2 ^ 6 % 2 ^ 34 * 64
    let w := (List.range 8).map fun k => memNat s.hbm (pa + 8 * k) 8
    let good : Bool := paMapped s pa && recordOk s w && (mget s.jobs (w.getD 0 0 % 64)).isNone &&
      (maskPlains (w.getD 0 0 / 2 ^ 8 % 2 ^ 8)).all fun p => !inPartition s p
    (jobctl s 0 = true → good = true → ∃ t : State, exec .jobInstall s = .next t ∧ t.mgmt.jobResult = 1 ∧
      mget t.jobs (w.getD 0 0 % 64) = some (jobOf w) ∧ (∀ k : Nat, k ≠ w.getD 0 0 % 64 → mget t.jobs k = mget s.jobs k) ∧
      (∀ p ∈ maskPlains (w.getD 0 0 / 2 ^ 8 % 2 ^ 8), (t.plain p).streams = []) ∧ t.cores = s.cores ∧ t.hbm = s.hbm) ∧
    (jobctl s 0 = true → good = false → ∃ t : State, exec .jobInstall s = .next t ∧ t.mgmt.jobResult = 2 ∧ t.jobs = s.jobs ∧
      t.plains = s.plains) ∧
    (∀ n : Nat, s.cur.word.toNat / 2 ^ 40 % 64 = n → jobctl s 1 = true → s.shrink.phase = 0 →
      (∀ j, mget s.jobs n = some j → ∃ t : State, exec .jobRemove s = .next t ∧ t.mgmt.jobResult = 1 ∧ mget t.jobs n = none ∧
        (∀ l ∈ t.launches, l.2.job ≠ n) ∧ (∀ m ∈ t.msgs, m.2.job ≠ n) ∧ (∀ i ∈ t.images, i.job ≠ n) ∧
        (∀ c ∈ t.cores, (∀ e ∈ c.2.tlb, e.job ≠ n) ∧
          (j.partition.getLsbD (coreDie c.1) = true → c.2 = { tlb := c.2.tlb }))) ∧
      (mget s.jobs n = none → ∃ t : State, exec .jobRemove s = .next t ∧ t.mgmt.jobResult = 2 ∧ t.jobs = s.jobs ∧
        t.cores = s.cores))

/-- R345: a write of INTMASK replaces the mask, and a bit set to 1 whose status bit is 1 sends its message, or makes it pending where
its entry is masked; no other message is sent. MSI-X Enable, without which no message is sent, is PCI Express's (log entry 25). -/
def Clause.MaskWrites : Prop :=
  ∀ (s : State), responds s 0x0F8 = true → ∃ t : State, exec .intmaskWrite s = .next t ∧
    t.mgmt.intmask = s.cur.word.setWidth 13 ∧ t.mgmt.intstat = s.mgmt.intstat ∧
    (s.mgmt.intstat &&& s.cur.word.setWidth 13 = 0 → t.mgmt = { s.mgmt with intmask := s.cur.word.setWidth 13 }) ∧
    (s.mgmt.msixEnable = false → t.mgmt.sentIrqs = s.mgmt.sentIrqs ∧ t.mgmt.msixPending = s.mgmt.msixPending) ∧
    (∀ e : Nat, e < 13 → s.mgmt.msixEnable = true → s.mgmt.intstat &&& s.cur.word.setWidth 13 = BitVec.ofNat 13 (2 ^ e) →
      (msixMasked s.mgmt e = false → t.mgmt.sentIrqs = s.mgmt.sentIrqs ++ [e]) ∧
      (msixMasked s.mgmt e = true → t.mgmt.msixPending.getLsbD e = true ∧ t.mgmt.sentIrqs = s.mgmt.sentIrqs))

/-- R353: ATTCTL GO with OP 1 or 2 makes the unit busy; when it is done ATTBUF holds what was asked for: a report of 256 bytes that
starts with version 1, carries the features, the nonce of its start and the measurements, and ends with the signature of its first
192 bytes by the attestation key, for some secret number. -/
def Clause.Attestation : Prop :=
  ∀ (s : State),
    let go (op : Nat) : Bool := responds s 0x100 && s.mgmt.stage == 5 && s.cur.word.getLsbD 63 && bitsOf s.cur.word 1 0 == op &&
      s.mgmt.attBusy.isNone
    (go 1 = true → ∃ t due, exec .attestationReport s = .next t ∧ t.mgmt.attBusy = some due ∧ s.now < due ∧ t.mgmt.attLen = 256 ∧
      t.mgmt.attNew % 2 ^ 32 = 1 ∧ t.mgmt.attNew / 2 ^ 256 % 2 ^ 256 = s.mgmt.attNonce % 2 ^ 256 ∧
      t.mgmt.attNew / 2 ^ 128 % 2 ^ 128 = s.mgmt.featon % 2 ^ 128 ∧
      ∃ body k, body.length = 192 ∧ 1 ≤ k ∧ k < p256N ∧
        (∀ i : Nat, i < 96 → body[64 + i]? = (bigBytes 32 (mgetD s.mgmt.measures (1 + i / 32) 0))[i % 32]?) ∧
        t.mgmt.attNew = bytesNat (body ++ bigBytes 32 (ecdsaSign s.mgmt.attKey (sha256 body) k).1 ++
          bigBytes 32 (ecdsaSign s.mgmt.attKey (sha256 body) k).2)) ∧
    (go 2 = true → ∃ t due, exec .attestationCertificate s = .next t ∧ t.mgmt.attBusy = some due ∧ s.now < due ∧
      t.mgmt.attLen ≤ 512) ∧
    (∀ due, s.mgmt.attBusy = some due → due ≤ s.now → ∃ t : State, exec .attestationDone s = .next t ∧ t.mgmt.attBusy = none ∧
      t.mgmt.attBuf = s.mgmt.attNew ∧ t.mgmt.attBytes = s.mgmt.attLen ∧ t.mgmt.intstat.getLsbD 10 = true)

/-- R354: a write of SPTIME starts a series of pulses: its first is at the time written, or a whole number of periods after it, not in
the past; all ones stop it. -/
def Clause.PulsesRestart : Prop :=
  ∀ (s : State), responds s 0x048 = true → ∃ t : State, exec .samplingRestart s = .next t ∧ t.mgmt.sptime = s.cur.word ∧
    (s.cur.word = BitVec.allOnes 64 → t.mgmt.pulseAt = none) ∧
    (∀ k : Nat, s.cur.word ≠ BitVec.allOnes 64 → t.mgmt.pulseAt = some k →
      s.ptime ≤ k ∧ ∃ n : Nat, k = s.cur.word.toNat + n * s.mgmt.spperiod) ∧
    (s.cur.word ≠ BitVec.allOnes 64 → s.ptime ≤ s.cur.word.toNat → t.mgmt.pulseAt = some s.cur.word.toNat)

/-- R217, R354: a DBGPORT read of a register of the table of a core puts its value into DBGDATA; a write puts DBGDATA into the
register's RW fields (V2 of NBVER stays 1 without feature 4, R347). Of a register that each context has it is slot 0's: the model's choice
(log entry 31). -/
def Clause.DebugPort : Prop :=
  ∀ (c : Nat) (s : State), s.cur.word.toNat / 2 ^ 32 % 2 ^ 14 = c →
    let at0 (u : State) : State := { u with cur := { u.cur with core := c, slot := 0 } }
    (s.core c).late = [] → (∀ row ∈ csrRows, s.cur.word.toNat % 2 ^ 12 = row.1 →
      (portGo s false = true → ∃ t : State, exec .debugPortRead s = .next t ∧ t.mgmt.dbgdata = row.2.2 (at0 s) ∧
        t.cores = s.cores ∧ t.hbm = s.hbm) ∧
      (portGo s true = true → ∃ t : State, exec .debugPortWrite s = .next t ∧
        row.2.2 (at0 t) = if row.1 = 0x000 ∧ featureOn s 4 = false then 33
          else (row.2.2 (at0 s) &&& ~~~BitVec.ofNat 64 row.2.1) ||| (s.mgmt.dbgdata &&& BitVec.ofNat 64 row.2.1)))

/-- The registers of the window without behaviour of their own, but for their fields: offset, mask of the RW fields and value. -/
def windowRows : List (Nat × Nat × (State → Nat)) :=
  [(0x018, 2 ^ 11 - 1, fun s => s.mgmt.featreq), (0x050, 2 ^ 32 - 1, fun s => s.mgmt.spperiod),
   (0x058, 2 ^ 16 - 1, fun s => 2 ^ 8 * s.mgmt.crit + s.mgmt.limit),
   (0x0C8, 2 ^ 64 - 1, fun s => s.mgmt.dbgdata.toNat), (0x3000, 2 ^ 32 * 0xFFF + 0xFFFF, fun s => 2 ^ 32 * s.mgmt.limSpread + s.mgmt.limRamp)]

/-- R107, R343, R346, R355, R363: a write of a register that responds and has no behaviour of its own replaces its RW fields, and a
write of one that does not respond changes nothing. A LIMIT and CRIT that are written hold for every die at once; a UECTL.DOWN that
changes takes its port out of service for 10 microseconds. -/
def Clause.WindowWrites : Prop :=
  ∀ (s : State),
    (∀ row ∈ windowRows, s.cur.id = row.1 → responds s row.1 = true → ∃ t : State, exec .registerWrite s = .next t ∧
      row.2.2 t = s.cur.word.toNat &&& row.2.1 ∧ t.cores = s.cores ∧ t.hbm = s.hbm ∧ t.jobs = s.jobs) ∧
    (s.cur.id = 0x058 → responds s 0x058 = true → ∃ t : State, exec .registerWrite s = .next t ∧
      ((∃ d : Nat, d < 12 ∧ 8 * (s.cur.word.toNat / 2 ^ 8 % 2 ^ 8) ≤ (s.die d).temp) → t.halt = true ∧ t.mgmt.thermal = true) ∧
      ∀ d : Nat, d < 12 → 8 * (s.cur.word.toNat % 2 ^ 8) < (s.die d).temp → (t.die d).throttling = true) ∧
    (∀ e : Nat, e < 8 → s.cur.id = 0x3840 + 16 * e → responds s (0x3840 + 16 * e) = true →
      s.cur.word.getLsbD 0 ≠ (s.uport e).down → ∃ t : State, exec .registerWrite s = .next t ∧
        t.uport e = { s.uport e with down := s.cur.word.getLsbD 0, resumeAt := some (s.now + 10 * Config.microsecond) }) ∧
    (s.cur.id % 8 = 0 → s.cur.id < 0x4000 → responds s s.cur.id = false → exec .registerWrite s = .next s)

/-- The registers of the window and of the control block that act. -/
def Obligations.ControlBlock : Prop :=
  Clause.FeaturesFixed ∧ Clause.JobsComeAndGo ∧ Clause.MaskWrites ∧ Clause.Attestation ∧ Clause.PulsesRestart ∧ Clause.DebugPort ∧
  Clause.WindowWrites

/-! Ports and messages of other packages (R356 to R365). -/

/-- R364: of the messages on their way to another package, those that have left by a port are to be sent again, and no other message
changes. By which port a message has left is open (log entry 3). -/
def cutsOff (s t : State) (port : Nat) : Prop :=
  ∀ (id : Nat) (m : Msg), mget s.msgs id = some m →
    (outbound s m = true → outPort s id m.home = port → mget t.msgs id = some { m with cut := true }) ∧
    (outbound s m = false ∨ outPort s id m.home ≠ port → mget t.msgs id = some m)

/-- R363, R364: a PORTCTL that changes takes the port out of service for 10 microseconds; then it serves again
where it has found a switch, is not DOWN, has a lane left and its die has power; a port that trains finds a switch and serves after another
10 microseconds, or tries again after a millisecond. A lane whose resend fails is retired and the port retrains; the messages that had
left by a port that goes down are sent again, by a port that is up. A link of the Ultra Ethernet comes up or goes down at the speed it brings. -/
def Clause.PortEvents : Prop :=
  ∀ (s : State),
    let p := s.cur.core
    let x := s.sport p
    (p < 36 → responds s (0x3600 + 16 * p) = true → s.cur.word.toNat % 8 ≠ x.ctl → ∃ t : State,
      exec .portControlWrite s = .next t ∧ (t.sport p).ctl = s.cur.word.toNat % 8 ∧
      (t.sport p).resumeAt = some (s.now + 10 * Config.microsecond) ∧ (t.sport p).up = false ∧
      (x.up = true → cutsOff s t p) ∧ (x.up = false → t.msgs = s.msgs)) ∧
    (∀ till : Nat, p < 36 → x.resumeAt = some till → till ≤ s.now → ∃ t : State, exec .portServiceResume s = .next t ∧
      (t.sport p).resumeAt = none ∧ (t.sport p).ctl = x.ctl ∧ (t.sport p).up = (x.found && x.ctl / 4 % 2 == 0 &&
        0 < portLanes x (mgetD s.fuses.lanes p 0) && !(18 ≤ p && (s.die 11).gated))) ∧
    (∀ e till : Nat, p = 36 + e → (s.uport e).resumeAt = some till → till ≤ s.now → ∃ t : State,
      exec .portServiceResume s = .next t ∧ t.uport e = { s.uport e with resumeAt := none }) ∧
    (∀ till : Nat, x.retryAt = some till → till ≤ s.now → (s.die 11).gated = false → ∃ t : State,
      exec .portTrainRetry s = .next t ∧
      ((t.sport p).found = true ∧ (t.sport p).retryAt = none ∧
          (t.sport p).resumeAt = some (s.now + 10 * Config.microsecond) ∧ t.mgmt.inDomain = true ∧
          (s.mgmt.inDomain = true → t.mgmt.package = s.mgmt.package) ∧ (s.mgmt.inDomain = false → t.mgmt.package < 288) ∨
        (t.sport p).found = x.found ∧ (t.sport p).retryAt = some (s.now + 1000 * Config.microsecond) ∧
          t.mgmt.inDomain = s.mgmt.inDomain ∧ t.mgmt.package = s.mgmt.package)) ∧
    (p < 36 → s.cur.slot < 4 → x.up = true → ∃ t : State, exec .scaleupFlitError s = .next t ∧
      (t.sport p).resends = min (x.resends + 1) 65535 ∧ (s.cur.flag = false → (t.sport p).harvest = x.harvest) ∧
      (s.cur.flag = true → (t.sport p).harvest = x.harvest ||| 2 ^ s.cur.slot ∧ (t.sport p).up = false ∧
        (t.sport p).resumeAt = some (s.now + 10 * Config.microsecond) ∧ cutsOff s t p)) ∧
    (∀ m, message s = some m → outbound s m = true → m.cut = true → ∃ t due,
      exec .portDownResend s = .next t ∧ s.now < due ∧ mget t.msgs s.cur.id = some { m with phase := .going due, cut := false } ∧
      ∀ fpa : Nat, m.home = .fabric fpa → fpa / 2 ^ 42 % 2 ^ 9 ≠ 0x1FF →
        ∃ q, (outPort t s.cur.id m.home, q) ∈ t.ports ∧ q.up = true) ∧
    (p < 8 → ∃ t : State, exec .ultraEthernetLinkChange s = .next t ∧ (t.uport p).speed = s.cur.word.toNat % 4 ∧
      (t.uport p).down = (s.uport p).down ∧ (t.uport p).resends = min ((s.uport p).resends + s.cur.id) 65535)

/-- The store that a message of another package asks for, at a place of this package. -/
def asksStore (s : State) (tag fpa key : Nat) (flag : Option Nat) (data : List Byte) : Prop :=
  s.cur.fab = some { tag := tag, fpa := fpa, key := key, flag := flag, act := .store data }

/-- R358, R360, R365: a message of another package whose tag a running local job holds goes on into the mesh for that job; for a stopped
job it waits in the ingress store, or is refused where that is full, and is sent again later; one whose tag no job holds changes
nothing here. -/
def Clause.ForeignMessages : Prop :=
  ∀ (tag fpa key : Nat) (flag : Option Nat) (data : List Byte) (s : State), asksStore s tag fpa key flag data →
    brings s s.cur.core = true →
      let die := if 18 ≤ s.cur.core then 1 else 0
      (jobOfTag s tag = none → exec .fabricMessageArrive s = .next s) ∧
      (∀ job, jobOfTag s tag = some job → ∃ t : State, exec .fabricMessageArrive s = .next t ∧ ∃ m,
        mget t.msgs s.nextId = some m ∧ m.act = .store data ∧ m.job = job ∧ m.key = key ∧ m.flag = flag ∧
        m.issuer = .foreign ∧ m.port = s.cur.core ∧ t.cores = s.cores ∧ t.hbm = s.hbm ∧
        (jobStopped s job = false → ∃ due : Nat, s.now < due ∧ m.phase = .going due) ∧
        (jobStopped s job = true → ingressFull s die = false → m.phase = .held die) ∧
        (jobStopped s job = true → ingressFull s die = true → m.phase = .refused die (s.now + 10 * Config.microsecond)))

/-- R365: a message that a port refused is sent to it again: it goes on when its job runs, is held there when there is room, and is
refused for another 10 microseconds when there is none. -/
def Clause.RefusedReturn : Prop :=
  ∀ (die due : Nat) (s : State), ∀ m, message s = some m → m.phase = .refused die due → due ≤ s.now → ∃ t : State,
    exec .ingressResend s = .next t ∧
    (jobStopped s m.job = false → ∃ at_ : Nat, s.now < at_ ∧ mget t.msgs s.cur.id = some { m with phase := .going at_ }) ∧
    (jobStopped s m.job = true → ingressFull s die = false →
      mget t.msgs s.cur.id = some { m with phase := .held die }) ∧
    (jobStopped s m.job = true → ingressFull s die = true →
      mget t.msgs s.cur.id = some { m with phase := .refused die (s.now + 10 * Config.microsecond) })

/-- Ports, and what comes through them. -/
def Obligations.PortsAndFabric : Prop := Clause.PortEvents ∧ Clause.ForeignMessages ∧ Clause.RefusedReturn

/-! The machine as a whole: words, commands, steps, reset and memory (R11, R39 to R54, R147, R355). -/

/-- R39 to R51: for every well-formed instruction, whatever its operands, the words that encode it decode to it again, with its
length, whatever bytes follow. -/
def Clause.InstructionsReturn : Prop :=
  ∀ (i : Instr) (rest : List Byte), encode i ≠ [] → wellFormed i = true →
    decodeBytes (encodeBytes i ++ rest) = .ok (i, 4 * (encode i).length)

/-- R39 to R51: bytes that decode to an instruction are the words that encode it, and the instruction is well formed: no bit of a
word is dropped, and no two words are one instruction. -/
def Clause.WordsHaveOneMeaning : Prop :=
  ∀ (bs : List Byte) (i : Instr) (n : Nat), decodeBytes bs = .ok (i, n) →
    wellFormed i = true ∧ encodeBytes i = bs.take n ∧ n = 4 * (encode i).length

/-- R52 to R54: a command word that a queue accepts is the word that encodes its command; one whose opcode is not listed for the
queue has status 0x01. -/
def Clause.CommandsReturn : Prop :=
  ∀ (q : Nat) (w : BitVec 256),
    (∀ i, decodeCmd q w = .ok i → encodeCmd i = some w ∧ opcodeListed q (w.toNat % 256) = true) ∧
    (opcodeListed q (w.toNat % 256) = false → decodeCmd q w = .error 1)

/-- Decoding and encoding agree on every instruction, every word and every command word. -/
def Obligations.DecodeReadsEncode : Prop :=
  Clause.InstructionsReturn ∧ Clause.WordsHaveOneMeaning ∧ Clause.CommandsReturn

/-- Words of map A, written out from the tables of R40 and R46, with their instructions. -/
def specWordsA : List (Nat × Instr) :=
  [(0x00308104, .add (.x 1) (.x 2) (.x 3)), (0x30614408, .div (.x 4) (.x 5) (.x 6) 3), (0xFFF0810C, .addi (.x 1) (.x 2) 0xFFF),
   (0x00408144, .bne (.x 1) (.x 2) 4), (0x00014158, .jl (.x 1) 5), (0x20108178, .ld (.x 1) (.x 2) 1 2),
   (0x00108190, .st (.x 1) (.x 2) 1), (0x00108198, .ldv (.v 1) (.x 2) 1 0), (0x003081B0, .ste (.x 1) (.x 2) (.x 3)),
   (0x040000B4, .brk), (0x007000B8, .sys 7), (0x005081C0, .csrw (.x 1) (.x 2) 5), (0x001000D4, .phase 1),
   (0x009001E0, .fread (.x 1) 9), (0x000135E8, .tcmd 1 4), (0x100185E8, .launch (.x 5) (.x 6)), (0x040000EC, .lease 64),
   (0x083081F0, .pext (.x 1) (.x 2) (.x 3)), (0x030000F4, .gwid 48), (0x100081F8, .tkget (.x 1) (.x 2) 1),
   (0x44308105, .vadd .bf16 2 (.v 1) (.v 2) (.v 3))]

/-- Words of the 64-bit and 96-bit maps, written out from the tables of R41 and R48 to R50: length in bits, words, instruction. -/
def specWordsLong : List (Nat × Nat × Nat × Nat × Instr) :=
  [(64, 0x18008106, 0x40000010, 0, .ldLong (.x 1) (.x 2) 16 4), (64, 0x0C30800A, 0x0000FFF8, 0, .stLong (.x 3) (.x 2) 0xFFF8),
   (64, 0x0030810E, 0x01190000, 0, .amo .cas true (.x 1) (.x 2) (.x 3) (.x 4) 0 0),
   (64, 0x0C308012, 0x10000007, 0, .rst (.x 3) (.x 2) 7 1), (64, 0x18008116, 0x00000008, 0, .rld (.x 1) (.x 2) 8 0),
   (64, 0x0030811E, 0x00000000, 0, .ramor .add false (.x 1) (.x 2) (.x 3) (.x 0) 0),
   (64, 0x00308122, 0x01000000, 0, .sel (.x 1) (.x 2) (.x 3) (.x 4)), (64, 0x00308026, 0x00000000, 0, .meet (.x 2) (.v 3)),
   (64, 0x14308142, 0x00020000, 0, .vcmp .lt .i32 0 1 (.v 2) (.v 3)),
   (64, 0x0000815A, 0x000000A7, 0, .vcvt .bf16 .f32 .ne 0 (.v 1) (.v 2)), (64, 0x00008162, 0x60000000, 0, .vrcp .f32 (.v 1) (.v 2) 6),
   (96, 0x00000107, 0x00000000, 0x80000001, .lit (.x 1) 0x80000001)]

/-- R40 to R50: the words of the two tables decode to their instructions, and R46: the all-zero word to none. -/
def Clause.SpecWordsDecode : Prop :=
  (∀ row ∈ specWordsA, decodeTableWord 32 row.1 = some row.2) ∧
  (∀ row ∈ specWordsLong, decodeTableWord row.1 (row.2.1 + 2 ^ 32 * row.2.2.1 + 2 ^ 64 * row.2.2.2.1) = some row.2.2.2.2) ∧
  decodeTableWord 32 0 = none

/-- R75, R76, R147: when a core's turn to issue comes, and the bytes at the head of the issuing context's fetch buffer decode to an
instruction, the step is that instruction, for that context; the units after the core act next. -/
def Clause.StepRunsInstruction : Prop :=
  ∀ (i : Instr) (n c t : Nat) (rest : List Agent) (s : State), s.halt = false → s.todo = .issue c :: rest →
    (s.core c).stopped = false → issuer s c = some t → decodeBytes (s.ctx c t).fbuf = .ok (i, n) →
      step s = exec i { s with cur := { core := c, slot := t }, todo := rest }

/-- The other steps: a unit's first row that can be performed is performed, and the unit acts again unless the row takes its
clock; with no unit left and no input, time passes to the next clock edge; once every clock has stopped (R355), nothing but a
module reset goes on. -/
def Clause.StepRunsUnits : Prop :=
  ∀ (s : State),
    (∀ (a : Agent) (rest : List Agent) (before l : List Cand) (x : Cand) (t : State), s.halt = false → s.todo = a :: rest →
      let on (y : Cand) : State := { s with cur := y.cur, todo := if y.stays then a :: rest else rest }
      candidates s a = before ++ x :: l → (∀ y ∈ before, ∃ r, exec y.instr (on y) = .refused r) → exec x.instr (on x) = .next t →
        step s = .next t) ∧
    (s.halt = false → s.todo = [] → s.inputs = [] → step s = .next (tick { s with todo := [] }) ∧ s.now ≤ (tick s).now) ∧
    (s.halt = true → resetNext s = false → step s = .fault .thermalShutdown)

/-- Words of the tables of R46 to R50, and what a step runs. -/
def Obligations.StepsOfTheMachine : Prop := Clause.SpecWordsDecode ∧ Clause.StepRunsInstruction ∧ Clause.StepRunsUnits

/-- The registers of a context or its core whose reset value is not 0: number and value (R36, R212, R227, R237, R239, R279). -/
def resetCsrs : List (Nat × Word) :=
  [(0x000, 0x21), (0x02D, 1), (0x03A, BitVec.ofNat 64 (12 * 2 ^ 34)), (0x040, 16), (0x042, 8), (0x048, BitVec.allOnes 64)]

/-- R11 with the Reset columns of the registers: after reset every register of every slot has its value of the table, and each other
one but CTXNUM (0x002), which describes the slot, is zero; no job, launch or group is there; the
dies run at P0 with links of full width; the package is at boot stage 0 without a feature, with LIMIT 95, CRIT 110 and SPTIME
all ones; every memory is in its canonical form. Memory that reads zero, and package time that starts at 0,
are the model's choice (log entries 1 and 2). -/
def Obligations.ResetState : Prop :=
  let s := State.reset
  (∀ row ∈ resetCsrs, ∀ c t : Nat, csrPeek s c t row.1 = row.2) ∧
  (∀ c t n : Nat, n ∉ resetCsrs.map Prod.fst → n ≠ 0x002 → csrPeek s c t n = 0) ∧
  (∀ c t : Nat, (s.ctx c t).status = .free ∧ (s.ctx c t).tl = 0 ∧ (s.ctx c t).mode = .job ∧ (s.core c).group = none) ∧
  (∀ d : Nat, (s.die d).target = 0 ∧ (s.die d).current = 0 ∧ (s.die d).width = 0 ∧ (s.die d).gated = false) ∧
  s.jobs = [] ∧ s.launches = [] ∧ s.msgs = [] ∧ s.ptime = 0 ∧ s.mgmt.stage = 0 ∧ s.mgmt.error = 0 ∧ s.mgmt.featon = 0 ∧
  s.mgmt.limit = 95 ∧ s.mgmt.crit = 110 ∧ s.mgmt.sptime = BitVec.allOnes 64 ∧ s.mgmt.intstat = 0 ∧ s.mgmt.intmask = 0 ∧
  s.memoriesWf = true

/-- The memories of the package (device memory, host memory, every scratchpad, and the scratchpads that save images keep) stay in
canonical form, addresses strictly rising and no byte listed that an unlisted address reads as: whatever step the machine
takes, and whatever unit takes it. -/
def Obligations.StepKeepsMemoriesWf : Prop := ∀ s t : State, s.memoriesWf = true → step s = .next t → t.memoriesWf = true

/-- R64: x0 reads as zero in every context and discards writes, and no instruction leaves it pending; a write of any other register is
read back, and leaves the other registers and the rest of the context as they were. -/
def Obligations.ZeroRegister : Prop :=
  (∀ (x : Ctx) (w : Word), x.getX 0 = 0 ∧ x.setX 0 w = x) ∧ (∀ i : Instr, (0, 0) ∉ pendingRegs i) ∧
  ∀ (x : Ctx) (d : Fin 48) (w : Word), d ≠ 0 → (x.setX d w).getX d = w ∧
    (∀ r : Fin 48, r ≠ d → (x.setX d w).getX r = x.getX r) ∧ ({ x.setX d w with x := x.x } : Ctx) = x
end

