-- ==== Sys2Proof/Laws/State.lean ====
section
/-! SUPPORT. What each update of the state leaves alone: one lemma for each field and update, so that no later proof unfolds a
record update. -/

namespace Sys2Proof.Machine.State

/-! setCore -/

@[simp] theorem setCore_now (s : State) (c : Nat) (k : Core) : (s.setCore c k).now = s.now := rfl
@[simp] theorem setCore_free (s : State) (c : Nat) (k : Core) : (s.setCore c k).free = s.free := rfl
@[simp] theorem setCore_nextId (s : State) (c : Nat) (k : Core) : (s.setCore c k).nextId = s.nextId := rfl
@[simp] theorem setCore_todo (s : State) (c : Nat) (k : Core) : (s.setCore c k).todo = s.todo := rfl
@[simp] theorem setCore_cur (s : State) (c : Nat) (k : Core) : (s.setCore c k).cur = s.cur := rfl
@[simp] theorem setCore_inputs (s : State) (c : Nat) (k : Core) : (s.setCore c k).inputs = s.inputs := rfl
@[simp] theorem setCore_dies (s : State) (c : Nat) (k : Core) : (s.setCore c k).dies = s.dies := rfl
@[simp] theorem setCore_squares (s : State) (c : Nat) (k : Core) : (s.setCore c k).squares = s.squares := rfl
@[simp] theorem setCore_plains (s : State) (c : Nat) (k : Core) : (s.setCore c k).plains = s.plains := rfl
@[simp] theorem setCore_north (s : State) (c : Nat) (k : Core) : (s.setCore c k).north = s.north := rfl
@[simp] theorem setCore_msgs (s : State) (c : Nat) (k : Core) : (s.setCore c k).msgs = s.msgs := rfl
@[simp] theorem setCore_hbm (s : State) (c : Nat) (k : Core) : (s.setCore c k).hbm = s.hbm := rfl
@[simp] theorem setCore_host (s : State) (c : Nat) (k : Core) : (s.setCore c k).host = s.host := rfl
@[simp] theorem setCore_jobs (s : State) (c : Nat) (k : Core) : (s.setCore c k).jobs = s.jobs := rfl
@[simp] theorem setCore_launches (s : State) (c : Nat) (k : Core) : (s.setCore c k).launches = s.launches := rfl
@[simp] theorem setCore_lastLaunch (s : State) (c : Nat) (k : Core) : (s.setCore c k).lastLaunch = s.lastLaunch := rfl
@[simp] theorem setCore_lastDealt (s : State) (c : Nat) (k : Core) : (s.setCore c k).lastDealt = s.lastDealt := rfl
@[simp] theorem setCore_requests (s : State) (c : Nat) (k : Core) : (s.setCore c k).requests = s.requests := rfl
@[simp] theorem setCore_rounds (s : State) (c : Nat) (k : Core) : (s.setCore c k).rounds = s.rounds := rfl
@[simp] theorem setCore_invals (s : State) (c : Nat) (k : Core) : (s.setCore c k).invals = s.invals := rfl
@[simp] theorem setCore_clk (s : State) (c d : Nat) (k : Core) : (s.setCore c k).clk d = s.clk d := rfl
@[simp] theorem setCore_regs (s : State) (c : Nat) (k : Core) : (s.setCore c k).regs = s.regs := rfl
@[simp] theorem setCore_gangs (s : State) (c : Nat) (k : Core) : (s.setCore c k).gangs = s.gangs := rfl
@[simp] theorem setCore_images (s : State) (c : Nat) (k : Core) : (s.setCore c k).images = s.images := rfl
@[simp] theorem setCore_shrink (s : State) (c : Nat) (k : Core) : (s.setCore c k).shrink = s.shrink := rfl
@[simp] theorem setCore_ports (s : State) (c : Nat) (k : Core) : (s.setCore c k).ports = s.ports := rfl
@[simp] theorem setCore_ueports (s : State) (c : Nat) (k : Core) : (s.setCore c k).ueports = s.ueports := rfl
@[simp] theorem setCore_mgmt (s : State) (c : Nat) (k : Core) : (s.setCore c k).mgmt = s.mgmt := rfl
@[simp] theorem setCore_upsets (s : State) (c : Nat) (k : Core) : (s.setCore c k).upsets = s.upsets := rfl
@[simp] theorem setCore_near (s : State) (c : Nat) (k : Core) : (s.setCore c k).near = s.near := rfl
@[simp] theorem setCore_replies (s : State) (c : Nat) (k : Core) : (s.setCore c k).replies = s.replies := rfl
@[simp] theorem setCore_sweepAt (s : State) (c : Nat) (k : Core) : (s.setCore c k).sweepAt = s.sweepAt := rfl
@[simp] theorem setCore_sweep (s : State) (c : Nat) (k : Core) : (s.setCore c k).sweep = s.sweep := rfl
@[simp] theorem setCore_lateSaves (s : State) (c : Nat) (k : Core) : (s.setCore c k).lateSaves = s.lateSaves := rfl
@[simp] theorem setCore_hostReply (s : State) (c : Nat) (k : Core) : (s.setCore c k).hostReply = s.hostReply := rfl
@[simp] theorem setCore_hostError (s : State) (c : Nat) (k : Core) : (s.setCore c k).hostError = s.hostError := rfl
@[simp] theorem setCore_regReply (s : State) (c : Nat) (k : Core) : (s.setCore c k).regReply = s.regReply := rfl
@[simp] theorem setCore_halt (s : State) (c : Nat) (k : Core) : (s.setCore c k).halt = s.halt := rfl
@[simp] theorem setCore_retiredSquares (s : State) (c : Nat) (k : Core) : (s.setCore c k).retiredSquares = s.retiredSquares := rfl
@[simp] theorem setCore_retireDue (s : State) (c : Nat) (k : Core) : (s.setCore c k).retireDue = s.retireDue := rfl
@[simp] theorem setCore_spares (s : State) (c : Nat) (k : Core) : (s.setCore c k).spares = s.spares := rfl
@[simp] theorem setCore_fuses (s : State) (c : Nat) (k : Core) : (s.setCore c k).fuses = s.fuses := rfl
@[simp] theorem setCore_held (s : State) (c : Nat) (k : Core) : (s.setCore c k).held = s.held := rfl
@[simp] theorem setCore_faultsDue (s : State) (c : Nat) (k : Core) : (s.setCore c k).faultsDue = s.faultsDue := rfl

/-! updCore -/

@[simp] theorem updCore_now (s : State) (c : Nat) (f : Core → Core) : (s.updCore c f).now = s.now := rfl
@[simp] theorem updCore_free (s : State) (c : Nat) (f : Core → Core) : (s.updCore c f).free = s.free := rfl
@[simp] theorem updCore_nextId (s : State) (c : Nat) (f : Core → Core) : (s.updCore c f).nextId = s.nextId := rfl
@[simp] theorem updCore_todo (s : State) (c : Nat) (f : Core → Core) : (s.updCore c f).todo = s.todo := rfl
@[simp] theorem updCore_cur (s : State) (c : Nat) (f : Core → Core) : (s.updCore c f).cur = s.cur := rfl
@[simp] theorem updCore_inputs (s : State) (c : Nat) (f : Core → Core) : (s.updCore c f).inputs = s.inputs := rfl
@[simp] theorem updCore_dies (s : State) (c : Nat) (f : Core → Core) : (s.updCore c f).dies = s.dies := rfl
@[simp] theorem updCore_squares (s : State) (c : Nat) (f : Core → Core) : (s.updCore c f).squares = s.squares := rfl
@[simp] theorem updCore_plains (s : State) (c : Nat) (f : Core → Core) : (s.updCore c f).plains = s.plains := rfl
@[simp] theorem updCore_north (s : State) (c : Nat) (f : Core → Core) : (s.updCore c f).north = s.north := rfl
@[simp] theorem updCore_msgs (s : State) (c : Nat) (f : Core → Core) : (s.updCore c f).msgs = s.msgs := rfl
@[simp] theorem updCore_hbm (s : State) (c : Nat) (f : Core → Core) : (s.updCore c f).hbm = s.hbm := rfl
@[simp] theorem updCore_host (s : State) (c : Nat) (f : Core → Core) : (s.updCore c f).host = s.host := rfl
@[simp] theorem updCore_jobs (s : State) (c : Nat) (f : Core → Core) : (s.updCore c f).jobs = s.jobs := rfl
@[simp] theorem updCore_launches (s : State) (c : Nat) (f : Core → Core) : (s.updCore c f).launches = s.launches := rfl
@[simp] theorem updCore_lastLaunch (s : State) (c : Nat) (f : Core → Core) : (s.updCore c f).lastLaunch = s.lastLaunch := rfl
@[simp] theorem updCore_lastDealt (s : State) (c : Nat) (f : Core → Core) : (s.updCore c f).lastDealt = s.lastDealt := rfl
@[simp] theorem updCore_requests (s : State) (c : Nat) (f : Core → Core) : (s.updCore c f).requests = s.requests := rfl
@[simp] theorem updCore_rounds (s : State) (c : Nat) (f : Core → Core) : (s.updCore c f).rounds = s.rounds := rfl
@[simp] theorem updCore_invals (s : State) (c : Nat) (f : Core → Core) : (s.updCore c f).invals = s.invals := rfl
@[simp] theorem updCore_regs (s : State) (c : Nat) (f : Core → Core) : (s.updCore c f).regs = s.regs := rfl
@[simp] theorem updCore_gangs (s : State) (c : Nat) (f : Core → Core) : (s.updCore c f).gangs = s.gangs := rfl
@[simp] theorem updCore_images (s : State) (c : Nat) (f : Core → Core) : (s.updCore c f).images = s.images := rfl
@[simp] theorem updCore_shrink (s : State) (c : Nat) (f : Core → Core) : (s.updCore c f).shrink = s.shrink := rfl
@[simp] theorem updCore_ports (s : State) (c : Nat) (f : Core → Core) : (s.updCore c f).ports = s.ports := rfl
@[simp] theorem updCore_ueports (s : State) (c : Nat) (f : Core → Core) : (s.updCore c f).ueports = s.ueports := rfl
@[simp] theorem updCore_mgmt (s : State) (c : Nat) (f : Core → Core) : (s.updCore c f).mgmt = s.mgmt := rfl
@[simp] theorem updCore_upsets (s : State) (c : Nat) (f : Core → Core) : (s.updCore c f).upsets = s.upsets := rfl
@[simp] theorem updCore_near (s : State) (c : Nat) (f : Core → Core) : (s.updCore c f).near = s.near := rfl
@[simp] theorem updCore_replies (s : State) (c : Nat) (f : Core → Core) : (s.updCore c f).replies = s.replies := rfl
@[simp] theorem updCore_sweepAt (s : State) (c : Nat) (f : Core → Core) : (s.updCore c f).sweepAt = s.sweepAt := rfl
@[simp] theorem updCore_sweep (s : State) (c : Nat) (f : Core → Core) : (s.updCore c f).sweep = s.sweep := rfl
@[simp] theorem updCore_lateSaves (s : State) (c : Nat) (f : Core → Core) : (s.updCore c f).lateSaves = s.lateSaves := rfl
@[simp] theorem updCore_hostReply (s : State) (c : Nat) (f : Core → Core) : (s.updCore c f).hostReply = s.hostReply := rfl
@[simp] theorem updCore_hostError (s : State) (c : Nat) (f : Core → Core) : (s.updCore c f).hostError = s.hostError := rfl
@[simp] theorem updCore_regReply (s : State) (c : Nat) (f : Core → Core) : (s.updCore c f).regReply = s.regReply := rfl
@[simp] theorem updCore_halt (s : State) (c : Nat) (f : Core → Core) : (s.updCore c f).halt = s.halt := rfl
@[simp] theorem updCore_retiredSquares (s : State) (c : Nat) (f : Core → Core) : (s.updCore c f).retiredSquares = s.retiredSquares := rfl
@[simp] theorem updCore_retireDue (s : State) (c : Nat) (f : Core → Core) : (s.updCore c f).retireDue = s.retireDue := rfl
@[simp] theorem updCore_spares (s : State) (c : Nat) (f : Core → Core) : (s.updCore c f).spares = s.spares := rfl
@[simp] theorem updCore_fuses (s : State) (c : Nat) (f : Core → Core) : (s.updCore c f).fuses = s.fuses := rfl
@[simp] theorem updCore_held (s : State) (c : Nat) (f : Core → Core) : (s.updCore c f).held = s.held := rfl
@[simp] theorem updCore_faultsDue (s : State) (c : Nat) (f : Core → Core) : (s.updCore c f).faultsDue = s.faultsDue := rfl

/-! setCtx -/

@[simp] theorem setCtx_now (s : State) (c t : Nat) (x : Ctx) : (s.setCtx c t x).now = s.now := rfl
@[simp] theorem setCtx_free (s : State) (c t : Nat) (x : Ctx) : (s.setCtx c t x).free = s.free := rfl
@[simp] theorem setCtx_nextId (s : State) (c t : Nat) (x : Ctx) : (s.setCtx c t x).nextId = s.nextId := rfl
@[simp] theorem setCtx_todo (s : State) (c t : Nat) (x : Ctx) : (s.setCtx c t x).todo = s.todo := rfl
@[simp] theorem setCtx_cur (s : State) (c t : Nat) (x : Ctx) : (s.setCtx c t x).cur = s.cur := rfl
@[simp] theorem setCtx_inputs (s : State) (c t : Nat) (x : Ctx) : (s.setCtx c t x).inputs = s.inputs := rfl
@[simp] theorem setCtx_dies (s : State) (c t : Nat) (x : Ctx) : (s.setCtx c t x).dies = s.dies := rfl
@[simp] theorem setCtx_squares (s : State) (c t : Nat) (x : Ctx) : (s.setCtx c t x).squares = s.squares := rfl
@[simp] theorem setCtx_plains (s : State) (c t : Nat) (x : Ctx) : (s.setCtx c t x).plains = s.plains := rfl
@[simp] theorem setCtx_north (s : State) (c t : Nat) (x : Ctx) : (s.setCtx c t x).north = s.north := rfl
@[simp] theorem setCtx_msgs (s : State) (c t : Nat) (x : Ctx) : (s.setCtx c t x).msgs = s.msgs := rfl
@[simp] theorem setCtx_hbm (s : State) (c t : Nat) (x : Ctx) : (s.setCtx c t x).hbm = s.hbm := rfl
@[simp] theorem setCtx_host (s : State) (c t : Nat) (x : Ctx) : (s.setCtx c t x).host = s.host := rfl
@[simp] theorem setCtx_jobs (s : State) (c t : Nat) (x : Ctx) : (s.setCtx c t x).jobs = s.jobs := rfl
@[simp] theorem setCtx_launches (s : State) (c t : Nat) (x : Ctx) : (s.setCtx c t x).launches = s.launches := rfl
@[simp] theorem setCtx_lastLaunch (s : State) (c t : Nat) (x : Ctx) : (s.setCtx c t x).lastLaunch = s.lastLaunch := rfl
@[simp] theorem setCtx_lastDealt (s : State) (c t : Nat) (x : Ctx) : (s.setCtx c t x).lastDealt = s.lastDealt := rfl
@[simp] theorem setCtx_requests (s : State) (c t : Nat) (x : Ctx) : (s.setCtx c t x).requests = s.requests := rfl
@[simp] theorem setCtx_rounds (s : State) (c t : Nat) (x : Ctx) : (s.setCtx c t x).rounds = s.rounds := rfl
@[simp] theorem setCtx_invals (s : State) (c t : Nat) (x : Ctx) : (s.setCtx c t x).invals = s.invals := rfl
@[simp] theorem setCtx_regs (s : State) (c t : Nat) (x : Ctx) : (s.setCtx c t x).regs = s.regs := rfl
@[simp] theorem setCtx_gangs (s : State) (c t : Nat) (x : Ctx) : (s.setCtx c t x).gangs = s.gangs := rfl
@[simp] theorem setCtx_images (s : State) (c t : Nat) (x : Ctx) : (s.setCtx c t x).images = s.images := rfl
@[simp] theorem setCtx_shrink (s : State) (c t : Nat) (x : Ctx) : (s.setCtx c t x).shrink = s.shrink := rfl
@[simp] theorem setCtx_ports (s : State) (c t : Nat) (x : Ctx) : (s.setCtx c t x).ports = s.ports := rfl
@[simp] theorem setCtx_ueports (s : State) (c t : Nat) (x : Ctx) : (s.setCtx c t x).ueports = s.ueports := rfl
@[simp] theorem setCtx_mgmt (s : State) (c t : Nat) (x : Ctx) : (s.setCtx c t x).mgmt = s.mgmt := rfl
@[simp] theorem setCtx_upsets (s : State) (c t : Nat) (x : Ctx) : (s.setCtx c t x).upsets = s.upsets := rfl
@[simp] theorem setCtx_near (s : State) (c t : Nat) (x : Ctx) : (s.setCtx c t x).near = s.near := rfl
@[simp] theorem setCtx_replies (s : State) (c t : Nat) (x : Ctx) : (s.setCtx c t x).replies = s.replies := rfl
@[simp] theorem setCtx_sweepAt (s : State) (c t : Nat) (x : Ctx) : (s.setCtx c t x).sweepAt = s.sweepAt := rfl
@[simp] theorem setCtx_sweep (s : State) (c t : Nat) (x : Ctx) : (s.setCtx c t x).sweep = s.sweep := rfl
@[simp] theorem setCtx_lateSaves (s : State) (c t : Nat) (x : Ctx) : (s.setCtx c t x).lateSaves = s.lateSaves := rfl
@[simp] theorem setCtx_hostReply (s : State) (c t : Nat) (x : Ctx) : (s.setCtx c t x).hostReply = s.hostReply := rfl
@[simp] theorem setCtx_hostError (s : State) (c t : Nat) (x : Ctx) : (s.setCtx c t x).hostError = s.hostError := rfl
@[simp] theorem setCtx_regReply (s : State) (c t : Nat) (x : Ctx) : (s.setCtx c t x).regReply = s.regReply := rfl
@[simp] theorem setCtx_halt (s : State) (c t : Nat) (x : Ctx) : (s.setCtx c t x).halt = s.halt := rfl
@[simp] theorem setCtx_retiredSquares (s : State) (c t : Nat) (x : Ctx) : (s.setCtx c t x).retiredSquares = s.retiredSquares := rfl
@[simp] theorem setCtx_retireDue (s : State) (c t : Nat) (x : Ctx) : (s.setCtx c t x).retireDue = s.retireDue := rfl
@[simp] theorem setCtx_spares (s : State) (c t : Nat) (x : Ctx) : (s.setCtx c t x).spares = s.spares := rfl
@[simp] theorem setCtx_fuses (s : State) (c t : Nat) (x : Ctx) : (s.setCtx c t x).fuses = s.fuses := rfl
@[simp] theorem setCtx_held (s : State) (c t : Nat) (x : Ctx) : (s.setCtx c t x).held = s.held := rfl
@[simp] theorem setCtx_faultsDue (s : State) (c t : Nat) (x : Ctx) : (s.setCtx c t x).faultsDue = s.faultsDue := rfl

/-! updCtx -/

@[simp] theorem updCtx_now (s : State) (c t : Nat) (f : Ctx → Ctx) : (s.updCtx c t f).now = s.now := rfl
@[simp] theorem updCtx_free (s : State) (c t : Nat) (f : Ctx → Ctx) : (s.updCtx c t f).free = s.free := rfl
@[simp] theorem updCtx_nextId (s : State) (c t : Nat) (f : Ctx → Ctx) : (s.updCtx c t f).nextId = s.nextId := rfl
@[simp] theorem updCtx_todo (s : State) (c t : Nat) (f : Ctx → Ctx) : (s.updCtx c t f).todo = s.todo := rfl
@[simp] theorem updCtx_cur (s : State) (c t : Nat) (f : Ctx → Ctx) : (s.updCtx c t f).cur = s.cur := rfl
@[simp] theorem updCtx_inputs (s : State) (c t : Nat) (f : Ctx → Ctx) : (s.updCtx c t f).inputs = s.inputs := rfl
@[simp] theorem updCtx_dies (s : State) (c t : Nat) (f : Ctx → Ctx) : (s.updCtx c t f).dies = s.dies := rfl
@[simp] theorem updCtx_squares (s : State) (c t : Nat) (f : Ctx → Ctx) : (s.updCtx c t f).squares = s.squares := rfl
@[simp] theorem updCtx_plains (s : State) (c t : Nat) (f : Ctx → Ctx) : (s.updCtx c t f).plains = s.plains := rfl
@[simp] theorem updCtx_north (s : State) (c t : Nat) (f : Ctx → Ctx) : (s.updCtx c t f).north = s.north := rfl
@[simp] theorem updCtx_msgs (s : State) (c t : Nat) (f : Ctx → Ctx) : (s.updCtx c t f).msgs = s.msgs := rfl
@[simp] theorem updCtx_hbm (s : State) (c t : Nat) (f : Ctx → Ctx) : (s.updCtx c t f).hbm = s.hbm := rfl
@[simp] theorem updCtx_host (s : State) (c t : Nat) (f : Ctx → Ctx) : (s.updCtx c t f).host = s.host := rfl
@[simp] theorem updCtx_jobs (s : State) (c t : Nat) (f : Ctx → Ctx) : (s.updCtx c t f).jobs = s.jobs := rfl
@[simp] theorem updCtx_launches (s : State) (c t : Nat) (f : Ctx → Ctx) : (s.updCtx c t f).launches = s.launches := rfl
@[simp] theorem updCtx_lastLaunch (s : State) (c t : Nat) (f : Ctx → Ctx) : (s.updCtx c t f).lastLaunch = s.lastLaunch := rfl
@[simp] theorem updCtx_lastDealt (s : State) (c t : Nat) (f : Ctx → Ctx) : (s.updCtx c t f).lastDealt = s.lastDealt := rfl
@[simp] theorem updCtx_requests (s : State) (c t : Nat) (f : Ctx → Ctx) : (s.updCtx c t f).requests = s.requests := rfl
@[simp] theorem updCtx_rounds (s : State) (c t : Nat) (f : Ctx → Ctx) : (s.updCtx c t f).rounds = s.rounds := rfl
@[simp] theorem updCtx_invals (s : State) (c t : Nat) (f : Ctx → Ctx) : (s.updCtx c t f).invals = s.invals := rfl
@[simp] theorem updCtx_regs (s : State) (c t : Nat) (f : Ctx → Ctx) : (s.updCtx c t f).regs = s.regs := rfl
@[simp] theorem updCtx_gangs (s : State) (c t : Nat) (f : Ctx → Ctx) : (s.updCtx c t f).gangs = s.gangs := rfl
@[simp] theorem updCtx_images (s : State) (c t : Nat) (f : Ctx → Ctx) : (s.updCtx c t f).images = s.images := rfl
@[simp] theorem updCtx_shrink (s : State) (c t : Nat) (f : Ctx → Ctx) : (s.updCtx c t f).shrink = s.shrink := rfl
@[simp] theorem updCtx_ports (s : State) (c t : Nat) (f : Ctx → Ctx) : (s.updCtx c t f).ports = s.ports := rfl
@[simp] theorem updCtx_ueports (s : State) (c t : Nat) (f : Ctx → Ctx) : (s.updCtx c t f).ueports = s.ueports := rfl
@[simp] theorem updCtx_mgmt (s : State) (c t : Nat) (f : Ctx → Ctx) : (s.updCtx c t f).mgmt = s.mgmt := rfl
@[simp] theorem updCtx_upsets (s : State) (c t : Nat) (f : Ctx → Ctx) : (s.updCtx c t f).upsets = s.upsets := rfl
@[simp] theorem updCtx_near (s : State) (c t : Nat) (f : Ctx → Ctx) : (s.updCtx c t f).near = s.near := rfl
@[simp] theorem updCtx_replies (s : State) (c t : Nat) (f : Ctx → Ctx) : (s.updCtx c t f).replies = s.replies := rfl
@[simp] theorem updCtx_sweepAt (s : State) (c t : Nat) (f : Ctx → Ctx) : (s.updCtx c t f).sweepAt = s.sweepAt := rfl
@[simp] theorem updCtx_sweep (s : State) (c t : Nat) (f : Ctx → Ctx) : (s.updCtx c t f).sweep = s.sweep := rfl
@[simp] theorem updCtx_lateSaves (s : State) (c t : Nat) (f : Ctx → Ctx) : (s.updCtx c t f).lateSaves = s.lateSaves := rfl
@[simp] theorem updCtx_hostReply (s : State) (c t : Nat) (f : Ctx → Ctx) : (s.updCtx c t f).hostReply = s.hostReply := rfl
@[simp] theorem updCtx_hostError (s : State) (c t : Nat) (f : Ctx → Ctx) : (s.updCtx c t f).hostError = s.hostError := rfl
@[simp] theorem updCtx_regReply (s : State) (c t : Nat) (f : Ctx → Ctx) : (s.updCtx c t f).regReply = s.regReply := rfl
@[simp] theorem updCtx_halt (s : State) (c t : Nat) (f : Ctx → Ctx) : (s.updCtx c t f).halt = s.halt := rfl
@[simp] theorem updCtx_retiredSquares (s : State) (c t : Nat) (f : Ctx → Ctx) : (s.updCtx c t f).retiredSquares = s.retiredSquares := rfl
@[simp] theorem updCtx_retireDue (s : State) (c t : Nat) (f : Ctx → Ctx) : (s.updCtx c t f).retireDue = s.retireDue := rfl
@[simp] theorem updCtx_spares (s : State) (c t : Nat) (f : Ctx → Ctx) : (s.updCtx c t f).spares = s.spares := rfl
@[simp] theorem updCtx_fuses (s : State) (c t : Nat) (f : Ctx → Ctx) : (s.updCtx c t f).fuses = s.fuses := rfl
@[simp] theorem updCtx_held (s : State) (c t : Nat) (f : Ctx → Ctx) : (s.updCtx c t f).held = s.held := rfl
@[simp] theorem updCtx_faultsDue (s : State) (c t : Nat) (f : Ctx → Ctx) : (s.updCtx c t f).faultsDue = s.faultsDue := rfl

/-! updMe -/

@[simp] theorem updMe_now (s : State) (f : Ctx → Ctx) : (s.updMe f).now = s.now := rfl
@[simp] theorem updMe_free (s : State) (f : Ctx → Ctx) : (s.updMe f).free = s.free := rfl
@[simp] theorem updMe_nextId (s : State) (f : Ctx → Ctx) : (s.updMe f).nextId = s.nextId := rfl
@[simp] theorem updMe_todo (s : State) (f : Ctx → Ctx) : (s.updMe f).todo = s.todo := rfl
@[simp] theorem updMe_cur (s : State) (f : Ctx → Ctx) : (s.updMe f).cur = s.cur := rfl
@[simp] theorem updMe_inputs (s : State) (f : Ctx → Ctx) : (s.updMe f).inputs = s.inputs := rfl
@[simp] theorem updMe_dies (s : State) (f : Ctx → Ctx) : (s.updMe f).dies = s.dies := rfl
@[simp] theorem updMe_squares (s : State) (f : Ctx → Ctx) : (s.updMe f).squares = s.squares := rfl
@[simp] theorem updMe_plains (s : State) (f : Ctx → Ctx) : (s.updMe f).plains = s.plains := rfl
@[simp] theorem updMe_north (s : State) (f : Ctx → Ctx) : (s.updMe f).north = s.north := rfl
@[simp] theorem updMe_msgs (s : State) (f : Ctx → Ctx) : (s.updMe f).msgs = s.msgs := rfl
@[simp] theorem updMe_hbm (s : State) (f : Ctx → Ctx) : (s.updMe f).hbm = s.hbm := rfl
@[simp] theorem updMe_host (s : State) (f : Ctx → Ctx) : (s.updMe f).host = s.host := rfl
@[simp] theorem updMe_jobs (s : State) (f : Ctx → Ctx) : (s.updMe f).jobs = s.jobs := rfl
@[simp] theorem updMe_launches (s : State) (f : Ctx → Ctx) : (s.updMe f).launches = s.launches := rfl
@[simp] theorem updMe_lastLaunch (s : State) (f : Ctx → Ctx) : (s.updMe f).lastLaunch = s.lastLaunch := rfl
@[simp] theorem updMe_lastDealt (s : State) (f : Ctx → Ctx) : (s.updMe f).lastDealt = s.lastDealt := rfl
@[simp] theorem updMe_requests (s : State) (f : Ctx → Ctx) : (s.updMe f).requests = s.requests := rfl
@[simp] theorem updMe_rounds (s : State) (f : Ctx → Ctx) : (s.updMe f).rounds = s.rounds := rfl
@[simp] theorem updMe_invals (s : State) (f : Ctx → Ctx) : (s.updMe f).invals = s.invals := rfl
@[simp] theorem updMe_regs (s : State) (f : Ctx → Ctx) : (s.updMe f).regs = s.regs := rfl
@[simp] theorem updMe_gangs (s : State) (f : Ctx → Ctx) : (s.updMe f).gangs = s.gangs := rfl
@[simp] theorem updMe_images (s : State) (f : Ctx → Ctx) : (s.updMe f).images = s.images := rfl
@[simp] theorem updMe_shrink (s : State) (f : Ctx → Ctx) : (s.updMe f).shrink = s.shrink := rfl
@[simp] theorem updMe_ports (s : State) (f : Ctx → Ctx) : (s.updMe f).ports = s.ports := rfl
@[simp] theorem updMe_ueports (s : State) (f : Ctx → Ctx) : (s.updMe f).ueports = s.ueports := rfl
@[simp] theorem updMe_mgmt (s : State) (f : Ctx → Ctx) : (s.updMe f).mgmt = s.mgmt := rfl
@[simp] theorem updMe_upsets (s : State) (f : Ctx → Ctx) : (s.updMe f).upsets = s.upsets := rfl
@[simp] theorem updMe_near (s : State) (f : Ctx → Ctx) : (s.updMe f).near = s.near := rfl
@[simp] theorem updMe_replies (s : State) (f : Ctx → Ctx) : (s.updMe f).replies = s.replies := rfl
@[simp] theorem updMe_sweepAt (s : State) (f : Ctx → Ctx) : (s.updMe f).sweepAt = s.sweepAt := rfl
@[simp] theorem updMe_sweep (s : State) (f : Ctx → Ctx) : (s.updMe f).sweep = s.sweep := rfl
@[simp] theorem updMe_lateSaves (s : State) (f : Ctx → Ctx) : (s.updMe f).lateSaves = s.lateSaves := rfl
@[simp] theorem updMe_hostReply (s : State) (f : Ctx → Ctx) : (s.updMe f).hostReply = s.hostReply := rfl
@[simp] theorem updMe_hostError (s : State) (f : Ctx → Ctx) : (s.updMe f).hostError = s.hostError := rfl
@[simp] theorem updMe_regReply (s : State) (f : Ctx → Ctx) : (s.updMe f).regReply = s.regReply := rfl
@[simp] theorem updMe_halt (s : State) (f : Ctx → Ctx) : (s.updMe f).halt = s.halt := rfl
@[simp] theorem updMe_retiredSquares (s : State) (f : Ctx → Ctx) : (s.updMe f).retiredSquares = s.retiredSquares := rfl
@[simp] theorem updMe_retireDue (s : State) (f : Ctx → Ctx) : (s.updMe f).retireDue = s.retireDue := rfl
@[simp] theorem updMe_spares (s : State) (f : Ctx → Ctx) : (s.updMe f).spares = s.spares := rfl
@[simp] theorem updMe_fuses (s : State) (f : Ctx → Ctx) : (s.updMe f).fuses = s.fuses := rfl
@[simp] theorem updMe_held (s : State) (f : Ctx → Ctx) : (s.updMe f).held = s.held := rfl
@[simp] theorem updMe_faultsDue (s : State) (f : Ctx → Ctx) : (s.updMe f).faultsDue = s.faultsDue := rfl

/-! updMyCore -/

@[simp] theorem updMyCore_now (s : State) (f : Core → Core) : (s.updMyCore f).now = s.now := rfl
@[simp] theorem updMyCore_free (s : State) (f : Core → Core) : (s.updMyCore f).free = s.free := rfl
@[simp] theorem updMyCore_nextId (s : State) (f : Core → Core) : (s.updMyCore f).nextId = s.nextId := rfl
@[simp] theorem updMyCore_todo (s : State) (f : Core → Core) : (s.updMyCore f).todo = s.todo := rfl
@[simp] theorem updMyCore_cur (s : State) (f : Core → Core) : (s.updMyCore f).cur = s.cur := rfl
@[simp] theorem updMyCore_inputs (s : State) (f : Core → Core) : (s.updMyCore f).inputs = s.inputs := rfl
@[simp] theorem updMyCore_dies (s : State) (f : Core → Core) : (s.updMyCore f).dies = s.dies := rfl
@[simp] theorem updMyCore_squares (s : State) (f : Core → Core) : (s.updMyCore f).squares = s.squares := rfl
@[simp] theorem updMyCore_plains (s : State) (f : Core → Core) : (s.updMyCore f).plains = s.plains := rfl
@[simp] theorem updMyCore_north (s : State) (f : Core → Core) : (s.updMyCore f).north = s.north := rfl
@[simp] theorem updMyCore_msgs (s : State) (f : Core → Core) : (s.updMyCore f).msgs = s.msgs := rfl
@[simp] theorem updMyCore_hbm (s : State) (f : Core → Core) : (s.updMyCore f).hbm = s.hbm := rfl
@[simp] theorem updMyCore_host (s : State) (f : Core → Core) : (s.updMyCore f).host = s.host := rfl
@[simp] theorem updMyCore_jobs (s : State) (f : Core → Core) : (s.updMyCore f).jobs = s.jobs := rfl
@[simp] theorem updMyCore_launches (s : State) (f : Core → Core) : (s.updMyCore f).launches = s.launches := rfl
@[simp] theorem updMyCore_lastLaunch (s : State) (f : Core → Core) : (s.updMyCore f).lastLaunch = s.lastLaunch := rfl
@[simp] theorem updMyCore_lastDealt (s : State) (f : Core → Core) : (s.updMyCore f).lastDealt = s.lastDealt := rfl
@[simp] theorem updMyCore_requests (s : State) (f : Core → Core) : (s.updMyCore f).requests = s.requests := rfl
@[simp] theorem updMyCore_rounds (s : State) (f : Core → Core) : (s.updMyCore f).rounds = s.rounds := rfl
@[simp] theorem updMyCore_invals (s : State) (f : Core → Core) : (s.updMyCore f).invals = s.invals := rfl
@[simp] theorem updMyCore_regs (s : State) (f : Core → Core) : (s.updMyCore f).regs = s.regs := rfl
@[simp] theorem updMyCore_gangs (s : State) (f : Core → Core) : (s.updMyCore f).gangs = s.gangs := rfl
@[simp] theorem updMyCore_images (s : State) (f : Core → Core) : (s.updMyCore f).images = s.images := rfl
@[simp] theorem updMyCore_shrink (s : State) (f : Core → Core) : (s.updMyCore f).shrink = s.shrink := rfl
@[simp] theorem updMyCore_ports (s : State) (f : Core → Core) : (s.updMyCore f).ports = s.ports := rfl
@[simp] theorem updMyCore_ueports (s : State) (f : Core → Core) : (s.updMyCore f).ueports = s.ueports := rfl
@[simp] theorem updMyCore_mgmt (s : State) (f : Core → Core) : (s.updMyCore f).mgmt = s.mgmt := rfl
@[simp] theorem updMyCore_upsets (s : State) (f : Core → Core) : (s.updMyCore f).upsets = s.upsets := rfl
@[simp] theorem updMyCore_near (s : State) (f : Core → Core) : (s.updMyCore f).near = s.near := rfl
@[simp] theorem updMyCore_replies (s : State) (f : Core → Core) : (s.updMyCore f).replies = s.replies := rfl
@[simp] theorem updMyCore_sweepAt (s : State) (f : Core → Core) : (s.updMyCore f).sweepAt = s.sweepAt := rfl
@[simp] theorem updMyCore_sweep (s : State) (f : Core → Core) : (s.updMyCore f).sweep = s.sweep := rfl
@[simp] theorem updMyCore_lateSaves (s : State) (f : Core → Core) : (s.updMyCore f).lateSaves = s.lateSaves := rfl
@[simp] theorem updMyCore_hostReply (s : State) (f : Core → Core) : (s.updMyCore f).hostReply = s.hostReply := rfl
@[simp] theorem updMyCore_hostError (s : State) (f : Core → Core) : (s.updMyCore f).hostError = s.hostError := rfl
@[simp] theorem updMyCore_regReply (s : State) (f : Core → Core) : (s.updMyCore f).regReply = s.regReply := rfl
@[simp] theorem updMyCore_halt (s : State) (f : Core → Core) : (s.updMyCore f).halt = s.halt := rfl
@[simp] theorem updMyCore_retiredSquares (s : State) (f : Core → Core) : (s.updMyCore f).retiredSquares = s.retiredSquares := rfl
@[simp] theorem updMyCore_retireDue (s : State) (f : Core → Core) : (s.updMyCore f).retireDue = s.retireDue := rfl
@[simp] theorem updMyCore_spares (s : State) (f : Core → Core) : (s.updMyCore f).spares = s.spares := rfl
@[simp] theorem updMyCore_fuses (s : State) (f : Core → Core) : (s.updMyCore f).fuses = s.fuses := rfl
@[simp] theorem updMyCore_held (s : State) (f : Core → Core) : (s.updMyCore f).held = s.held := rfl
@[simp] theorem updMyCore_faultsDue (s : State) (f : Core → Core) : (s.updMyCore f).faultsDue = s.faultsDue := rfl

/-! updDie -/

@[simp] theorem updDie_now (s : State) (d : Nat) (f : Die → Die) : (s.updDie d f).now = s.now := rfl
@[simp] theorem updDie_free (s : State) (d : Nat) (f : Die → Die) : (s.updDie d f).free = s.free := rfl
@[simp] theorem updDie_nextId (s : State) (d : Nat) (f : Die → Die) : (s.updDie d f).nextId = s.nextId := rfl
@[simp] theorem updDie_todo (s : State) (d : Nat) (f : Die → Die) : (s.updDie d f).todo = s.todo := rfl
@[simp] theorem updDie_cur (s : State) (d : Nat) (f : Die → Die) : (s.updDie d f).cur = s.cur := rfl
@[simp] theorem updDie_inputs (s : State) (d : Nat) (f : Die → Die) : (s.updDie d f).inputs = s.inputs := rfl
@[simp] theorem updDie_cores (s : State) (d : Nat) (f : Die → Die) : (s.updDie d f).cores = s.cores := rfl
@[simp] theorem updDie_squares (s : State) (d : Nat) (f : Die → Die) : (s.updDie d f).squares = s.squares := rfl
@[simp] theorem updDie_plains (s : State) (d : Nat) (f : Die → Die) : (s.updDie d f).plains = s.plains := rfl
@[simp] theorem updDie_north (s : State) (d : Nat) (f : Die → Die) : (s.updDie d f).north = s.north := rfl
@[simp] theorem updDie_msgs (s : State) (d : Nat) (f : Die → Die) : (s.updDie d f).msgs = s.msgs := rfl
@[simp] theorem updDie_hbm (s : State) (d : Nat) (f : Die → Die) : (s.updDie d f).hbm = s.hbm := rfl
@[simp] theorem updDie_host (s : State) (d : Nat) (f : Die → Die) : (s.updDie d f).host = s.host := rfl
@[simp] theorem updDie_jobs (s : State) (d : Nat) (f : Die → Die) : (s.updDie d f).jobs = s.jobs := rfl
@[simp] theorem updDie_launches (s : State) (d : Nat) (f : Die → Die) : (s.updDie d f).launches = s.launches := rfl
@[simp] theorem updDie_lastLaunch (s : State) (d : Nat) (f : Die → Die) : (s.updDie d f).lastLaunch = s.lastLaunch := rfl
@[simp] theorem updDie_lastDealt (s : State) (d : Nat) (f : Die → Die) : (s.updDie d f).lastDealt = s.lastDealt := rfl
@[simp] theorem updDie_requests (s : State) (d : Nat) (f : Die → Die) : (s.updDie d f).requests = s.requests := rfl
@[simp] theorem updDie_rounds (s : State) (d : Nat) (f : Die → Die) : (s.updDie d f).rounds = s.rounds := rfl
@[simp] theorem updDie_invals (s : State) (d : Nat) (f : Die → Die) : (s.updDie d f).invals = s.invals := rfl
@[simp] theorem updDie_regs (s : State) (d : Nat) (f : Die → Die) : (s.updDie d f).regs = s.regs := rfl
@[simp] theorem updDie_gangs (s : State) (d : Nat) (f : Die → Die) : (s.updDie d f).gangs = s.gangs := rfl
@[simp] theorem updDie_images (s : State) (d : Nat) (f : Die → Die) : (s.updDie d f).images = s.images := rfl
@[simp] theorem updDie_shrink (s : State) (d : Nat) (f : Die → Die) : (s.updDie d f).shrink = s.shrink := rfl
@[simp] theorem updDie_ports (s : State) (d : Nat) (f : Die → Die) : (s.updDie d f).ports = s.ports := rfl
@[simp] theorem updDie_ueports (s : State) (d : Nat) (f : Die → Die) : (s.updDie d f).ueports = s.ueports := rfl
@[simp] theorem updDie_mgmt (s : State) (d : Nat) (f : Die → Die) : (s.updDie d f).mgmt = s.mgmt := rfl
@[simp] theorem updDie_upsets (s : State) (d : Nat) (f : Die → Die) : (s.updDie d f).upsets = s.upsets := rfl
@[simp] theorem updDie_near (s : State) (d : Nat) (f : Die → Die) : (s.updDie d f).near = s.near := rfl
@[simp] theorem updDie_replies (s : State) (d : Nat) (f : Die → Die) : (s.updDie d f).replies = s.replies := rfl
@[simp] theorem updDie_sweepAt (s : State) (d : Nat) (f : Die → Die) : (s.updDie d f).sweepAt = s.sweepAt := rfl
@[simp] theorem updDie_sweep (s : State) (d : Nat) (f : Die → Die) : (s.updDie d f).sweep = s.sweep := rfl
@[simp] theorem updDie_lateSaves (s : State) (d : Nat) (f : Die → Die) : (s.updDie d f).lateSaves = s.lateSaves := rfl
@[simp] theorem updDie_hostReply (s : State) (d : Nat) (f : Die → Die) : (s.updDie d f).hostReply = s.hostReply := rfl
@[simp] theorem updDie_hostError (s : State) (d : Nat) (f : Die → Die) : (s.updDie d f).hostError = s.hostError := rfl
@[simp] theorem updDie_regReply (s : State) (d : Nat) (f : Die → Die) : (s.updDie d f).regReply = s.regReply := rfl
@[simp] theorem updDie_halt (s : State) (d : Nat) (f : Die → Die) : (s.updDie d f).halt = s.halt := rfl
@[simp] theorem updDie_retiredSquares (s : State) (d : Nat) (f : Die → Die) : (s.updDie d f).retiredSquares = s.retiredSquares := rfl
@[simp] theorem updDie_retireDue (s : State) (d : Nat) (f : Die → Die) : (s.updDie d f).retireDue = s.retireDue := rfl
@[simp] theorem updDie_spares (s : State) (d : Nat) (f : Die → Die) : (s.updDie d f).spares = s.spares := rfl
@[simp] theorem updDie_fuses (s : State) (d : Nat) (f : Die → Die) : (s.updDie d f).fuses = s.fuses := rfl
@[simp] theorem updDie_held (s : State) (d : Nat) (f : Die → Die) : (s.updDie d f).held = s.held := rfl
@[simp] theorem updDie_faultsDue (s : State) (d : Nat) (f : Die → Die) : (s.updDie d f).faultsDue = s.faultsDue := rfl

/-! updPlain -/

@[simp] theorem updPlain_now (s : State) (p : Nat) (f : Plain → Plain) : (s.updPlain p f).now = s.now := rfl
@[simp] theorem updPlain_free (s : State) (p : Nat) (f : Plain → Plain) : (s.updPlain p f).free = s.free := rfl
@[simp] theorem updPlain_nextId (s : State) (p : Nat) (f : Plain → Plain) : (s.updPlain p f).nextId = s.nextId := rfl
@[simp] theorem updPlain_todo (s : State) (p : Nat) (f : Plain → Plain) : (s.updPlain p f).todo = s.todo := rfl
@[simp] theorem updPlain_cur (s : State) (p : Nat) (f : Plain → Plain) : (s.updPlain p f).cur = s.cur := rfl
@[simp] theorem updPlain_inputs (s : State) (p : Nat) (f : Plain → Plain) : (s.updPlain p f).inputs = s.inputs := rfl
@[simp] theorem updPlain_dies (s : State) (p : Nat) (f : Plain → Plain) : (s.updPlain p f).dies = s.dies := rfl
@[simp] theorem updPlain_cores (s : State) (p : Nat) (f : Plain → Plain) : (s.updPlain p f).cores = s.cores := rfl
@[simp] theorem updPlain_squares (s : State) (p : Nat) (f : Plain → Plain) : (s.updPlain p f).squares = s.squares := rfl
@[simp] theorem updPlain_north (s : State) (p : Nat) (f : Plain → Plain) : (s.updPlain p f).north = s.north := rfl
@[simp] theorem updPlain_msgs (s : State) (p : Nat) (f : Plain → Plain) : (s.updPlain p f).msgs = s.msgs := rfl
@[simp] theorem updPlain_hbm (s : State) (p : Nat) (f : Plain → Plain) : (s.updPlain p f).hbm = s.hbm := rfl
@[simp] theorem updPlain_host (s : State) (p : Nat) (f : Plain → Plain) : (s.updPlain p f).host = s.host := rfl
@[simp] theorem updPlain_jobs (s : State) (p : Nat) (f : Plain → Plain) : (s.updPlain p f).jobs = s.jobs := rfl
@[simp] theorem updPlain_launches (s : State) (p : Nat) (f : Plain → Plain) : (s.updPlain p f).launches = s.launches := rfl
@[simp] theorem updPlain_lastLaunch (s : State) (p : Nat) (f : Plain → Plain) : (s.updPlain p f).lastLaunch = s.lastLaunch := rfl
@[simp] theorem updPlain_lastDealt (s : State) (p : Nat) (f : Plain → Plain) : (s.updPlain p f).lastDealt = s.lastDealt := rfl
@[simp] theorem updPlain_requests (s : State) (p : Nat) (f : Plain → Plain) : (s.updPlain p f).requests = s.requests := rfl
@[simp] theorem updPlain_rounds (s : State) (p : Nat) (f : Plain → Plain) : (s.updPlain p f).rounds = s.rounds := rfl
@[simp] theorem updPlain_invals (s : State) (p : Nat) (f : Plain → Plain) : (s.updPlain p f).invals = s.invals := rfl
@[simp] theorem updPlain_regs (s : State) (p : Nat) (f : Plain → Plain) : (s.updPlain p f).regs = s.regs := rfl
@[simp] theorem updPlain_gangs (s : State) (p : Nat) (f : Plain → Plain) : (s.updPlain p f).gangs = s.gangs := rfl
@[simp] theorem updPlain_images (s : State) (p : Nat) (f : Plain → Plain) : (s.updPlain p f).images = s.images := rfl
@[simp] theorem updPlain_shrink (s : State) (p : Nat) (f : Plain → Plain) : (s.updPlain p f).shrink = s.shrink := rfl
@[simp] theorem updPlain_ports (s : State) (p : Nat) (f : Plain → Plain) : (s.updPlain p f).ports = s.ports := rfl
@[simp] theorem updPlain_ueports (s : State) (p : Nat) (f : Plain → Plain) : (s.updPlain p f).ueports = s.ueports := rfl
@[simp] theorem updPlain_mgmt (s : State) (p : Nat) (f : Plain → Plain) : (s.updPlain p f).mgmt = s.mgmt := rfl
@[simp] theorem updPlain_upsets (s : State) (p : Nat) (f : Plain → Plain) : (s.updPlain p f).upsets = s.upsets := rfl
@[simp] theorem updPlain_near (s : State) (p : Nat) (f : Plain → Plain) : (s.updPlain p f).near = s.near := rfl
@[simp] theorem updPlain_replies (s : State) (p : Nat) (f : Plain → Plain) : (s.updPlain p f).replies = s.replies := rfl
@[simp] theorem updPlain_sweepAt (s : State) (p : Nat) (f : Plain → Plain) : (s.updPlain p f).sweepAt = s.sweepAt := rfl
@[simp] theorem updPlain_sweep (s : State) (p : Nat) (f : Plain → Plain) : (s.updPlain p f).sweep = s.sweep := rfl
@[simp] theorem updPlain_lateSaves (s : State) (p : Nat) (f : Plain → Plain) : (s.updPlain p f).lateSaves = s.lateSaves := rfl
@[simp] theorem updPlain_hostReply (s : State) (p : Nat) (f : Plain → Plain) : (s.updPlain p f).hostReply = s.hostReply := rfl
@[simp] theorem updPlain_hostError (s : State) (p : Nat) (f : Plain → Plain) : (s.updPlain p f).hostError = s.hostError := rfl
@[simp] theorem updPlain_regReply (s : State) (p : Nat) (f : Plain → Plain) : (s.updPlain p f).regReply = s.regReply := rfl
@[simp] theorem updPlain_halt (s : State) (p : Nat) (f : Plain → Plain) : (s.updPlain p f).halt = s.halt := rfl
@[simp] theorem updPlain_retiredSquares (s : State) (p : Nat) (f : Plain → Plain) : (s.updPlain p f).retiredSquares = s.retiredSquares := rfl
@[simp] theorem updPlain_retireDue (s : State) (p : Nat) (f : Plain → Plain) : (s.updPlain p f).retireDue = s.retireDue := rfl
@[simp] theorem updPlain_spares (s : State) (p : Nat) (f : Plain → Plain) : (s.updPlain p f).spares = s.spares := rfl
@[simp] theorem updPlain_fuses (s : State) (p : Nat) (f : Plain → Plain) : (s.updPlain p f).fuses = s.fuses := rfl
@[simp] theorem updPlain_held (s : State) (p : Nat) (f : Plain → Plain) : (s.updPlain p f).held = s.held := rfl
@[simp] theorem updPlain_faultsDue (s : State) (p : Nat) (f : Plain → Plain) : (s.updPlain p f).faultsDue = s.faultsDue := rfl

/-! updSquare -/

@[simp] theorem updSquare_now (s : State) (q : Nat) (f : Square → Square) : (s.updSquare q f).now = s.now := rfl
@[simp] theorem updSquare_free (s : State) (q : Nat) (f : Square → Square) : (s.updSquare q f).free = s.free := rfl
@[simp] theorem updSquare_nextId (s : State) (q : Nat) (f : Square → Square) : (s.updSquare q f).nextId = s.nextId := rfl
@[simp] theorem updSquare_todo (s : State) (q : Nat) (f : Square → Square) : (s.updSquare q f).todo = s.todo := rfl
@[simp] theorem updSquare_cur (s : State) (q : Nat) (f : Square → Square) : (s.updSquare q f).cur = s.cur := rfl
@[simp] theorem updSquare_inputs (s : State) (q : Nat) (f : Square → Square) : (s.updSquare q f).inputs = s.inputs := rfl
@[simp] theorem updSquare_dies (s : State) (q : Nat) (f : Square → Square) : (s.updSquare q f).dies = s.dies := rfl
@[simp] theorem updSquare_cores (s : State) (q : Nat) (f : Square → Square) : (s.updSquare q f).cores = s.cores := rfl
@[simp] theorem updSquare_plains (s : State) (q : Nat) (f : Square → Square) : (s.updSquare q f).plains = s.plains := rfl
@[simp] theorem updSquare_north (s : State) (q : Nat) (f : Square → Square) : (s.updSquare q f).north = s.north := rfl
@[simp] theorem updSquare_msgs (s : State) (q : Nat) (f : Square → Square) : (s.updSquare q f).msgs = s.msgs := rfl
@[simp] theorem updSquare_hbm (s : State) (q : Nat) (f : Square → Square) : (s.updSquare q f).hbm = s.hbm := rfl
@[simp] theorem updSquare_host (s : State) (q : Nat) (f : Square → Square) : (s.updSquare q f).host = s.host := rfl
@[simp] theorem updSquare_jobs (s : State) (q : Nat) (f : Square → Square) : (s.updSquare q f).jobs = s.jobs := rfl
@[simp] theorem updSquare_launches (s : State) (q : Nat) (f : Square → Square) : (s.updSquare q f).launches = s.launches := rfl
@[simp] theorem updSquare_lastLaunch (s : State) (q : Nat) (f : Square → Square) : (s.updSquare q f).lastLaunch = s.lastLaunch := rfl
@[simp] theorem updSquare_lastDealt (s : State) (q : Nat) (f : Square → Square) : (s.updSquare q f).lastDealt = s.lastDealt := rfl
@[simp] theorem updSquare_requests (s : State) (q : Nat) (f : Square → Square) : (s.updSquare q f).requests = s.requests := rfl
@[simp] theorem updSquare_rounds (s : State) (q : Nat) (f : Square → Square) : (s.updSquare q f).rounds = s.rounds := rfl
@[simp] theorem updSquare_invals (s : State) (q : Nat) (f : Square → Square) : (s.updSquare q f).invals = s.invals := rfl
@[simp] theorem updSquare_regs (s : State) (q : Nat) (f : Square → Square) : (s.updSquare q f).regs = s.regs := rfl
@[simp] theorem updSquare_gangs (s : State) (q : Nat) (f : Square → Square) : (s.updSquare q f).gangs = s.gangs := rfl
@[simp] theorem updSquare_images (s : State) (q : Nat) (f : Square → Square) : (s.updSquare q f).images = s.images := rfl
@[simp] theorem updSquare_shrink (s : State) (q : Nat) (f : Square → Square) : (s.updSquare q f).shrink = s.shrink := rfl
@[simp] theorem updSquare_ports (s : State) (q : Nat) (f : Square → Square) : (s.updSquare q f).ports = s.ports := rfl
@[simp] theorem updSquare_ueports (s : State) (q : Nat) (f : Square → Square) : (s.updSquare q f).ueports = s.ueports := rfl
@[simp] theorem updSquare_mgmt (s : State) (q : Nat) (f : Square → Square) : (s.updSquare q f).mgmt = s.mgmt := rfl
@[simp] theorem updSquare_upsets (s : State) (q : Nat) (f : Square → Square) : (s.updSquare q f).upsets = s.upsets := rfl
@[simp] theorem updSquare_near (s : State) (q : Nat) (f : Square → Square) : (s.updSquare q f).near = s.near := rfl
@[simp] theorem updSquare_replies (s : State) (q : Nat) (f : Square → Square) : (s.updSquare q f).replies = s.replies := rfl
@[simp] theorem updSquare_sweepAt (s : State) (q : Nat) (f : Square → Square) : (s.updSquare q f).sweepAt = s.sweepAt := rfl
@[simp] theorem updSquare_sweep (s : State) (q : Nat) (f : Square → Square) : (s.updSquare q f).sweep = s.sweep := rfl
@[simp] theorem updSquare_lateSaves (s : State) (q : Nat) (f : Square → Square) : (s.updSquare q f).lateSaves = s.lateSaves := rfl
@[simp] theorem updSquare_hostReply (s : State) (q : Nat) (f : Square → Square) : (s.updSquare q f).hostReply = s.hostReply := rfl
@[simp] theorem updSquare_hostError (s : State) (q : Nat) (f : Square → Square) : (s.updSquare q f).hostError = s.hostError := rfl
@[simp] theorem updSquare_regReply (s : State) (q : Nat) (f : Square → Square) : (s.updSquare q f).regReply = s.regReply := rfl
@[simp] theorem updSquare_halt (s : State) (q : Nat) (f : Square → Square) : (s.updSquare q f).halt = s.halt := rfl
@[simp] theorem updSquare_retiredSquares (s : State) (q : Nat) (f : Square → Square) : (s.updSquare q f).retiredSquares = s.retiredSquares := rfl
@[simp] theorem updSquare_retireDue (s : State) (q : Nat) (f : Square → Square) : (s.updSquare q f).retireDue = s.retireDue := rfl
@[simp] theorem updSquare_spares (s : State) (q : Nat) (f : Square → Square) : (s.updSquare q f).spares = s.spares := rfl
@[simp] theorem updSquare_fuses (s : State) (q : Nat) (f : Square → Square) : (s.updSquare q f).fuses = s.fuses := rfl
@[simp] theorem updSquare_held (s : State) (q : Nat) (f : Square → Square) : (s.updSquare q f).held = s.held := rfl
@[simp] theorem updSquare_faultsDue (s : State) (q : Nat) (f : Square → Square) : (s.updSquare q f).faultsDue = s.faultsDue := rfl

/-! updChan -/

@[simp] theorem updChan_now (s : State) (c h : Nat) (f : Chan → Chan) : (s.updChan c h f).now = s.now := rfl
@[simp] theorem updChan_free (s : State) (c h : Nat) (f : Chan → Chan) : (s.updChan c h f).free = s.free := rfl
@[simp] theorem updChan_nextId (s : State) (c h : Nat) (f : Chan → Chan) : (s.updChan c h f).nextId = s.nextId := rfl
@[simp] theorem updChan_todo (s : State) (c h : Nat) (f : Chan → Chan) : (s.updChan c h f).todo = s.todo := rfl
@[simp] theorem updChan_cur (s : State) (c h : Nat) (f : Chan → Chan) : (s.updChan c h f).cur = s.cur := rfl
@[simp] theorem updChan_inputs (s : State) (c h : Nat) (f : Chan → Chan) : (s.updChan c h f).inputs = s.inputs := rfl
@[simp] theorem updChan_dies (s : State) (c h : Nat) (f : Chan → Chan) : (s.updChan c h f).dies = s.dies := rfl
@[simp] theorem updChan_squares (s : State) (c h : Nat) (f : Chan → Chan) : (s.updChan c h f).squares = s.squares := rfl
@[simp] theorem updChan_plains (s : State) (c h : Nat) (f : Chan → Chan) : (s.updChan c h f).plains = s.plains := rfl
@[simp] theorem updChan_north (s : State) (c h : Nat) (f : Chan → Chan) : (s.updChan c h f).north = s.north := rfl
@[simp] theorem updChan_msgs (s : State) (c h : Nat) (f : Chan → Chan) : (s.updChan c h f).msgs = s.msgs := rfl
@[simp] theorem updChan_hbm (s : State) (c h : Nat) (f : Chan → Chan) : (s.updChan c h f).hbm = s.hbm := rfl
@[simp] theorem updChan_host (s : State) (c h : Nat) (f : Chan → Chan) : (s.updChan c h f).host = s.host := rfl
@[simp] theorem updChan_jobs (s : State) (c h : Nat) (f : Chan → Chan) : (s.updChan c h f).jobs = s.jobs := rfl
@[simp] theorem updChan_launches (s : State) (c h : Nat) (f : Chan → Chan) : (s.updChan c h f).launches = s.launches := rfl
@[simp] theorem updChan_lastLaunch (s : State) (c h : Nat) (f : Chan → Chan) : (s.updChan c h f).lastLaunch = s.lastLaunch := rfl
@[simp] theorem updChan_lastDealt (s : State) (c h : Nat) (f : Chan → Chan) : (s.updChan c h f).lastDealt = s.lastDealt := rfl
@[simp] theorem updChan_requests (s : State) (c h : Nat) (f : Chan → Chan) : (s.updChan c h f).requests = s.requests := rfl
@[simp] theorem updChan_rounds (s : State) (c h : Nat) (f : Chan → Chan) : (s.updChan c h f).rounds = s.rounds := rfl
@[simp] theorem updChan_invals (s : State) (c h : Nat) (f : Chan → Chan) : (s.updChan c h f).invals = s.invals := rfl
@[simp] theorem updChan_regs (s : State) (c h : Nat) (f : Chan → Chan) : (s.updChan c h f).regs = s.regs := rfl
@[simp] theorem updChan_gangs (s : State) (c h : Nat) (f : Chan → Chan) : (s.updChan c h f).gangs = s.gangs := rfl
@[simp] theorem updChan_images (s : State) (c h : Nat) (f : Chan → Chan) : (s.updChan c h f).images = s.images := rfl
@[simp] theorem updChan_shrink (s : State) (c h : Nat) (f : Chan → Chan) : (s.updChan c h f).shrink = s.shrink := rfl
@[simp] theorem updChan_ports (s : State) (c h : Nat) (f : Chan → Chan) : (s.updChan c h f).ports = s.ports := rfl
@[simp] theorem updChan_ueports (s : State) (c h : Nat) (f : Chan → Chan) : (s.updChan c h f).ueports = s.ueports := rfl
@[simp] theorem updChan_mgmt (s : State) (c h : Nat) (f : Chan → Chan) : (s.updChan c h f).mgmt = s.mgmt := rfl
@[simp] theorem updChan_upsets (s : State) (c h : Nat) (f : Chan → Chan) : (s.updChan c h f).upsets = s.upsets := rfl
@[simp] theorem updChan_near (s : State) (c h : Nat) (f : Chan → Chan) : (s.updChan c h f).near = s.near := rfl
@[simp] theorem updChan_replies (s : State) (c h : Nat) (f : Chan → Chan) : (s.updChan c h f).replies = s.replies := rfl
@[simp] theorem updChan_sweepAt (s : State) (c h : Nat) (f : Chan → Chan) : (s.updChan c h f).sweepAt = s.sweepAt := rfl
@[simp] theorem updChan_sweep (s : State) (c h : Nat) (f : Chan → Chan) : (s.updChan c h f).sweep = s.sweep := rfl
@[simp] theorem updChan_lateSaves (s : State) (c h : Nat) (f : Chan → Chan) : (s.updChan c h f).lateSaves = s.lateSaves := rfl
@[simp] theorem updChan_hostReply (s : State) (c h : Nat) (f : Chan → Chan) : (s.updChan c h f).hostReply = s.hostReply := rfl
@[simp] theorem updChan_hostError (s : State) (c h : Nat) (f : Chan → Chan) : (s.updChan c h f).hostError = s.hostError := rfl
@[simp] theorem updChan_regReply (s : State) (c h : Nat) (f : Chan → Chan) : (s.updChan c h f).regReply = s.regReply := rfl
@[simp] theorem updChan_halt (s : State) (c h : Nat) (f : Chan → Chan) : (s.updChan c h f).halt = s.halt := rfl
@[simp] theorem updChan_retiredSquares (s : State) (c h : Nat) (f : Chan → Chan) : (s.updChan c h f).retiredSquares = s.retiredSquares := rfl
@[simp] theorem updChan_retireDue (s : State) (c h : Nat) (f : Chan → Chan) : (s.updChan c h f).retireDue = s.retireDue := rfl
@[simp] theorem updChan_spares (s : State) (c h : Nat) (f : Chan → Chan) : (s.updChan c h f).spares = s.spares := rfl
@[simp] theorem updChan_fuses (s : State) (c h : Nat) (f : Chan → Chan) : (s.updChan c h f).fuses = s.fuses := rfl
@[simp] theorem updChan_held (s : State) (c h : Nat) (f : Chan → Chan) : (s.updChan c h f).held = s.held := rfl
@[simp] theorem updChan_faultsDue (s : State) (c h : Nat) (f : Chan → Chan) : (s.updChan c h f).faultsDue = s.faultsDue := rfl

/-! updLaunch -/

@[simp] theorem updLaunch_now (s : State) (l : Nat) (f : Launch → Launch) : (s.updLaunch l f).now = s.now := by
  unfold updLaunch; split <;> rfl
@[simp] theorem updLaunch_free (s : State) (l : Nat) (f : Launch → Launch) : (s.updLaunch l f).free = s.free := by
  unfold updLaunch; split <;> rfl
@[simp] theorem updLaunch_nextId (s : State) (l : Nat) (f : Launch → Launch) : (s.updLaunch l f).nextId = s.nextId := by
  unfold updLaunch; split <;> rfl
@[simp] theorem updLaunch_todo (s : State) (l : Nat) (f : Launch → Launch) : (s.updLaunch l f).todo = s.todo := by
  unfold updLaunch; split <;> rfl
@[simp] theorem updLaunch_cur (s : State) (l : Nat) (f : Launch → Launch) : (s.updLaunch l f).cur = s.cur := by
  unfold updLaunch; split <;> rfl
@[simp] theorem updLaunch_inputs (s : State) (l : Nat) (f : Launch → Launch) : (s.updLaunch l f).inputs = s.inputs := by
  unfold updLaunch; split <;> rfl
@[simp] theorem updLaunch_dies (s : State) (l : Nat) (f : Launch → Launch) : (s.updLaunch l f).dies = s.dies := by
  unfold updLaunch; split <;> rfl
@[simp] theorem updLaunch_cores (s : State) (l : Nat) (f : Launch → Launch) : (s.updLaunch l f).cores = s.cores := by
  unfold updLaunch; split <;> rfl
@[simp] theorem updLaunch_squares (s : State) (l : Nat) (f : Launch → Launch) : (s.updLaunch l f).squares = s.squares := by
  unfold updLaunch; split <;> rfl
@[simp] theorem updLaunch_plains (s : State) (l : Nat) (f : Launch → Launch) : (s.updLaunch l f).plains = s.plains := by
  unfold updLaunch; split <;> rfl
@[simp] theorem updLaunch_north (s : State) (l : Nat) (f : Launch → Launch) : (s.updLaunch l f).north = s.north := by
  unfold updLaunch; split <;> rfl
@[simp] theorem updLaunch_msgs (s : State) (l : Nat) (f : Launch → Launch) : (s.updLaunch l f).msgs = s.msgs := by
  unfold updLaunch; split <;> rfl
@[simp] theorem updLaunch_hbm (s : State) (l : Nat) (f : Launch → Launch) : (s.updLaunch l f).hbm = s.hbm := by
  unfold updLaunch; split <;> rfl
@[simp] theorem updLaunch_host (s : State) (l : Nat) (f : Launch → Launch) : (s.updLaunch l f).host = s.host := by
  unfold updLaunch; split <;> rfl
@[simp] theorem updLaunch_jobs (s : State) (l : Nat) (f : Launch → Launch) : (s.updLaunch l f).jobs = s.jobs := by
  unfold updLaunch; split <;> rfl
@[simp] theorem updLaunch_lastLaunch (s : State) (l : Nat) (f : Launch → Launch) : (s.updLaunch l f).lastLaunch = s.lastLaunch := by
  unfold updLaunch; split <;> rfl
@[simp] theorem updLaunch_lastDealt (s : State) (l : Nat) (f : Launch → Launch) : (s.updLaunch l f).lastDealt = s.lastDealt := by
  unfold updLaunch; split <;> rfl
@[simp] theorem updLaunch_requests (s : State) (l : Nat) (f : Launch → Launch) : (s.updLaunch l f).requests = s.requests := by
  unfold updLaunch; split <;> rfl
@[simp] theorem updLaunch_rounds (s : State) (l : Nat) (f : Launch → Launch) : (s.updLaunch l f).rounds = s.rounds := by
  unfold updLaunch; split <;> rfl
@[simp] theorem updLaunch_invals (s : State) (l : Nat) (f : Launch → Launch) : (s.updLaunch l f).invals = s.invals := by
  unfold updLaunch; split <;> rfl
@[simp] theorem updLaunch_regs (s : State) (l : Nat) (f : Launch → Launch) : (s.updLaunch l f).regs = s.regs := by
  unfold updLaunch; split <;> rfl
@[simp] theorem updLaunch_gangs (s : State) (l : Nat) (f : Launch → Launch) : (s.updLaunch l f).gangs = s.gangs := by
  unfold updLaunch; split <;> rfl
@[simp] theorem updLaunch_images (s : State) (l : Nat) (f : Launch → Launch) : (s.updLaunch l f).images = s.images := by
  unfold updLaunch; split <;> rfl
@[simp] theorem updLaunch_shrink (s : State) (l : Nat) (f : Launch → Launch) : (s.updLaunch l f).shrink = s.shrink := by
  unfold updLaunch; split <;> rfl
@[simp] theorem updLaunch_ports (s : State) (l : Nat) (f : Launch → Launch) : (s.updLaunch l f).ports = s.ports := by
  unfold updLaunch; split <;> rfl
@[simp] theorem updLaunch_ueports (s : State) (l : Nat) (f : Launch → Launch) : (s.updLaunch l f).ueports = s.ueports := by
  unfold updLaunch; split <;> rfl
@[simp] theorem updLaunch_mgmt (s : State) (l : Nat) (f : Launch → Launch) : (s.updLaunch l f).mgmt = s.mgmt := by
  unfold updLaunch; split <;> rfl
@[simp] theorem updLaunch_upsets (s : State) (l : Nat) (f : Launch → Launch) : (s.updLaunch l f).upsets = s.upsets := by
  unfold updLaunch; split <;> rfl
@[simp] theorem updLaunch_near (s : State) (l : Nat) (f : Launch → Launch) : (s.updLaunch l f).near = s.near := by
  unfold updLaunch; split <;> rfl
@[simp] theorem updLaunch_replies (s : State) (l : Nat) (f : Launch → Launch) : (s.updLaunch l f).replies = s.replies := by
  unfold updLaunch; split <;> rfl
@[simp] theorem updLaunch_sweepAt (s : State) (l : Nat) (f : Launch → Launch) : (s.updLaunch l f).sweepAt = s.sweepAt := by
  unfold updLaunch; split <;> rfl
@[simp] theorem updLaunch_sweep (s : State) (l : Nat) (f : Launch → Launch) : (s.updLaunch l f).sweep = s.sweep := by
  unfold updLaunch; split <;> rfl
@[simp] theorem updLaunch_lateSaves (s : State) (l : Nat) (f : Launch → Launch) : (s.updLaunch l f).lateSaves = s.lateSaves := by
  unfold updLaunch; split <;> rfl
@[simp] theorem updLaunch_hostReply (s : State) (l : Nat) (f : Launch → Launch) : (s.updLaunch l f).hostReply = s.hostReply := by
  unfold updLaunch; split <;> rfl
@[simp] theorem updLaunch_hostError (s : State) (l : Nat) (f : Launch → Launch) : (s.updLaunch l f).hostError = s.hostError := by
  unfold updLaunch; split <;> rfl
@[simp] theorem updLaunch_regReply (s : State) (l : Nat) (f : Launch → Launch) : (s.updLaunch l f).regReply = s.regReply := by
  unfold updLaunch; split <;> rfl
@[simp] theorem updLaunch_halt (s : State) (l : Nat) (f : Launch → Launch) : (s.updLaunch l f).halt = s.halt := by
  unfold updLaunch; split <;> rfl
@[simp] theorem updLaunch_retiredSquares (s : State) (l : Nat) (f : Launch → Launch) : (s.updLaunch l f).retiredSquares = s.retiredSquares := by
  unfold updLaunch; split <;> rfl
@[simp] theorem updLaunch_retireDue (s : State) (l : Nat) (f : Launch → Launch) : (s.updLaunch l f).retireDue = s.retireDue := by
  unfold updLaunch; split <;> rfl
@[simp] theorem updLaunch_spares (s : State) (l : Nat) (f : Launch → Launch) : (s.updLaunch l f).spares = s.spares := by
  unfold updLaunch; split <;> rfl
@[simp] theorem updLaunch_fuses (s : State) (l : Nat) (f : Launch → Launch) : (s.updLaunch l f).fuses = s.fuses := by
  unfold updLaunch; split <;> rfl
@[simp] theorem updLaunch_held (s : State) (l : Nat) (f : Launch → Launch) : (s.updLaunch l f).held = s.held := by
  unfold updLaunch; split <;> rfl
@[simp] theorem updLaunch_faultsDue (s : State) (l : Nat) (f : Launch → Launch) : (s.updLaunch l f).faultsDue = s.faultsDue := by
  unfold updLaunch; split <;> rfl

end Sys2Proof.Machine.State
end

