-- ==== Sys2Proof/Laws/Maps.lean ====
section
/-! SUPPORT. Maps and memories: a read after a write, the writes that leave a key alone, and the canonical form that every
memory operation keeps; then the same of the parts of the state. -/

namespace Sys2Proof.Machine

/-! Maps. -/

@[simp] theorem mget_nil {α : Type} (k : Nat) : mget ([] : Map α) k = none := rfl

@[simp] theorem mget_mset_self {α : Type} (m : Map α) (k : Nat) (v : α) : mget (mset m k v) k = some v := by
  induction m with
  | nil => simp [mset, mget]
  | cons p r ih =>
    obtain ⟨a, b⟩ := p
    simp only [mset]
    split
    · simp [mget]
    · split
      · simp [mget]
      · rename_i h; simp only [mget]; rw [if_neg (fun e => h e.symm)]; exact ih

theorem mget_mset_ne {α : Type} (m : Map α) {j k : Nat} (v : α) (h : j ≠ k) : mget (mset m k v) j = mget m j := by
  induction m with
  | nil => simp [mset, mget, h.symm]
  | cons p r ih =>
    obtain ⟨a, b⟩ := p
    simp only [mset]
    split
    · simp [mget, h.symm]
    · split
      · rename_i e; subst e; simp [mget, h.symm]
      · simp only [mget]; rw [ih]

@[simp] theorem mgetD_mset_self {α : Type} (m : Map α) (k : Nat) (v d : α) : mgetD (mset m k v) k d = v := by simp [mgetD]

theorem mgetD_mset_ne {α : Type} (m : Map α) {j k : Nat} (v d : α) (h : j ≠ k) : mgetD (mset m k v) j d = mgetD m j d := by
  simp [mgetD, mget_mset_ne _ _ h]

/-- Of two values set at one key the second stands. -/
@[simp] theorem mset_mset {α : Type} (m : Map α) (k : Nat) (v w : α) : mset (mset m k v) k w = mset m k w := by
  induction m with
  | nil => simp [mset]
  | cons p r ih =>
    obtain ⟨a, b⟩ := p
    simp only [mset]
    split
    · simp [mset]
    · split
      · simp_all [mset]
      · simp_all [mset]

@[simp] theorem mget_mdel_self {α : Type} (m : Map α) (k : Nat) : mget (mdel m k) k = none := by
  induction m with
  | nil => rfl
  | cons p r ih => obtain ⟨a, b⟩ := p; simp only [mdel]; split
                   · exact ih
                   · rename_i h; simp [mget, h, ih]

theorem mget_mdel_ne {α : Type} (m : Map α) {j k : Nat} (h : j ≠ k) : mget (mdel m k) j = mget m j := by
  induction m with
  | nil => rfl
  | cons p r ih =>
    obtain ⟨a, b⟩ := p; simp only [mdel]; split
    · rename_i e; subst e; simp [mget, h.symm, ih]
    · simp only [mget]; rw [ih]

/-! Memories. -/

@[simp] theorem memGet_memSet_self (m : Memory) (a : Nat) (b : Byte) : memGet (memSet m a b) a = b := by
  unfold memGet memSet
  split
  · rename_i h; simp [mgetD, h]
  · simp

theorem memGet_memSet_ne (m : Memory) {j a : Nat} (b : Byte) (h : j ≠ a) : memGet (memSet m a b) j = memGet m j := by
  unfold memGet memSet
  split
  · simp [mgetD, mget_mdel_ne _ h]
  · simp [mgetD_mset_ne _ _ _ h]

/-- A write of bytes leaves every other address alone. -/
theorem memGet_memWrite_out (m : Memory) (a : Nat) (bs : List Byte) {j : Nat} (h : j < a ∨ a + bs.length ≤ j) :
    memGet (memWrite m a bs) j = memGet m j := by
  induction bs generalizing m a with
  | nil => rfl
  | cons b r ih =>
    simp only [List.length_cons] at h
    simp only [memWrite]
    rw [ih _ _ (by omega), memGet_memSet_ne _ _ (by omega)]

/-- A write of bytes is read back. -/
theorem memRead_memWrite (m : Memory) (a : Nat) (bs : List Byte) : memRead (memWrite m a bs) a bs.length = bs := by
  induction bs generalizing m a with
  | nil => rfl
  | cons b r ih =>
    simp only [List.length_cons, memRead, memWrite]
    rw [ih, memGet_memWrite_out _ _ _ (by omega)]
    simp

/-- Every listed address is above a bound, and the memory is in canonical form. -/
def Memory.above (m : Memory) (n : Nat) : Prop := ∀ p ∈ m, n < p.1

theorem Memory.wf_cons {a : Nat} {b : Byte} {r : Memory} :
    Memory.wf ((a, b) :: r) = true ↔ b ≠ 0 ∧ Memory.above r a ∧ Memory.wf r = true := by
  induction r generalizing a b with
  | nil => simp [Memory.wf, Memory.above]
  | cons p r ih =>
    obtain ⟨c, d⟩ := p
    simp only [Memory.wf, Bool.and_eq_true, bne_iff_ne, ne_eq, decide_eq_true_eq]
    constructor
    · rintro ⟨⟨hb, hac⟩, hr⟩
      refine ⟨hb, ?_, hr⟩
      obtain ⟨-, h2, -⟩ := ih.mp hr
      intro q hq
      rcases List.mem_cons.mp hq with rfl | hq
      · exact hac
      · exact Nat.lt_trans hac (h2 q hq)
    · rintro ⟨hb, hab, hr⟩
      exact ⟨⟨hb, hab (c, d) (List.mem_cons_self ..)⟩, hr⟩

theorem mset_above (m : Memory) {n a : Nat} (b : Byte) (h : Memory.above m n) (ha : n < a) : Memory.above (mset m a b) n := by
  induction m with
  | nil => intro p hp; simp [mset] at hp; subst hp; exact ha
  | cons q r ih =>
    obtain ⟨c, d⟩ := q
    have hc : n < c := h (c, d) (List.mem_cons_self ..)
    have hr : Memory.above r n := fun p hp => h p (List.mem_cons_of_mem _ hp)
    simp only [mset]
    split
    · intro p hp
      simp only [List.mem_cons] at hp
      rcases hp with rfl | rfl | hp
      · exact ha
      · exact hc
      · exact hr p hp
    · split
      · intro p hp
        rcases List.mem_cons.mp hp with rfl | hp
        · exact ha
        · exact hr p hp
      · intro p hp
        rcases List.mem_cons.mp hp with rfl | hp
        · exact hc
        · exact ih hr p hp

theorem mdel_above (m : Memory) {n : Nat} (a : Nat) (h : Memory.above m n) : Memory.above (mdel m a) n := by
  induction m with
  | nil => exact h
  | cons q r ih =>
    obtain ⟨c, d⟩ := q
    have hr : Memory.above r n := fun p hp => h p (List.mem_cons_of_mem _ hp)
    simp only [mdel]
    split
    · exact ih hr
    · intro p hp
      rcases List.mem_cons.mp hp with rfl | hp
      · exact h _ (List.mem_cons_self ..)
      · exact ih hr p hp

theorem mset_wf (m : Memory) (a : Nat) {b : Byte} (hb : b ≠ 0) (h : Memory.wf m = true) : Memory.wf (mset m a b) = true := by
  induction m with
  | nil => simpa [mset, Memory.wf] using hb
  | cons q r ih =>
    obtain ⟨c, d⟩ := q
    obtain ⟨hd, hab, hr⟩ := Memory.wf_cons.mp h
    simp only [mset]
    split
    · rename_i hac
      refine Memory.wf_cons.mpr ⟨hb, ?_, h⟩
      intro p hp
      rcases List.mem_cons.mp hp with rfl | hp
      · exact hac
      · exact Nat.lt_trans hac (hab p hp)
    · split
      · rename_i e; subst e; exact Memory.wf_cons.mpr ⟨hb, hab, hr⟩
      · exact Memory.wf_cons.mpr ⟨hd, mset_above _ _ hab (by omega), ih hr⟩

theorem mdel_wf (m : Memory) (a : Nat) (h : Memory.wf m = true) : Memory.wf (mdel m a) = true := by
  induction m with
  | nil => exact h
  | cons q r ih =>
    obtain ⟨c, d⟩ := q
    obtain ⟨hd, hab, hr⟩ := Memory.wf_cons.mp h
    simp only [mdel]
    split
    · exact ih hr
    · exact Memory.wf_cons.mpr ⟨hd, mdel_above _ _ hab, ih hr⟩

/-- Writing a byte keeps the canonical form. -/
theorem memSet_wf (m : Memory) (a : Nat) (b : Byte) (h : Memory.wf m = true) : Memory.wf (memSet m a b) = true := by
  unfold memSet
  split
  · exact mdel_wf _ _ h
  · rename_i hb; exact mset_wf _ _ hb h

/-- Writing bytes keeps the canonical form. -/
theorem memWrite_wf (m : Memory) (a : Nat) (bs : List Byte) (h : Memory.wf m = true) : Memory.wf (memWrite m a bs) = true := by
  induction bs generalizing m a with
  | nil => exact h
  | cons b r ih => exact ih _ _ (memSet_wf _ _ _ h)

/-- The memories of the reset state are in canonical form. -/
theorem reset_memory_wf : Memory.wf State.reset.hbm = true ∧ Memory.wf State.reset.host = true := ⟨rfl, rfl⟩

/-! Parts of the state. -/

namespace State

@[simp] theorem core_setCore_self (s : State) (c : Nat) (k : Core) : (s.setCore c k).core c = k := by simp [core, setCore]
theorem core_setCore_ne (s : State) {a c : Nat} (k : Core) (h : a ≠ c) : (s.setCore c k).core a = s.core a := by
  simp [core, setCore, mgetD_mset_ne _ _ _ h]
@[simp] theorem core_updCore_self (s : State) (c : Nat) (f : Core → Core) : (s.updCore c f).core c = f (s.core c) := by
  simp [updCore]
theorem core_updCore_ne (s : State) {a c : Nat} (f : Core → Core) (h : a ≠ c) : (s.updCore c f).core a = s.core a := by
  simp [updCore, core_setCore_ne _ _ h]

@[simp] theorem ctx_setCtx_self (s : State) (c t : Nat) (x : Ctx) : (s.setCtx c t x).ctx c t = x := by simp [ctx, setCtx]
theorem ctx_setCtx_slot (s : State) (c : Nat) {t u : Nat} (x : Ctx) (h : u ≠ t) : (s.setCtx c t x).ctx c u = s.ctx c u := by
  simp [ctx, setCtx, mgetD_mset_ne _ _ _ h]
theorem ctx_setCtx_core (s : State) {a c : Nat} (t u : Nat) (x : Ctx) (h : a ≠ c) : (s.setCtx c t x).ctx a u = s.ctx a u := by
  simp [ctx, setCtx, core_setCore_ne _ _ h]
@[simp] theorem ctx_updCtx_self (s : State) (c t : Nat) (f : Ctx → Ctx) : (s.updCtx c t f).ctx c t = f (s.ctx c t) := by
  simp [updCtx]
@[simp] theorem core_setCtx_self (s : State) (c t : Nat) (x : Ctx) :
    (s.setCtx c t x).core c = { s.core c with ctxs := mset (s.core c).ctxs t x } := by simp [setCtx]
theorem core_setCtx_ne (s : State) {a c : Nat} (t : Nat) (x : Ctx) (h : a ≠ c) : (s.setCtx c t x).core a = s.core a := by
  simp [setCtx, core_setCore_ne _ _ h]

@[simp] theorem me_updMe (s : State) (f : Ctx → Ctx) : (s.updMe f).me = f s.me := by
  simp [me, updMe]
@[simp] theorem myCore_updMyCore (s : State) (f : Core → Core) : (s.updMyCore f).myCore = f s.myCore := by
  simp [myCore, updMyCore]
@[simp] theorem myCore_updMe (s : State) (f : Ctx → Ctx) :
    (s.updMe f).myCore = { s.myCore with ctxs := mset s.myCore.ctxs s.cur.slot (f s.me) } := by
  simp [myCore, updMe, updCtx, me]
theorem me_updMyCore (s : State) (f : Core → Core) :
    (s.updMyCore f).me = mgetD (f s.myCore).ctxs s.cur.slot {} := by
  simp [me, ctx, updMyCore, myCore]

@[simp] theorem setCore_setCore (s : State) (c : Nat) (k l : Core) : (s.setCore c k).setCore c l = s.setCore c l := by
  simp [setCore]
@[simp] theorem setCtx_setCtx (s : State) (c t : Nat) (x y : Ctx) : (s.setCtx c t x).setCtx c t y = s.setCtx c t y := by
  simp [setCtx]
@[simp] theorem updCtx_updCtx (s : State) (c t : Nat) (f g : Ctx → Ctx) :
    (s.updCtx c t f).updCtx c t g = s.updCtx c t fun x => g (f x) := by simp [updCtx]
@[simp] theorem updMe_updMe (s : State) (f g : Ctx → Ctx) : (s.updMe f).updMe g = s.updMe fun x => g (f x) := by
  simp [updMe, updCtx]

@[simp] theorem die_updDie_self (s : State) (d : Nat) (f : Die → Die) : (s.updDie d f).die d = f (s.die d) := by
  simp [die, updDie, mupd]
@[simp] theorem plain_updPlain_self (s : State) (p : Nat) (f : Plain → Plain) : (s.updPlain p f).plain p = f (s.plain p) := by
  simp [plain, updPlain, mupd]
@[simp] theorem square_updSquare_self (s : State) (q : Nat) (f : Square → Square) :
    (s.updSquare q f).square q = f (s.square q) := by
  simp [square, updSquare, mupd]

end State

end Sys2Proof.Machine
end

