-- ==== Sys2Proof/Laws/Issue.lean ====
section
/-! SUPPORT. What an issue does, said once: an instruction whose conditions hold gets the verdict to go on, and one whose sources
are registers runs its effect on their values. -/

namespace Sys2Proof.Machine

theorem Verdict.go_andThen (w : Unit → Verdict) : Verdict.go.andThen w = w () := rfl

/-- An instruction whose conditions hold gets the verdict to go on (R75). -/
theorem verdict_of_issues {i : Instr} {s : State} (h : issues i s = true) : verdict i s = .go := by
  simp only [issues, Bool.and_eq_true] at h
  obtain ⟨⟨⟨⟨⟨⟨⟨⟨⟨⟨hm, hw⟩, hi⟩, hx⟩, hl⟩, hc⟩, hd⟩, hu⟩, hb⟩, hk⟩, ht⟩ := h
  have hi' : impDue s = none := by simpa using hi
  have hbw : beyondWindow s.me.pend = false := by
    simp only [beyondWindow, List.any_eq_false]
    intro p hp
    have := List.all_eq_true.mp hw p hp
    simp at this ⊢; omega
  have hx' : execHit s = none := by simpa using hx
  have hpc : pcVerdict s = .go := by simp [pcVerdict, hm, hbw, hi', hx']
  have hwin : ∀ (b : Bool) (ps : List Pend), (∀ p ∈ ps, p ∈ s.me.pend) → windowVerdict b (touched i) ps = .go := by
    intro b ps
    induction ps with
    | nil => intros; rfl
    | cons p r ih =>
      intro hps
      have h1 := List.all_eq_true.mp hw p (hps p (by simp))
      simp only [Bool.and_eq_true, decide_eq_true_eq, List.all_eq_true] at h1
      have h2 : p.uses.any (touched i).contains = false := by
        simp only [List.any_eq_false]
        intro a ha hc'
        have hm' : a ∈ touched i := by simpa using hc'
        have := h1.2 a hm'
        simp at this
        exact this ha
      simp only [windowVerdict, h2]
      rw [if_neg (by omega)]
      simpa using ih (fun q hq => hps q (by simp [hq]))
  have hb' : ¬(i = .brk ∧ s.myCore.brkHalt = true) := by
    simp at hb
    rintro ⟨rfl, h2⟩
    simp_all
  have hd' : (drains i && !s.me.pend.isEmpty) = false := by
    cases hdr : drains i <;> simp_all
  have hl' : illegalHere s.cur.core s.cur.slot i = false := by simpa using hl
  have hh : holdsBack i s = false := by
    unfold holdsBack
    rw [hwin _ _ (fun _ h => h), hd']
    simp
  simp only [verdict, hh, hpc, Verdict.go_andThen, hl', hwin _ _ (fun _ h => h), hu, if_neg hb', beq_iff_eq.mp hc,
    beq_iff_eq.mp hk, beq_iff_eq.mp ht]
  simp [Verdict.go_andThen]

/-- What may issue is live, not halted and not blocked. -/
theorem mayIssue_of_issues {i : Instr} {s : State} (h : issues i s = true) : mayIssue s = true := by
  simp only [issues, Bool.and_eq_true] at h
  exact h.1.1.1.1.1.1.1.1.1.1

theorem not_halted_of_issues {i : Instr} {s : State} (h : issues i s = true) : s.me.halted = false := by
  have := mayIssue_of_issues h
  simp [mayIssue] at this
  tauto

theorem blk_of_issues {i : Instr} {s : State} (h : issues i s = true) : s.me.blk = none := by
  have := mayIssue_of_issues h
  simp [mayIssue] at this
  tauto

/-- A map changed away from one key keeps that key. -/
theorem mget_map_except {α : Type} (m : Map α) (t : Nat) (f : α → α) :
    mget (m.map fun p => if p.1 = t then p else (p.1, f p.2)) t = mget m t := by
  induction m with
  | nil => rfl
  | cons p r ih =>
    obtain ⟨a, b⟩ := p
    by_cases h : a = t <;> simp [mget, h, ih]

theorem mget_map_other {α : Type} (m : Map α) {t u : Nat} (f : α → α) (h : u ≠ t) :
    mget (m.map fun p => if p.1 = t then p else (p.1, f p.2)) u = (mget m u).map f := by
  induction m with
  | nil => rfl
  | cons p r ih =>
    obtain ⟨a, b⟩ := p
    by_cases h1 : a = t
    · have : a ≠ u := by omega
      simp only [List.map_cons, if_pos h1, mget, this, if_false, ih]
    · by_cases h2 : a = u
      · simp [mget, h2, h]
      · simp [mget, h1, h2, ih]


/-- No comparator records a hit of an instruction whose conditions hold (R226). -/
theorem noteHit_of_issues {i : Instr} {s : State} (h : issues i s = true) : noteHit s = s := by
  simp only [issues, Bool.and_eq_true, beq_iff_eq] at h
  simp [noteHit, h.1.1.1.1.1.1.1.2]

theorem map_mset_except {α : Type} (m : Map α) (t : Nat) (f : α → α) (a : α) :
    (mset m t a).map (fun p => if p.1 = t then p else (p.1, f p.2)) =
      mset (m.map fun p => if p.1 = t then p else (p.1, f p.2)) t a := by
  induction m with
  | nil => simp [mset]
  | cons p r ih =>
    obtain ⟨b, c⟩ := p
    by_cases h1 : b = t
    · subst h1; simp [mset]
    · by_cases h2 : t < b
      · simp [mset, h1, h2]
      · have : ¬ t = b := fun h => h1 h.symm
        simp only [mset, h2, this, if_false, List.map_cons, h1, ih]

/-- The other slots of a core, each of which has seen slot t issue (R78). -/
def sawAll (m : Map Ctx) (t : Nat) : Map Ctx := m.map fun p => if p.1 = t then p else (p.1, p.2.sawIssue t)

theorem sawAll_mset (m : Map Ctx) (t : Nat) (x : Ctx) : sawAll (mset m t x) t = mset (sawAll m t) t x :=
  map_mset_except m t (·.sawIssue t) x

/-- An issue forgets the walk its context waited for, and nothing else. -/
theorem endWalk_spec (s : State) : (s.me.walking = none ∧ endWalk s = s) ∨ ∃ w : List WalkRes,
    endWalk s = s.setCore s.cur.core { s.myCore with
      walks := w, ctxs := mset s.myCore.ctxs s.cur.slot { s.me with walking := none } } := by
  unfold endWalk
  split
  · rename_i h
    exact .inl ⟨h, rfl⟩
  · rename_i id _
    exact .inr ⟨s.myCore.walks.filter fun w => w.id != id, by
      simp [State.updMe, State.updCtx, State.setCtx, State.updMyCore, State.updCore, State.ctx, State.myCore, State.me]⟩

theorem mgetD_sawAll_self (m : Map Ctx) (t : Nat) (d : Ctx) : mgetD (sawAll m t) t d = mgetD m t d := by
  simp [mgetD, sawAll, mget_map_except m t (·.sawIssue t)]

/-- The counting of an issue at the core's counters (R231). -/
def issuePmcs (i : Instr) (t : Nat) (k : Core) : Map Pmc :=
  (if loadsRemote i then pmcCount (pmcCount k 2 (some t) 1) 7 (some t) 1
   else if posts i then pmcCount (pmcCount k 2 (some t) 1) 8 (some t) 1 else pmcCount k 2 (some t) 1).pmcs

/-- The issue of an instruction, as one change of its core (R76, R78, R81). -/
theorem noteIssue_eq {i : Instr} {s : State} (h : issues i s = true) : ∃ (w : List WalkRes),
    noteIssue i s = s.setCore s.cur.core { s.myCore with
      walks := w, pmcs := issuePmcs i s.cur.slot s.myCore, issueSeq := s.myCore.issueSeq + 1,
      ctxs := mset (sawAll s.myCore.ctxs s.cur.slot) s.cur.slot
        ({ s.me with walking := none }.issue i (s.myCore.issueSeq + 1) s.nextId (s.clk s.cur.core)) } := by
  simp only [noteIssue, noteHit_of_issues h, issuePmcs]
  have hk := endWalk_spec s
  have hx : s.me.walking = none → { s.me with walking := none } = mgetD s.myCore.ctxs s.cur.slot {} := fun hn =>
    (congrArg (fun w => { s.me with walking := w }) hn).symm
  have hs := sawAll_mset s.myCore.ctxs s.cur.slot { s.me with walking := none }
  unfold sawAll at hs ⊢
  generalize { s.me with walking := none } = x0 at *
  by_cases h1 : loadsRemote i = true
  on_goal 2 => by_cases h2 : posts i = true
  all_goals
    rcases hk with ⟨hn, hw⟩ | ⟨w, hw⟩
    · refine ⟨s.myCore.walks, ?_⟩
      have hg := mgetD_sawAll_self s.myCore.ctxs s.cur.slot {}
      unfold sawAll at hg
      rw [hx hn, hw]
      simp only [*, if_true, if_false, Bool.false_eq_true, State.updMe, State.updCtx, State.setCtx, State.updMyCore,
        State.updCore, State.ctx, pmcCount, State.core_setCore_self, State.setCore_setCore, State.setCore_cur,
        State.setCore_nextId, State.setCore_clk, State.myCore] at hg ⊢
    · refine ⟨w, ?_⟩
      generalize s.myCore = k at *
      simp only [*, if_true, if_false, Bool.false_eq_true, State.updMe, State.updCtx, State.setCtx, State.updMyCore,
        State.updCore, State.ctx, pmcCount, State.core_setCore_self, State.setCore_setCore, State.setCore_cur,
        State.myCore, mset_mset, mgetD_mset_self, State.setCore_nextId, State.setCore_clk]

/-- The issuing context after its issue is counted. -/
theorem noteIssue_me {i : Instr} {s : State} (h : issues i s = true) :
    (noteIssue i s).me = { s.me with walking := none }.issue i (s.myCore.issueSeq + 1) s.nextId (s.clk s.cur.core) := by
  obtain ⟨w, hw⟩ := noteIssue_eq h
  rw [hw]
  simp [State.me, State.ctx]

/-- An issue changes the cores alone. -/
theorem noteIssue_package {i : Instr} {s : State} (h : issues i s = true) :
    noteIssue i s = { s with cores := (noteIssue i s).cores } := by
  obtain ⟨w, hw⟩ := noteIssue_eq h
  rw [hw]
  rfl

theorem noteIssue_cur {i : Instr} {s : State} (h : issues i s = true) : (noteIssue i s).cur = s.cur := by
  rw [noteIssue_package h]

/-! Operands that are registers. -/

/-- The value of a register operand. -/
def Opnd.regVal (x : Ctx) : Opnd → VWord
  | .s (.x r) => v128 (x.getX r)
  | .v (.v r) => x.v[r.val]
  | .k n => BitVec.ofNat 128 (x.getK n).toNat
  | _ => 0

theorem popOpnd_reg {s : State} {o : Opnd} (h : o.port? = none) : popOpnd s o = .ok (o.regVal s.me, s) := by
  rcases o with (_ | _) | (_ | _) | _ <;> simp_all [Opnd.port?, popOpnd, Opnd.regVal]

theorem popAll_regs {os : List Opnd} (vs : List VWord) (s : State) (h : ∀ o ∈ os, o.port? = none) :
    popAll os vs s = .done (vs ++ os.map (·.regVal s.me)) s := by
  induction os generalizing vs with
  | nil => simp [popAll]
  | cons o r ih =>
    simp only [popAll, popOpnd_reg (h o (by simp)), ih _ fun a ha => h a (by simp [ha])]
    simp

theorem getX_issue (x : Ctx) (i : Instr) (a b c : Nat) (r : Fin 48) : (x.issue i a b c).getX r = x.getX r := rfl

theorem regVal_issue (x : Ctx) (i : Instr) (a b c : Nat) (o : Opnd) :
    o.regVal ({ x with walking := none }.issue i a b c) = o.regVal x := by
  rcases o with (_ | _) | (_ | _) | _ <;> rfl

theorem w64_v128 (w : Word) : w64 (v128 w) = w := by
  apply BitVec.eq_of_toNat_eq
  simp [w64, v128]
  omega

/-- The block of an instruction in its issue clock. -/
def issueBlk (i : Instr) (x : Ctx) (clk : Nat) (vs : List VWord) : Blk :=
  { instr := i, pc := x.pc, len := instrLen i, held := vs, exempt := x.exempt, nbv2 := x.nbv2, since := clk }

/-- An instruction whose sources are registers runs its effect on their values in its issue clock (R43, R77). -/
theorem runOps_regs {i : Instr} (eff : List VWord → State → State) {s : State} (h : issues i s = true)
    (hr : ∀ o ∈ srcs i, o.port? = none) :
    runOps i eff (noteIssue i s) = settleOps (eff ((srcs i).map (·.regVal s.me))
      ((noteIssue i s).updMe fun x => { x with blk := some (issueBlk i s.me (s.clk s.cur.core) ((srcs i).map (·.regVal s.me))) })) := by
  have hb : (noteIssue i s).me.blk = some { instr := i, pc := s.me.pc, len := instrLen i, exempt := s.me.exempt, nbv2 := s.me.nbv2
                                            since := s.clk s.cur.core } := by
    rw [noteIssue_me h]; rfl
  have hv : (srcs i).map (·.regVal (noteIssue i s).me) = (srcs i).map (·.regVal s.me) := by
    rw [noteIssue_me h]
    exact List.map_congr_left fun o _ => regVal_issue ..
  simp only [runOps, hb, List.length_nil, List.drop_zero, popAll_regs [] _ hr, List.nil_append, hv]
  congr 2
  simp only [updBlk, State.updMe, State.updCtx]
  congr 1
  have : (noteIssue i s).ctx (noteIssue i s).cur.core (noteIssue i s).cur.slot = (noteIssue i s).me := rfl
  rw [this, hb]
  rfl

/-- A context with the instruction it is blocked in. -/
def Ctx.setBlk (x : Ctx) (b : Option Blk) : Ctx := { x with blk := b }

@[simp] theorem Ctx.setBlk_blk (x : Ctx) (b : Option Blk) : (x.setBlk b).blk = b := rfl
@[simp] theorem Ctx.setBlk_setBlk (x : Ctx) (a b : Option Blk) : (x.setBlk a).setBlk b = x.setBlk b := rfl
@[simp] theorem Ctx.setBlk_halted (x : Ctx) (b : Option Blk) : (x.setBlk b).halted = x.halted := rfl
@[simp] theorem Ctx.setBlk_getX (x : Ctx) (b : Option Blk) (r : Fin 48) : (x.setBlk b).getX r = x.getX r := rfl
theorem Ctx.issue_halted (x : Ctx) (i : Instr) (a b c : Nat) :
    ({ x with walking := none }.issue i a b c).halted = x.halted := rfl
theorem Ctx.issue_getX (x : Ctx) (i : Instr) (a b c : Nat) (r : Fin 48) :
    ({ x with walking := none }.issue i a b c).getX r = x.getX r := rfl
theorem complete_eq (s : State) : complete s = s.updMe fun x => x.setBlk none := rfl

/-- Writing a register keeps the rest of the context. -/
theorem Ctx.setX_setBlk (x : Ctx) (b : Option Blk) (d : Fin 48) (w : Word) : (x.setBlk b).setX d w = (x.setX d w).setBlk b := by
  unfold Ctx.setX
  split <;> rfl

theorem Ctx.setX_halted (x : Ctx) (d : Fin 48) (w : Word) : (x.setX d w).halted = x.halted := by
  unfold Ctx.setX
  split <;> rfl

/-- An effect on the context alone, then the end of the instruction: no push is owed. -/
theorem settleOps_updMe (i : Instr) (y : Ctx) (k : Nat) (vs : List VWord) (g : Ctx → Ctx) (n : State)
    (hg : ∀ x b, g (x.setBlk b) = (g x).setBlk b) :
    settleOps ((n.updMe fun x => x.setBlk (some (issueBlk i y k vs))).updMe g) = (complete n).updMe g := by
  have hb : (((n.updMe fun x => x.setBlk (some (issueBlk i y k vs))).updMe g).me).blk = some (issueBlk i y k vs) := by
    rw [State.updMe_updMe, State.me_updMe, hg, Ctx.setBlk_blk]
  have hc : complete ((n.updMe fun x => x.setBlk (some (issueBlk i y k vs))).updMe g) = (complete n).updMe g := by
    rw [complete_eq, complete_eq, State.updMe_updMe, State.updMe_updMe, State.updMe_updMe]
    congr 1
    funext x
    rw [hg, hg, Ctx.setBlk_setBlk]
  rw [settleOps, hb]
  exact hc

/-- An effect that leaves the context running is the whole of the issue. -/
theorem issueOps_of {i : Instr} {eff : List VWord → State → State} {s t : State} (h : issues i s = true)
    (ht : runOps i eff (noteIssue i s) = t) (hh : t.me.halted = false) : issueOps i eff s = .next t := by
  have hi : issueState i eff s = t := by
    unfold issueState
    rw [verdict_of_issues h]
    dsimp only
    rw [ht]
    have hn : watchHalted s t = false := by simp [watchHalted, hh]
    rw [hn]
    rfl
  rw [issueOps, hi]

/-- An instruction of register operands whose effect changes its context alone (R77). -/
theorem issueOps_updMe {i : Instr} {eff : List VWord → State → State} {s : State} (g : Ctx → Ctx) (h : issues i s = true)
    (hr : ∀ o ∈ srcs i, o.port? = none) (hg : ∀ x b, g (x.setBlk b) = (g x).setBlk b)
    (hh : ∀ x, (g x).halted = x.halted)
    (he : ∀ u : State, (u.me.setBlk none = (noteIssue i s).me.setBlk none) → u.cur = s.cur →
      eff ((srcs i).map (·.regVal s.me)) u = u.updMe g) :
    issueOps i eff s = .next ((issued i s).updMe g) := by
  refine issueOps_of h ?_ ?_
  · rw [runOps_regs eff h hr]
    have h1 := he ((noteIssue i s).updMe fun x => x.setBlk (some (issueBlk i s.me (s.clk s.cur.core) ((srcs i).map (·.regVal s.me)))))
      (by rw [State.me_updMe, Ctx.setBlk_setBlk]) (by rw [State.updMe_cur, noteIssue_cur h])
    exact (congrArg settleOps h1).trans (settleOps_updMe i s.me _ _ g _ hg)
  · rw [State.me_updMe, hh]
    have : (issued i s).me.halted = (noteIssue i s).me.halted := by
      rw [issued, complete_eq, State.me_updMe, Ctx.setBlk_halted]
    rw [this, noteIssue_me h, Ctx.issue_halted]
    exact not_halted_of_issues h

/-- An instruction of register operands whose effect is to write a register. -/
theorem issueOps_writesX {i : Instr} {eff : List VWord → State → State} {s : State} (d : Fin 48) (w : Word)
    (h : issues i s = true) (hr : ∀ o ∈ srcs i, o.port? = none)
    (he : ∀ u : State, (∀ r, u.me.getX r = s.me.getX r) → eff ((srcs i).map (·.regVal s.me)) u = putS u (.x d) w) :
    issueOps i eff s = .next (writesX i d w s) := by
  refine issueOps_updMe (fun x => x.setX d w) h hr (fun x b => Ctx.setX_setBlk x b d w) (fun x => Ctx.setX_halted x d w)
    fun u hu _ => ?_
  refine he u fun r => ?_
  rw [← Ctx.setBlk_getX u.me none r, hu, Ctx.setBlk_getX, noteIssue_me h, Ctx.issue_getX]

end Sys2Proof.Machine
end

