-- ==== Sys2Proof/Tests/Slice0.lean ====
section
/-! SUPPORT. Small tests: words of the spec's encodings, terms that the well-formedness check refuses, single steps with
results from the manual, and for every statement a state and operands that meet its hypotheses. -/

open Sys2Proof Sys2Proof.Machine

namespace Sys2Proof.Tests

-- one theorem after the other: many at once ask for more threads than the check allows
set_option Elab.async false

/-! The states of the tests. -/

/-- A group of launch 1 of job 1. -/
def group1 : Group := { id := 1, launch := 1, job := 1, lin := 0, coord := (0, 0, 0), kind := 0 }

/-- A job on plain 0, its virtual die 0. -/
def job1 : Job := { partition := 1, vdtlo := 0x80, vdthi := 0, root := 0, vec1 := 0
                    vec2 := 0, faultq := 0, logn := 0, launchq := 0 }

/-- A grid launch of one group. -/
def launch1 : Launch := { job := 1, addr := 0, words := [], kind := 0, dims := 1, prio := 0, ext := (1, 1, 1) }

/-- A live context at 0x100 with some registers. -/
def ctxWith (xs : List (Nat × Word)) : Ctx :=
  { status := .live, pc := 0x100, x := xs.foldl (fun v p => v.setIfInBounds p.1 p.2) (Vector.replicate 48 0) }

/-- Core 0 with a group and its control context. -/
def coreOf (x : Ctx) : Core := { group := some group1, ctxs := [(0, x)] }

/-- A package whose core 0 is given, with job 1 and launch 1. -/
def stateOf (k : Core) : State := { cores := [(0, k)], jobs := [(1, job1)], launches := [(1, launch1)] }

/-- A package whose core 0 runs a context with some registers. -/
def base (xs : List (Nat × Word)) : State := stateOf (coreOf (ctxWith xs))

/-- The context of `base` blocked in an instruction at a stage. -/
def blockedCtx (i : Instr) (stage : Nat) (aux : Word) (held : List VWord) (xs : List (Nat × Word)) : Ctx :=
  { ctxWith xs with blk := some { instr := i, pc := 0x100, len := 1, held := held, stage := stage, aux := aux } }

/-- A package whose core 0 is blocked in an instruction at a stage. -/
def blockedBase (i : Instr) (stage : Nat) (aux : Word) (held : List VWord) (xs : List (Nat × Word)) : State :=
  stateOf (coreOf (blockedCtx i stage aux held xs))

/-- What a step leaves, if it goes on, meets a test. -/
def nextIs (o : Host.Outcome State Fault Refusal) (p : State → Bool) : Bool :=
  match o with
  | .next t => p t
  | _ => false

/-! What the well-formedness check refuses: one ill-formed term for each check. -/

/-- A field that leaves the register (R100), and a field inserted into a port. -/
theorem test_illformed_fields :
    wellFormed (.bfx (.x 1) (.x 2) 60 4) = false ∧ wellFormed (.bfxu (.x 1) (.x 2) 1 63) = false ∧
    wellFormed (.bfi (.x 1) (.x 2) 63 1) = false ∧ wellFormed (.bfi (.port (.st 0)) (.x 2) 0 0) = false ∧
    wellFormed (.bfi (.x 1) (.x 2) 60 3) = true := by decide

/-- A 64-bit FADD, and a third specifier of an operation that compares nothing (R49). -/
theorem test_illformed_atomics :
    wellFormed (.amo .fadd true (.x 1) (.x 2) (.x 3) (.x 0) 0 0) = false ∧
    wellFormed (.amo .add true (.x 1) (.x 2) (.x 3) (.x 4) 0 0) = false ∧
    wellFormed (.ramo .fadd true (.x 1) (.x 2) (.x 0) 0 0) = false ∧ wellFormed (.ramor .swap false (.x 1) (.x 2) (.x 3) (.x 4) 0) = false ∧
    wellFormed (.amo .cas true (.x 1) (.x 2) (.x 3) (.x 4) 0 0) = true := by decide

/-- Four registers that would end beyond x47 (R190), a lease of 0 and of 65 commands (R238), widths 7 and 49 (R256). -/
theorem test_illformed_engines :
    wellFormed (.tcmd 1 45) = false ∧ wellFormed (.tcmd 1 44) = true ∧ wellFormed (.lease 0) = false ∧ wellFormed (.lease 65) = false ∧
    wellFormed (.gwid 7) = false ∧ wellFormed (.gwid 49) = false ∧ wellFormed (.lith (.port (.st 0)) 1) = false := by decide

/-- Integer lanes of a fused product, a selection without a mask, bit operations and shuffles of floating-point lanes, unsigned
predicates of floating-point lanes (R47). -/
theorem test_illformed_lanes :
    wellFormed (.vfma .i32 0 (.v 1) (.v 2) (.v 3)) = false ∧ wellFormed (.vfms .f32 0 (.port (.st 0)) (.v 2) (.v 3)) = false ∧
    wellFormed (.vsel .f32 0 (.v 1) (.v 2) (.v 3)) = false ∧ wellFormed (.vand .f32 0 (.v 1) (.v 2) (.v 3)) = false ∧
    wellFormed (.vshra .bf16 0 (.v 1) (.v 2) (.v 3)) = false ∧ wellFormed (.vcmp .ltu .f32 0 1 (.v 2) (.v 3)) = false ∧
    wellFormed (.vshuf .f16 0 (.v 1) (.v 2) (.v 3) (.v 4)) = false := by decide

/-- A lane number beyond the vector, a narrowing that does not narrow, one destination twice, approximations of integers, and a dot
product into a port. -/
theorem test_illformed_conversions :
    wellFormed (.vins .f32 (.v 1) (.x 2) 4) = false ∧ wellFormed (.vext .i64 (.x 1) (.v 2) 2) = false ∧
    wellFormed (.vcvtef .f32 .f16 .ne 0 (.v 1) (.v 2) (.v 3)) = false ∧ wellFormed (.vcvtef .f16 .f32 .ne 0 (.v 1) (.v 1) (.v 3)) = false ∧
    wellFormed (.vrcp .i32 (.v 1) (.v 2) 0) = false ∧ wellFormed (.vrcps .i8 (.v 1) (.v 2) (.v 3) 0) = false ∧
    wellFormed (.vdot4 .uu 0 (.port (.st 0)) (.v 2) (.v 3)) = false := by decide

/-! Words of the encodings of R40 to R54, written out from their tables. -/

/-- The words of map A decode to their instructions. -/
theorem test_words_32 : specWordsA.all (fun r => decodeTableWord 32 r.1 == some r.2) = true := by decide +kernel

/-- The words of the longer maps decode to their instructions. -/
theorem test_words_long :
    specWordsLong.all (fun r =>
      decodeTableWord r.1 (r.2.1 + 2 ^ 32 * r.2.2.1 + 2 ^ 64 * r.2.2.2.1) == some r.2.2.2.2) = true := by decide +kernel

/-- The worked encodings of R103, R104, R110, R111, R116, R280, R283: CID x0, JLR x0, 0(x1), SYS 42, BRK, PHASE 1, TKPUT x4, x5 and
TKGET x7, x8 ~2. -/
theorem test_worked_encodings :
    decodeTableWord 32 0x1C0000B4 = some (.cid (.x 0)) ∧ decodeTableWord 32 0x0000405C = some (.jlr (.x 0) (.x 1) 0) ∧
    decodeTableWord 32 0x02A000B8 = some (.sys 42) ∧ decodeTableWord 32 0x040000B4 = some .brk ∧
    decodeTableWord 32 0x001000D4 = some (.phase 1) ∧ decodeTableWord 32 0x145100E8 = some (.tkput (.x 4) (.x 5)) ∧
    decodeTableWord 32 0x200207F8 = some (.tkget (.x 7) (.x 8) 2) := by decide +kernel

/-- The all-zero and the all-ones word are no instruction (R46). -/
theorem test_illegal_words : decodeTableWord 32 0 = none ∧ decodeTableWord 32 0xFFFFFFFF = none := by decide +kernel

/-- A command word of eq1: TREL of slot 3 with tag 5 that asks for a record (R52, R54). -/
theorem test_command_word :
    decodeCmd 1 (BitVec.ofNat 256 (0x26 + 2 ^ 25 + 5 * 2 ^ 32 + 3 * 2 ^ 64)) =
      .ok (.trel { tag := 5, result := true, flagen := false, flag := 0, ext := 0 } 3) := by decide +kernel

/-- The step after reset with an instruction placed runs it: ADDI x1, x0, -1 leaves x1 all ones, and LIT x1 takes its literal. -/
theorem test_step_runs_placed :
    nextIs (step (State.reset.withFetchWord 32 0xFFF0010C)) (fun t => (t.ctx 0 0).getX 1 == BitVec.allOnes 64) = true ∧
    nextIs (step (State.reset.withFetchWord 96 (0x107 + 2 ^ 64 * 0x80000001))) (fun t =>
      (t.ctx 0 0).getX 1 == 0xFFFFFFFF80000001#64 && (t.ctx 0 0).pc == 12) = true := by decide +kernel

/-! Single steps with results from the manual. -/

/-- R95: DIV of -2^63 by -1 is pending with -2^63, and REM of them with 0. -/
theorem test_divide_corner :
    let s := base [(2, 0x8000000000000000#64), (3, BitVec.allOnes 64)]
    nextIs (exec (.div (.x 1) (.x 2) (.x 3) 0) s)
      (fun t => t.me.pend.map (fun p => p.res) == [some (.value (v128 0x8000000000000000#64))]) = true ∧
    nextIs (exec (.rem (.x 1) (.x 2) (.x 3) 0) s) (fun t => t.me.pend.map (fun p => p.res) == [some (.value 0)]) = true := by
  decide +kernel

/-- R110, R86: SYS 42 at 0x100, with the next word in the fetch buffer, enters level 1 with cause 0x14, TVALUE 42 and TEPC 0x104. -/
theorem test_system_call :
    nextIs (exec (.sys 42) (stateOf (coreOf { ctxWith [] with fbuf := encodeBytes (.sys 42) ++ encodeBytes (.sys 42) }))) (fun t => t.me.t1.tcause == 0x14 && t.me.t1.tvalue == 42 && t.me.t1.tepc == 0x104 &&
      t.me.tl == 1 && t.me.mode == .runtime) = true := by decide +kernel

/-- R103: JL x1 to a label 0x100 bytes ahead has OFF18 = 64. -/
theorem test_jump_link :
    nextIs (exec (.jl (.x 1) 64) (base [])) (fun t => t.me.pc == 0x200 && t.me.getX 1 == 0x104) = true := by decide +kernel

/-! Witnesses: a state and operands that meet the hypotheses of each statement. -/

/-- R93: every row of the table issues, with x0 and with x47 as destination. -/
theorem witness_two_source : (twoSourceRows.all fun r => issues (r.1 (.x 0) (.x 1) (.x 47)) (base []) &&
    issues (r.1 (.x 47) (.x 0) (.x 0)) (base [])) = true := by decide +kernel

/-- R100: every row issues, at the ends of the immediates. -/
theorem witness_one_source : ((oneSourceRows 0x7FF 63 0 63 31 7 15 ++ oneSourceRows 0x800 0 63 0 0 0 0).all fun r =>
    issues (r.1 (.x 1) (.x 47)) (base [])) = true := by decide +kernel

/-- R50, R100, R101. -/
theorem witness_literals : (issues (.lit (.x 1) 0x80000000) (base []) = true ∧ issues (.lith (.x 0) 1) (base []) = true) ∧
    (issues (.bfi (.x 1) (.x 2) 63 0) (base []) = true ∧ (63 : BitVec 6).toNat + (0 : BitVec 6).toNat < 64) ∧
    (issues (.bfi (.x 1) (.x 2) 0 63) (base []) = true ∧ (0 : BitVec 6).toNat + (63 : BitVec 6).toNat < 64) ∧
    issues (.sel (.x 1) (.x 2) (.x 3) (.x 4)) (base []) = true := by decide +kernel

/-- R95: a divisor that is 1, and one that is 0. -/
theorem witness_divide : (divideRows.all fun r => let i := r.1 (.x 1) (.x 2) (.x 3) 15
    issues i (base [(3, 1)]) && (base [(3, 1)]).me.getX 3 != 0 && issues i (base []) && (base []).me.getX 3 == 0 &&
    trapsPlainly (base [])) = true := by decide +kernel

/-- R102: every branch issues in a slot that is not traced. -/
theorem witness_branch : (branchRows.all fun r => issues (r.1 (.x 1) (.x 2) 0x800) (base [(1, 1)]) &&
    !tracesSlot (base [(1, 1)]).myCore 0) = true := by decide +kernel

/-- R103, R104: a target that is a multiple of 4, and one that is not. -/
theorem witness_jump : issues (.jl (.x 1) 0x20000) (base []) = true ∧ issues (.jlr (.x 1) (.x 2) 4) (base [(2, 0x20)]) = true ∧
    ((((base [(2, 0x20)]).me.getX 2).toNat % 2 ^ 52 : Nat) + (4 : BitVec 12).toInt) % (2 ^ 52 : Nat) % 4 = 0 ∧
    ((((base [(2, 0x20)]).me.getX 2).toNat % 2 ^ 52 : Nat) + (0xFFF : BitVec 12).toInt) % (2 ^ 52 : Nat) % 4 ≠ 0 ∧
    issues (.jlr (.x 1) (.x 2) 0xFFF) (base [(2, 0x20)]) = true ∧ trapsPlainly (base [(2, 0x20)]) = true := by decide +kernel

/-- R88: runtime mode at level 2, job mode, and runtime mode at level 0. -/
theorem witness_tret :
    let s := fun m l => stateOf (coreOf { ctxWith [] with mode := m, tl := l })
    (issues .tret (s .runtime 2) = true ∧ (s .runtime 2).me.mode = .runtime ∧ (s .runtime 2).me.tl ≠ 0) ∧
    (issues .tret (s .job 0) = true ∧ (s .job 0).me.mode = .job ∧ trapsPlainly (s .job 0) = true) ∧
    issues .tret (s .runtime 0) = true ∧ (s .runtime 0).me.tl = 0 ∧ trapsPlainly (s .runtime 0) = true := by decide +kernel

/-- R110, R111: at level 0 and at level 1. -/
theorem witness_software_traps :
    let s := stateOf (coreOf { ctxWith [] with mode := .runtime, tl := 1 })
    trapsPlainly (base []) = true ∧ issues (.sys 4095) (base []) = true ∧ issues .brk (base []) = true ∧
    trapsPlainly s = true ∧ issues (.sys 0) s = true ∧ issues .brk s = true := by decide +kernel

/-- R78, R113: a live helper beside the context; a WFE that issues, and a blocked one with the event bit 1 and 0. -/
theorem witness_yield_wait :
    issues .yield (base []) = true ∧ issues .wfe (base []) = true ∧
    ∀ e ∈ [true, false], let s := stateOf (coreOf { blockedCtx .wfe 1 0 [] [] with evt := e })
      blockedIn .wfe 1 s = true ∧ s.me.evt = e := by decide +kernel

/-- R115 to R117. -/
theorem witness_time_place : issues (.gtime (.x 5)) (base []) = true ∧ (base []).me.lastTime ≤ (base []).ptime ∧
    ((base []).die (coreDie (base []).cur.core)).gtime ≤ (base []).ptime ∧
    issues (.cid (.x 1)) (base []) = true ∧ issues (.dhop (.x 1) (.x 2) (.x 3)) (base []) = true := by decide +kernel

/-- A core whose ten helper slots are in use. -/
def fullCore (x : Ctx) (st : CtxStatus) : State :=
  stateOf { group := some group1, ctxs := (0, x) :: (List.range 10).map fun i => (i + 1, { status := st, gen := 7 }) }

/-- R70, R220: a free first slot, a starter that steps under HOLDDISP, no free slot, and an entry that is no multiple of 4. -/
theorem witness_helper_start :
    let i : Instr := .hstart (.x 1) (.x 2) (.x 3)
    (issues i (base [(2, 0x400)]) = true ∧ (base [(2, 0x400)]).me.stepping = none ∧
      ((base [(2, 0x400)]).me.getX 2).toNat % 2 ^ 52 % 4 = 0 ∧ ((base [(2, 0x400)]).ctx 0 1).status = .free) ∧
    (let s := stateOf { coreOf { ctxWith [(2, 0x400)] with stepping := some 0 } with holdDisp := true };
      issues i s = true ∧ s.me.stepping ≠ none ∧ s.myCore.holdDisp = true ∧ tracesSlot s.myCore 1 = false ∧ (s.ctx 0 1).status = .free) ∧
    (issues i (fullCore (ctxWith []) .live) = true ∧ ∀ j < 11, 1 ≤ j → ((fullCore (ctxWith []) .live).ctx 0 j).status ≠ .free) ∧
    issues i (base [(2, 2)]) = true ∧ ((base [(2, 2)]).me.getX 2).toNat % 2 ^ 52 % 4 ≠ 0 ∧ trapsPlainly (base [(2, 2)]) = true := by
  decide +kernel

/-- R72: helper 10 that has exited, with and without a store to perform, one that is killed, one that is live, and no helper; a HJOIN
that waits. -/
theorem witness_helper_join :
    let i : Instr := .hjoin (.x 1) (.x 2)
    let s := fun st => fullCore (ctxWith [(2, 10)]) st
    (([CtxStatus.exited, .killed, .live].all fun st => issues i (s st) && ((s st).ctx 0 10).status == st && trapsPlainly (s st) &&
      ((s st).me.getX 2).toNat == 10 && (s st).myCore.storeQ == []) = true) ∧
    (let e : StoreEnt := { id := 1, slot := 10, gen := 7, key := 0, act := .bytes 0x400 1 0 false };
      let u := (s .exited).updMyCore fun k => { k with storeQ := [e] };
      issues i u = true ∧ (u.ctx 0 10).status = .exited ∧ e.slot = 10 ∧ e.gen = (u.ctx 0 10).gen) ∧
    (issues i (base [(2, 11)]) = true ∧ 10 < ((base [(2, 11)]).me.getX 2).toNat ∧ trapsPlainly (base [(2, 11)]) = true) ∧
    (issues i (base [(2, 1)]) = true ∧ ((base [(2, 1)]).ctx 0 1).status = .free ∧ trapsPlainly (base [(2, 1)]) = true) ∧
    ([CtxStatus.exited, .killed].all fun st => let u := fullCore (blockedCtx i 1 10 [10] []) st
      blockedIn i 1 u && u.me.blk.map Blk.aux == some 10 && (u.ctx 0 10).status == st && trapsPlainly u) = true := by decide +kernel

/-- R71: helper 3 of a core. -/
theorem witness_helper_exit :
    let s : State := { fullCore (ctxWith []) .live with cur := { slot := 3 } }
    issues (.hexit (.x 1)) s = true ∧ s.me.stepping = none := by decide +kernel

/-- R74. -/
theorem witness_retire : issues .retire (base []) = true ∧ (base []).myCore.group = some group1 ∧
    mget (base []).launches group1.launch = some launch1 := by decide +kernel

/-- R106, R107: every register of the table is read, and each in runtime mode written. -/
theorem witness_csr :
    let s := stateOf (coreOf { ctxWith [] with mode := .runtime })
    s.myCore.late = [] ∧ featureOn s 4 = false ∧ featureOn { s with mgmt := { featon := 16 } } 4 = true ∧
    issues (.csrw (.x 1) (.x 2) 0x000) { s with mgmt := { featon := 16 } } = true ∧ (csrReadRows.all fun r => issues (.csrr (.x 1) (BitVec.ofNat 12 r.1)) s) = true ∧
    (csrWriteRows.all fun o => csrRows.all fun r => issues (o.1 (.x 1) (.x 2) (BitVec.ofNat 12 r.1)) s) = true := by decide +kernel

/-- R108: an unassigned number, a write of a read-only register, HSTAT in a helper, and a runtime register in job mode.;
a port operand alike. -/
theorem witness_csr_checks :
    let h : State := { fullCore (ctxWith []) .live with cur := { slot := 3 } }
    (reachesIssue (base []) = true ∧ illegalHere 0 0 (.csrr (.x 1) 0xFFF) = false ∧ trapsPlainly (base []) = true ∧
      csrKnown 0xFFF = false) ∧
    (illegalHere 0 0 (.csrw (.x 1) (.x 2) 0x002) = false ∧ csrReadOnly 0x002 = true) ∧
    illegalHere 0 0 (.csrw (.port (.eq 0)) (.port (.st 0)) 0xFFF) = false ∧
    (reachesIssue h = true ∧ illegalHere 0 3 (.csrr (.x 1) 0x003) = false ∧ trapsPlainly h = true ∧ h.cur.slot ≠ 0) ∧
    illegalHere 0 0 (.csrr (.x 1) 0x005) = false ∧ csrKnown 0x005 = true ∧ (base []).me.mode = .job ∧ csrRuntime 0x005 = true := by
  decide +kernel

/-- R43, R44: a register beyond a helper's, RETIRE in a helper, and a link of core 0 to the west. -/
theorem witness_illegal_here :
    let h : State := { fullCore (ctxWith []) .live with cur := { slot := 3 } }
    (reachesIssue h = true ∧ trapsPlainly h = true ∧ illegalHere 0 3 (.add (.x 16) (.x 1) (.x 2)) = true ∧
      illegalHere 0 3 .retire = true) ∧
    reachesIssue (base []) = true ∧ trapsPlainly (base []) = true ∧ illegalHere 0 0 (.hexit (.x 1)) = true ∧
      illegalHere 0 0 (.add (.port (.ln .w)) (.x 1) (.x 2)) = true := by decide +kernel

/-- R75, R77, R81: an instruction that has bits and waits for a pending divide. -/
theorem witness_waiting :
    let p : Pend := { id := 1, l := 3, pc := 0, uses := [(0, 1)], dst := .s (.x 1), kind := .divide, due := 9 }
    let s := stateOf (coreOf { ctxWith [] with pend := [p] })
    encode (.add (.x 2) (.x 1) (.x 1)) ≠ [] ∧ s.me.blk = none ∧ verdict (.add (.x 2) (.x 1) (.x 1)) s = .wait := by decide +kernel

/-- R184 to R186: flag 255 untouched; and FWAIT at OVERSHOOT, at COUNT 0 and at COUNT 1. -/
theorem witness_flags :
    (issues (.farm 255 (.x 1)) (base []) = true ∧ flagStill ((base []).flag 0 255) = true ∧ issues (.fclr 255) (base []) = true ∧
      issues (.fread (.x 1) 255) (base []) = true ∧ issues (.fwait 255) (base []) = true) ∧
    ∀ f ∈ ([{ ovs := true }, {}, { count := 1 }] : List Flag),
      let s := stateOf { coreOf (blockedCtx (.fwait 7) 1 0 [] []) with flags := [(7, f)] }
      blockedIn (.fwait 7) 1 s = true ∧ s.me.tagQ = [] ∧ s.me.failQ = [] ∧ trapsPlainly s = true := by decide +kernel

/-- R163, R182: a FWAIT, BARW and PHASE with a tag report and with a failure report. -/
theorem witness_reports :
    ∀ x ∈ [({ tagQ := [{ addr := 0x400, detail := 5 }] } : Ctx), { failQ := [{ cause := 0x0A, value := 7 }] }],
      let of (k : Core) : State := stateOf { k with ctxs := k.ctxs.map fun p => (p.1, { p.2 with tagQ := x.tagQ, failQ := x.failQ }) }
      let w := of (coreOf (blockedCtx (.fwait 7) 1 0 [] []))
      let s := of (coreOf (ctxWith []))
      blockedIn (.fwait 7) 1 w = true ∧ trapsPlainly w = true ∧ w.me.tagQ = x.tagQ ∧ w.me.failQ = x.failQ ∧
      ((reportWaits 7 63 7).all fun row => let u := of (coreOf (blockedCtx row.1 row.2 0 [] []))
        blockedIn row.1 row.2 u && trapsPlainly u && u.me.tagQ == x.tagQ && u.me.failQ == x.failQ) = true ∧
      issues (.barw 63) s = true ∧ issues (.phase 7) s = true ∧ trapsPlainly s = true ∧ s.me.tagQ = x.tagQ ∧
      s.me.failQ = x.failQ := by decide +kernel

/-- R214, R215: BARA, and BARW with the state waiting and released. -/
theorem witness_barriers :
    let w := stateOf (coreOf { ctxWith [] with barWaiting := 2 ^ 63 })
    (issues (.bara 63) (base []) = true ∧ issues (.barw 63) (base []) = true ∧ (base []).me.tagQ = [] ∧ (base []).me.failQ = [] ∧
      (base []).me.barWaiting.getLsbD 63 = false) ∧
    (issues (.barw 63) w = true ∧ w.me.tagQ = [] ∧ w.me.failQ = [] ∧ w.me.barWaiting.getLsbD 63 = true) ∧
    ∀ b ∈ [true, false], let u := stateOf (coreOf { blockedCtx (.barw 63) 1 0 [] [] with barWaiting := if b then 2 ^ 63 else 0 });
      blockedIn (.barw 63) 1 u = true ∧ u.me.tagQ = [] ∧ u.me.failQ = [] ∧ u.me.barWaiting.getLsbD 63 = b := by decide +kernel

/-- R214: an arrival that releases (EXPECT 1), and one that does not (EXPECT 0, taken as 16). -/
theorem witness_barrier_arrive :
    let s := stateOf { coreOf (blockedCtx (.bara 63) 1 63 [] []) with bars := [(63, { expect := 0 })] }
    (blockedIn (.bara 63) 1 s = true ∧ earlierLocal s 0 0 s.nextId true = false) ∧
    blockedIn (.bara 63) 1 (blockedBase (.bara 63) 1 63 [] []) = true ∧
      earlierLocal (blockedBase (.bara 63) 1 63 [] []) 0 0 1 true = false := by decide +kernel

/-- R280: B above 63, B 0, and a blocked PHASE that arrives for the first and for the second time. -/
theorem witness_phase :
    let k := coreOf (blockedCtx (.phase 7) 1 0 [] [])
    let z := stateOf { coreOf (ctxWith []) with domm := 0 }
    (issues (.phase 7) (base []) = true ∧ 63 < (base []).myCore.domm.toNat / 2 ^ 56 % 256) ∧
    (issues (.phase 7) z = true ∧ z.myCore.domm.toNat / 2 ^ 56 % 256 ≤ 63 ∧ launch1.kind ≠ 1 ∧ launch1.kind ≠ 2) ∧
    ∀ b ∈ [0, 0x80], let s := stateOf { k with domArrived := b }
      blockedIn (.phase 7) 1 s = true ∧ s.me.tagQ = [] ∧ s.me.failQ = [] ∧ released s 0 0 s.nextId = true ∧
      s.myCore.group = some group1 ∧ mget s.launches 1 = some launch1 := by decide +kernel

/-- R280: a release that is due at core 0, a member of its round. -/
theorem witness_domain_release :
    let r : Round := { launch := 1, level := 7, b := 0, block := 0, released := some 0, members := [0] }
    let s : State := { blockedBase (.phase 7) 2 0 [] [] with rounds := [r] }
    s.myCore.group = some group1 ∧ roundDue s 0 = some r ∧ waitsPhase (s.ctx 0 0) 7 = true ∧ waitsPhase (s.ctx 0 1) 7 = false := by
  decide +kernel

/-! Command words, leases and local memory. -/

/-- A queue entry of core 0's group. -/
def entryOf (w : BitVec 256) : CmdEnt := { word := w, group := 1, launch := 1, job := 1 }

/-- R190: each queue with room and the array's full; an assembly buffer that holds words. -/
theorem witness_command_push :
    ([0, 1, 2, 3].all fun q => [[], [7]].all fun buf =>
      let s := stateOf (coreOf { ctxWith [] with asm := (Vector.replicate 4 []).set! q.val buf })
      issues (.tcmd q 44) s && s.myCore.group == some group1 && s.me.asm[q.val] == buf && released s 0 0 s.nextId &&
      hasRoom s q.val (pushedCommand s 44) && hasRoom s q.val (cmdOfWords buf)) = true ∧
    (let s := stateOf { coreOf (ctxWith []) with eq1 := List.replicate 16 (entryOf 0) };
      issues (.tcmd 1 44) s = true ∧ s.me.asm[1] = [] ∧ hasRoom s 1 (pushedCommand s 44) = false) := by decide +kernel

/-- R170, R190: the last 32 bytes of the scratchpad, free and under a watermark, a misaligned pointer, and a granule of another
tag. -/
theorem witness_command_from_memory :
    let i (a : Fin 48) : Instr := .tcmdm 1 (.x a)
    let s := base [(2, 0x7FFE0), (3, 0x7FFE0 - 8)]
    (issues (i 2) s = true ∧ s.myCore.group = some group1 ∧ s.me.asm[1] = [] ∧ released s 0 0 s.nextId = true ∧
      hasRoom s 1 0 = true ∧ quietCore s = true ∧ wmBlocks s.myCore none 0x7FFE0 32 = false ∧
      localAt (s.me.getX 2) 0 32 = some 0x7FFE0 ∧ granted s.myCore 0 [(0x7FFE0, 32)] = true ∧ tagsPass s (s.me.getX 2) 0x7FFE0 32 = true) ∧
    (let w := s.updMyCore fun k => { k with chans := [(0, { wm := some (0x7FFF0, 0x7FFF7) })] };
      issues (i 2) w = true ∧ wmBlocks w.myCore none 0x7FFE0 32 = true) ∧
    (let w := s.updMyCore fun k => { k with bankUsed := [31] };
      issues (i 2) w = true ∧ granted w.myCore 0 [(0x7FFE0, 32)] = false) ∧
    (issues (i 3) s = true ∧ (s.me.getX 3).toNat % 2 ^ 52 + 32 ≤ 0x80000 ∧ (s.me.getX 3).toNat % 32 ≠ 0 ∧ trapsPlainly s = true) ∧
    (let s := stateOf { coreOf (ctxWith [(2, 0x400)]) with tags := [(0x20, 3)] };
      issues (i 2) s = true ∧ localAt (s.me.getX 2) 0 32 = some 0x400 ∧ trapsPlainly s = true ∧
      ((List.range 32).find? fun k => !tagMatch (tagAt s.myCore (0x400 + k)) 0) = some 0) := by decide +kernel

/-- R190: a TCMD that waits for room, of its assembly buffer and of its own word, and a TCMDM. -/
theorem witness_command_enters : ([1, 2].all fun st => [Instr.tcmd 1 4, .tcmdm 1 (.x 4)].all fun i =>
      let s := blockedBase i st 0 [0x400, 2, 3, 4] []
      (s.me.blk.map fun b => (b.instr, b.stage, b.outs)) == some (i, st, []) && s.myCore.group == some group1 &&
      released s 0 0 s.nextId && hasRoom s 1 (cmdOfWords s.me.asm[1]) && hasRoom s 1 0 && quietCore s &&
      !wmBlocks s.myCore none 0x400 32 && granted s.myCore 0 [(0x400, 32)]) = true := by decide +kernel

/-- R239: no lease in the square, and a lease held. -/
theorem witness_lease :
    let h := stateOf { coreOf (ctxWith []) with lease := { state := .held, limit := 3 } }
    (issues (.lease 1) (base []) = true ∧ (base []).myCore.lease.state = .none) ∧
    (issues (.lease 64) h = true ∧ h.myCore.lease.state ≠ .none) ∧ issues .unlease h = true ∧ issues .unlease (base []) = true ∧
    issues (.slotq (.x 0)) (base []) = true ∧ issues (.gwid 8) (base []) = true ∧ issues (.gwid 48) (base []) = true := by decide +kernel

/-- R239: no core of the square of core 0 has a lease. -/
theorem witness_lease_alone : ∀ c : Nat, ((base []).core c).lease.state = .none := by
  intro c
  by_cases h : c = 0
  · subst h; decide
  · simp [base, stateOf, State.core, mgetD, mget, Ne.symm h]

/-- A package whose core 0 runs, with tag 3 on granule 0x20 (addresses 0x400 to 0x41F). -/
def tagged (xs : List (Nat × Word)) : State := stateOf { coreOf (ctxWith xs) with tags := [(0x20, 3)] }

/-- R154, R162: aligned, misaligned and mistagged addresses of every load; 0x7FFF0 is the last 16 bytes. -/
theorem witness_loads :
    (((loadRows 1 2 3 0 0 15).all fun r => let s := base [(2, 0x7FFF0)]
      issues r.1 s && quietCore s && localAt (s.me.getX 2) r.2.1 r.2.2.1 == some 0x7FFF0 && tagsPass s (s.me.getX 2) 0x7FFF0 r.2.2.1) &&
    ((loadRows 1 2 3 0 0 0).filter fun r => r.2.2.1 != 1).all (fun r => let s := base [(2, 0x7FFEF)]
      issues r.1 s && quietCore s && decide ((0x7FFEF + r.2.1) % r.2.2.1 ≠ 0) && trapsPlainly s) &&
    (loadRows 1 2 3 0 0 0).all fun r => let s := tagged [(2, 0x410)]
      issues r.1 s && quietCore s && localAt (s.me.getX 2) r.2.1 r.2.2.1 == some 0x410 && !tagsPass s (s.me.getX 2) 0x410 r.2.2.1 &&
        trapsPlainly s && ((List.range r.2.2.1).find? fun i => !tagMatch (tagAt s.myCore (0x410 + i)) 0) == some 0) = true := by
  decide +kernel

/-- R158: a full granule that nothing waits for, an empty one, and a full one that another load waits for. -/
theorem witness_full_empty_loads :
    ((emptyLoadRows 1 2 3 0 0 0).all fun r =>
      let f := stateOf { coreOf (ctxWith [(2, 0x7FFF0)]) with fulls := [(0x7FFF, 1)] }
      let e := base [(2, 0x7FFF0)]
      issues r.1 f && issues r.1 e && quietCore f && quietCore e && localAt (f.me.getX 2) r.2.1 r.2.2.1 == some 0x7FFF0 &&
      tagsPass f (f.me.getX 2) 0x7FFF0 r.2.2.1 && mgetD f.myCore.fulls (0x7FFF0 / 16) 0 == 1 && f.myCore.feTable == [] &&
      f.me.pend == [] && f.myCore.storeQ == [] && f.myCore.chans == [] && mgetD e.myCore.fulls (0x7FFF0 / 16) 0 == 0 &&
      let w := f.updMyCore fun k => { k with feTable := [(0x7FFF, 3, 0)] }
      issues r.1 w && w.myCore.feTable.any fun x => x.1 == 0x7FFF0 / 16) = true := by
  decide +kernel

/-- R154: every store, aligned at the end of the scratchpad, and misaligned. -/
theorem witness_stores :
    ((storeRows 1 2 0 0 ++ vectorStoreRows 1 2 0 0).all fun r =>
      let s := base [(2, 0x7FFF0)]
      let m := base [(2, 0x7FFEF)]
      issues r.1 s && quietCore s && localAt (s.me.getX 2) r.2.1 r.2.2.1 == some 0x7FFF0 &&
      (r.2.2.1 == 1 || issues r.1 m && trapsPlainly m && decide ((0x7FFEF + r.2.1) % r.2.2.1 ≠ 0))) = true := by decide +kernel

/-- R150, R151: every local load and store below address 0, at the end of the scratchpad and across it. -/
theorem witness_range_traps :
    ((loadRows 1 2 1 0x80 0x8000 0 ++ emptyLoadRows 1 2 1 0x80 0x8000 0 ++ storeRows 1 2 0x800 0x8000 ++ vectorStoreRows 1 2 0x800 0x8000).all fun r =>
      let s := base []
      issues r.1 s && trapsPlainly s && decide ((((s.me.getX 2).toNat % 2 ^ 52 : Nat) : Int) + r.2.1 < 0)) = true ∧
    ((loadRows 1 2 1 0 0 0 ++ emptyLoadRows 1 2 1 0 0 0 ++ storeRows 1 2 0 0 ++ vectorStoreRows 1 2 0 0).all fun r =>
      let s := base [(2, 0x80000)]
      let a := base [(2, 0x7FFFF)]
      issues r.1 s && issues r.1 a && trapsPlainly a && r.2.1 == 0 && (r.2.2.1 == 1 || decide (0x80000 < 0x7FFFF + r.2.2.1))) = true := by
  decide +kernel

/-- A queued store of `len` bytes at 0x400 with a key. -/
def queued (len key : Nat) (sf : Bool) : StoreEnt := { id := 1, slot := 0, gen := 0, key := key, act := .bytes 0x400 len 0xABCD sf }

/-- R152, R163: stores at the head of the queue whose tag passes and fails, .sf and not. -/
theorem witness_store_performs : ∀ e ∈ [queued 16 3 true, queued 1 3 false, queued 8 0 false],
    let s := stateOf { coreOf (ctxWith []) with tags := [(0x20, 3)], storeQ := [e] }
    headReady s e 0x400 16 = true ∧ quietCore s = true := by decide +kernel

/-- The tag of those stores passes key 3 and fails key 0. -/
theorem witness_store_tags :
    let s := stateOf { coreOf (ctxWith []) with tags := [(0x20, 3)] }
    ((List.range 16).all fun i => tagMatch (tagAt s.myCore (0x400 + i)) 3) = true ∧
    ((List.range 16).all fun i => tagMatch (tagAt s.myCore (0x400 + i)) 0) = false := by decide +kernel

/-- R163: such a store of a live context that has no report and of one that has four; and no tag is above 15. -/
theorem witness_store_reports :
    (∀ n ∈ [0, 4], let x := { ctxWith [] with tagQ := List.replicate n { addr := 0, detail := 0 } }
      let s := stateOf { coreOf x with tags := [(0x20, 3)], storeQ := [queued 8 0 false] }
      sameCtx s 0 0 0 = true ∧ (s.ctx 0 0).tagQ.length = n ∧ (s.ctx 0 0).tagDropped < 255 ∧
      headReady s (queued 8 0 false) 0x400 8 = true ∧ quietCore s = true ∧
      ((List.range 8).find? fun i => !tagMatch (tagAt s.myCore (0x400 + i)) 0) = some 0) ∧
    ∀ j : Nat, tagAt { coreOf (ctxWith []) with tags := [(0x20, 3)] } j < 16 := by
  refine ⟨by decide +kernel, fun j => ?_⟩
  simp only [tagAt, mgetD, mget]
  split <;> simp

/-- A pending instruction 5 of core 0 with destination x1. -/
def pend5 (k : PendKind) (r : Option PendRes) : Pend :=
  { id := 5, l := 3, pc := 0x100, uses := [(0, 1)], dst := .s (.x 1), kind := k, due := 0, res := r }

/-- The package in which it is pending and its completion is looked at. -/
def pendState (p : Pend) : State := { stateOf (coreOf { ctxWith [] with pend := [p] }) with cur := { id := 5 } }

/-- R79: a divide, an approximation and a remote load whose values have come. -/
theorem witness_pending : ∀ k ∈ [PendKind.divide, .approx, .remote [], .query []],
    let p := pend5 k (some (.value 7))
    findPend (pendState p).me 5 = some p ∧ mayLand p (pendState p) = true ∧ mget (pendState p).msgs 5 = none := by decide +kernel

/-- A fat pointer: format code, block length log, key, address (R24). -/
def fat (fmt blog key addr : Nat) : Word := wordOf (fmt * 2 ^ 59 + blog * 2 ^ 56 + key * 2 ^ 52 + addr)

/-- R27, R152, R154 to R156: a load of every size, an element with block metadata and one without, and every atomic operation of both
widths, whose turn comes. -/
theorem witness_local_completes :
    let ok (p : Pend) : Bool := findPend (pendState p).me 5 == some p && mayLand p (pendState p) && turnComes (pendState p) p &&
      quietCore (pendState p)
    ([1, 2, 4, 8, 16].all fun n => ok (pend5 (.loc (.load 0x7FFF0 n (n != 16) .plain) 0) none)) = true ∧
    ([fat 0x0B 0 0 0x400, fat 0x10 5 0 0x400].all fun p => ok (pend5 (.loc (.lde p 1) 0) none) && (ptrE p).isSome) = true ∧
    ([AmoOp.add, .and, .or, .xor, .min, .max, .minu, .maxu, .swap, .cas, .fadd].all fun op => [true, false].all fun w =>
      ok (pend5 (.loc (.amo op w 0x7FFF8 7 1) 0) none)) = true := by decide +kernel

/-- R159: the first .fe and .fec load of a granule that is full. -/
theorem witness_full_empty_serves : ∀ act ∈ [FeAct.fe, .fec],
    let p := pend5 (.loc (.load 0x400 16 false act) 0) none
    let s : State := { stateOf { coreOf { ctxWith [] with pend := [p] } with fulls := [(0x40, 1)], feTable := [(0x40, 0, 5)] }
                       with cur := { id := 5 } }
    findPend s.me 5 = some p ∧ quietCore s = true ∧ mgetD s.myCore.fulls (0x400 / 16) 0 = 1 ∧
    banksFree s.myCore = true ∧ (!earlierLocal s 0 0 5 true && s.myCore.chans.all (fun c => c.2.wm == none)) = true ∧
    (s.myCore.feTable.find? fun e => e.1 == 0x400 / 16) = some (0x400 / 16, 0, 5) := by decide +kernel

/-- R155, R156: elements of 4, 8 and 64 bits, atomics at an aligned address, and a pointer of no format. -/
theorem witness_elements_atomics :
    ([(0x0B, 0), (0x01, 0), (0x04, 0), (0x05, 0), (0x10, 5)].all fun f => let s := base [(2, fat f.1 f.2 0 0x400), (3, 1)]
      quietCore s && issues (.lde (.x 1) (.x 2) (.x 3) 15) s && issues (.ste (.x 1) (.x 2) (.x 3)) s &&
      match ptrE (s.me.getX 2) with
      | none => false
      | some r => let l := elementLoc r f.2 0x400 1
        ptrAddr (s.me.getX 2) % r.align == 0 && elementLies r l && elementTagsPass s (s.me.getX 2) r l) = true ∧
    (let s := base [(2, fat 0x1F 0 0 0x400)];
      ptrE (s.me.getX 2) = none ∧ trapsPlainly s = true ∧ issues (.lde (.x 1) (.x 2) (.x 3) 0) s = true ∧
      issues (.ste (.x 1) (.x 2) (.x 3)) s = true) ∧
    ([(AmoOp.cas, true), (.fadd, false), (.add, true), (.maxu, false)].all fun r => let s := base [(2, 0x7FFF8)]
      issues (.amo r.1 r.2 (.x 1) (.x 2) (.x 3) (.x 0) 0 0) s && quietCore s &&
      localAt (s.me.getX 2) 0 (if r.2 then 8 else 4) == some 0x7FFF8 && tagsPass s (s.me.getX 2) 0x7FFF8 8) = true := by decide +kernel

/-- R27, R155: element 1 of 4-bit integers, in the high half of its byte, and one of a format with block metadata. -/
theorem witness_element_store : ([fat 0x0B 0 0 0x400, fat 0x10 5 0 0x400].all fun p =>
      let e : StoreEnt := { id := 1, slot := 0, gen := 0, key := 0, act := .elem p 1 5 }
      let s := stateOf { coreOf (ctxWith []) with storeQ := [e] }
      match ptrE p with
      | none => false
      | some f => let l := elementLoc f (ptrBlog p) 0x400 1
        s.myCore.storeQ.head? == some e && quietCore s && l.metaAt.isSome == f.isBlock && headReady s e l.byte l.size &&
        (l.metaAt.all fun m => headReady s e m f.meta) && sameCtx s 0 0 0 &&
        ((List.range 1).all fun i => tagMatch (tagAt s.myCore (0x400 + i)) 0)) = true := by decide +kernel

/-- R147: an empty buffer whose words can all be fetched, and one at the end of the scratchpad. -/
theorem witness_fetch :
    let e := stateOf (coreOf { ctxWith [] with pc := 0x80000 })
    let ok (s : State) : Bool := s.me.status == .live && s.me.ffault == none && s.me.fbuf == [] && s.myCore.group != none &&
      quietCore s && s.me.pc % 4 == 0 && s.myCore.bankUsed == [] && s.myCore.bankWin == [] &&
      (List.range 8).all fun k => !wmBlocks s.myCore none (s.me.pc + 4 * k) 4
    (ok (base []) = true ∧ ∀ k < 8, fetchable (base []).myCore ((base []).me.pc + 4 * k) = true) ∧
    ok e = true ∧ fetchable e.myCore e.me.pc = false := by decide +kernel

/-! Lanes. -/

/-- The lane types. -/
def laneTypes : List VType := [.f32, .bf16, .f16, .i32, .i16, .i8, .i64]

/-- R127 to R129: every row of every type issues, without and with a mask. -/
theorem witness_lanes : (laneTypes.all fun t => [0, 7].all fun m =>
    ((laneRows t m (base [])).all fun r => issues (r.1 (.v 1) (.v 2) (.v 31)) (base [])) &&
    ((signRows t m).all fun r => issues (r.1 (.v 1) (.v 2)) (base []))) = true := by decide +kernel

/-- R129 to R134: moves, compares and reductions of every type; an empty and a full mask. -/
theorem witness_lanes_move : (laneTypes.all fun t => let s := base []
    issues (.vsel t 1 (.v 1) (.v 2) (.v 3)) s && issues (.vbcast t 0 (.v 1) (.x 2)) s && issues (.vcmp .ge t 0 1 (.v 2) (.v 3)) s &&
    (t.isFloat || issues (.vshuf t 0 (.v 1) (.v 2) (.v 3) (.v 4)) s) &&
    issues (.vins t (.v 1) (.x 2) (BitVec.ofNat 4 (t.lanes - 1))) s && issues (.vext t (.x 1) (.v 2) 0) s &&
    decide ((BitVec.ofNat 4 (t.lanes - 1)).toNat < t.lanes) && issues (.vreds t 0 (.v 1) (.v 2)) s &&
    issues (.vredm t 0 (.v 1) (.v 2)) s && issues (.vmaxi t 0 (.x 1) (.x 1) (.v 2)) s && issues (.vmini t 1 (.x 1) (.x 3) (.v 2)) s &&
    activeLanes t 0 (s.me.v[2]) s != [] && activeLanes t 1 (s.me.v[2]) s == []) = true := by decide +kernel

/-- R135 to R142: conversions, dot products and approximations. -/
theorem witness_convert : let s := base []
    (issues (.vcvt .f32 .i8 .ne 0 (.v 1) (.v 2)) s = true ∧ issues (.vcvt .i4 .f16 .ne 7 (.v 1) (.v 2)) s = true ∧
      issues (.vcvtef .bf16 .f32 .ne 0 (.v 1) (.v 3) (.v 2)) s = true ∧ issues (.vdot4 .ss 0 (.v 1) (.v 2) (.v 3)) s = true) ∧
    ([VType.f32, .bf16, .f16].all fun t => (approxRows t (.v 1) (.v 2) 15).all (fun r => issues r.1 s) &&
      issues (.vrcps t (.v 1) (.v 2) (.v 3) 0) s && issues (.vrsqs t (.v 1) (.v 2) (.v 3) 0) s) = true := by decide +kernel

/-- R139: a NaN, zeros of both signs, infinities, and a number below zero. -/
theorem witness_special_lanes : laneNan .f32 0x7FC00000 = true ∧ fval .f32 0 = .fin false 0 (-149) ∧
    fval .f16 0x8000 = .fin true 0 (-24) ∧ fval .bf16 0xFF80 = .inf true ∧ fval .f16 0x7C00 = .inf false ∧
    (match fval .f32 0xBF800000 with
      | .fin n m _ => n && m != 0
      | _ => false) = true := by decide +kernel

/-! Remote access. -/

/-- The home a remote access finds. -/
def homeIs (r : HomeRes) (h : Home) : Bool :=
  match r with
  | .ok g => g == h
  | _ => false

/-- R176 to R179: every posted instruction at its own scratchpad, and misaligned. -/
theorem witness_posted :
    (([AmoOp.add, .cas].all fun op =>
      let s := base [(2, 0x7FFF0)]
      ((postedRows s 2 3 4 5 op 255 0 0x7FFF0 (.spad 0 0x7FFF0)).all fun r => (op != .add || true) &&
        issues r.1 s && regionCheck 0x7FFF0 (0x7FFF0 + r.2.1 - 1) == .ok && homeIs (remoteHome s r.1 0x7FFF0 r.2.2.1) (.spad 0 0x7FFF0))) &&
    let s := base [(2, 0x7FFE1)]
    (postedRows s 2 3 4 5 .add 0 0 0x7FFE1 .lost).all fun r => r.2.1 == 1 ||
      issues r.1 s && regionCheck 0x7FFE1 (0x7FFE1 + r.2.1 - 1) == .ok && decide (0x7FFE1 % r.2.1 ≠ 0) && trapsPlainly s) = true := by
  decide +kernel

/-- R179, R181, R172: every returning instruction at a peer of the group, in a clock in which the outbound unit is free and in which it
is not, and misaligned. -/
theorem witness_returning :
    ((let s := base [(2, 0x7FFF0)];
      (returningRows s 1 2 3 4 5 .swap 0 0).all fun r =>
        issues r.1 s && regionCheck 0x7FFF0 (0x7FFF0 + r.2.2.1 - 1) == .ok && outOpen s 0 &&
        !outOpen (s.updMyCore fun k => { k with outAt := 1 }) 0 && homeIs (remoteHome s r.1 0x7FFF0 r.2.2.2.1) (.spad 0 0x7FFF0)) &&
    let s := base [(2, 0x7FFE1)]
    (returningRows s 1 2 3 4 5 .swap 0 0).all fun r => r.2.2.1 == 1 ||
      issues r.1 s && regionCheck 0x7FFE1 (0x7FFE1 + r.2.2.1 - 1) == .ok && decide ((0x7FFE1 + r.2.1) % r.2.2.1 ≠ 0) &&
        trapsPlainly s) = true := by decide +kernel

/-- A store by context 0 of core 0 to a place, named flag 9. -/
def storeMsg (h : Home) (data : List Byte) (ph : MsgPhase) : Msg :=
  { issuer := .ctx 0 0 0 5, act := .store data, home := h, va := 0x400, flag := some 9, launch := 1, job := 1, phase := ph }

/-- A package in which message 5 is looked at. -/
def msgState (m : Msg) : State := { base [] with msgs := [(5, m)], cur := { id := 5 } }

/-- R172, R178: a posted store that no other posted operation is before. -/
theorem witness_handoff :
    let m := storeMsg (.hbm 0) [1] .outbound
    let p := pend5 (.posted [m]) none
    findPend (pendState p).me 5 = some p ∧ (outboundPosted (pendState p) 0).length < 16 ∧ outOpen (pendState p) 0 = true := by decide +kernel

/-- R173 to R175: stores, nibbles and atomics that reach the scratchpad of core 0. -/
theorem witness_stores_arrive :
    ([MsgAct.store (List.replicate 16 7), .store [], .nibble 0xFF 0xF0, .atomic .cas true 1 2 true, .atomic .fadd false 1 0 false,
      .atomic .min false 1 0 true].all fun a =>
      let m := { storeMsg (.spad 0 0x400) [] (.going 0) with act := a }
      let s := msgState m
      quietAt s 0 && message s == some m && reaches s m 0 && tagsAt s 0 0x400 16 m.key) = true := by decide +kernel

/-- R161: a message whose tag fails. -/
theorem witness_store_tag_fails :
    let m := storeMsg (.spad 0 0x400) [1] (.going 0)
    let s : State := { tagged [] with msgs := [(5, m)], cur := { id := 5 } }
    quietAt s 0 = true ∧ message s = some m ∧ reaches s m 0 = true ∧ tagsAt s 0 0x400 1 m.key = false := by decide +kernel

/-- R175, R180, R183, R198: loads of 8 and 16 bytes whose tags pass and fail, and flag 9 of core 0. -/
theorem witness_loads_flags_arrive :
    ([(MsgAct.load 8 true, Home.spad 0 0x400), (.load 16 false, .spad 0 0x7FFF0), (.load 8 false, .flagw 0 9),
      (.store (List.replicate 8 255), .flagw 0 9), (.atomic .add true 3 0 true, .flagw 0 9), (.flagSub 5, .flagw 0 9)].all fun a =>
      let m := { storeMsg a.2 [] (.going 0) with act := a.1, flag := none }
      let s := msgState m
      quietAt s 0 && message s == some m && reaches s m 0 && !m.direct && (s.flag 0 9).adds == [] && (s.flag 0 9).subs == []) = true ∧
    (let m := { storeMsg (.spad 0 0x400) [] (.going 0) with act := .load 8 false };
      let s : State := { tagged [] with msgs := [(5, m)], cur := { id := 5 } };
      quietAt s 0 = true ∧ message s = some m ∧ reaches s m 0 = true ∧ tagsAt s 0 0x400 8 m.key = false) := by decide +kernel

/-- R173: stores that reach device memory, its last mapped byte among them, and host memory. -/
theorem witness_memory_writes :
    ([Home.hbm 0, .hbm (11 * 2 ^ 36 + 64 * 2 ^ 30 - 1), .host 0x1000].all fun h =>
      let m := storeMsg h [7] (.going 0)
      let s := msgState m
      s.upsets == [] && message s == some m && msgReady s 5 m && m.issuer != .foreign && !m.direct &&
      match h with
      | .hbm a => paMapped s a
      | _ => true) = true := by decide +kernel

/-- R173, R179: loads from device and host memory, and an atomic on device memory. -/
theorem witness_memory_reads : ([(MsgAct.load 8 true, Home.hbm 0), (.load 16 false, .host 0x1000), (.atomic .cas true 1 2 true, .hbm 8)].all fun a =>
      let m := { storeMsg a.2 [] (.going 0) with act := a.1 }
      let s := msgState m
      s.upsets == [] && message s == some m && msgReady s 5 m && m.issuer != .foreign && !m.direct && paMapped s 8) = true := by decide +kernel

/-- R181, R182, R202: an acknowledgement and a failure of a store; the value of a load, the halves of 16 bytes, and a failed load. -/
theorem witness_answers :
    (let m := storeMsg (.hbm 0) [7] (.coming .ack 0);
      message (msgState m) = some m ∧ m.flag = some 9) ∧
    (let m := storeMsg (.hbm 0) [7] (.coming (.failed 0x09) 0);
      message (msgState m) = some m ∧ m.half = false ∧ sameCtx (msgState m) 0 0 0 = true ∧ ((msgState m).ctx 0 0).failQ.length < 4) ∧
    ([(Reply.data 7, 0, false), (.data 7, 8, false), (.data 7, 8, true), (.failed 0x08, 0, false)].all fun r =>
      let m := { storeMsg (.hbm 0) [] (.coming r.1 0) with act := .load 8 false, elem := r.2.1 }
      let p := { pend5 (.remote []) none with dst := if r.2.1 = 8 then .v (.v 3) else .s (.x 1)
                                              got := if r.2.1 = 8 ∧ !r.2.2 then [(0, 9)] else [] }
      let other := { m with elem := 0, phase := .going 0 }
      let s : State := { pendState p with msgs := if r.2.2 then [(5, m), (6, other)] else [(5, m)] }
      message s == some m && (s.ctx 0 0).gen == 0 && findPend (s.ctx 0 0) 5 == some p && decide (p.due ≤ s.clk 0) &&
      (s.ctx 0 0).trap == none && !(s.ctx 0 0).halted &&
      (s.msgs.all fun o => o.1 == s.cur.id || o.2.issuer != m.issuer) == !r.2.2) = true := by decide +kernel

/-- R187: a word that is due at the east side of core 0. -/
theorem witness_link_word :
    let s := stateOf { coreOf (ctxWith []) with linkFly := [(1, 7, 0)] }
    s.myCore.linkFly.find? (fun g => g.2.2 ≤ s.clk 0) = some (1, 7, 0) := by decide +kernel

/-! Polynomial images and task queues. -/

/-- R259: coefficient 0 of a short and of a double image at 0x400, at once and behind an unperformed store; one that waits; and an
image at 0x404. -/
theorem witness_pext :
    let i : Instr := .pext (.x 1) (.x 2) (.x 3)
    ([0, 2 ^ 16].all fun x => let s := base [(2, 0x400), (3, wordOf x)]
      issues i s && quietCore s && decide (((s.me.getX 2).toNat % 2 ^ 52) + 144 ≤ 0x80000) &&
      tagsPass s (s.me.getX 2) 0x400 144 && localClear s && banksFree s.myCore &&
      (let w := s.updMyCore fun k => { k with bankUsed := List.range 32 }
       issues i w && quietCore w && (List.range 32).all w.myCore.bankUsed.contains) && decide (0 < s.me.pwidth) &&
      let u := s.updMyCore fun k => { k with storeQ := [{ id := 0, slot := 0, gen := 0, key := 0, act := .bytes 0x400 1 0 false }] }
      issues i u && quietCore u && tagsPass u (u.me.getX 2) 0x400 144 && earlierLocal u 0 0 u.nextId true) = true ∧
    (let s := blockedBase i 1 0 [v128 0x400, v128 0] [];
      waitsIn i 1 0 [v128 0x400, v128 0] s = true ∧ localClear s = true ∧ quietCore s = true ∧ banksFree s.myCore = true ∧ 0 < s.me.pwidth) ∧
    (let s := (blockedBase i 1 0 [v128 0x400, v128 0] []).updMyCore fun k => { k with bankUsed := List.range 32 };
      waitsIn i 1 0 [v128 0x400, v128 0] s = true ∧ quietCore s = true ∧ 0 < s.me.pwidth ∧
      (List.range 32).all s.myCore.bankUsed.contains = true) ∧
    issues i (base [(2, 0x404)]) = true ∧ quietCore (base [(2, 0x404)]) = true ∧
      ((base [(2, 0x404)]).me.getX 2).toNat % 2 ^ 52 % 8 ≠ 0 ∧ trapsPlainly (base [(2, 0x404)]) = true := by decide +kernel

/-- A package whose core 0 packs n 32-bit integers from 0x1000 into 0x400; the second of them is 2^20. -/
def packing (n : Nat) (sp : Memory) : State :=
  stateOf { coreOf (ctxWith [(2, fat 0x03 0 0 0x1000), (3, wordOf (2 ^ 32 * n + 0x400))]) with spad := sp }

/-- R257: 36 elements in the guard range, two of which the second is outside it, and the stages that follow. -/
theorem witness_pack :
    (([(36, []), (2, [(0x1006, 0x10)])] : List (Nat × Memory)).all fun r => let s := packing r.1 r.2
      issues (.pack (.x 1) (.x 2) (.x 3)) s && quietCore s && localClear s && banksFree s.myCore && ptrE (s.me.getX 2) == some (.int 32) &&
      elementsPass s 32 (s.me.getX 2) r.1 && decide (r.1 ≤ 576 / s.me.pwidth) && trapsPlainly s &&
      (((List.range r.1).map (intAt s.myCore.spad 32 (s.me.getX 2))).all (fun e => inGuard e s.me.pwidth) == r.2.isEmpty) &&
      inGuard (intAt s.myCore.spad 32 (s.me.getX 2) 0) s.me.pwidth &&
      (inGuard (intAt s.myCore.spad 32 (s.me.getX 2) 1) s.me.pwidth == r.2.isEmpty)) = true ∧
    (let i : Instr := .pack (.x 1) (.x 2) (.x 3);
      let hs : List VWord := v128 (fat 0x03 0 0 0x1000) :: v128 0x400 :: List.replicate 9 0
      let xs := [(2, fat 0x03 0 0 0x1000), (3, 0x400#64)]
      let rd : List VWord := [v128 (fat 0x03 0 0 0x1000), v128 (wordOf (2 ^ 32 * 2 + 0x400)), 5]
      let r := blockedBase i 1 0 rd xs
      let g := packing 37 []
      waitsIn i 1 0 rd r = true ∧ quietCore r = true ∧ localClear r = true ∧ banksFree r.myCore = true ∧
      ptrE (fat 0x03 0 0 0x1000) = some (.int 32) ∧ issues i g = true ∧ elementsPass g 32 (g.me.getX 2) 37 = true ∧
      576 / g.me.pwidth < 37 ∧ trapsPlainly g = true ∧
      ([0, 8].all (fun k => waitsIn i 2 (wordOf k) hs (blockedBase i 2 (wordOf k) hs xs) &&
          decide ((blockedBase i 2 (wordOf k) hs xs).myCore.storeQ.length < 8)) && (hs.drop 2).length == 9 &&
        waitsIn i 3 0 hs (blockedBase i 3 0 hs xs) && !ownStores (blockedBase i 3 0 hs xs)) = true) := by decide +kernel

/-- R258: eight coefficients of a short and of a double image at 0x400, the last of eight that waits for room, and the last stage. -/
theorem witness_unpack :
    ([0, 2 ^ 48].all fun m => let s := stateOf (coreOf (ctxWith [(2, fat 0x03 0 0 0x1000), (3, wordOf (m + 2 ^ 32 * 8 + 0x400))]));
      issues (.unpack (.x 1) (.x 2) (.x 3)) s && quietCore s && localClear s && ptrE (s.me.getX 2) == some (.int 32) &&
        elementsPass s 32 (s.me.getX 2) 8 && tagsPass s (s.me.getX 2) 0x400 144 && banksFree s.myCore && decide (0 < s.me.pwidth)) = true ∧
    (let i : Instr := .unpack (.x 1) (.x 2) (.x 3);
      let hs : List VWord := [v128 (fat 0x03 0 0 0x1000), v128 (wordOf (2 ^ 32 * 8 + 0x400))]
      let s := blockedBase i 1 0 hs []
      waitsIn i 1 0 hs s = true ∧ quietCore s = true ∧ localClear s = true ∧ banksFree s.myCore = true ∧ 0 < s.me.pwidth) ∧
    (let i : Instr := .unpack (.x 1) (.x 2) (.x 3);
      let hs : List VWord := v128 (fat 0x03 0 0 0x1000) :: v128 0x400 :: (List.replicate 8 5 ++ [3]);
      (waitsIn i 2 (wordOf 7) hs (blockedBase i 2 (wordOf 7) hs []) && (blockedBase i 2 (wordOf 7) hs []).myCore.storeQ == [] &&
      waitsIn i 3 0 [1, 2] (blockedBase i 3 0 [1, 2] []) && !ownStores (blockedBase i 3 0 [1, 2] [])) = true) := by decide +kernel

/-- A handle of queue 63 of virtual die 0, for use by the plain (R282), with a destination of 0x600 in its low bits. -/
def handle63 : Word := wordOf (2 ^ 62 + 63 * 2 ^ 33 + 0x600)

/-- The queue with its packets. -/
def queue63 (ps : List (List Byte)) : TQueue := { job := 1, scope := 1, square := 0, depth := 1, packets := ps }

/-- A package in which plain 0 has the queue. -/
def withQueue (ps : List (List Byte)) (s : State) : State := { s with plains := [(0, { queues := [(63, queue63 ps)] })] }

/-- R283, R285: TKPUT of a packet of 32 bytes, behind an unperformed store, and of a header that is none; TKGET to the first 8 bytes
and to the last 256, and to a misaligned place; and both without the queue. -/
theorem witness_task_issue :
    let k (h : Word) : Core := { coreOf (ctxWith [(2, h), (3, 0x800), (4, 0x900)]) with spad := [(0x800, 0x20)] }
    let s (h : Word) := withQueue [] (stateOf (k h))
    let u := (s handle63).updMyCore fun c => { c with storeQ := [{ id := 0, slot := 0, gen := 0, key := 0, act := .bytes 0x400 1 0 false }] }
    (issues (.tkput (.x 2) (.x 3)) (s handle63) = true ∧ queueUse (s handle63) 0 handle63 = some 0 ∧ quietCore (s handle63) = true ∧
      localClear (s handle63) = true ∧ banksFree (s handle63).myCore = true ∧ localAt ((s handle63).me.getX 3) 0 8 = some 0x800 ∧
      packetLength (memNat (s handle63).myCore.spad 0x800 8) = some 32 ∧ tagsPass (s handle63) ((s handle63).me.getX 3) 0x800 32 = true) ∧
    (issues (.tkput (.x 2) (.x 3)) u = true ∧ queueUse u 0 handle63 = some 0 ∧ quietCore u = true ∧
      earlierLocal u 0 0 u.nextId true = true) ∧
    (let u := (s handle63).updMyCore fun c => { c with bankUsed := [0] };
      issues (.tkput (.x 2) (.x 3)) u = true ∧ localAt (u.me.getX 3) 0 8 = some 0x800 ∧ granted u.myCore 0 [(0x800, 8)] = false) ∧
    (issues (.tkput (.x 2) (.x 4)) (s handle63) = true ∧ localAt ((s handle63).me.getX 4) 0 8 = some 0x900 ∧
      packetLength (memNat (s handle63).myCore.spad 0x900 8) = none ∧ trapsPlainly (s handle63) = true) ∧
    ([0x600, 0x7FF00].all fun n => let h : Word := handle63 / 0x80000 * 0x80000 + wordOf n
      issues (.tkget (.x 1) (.x 2) 0) (s h) && queueUse (s h) 0 h == some 0 && h.toNat % 2 ^ 19 == n) = true ∧
    (let h := handle63 + 4;
      issues (.tkget (.x 1) (.x 2) 0) (s h) = true ∧ queueUse (s h) 0 h = some 0 ∧ h.toNat % 2 ^ 19 % 8 ≠ 0 ∧
      trapsPlainly (s h) = true) ∧
    queueUse (stateOf (k handle63)) 0 handle63 = none ∧ trapsPlainly (stateOf (k handle63)) = true ∧
      issues (.tkput (.x 2) (.x 3)) (stateOf (k handle63)) = true ∧
      issues (.tkget (.x 1) (.x 2) 0) (stateOf (k handle63)) = true := by decide +kernel

/-- R285: a TKPUT with a free place, and a TKGET at a queue with a packet and at an empty one. -/
theorem witness_task_move :
    (let s := withQueue [] (blockedBase (.tkput (.x 2) (.x 3)) 2 32 [v128 handle63, v128 0x800] []);
      hQueue s 1 0 handle63 = some (queue63 []) ∧ waitsIn (.tkput (.x 2) (.x 3)) 2 32 [v128 handle63, v128 0x800] s = true ∧
      queueUse s 0 handle63 = some 0 ∧ localClear s = true ∧
      quietCore s = true ∧ banksFree s.myCore = true) ∧
    ∀ ps ∈ ([[], [[1, 2]]] : List (List (List Byte))),
      let m : Msg := { issuer := .ctx 0 0 0 5, act := .tkget handle63 0x600 0, home := .queue 0 63, va := 0x600, job := 1, phase := .going 0 }
      let s := withQueue ps (msgState m)
      hQueue s 1 0 handle63 = some (queue63 ps) ∧ message s = some m ∧ hNumber handle63 = 63 ∧ m.job = coreJob s 0 ∧ m.issuer ≠ .foreign := by decide +kernel

/-- R285: a packet of 8 bytes that comes back to core 0. -/
theorem witness_task_lands :
    let m : Msg := { issuer := .ctx 0 0 0 5, act := .tkget handle63 0x600 0, home := .queue 0 63, va := 0x600, job := 1
                     phase := .coming (.packet (List.replicate 8 7)) 0 }
    let p := pend5 (.query []) none
    let s : State := { pendState p with msgs := [(5, m)] }
    message s = some m ∧ quietAt s 0 = true ∧ banksFree (s.core 0) = true ∧ (s.core 0).chans.all (fun k => k.2.wm == none) = true ∧ (s.ctx 0 0).gen = 0 ∧
    tagsAt s 0 0x600 8 0 = true ∧ findPend (s.ctx 0 0) 5 = some p ∧ p.due ≤ s.clk 0 := by decide +kernel

/-- A CSR instruction that waits for the action of a register. -/
def acting (stage : Nat) (v : Word) : State := blockedBase (.csrw (.x 1) (.x 2) 0x20) stage v [] []

/-- R284: a creation that fits, one of a queue that is there, a destruction of it, one of none, and both of a queue whose die the job
does not have. -/
theorem witness_task_actions :
    let create : Word := handle63 / 0x800 * 0x800 + 1
    let destroy : Word := handle63 / 0x800 * 0x800 + 2
    let away (w : Word) : Word := w + 2 ^ 49
    (acts (acting 8 create) 8 create = true ∧ hHome (acting 8 create) 1 create = some 0 ∧ create.toNat % 4 = 1 ∧
      (hNumber create ≤ 63 && hInside 0 0 create) = true ∧ mget (unitPlain (acting 8 create) 0).queues 63 = none ∧
      placesUsed (unitPlain (acting 8 create) 0) + 1 ≤ 4096) ∧
    (mget (unitPlain (withQueue [] (acting 8 create)) 0).queues (hNumber create)).isSome = true ∧
    (acts (acting 8 destroy) 8 destroy = true ∧ destroy.toNat % 4 = 2 ∧ noPuts (acting 8 destroy) = true ∧
      hQueue (withQueue [] (acting 8 destroy)) 1 0 destroy = some (queue63 []) ∧ (queue63 []).pipe = none ∧
      hQueue (acting 8 destroy) 1 0 destroy = none) ∧
    ([create, destroy].all fun w => acts (acting 8 (away w)) 8 (away w) && hHome (acting 8 (away w)) 1 (away w) == none &&
      (away w).toNat % 4 == w.toNat % 4) = true ∧
    (let r : CtxReply := { core := 0, slot := 0, gen := 0, value := 1, due := 0 };
      acts (acting 11 0) 11 0 = true ∧ ctxReply { acting 11 0 with replies := [r] } = some r) := by decide +kernel

/-! Ports, traps, registers, debug and trace. -/

/-- A package whose core 0 has words in its inbound east link, in the eq2 result queue and in the read stream 3, and whose launch has
a pipe of four places that holds some words. -/
def portState (x : Ctx) (ws : List Word) : State :=
  { stateOf { coreOf x with linkQ := [(1, [7, 8])], resQ := [(2, { halves := [5, 6] })], streams := [(3, { mode := 1, words := [9] })] } with
    launches := [(1, { launch1 with pipes := [handle63], homed := true })]
    plains := [(0, { queues := [(63, { queue63 [] with pipe := some 1, depth := 4, words := ws })] })] }

/-- The pipe behind a port has its home at plain 0 and holds some words. -/
def pipeHolds (s : State) (ws : List Word) : Bool :=
  match pipeAt s 0 0 with
  | .ok (u, _, q) => u == 0 && q.words == ws && q.depth == 4
  | .error _ => false

/-- R55, R77, R171, R187, R286: an inbound link with two words, a result queue, a bound stream and a pipe. -/
theorem witness_port_sources : (twoSourceRows.all fun row =>
      let s := portState (ctxWith []) [4]
      issues (row.1 (.x 1) (.port (.ln .e)) (.x 3)) s && mgetD s.myCore.linkQ (dirNum .e) [] == [7, 8] &&
      issues (row.1 (.x 1) (.port (.eq 2)) (.x 3)) s && (s.myCore.res 2).halves == [5, 6] &&
      issues (row.1 (.x 1) (.port (.st 3)) (.x 3)) s && (mgetD s.myCore.streams 3 {}).mode == 1 &&
      (mgetD s.myCore.streams 3 {}).words == [9] &&
      issues (row.1 (.x 1) (.port (.pp 0)) (.x 3)) s && pipeHolds s [4]) = true := by decide +kernel

/-- R77, R171, R187, R190, R286: a link to a resident neighbour, each engine queue's first and fourth word, a write stream with one
place, and a pipe with one. -/
theorem witness_port_destinations : (twoSourceRows.all fun row =>
      let n : State := { base [] with cores := [(0, coreOf (ctxWith [])), (1, { group := some { group1 with id := 2, lin := 1 } })] }
      let w := stateOf { coreOf (ctxWith []) with streams := [(0, { mode := 2, words := List.replicate 7 1 })] }
      issues (row.1 (.port (.ln .e)) (.x 2) (.x 3)) n && neighbour 0 .e == some 1 && linkPresent n 0 .e &&
      issues (row.1 (.port (.st 0)) (.x 2) (.x 3)) w && (mgetD w.myCore.streams 0 {}).mode == 2 &&
      issues (row.1 (.port (.pp 0)) (.x 2) (.x 3)) (portState (ctxWith []) [1, 2, 3]) &&
      pipeHolds (portState (ctxWith []) [1, 2, 3]) [1, 2, 3]) = true ∧
    ([0, 1, 2, 3].all fun q => [[], [1, 2, 3]].all fun buf =>
      let i : Instr := .add (.port (.eq q)) (.x 2) (.x 3)
      let s := stateOf (coreOf { ctxWith [] with asm := (Vector.replicate 4 []).set q buf })
      issues i s && s.me.asm[q.val] == buf && s.myCore.group == some group1 && released s 0 0 s.nextId &&
      hasRoom s q.val (cmdOfWords (buf ++ [0]))) = true := by decide +kernel

/-- R77: an instruction that holds its first word and waits for a word of each source, where there is one and where there is none, and
one that has still to put its result. -/
theorem witness_transfer_continues : (twoSourceRows.all fun row => [Port.ln .e, .eq 2, .st 3, .pp 0].all fun p =>
      let i := row.1 (.x 1) (.port (.ln .w)) (.port p)
      let x := blockedCtx i 0 0 [9] []
      let s := portState x [4]
      let k : State := { portState x [] with cores := [(0, coreOf x), (1, { group := some { group1 with id := 2, lin := 1 } })] }
      waitsIn i 0 0 [9] s && mgetD s.myCore.linkQ (dirNum .e) [] == [7, 8] && (s.myCore.res 2).halves == [5, 6] &&
      (mgetD s.myCore.streams 3 {}).mode == 1 && (mgetD s.myCore.streams 3 {}).words == [9] && pipeHolds s [4] &&
      waitsIn i 0 0 [9] k && mgetD k.myCore.linkQ (dirNum .e) [] == [] && linkPresent k 0 .e && (k.myCore.res 2).halves == [] &&
      (mgetD k.myCore.streams 3 {}).mode != 1 && pipeHolds k []) = true ∧
    ([Port.ln .e, .st 0].all fun p =>
      let b : Blk := { instr := .add (.port p) (.x 2) (.x 3), pc := 0x100, len := 1, stage := 99, outs := [(p, 7, false)] }
      let s : State := { base [] with cores :=
        [(0, { coreOf { ctxWith [] with blk := some b } with streams := [(0, { mode := 2, words := List.replicate 7 1 })] }),
         (1, { group := some { group1 with id := 2, lin := 1 } })] }
      s.me.blk == some b && neighbour 0 .e == some 1 && linkPresent s 0 .e && (mgetD s.myCore.streams 0 {}).mode == 2) = true := by
  decide +kernel

/-- R77, R188, R286: a resident neighbour with no word and with no room; none; an empty result queue; a stream that is not bound, one that
is empty and one that is full; an empty and a full pipe, and one of a die the job does not have; and blocked instructions whose second source is an absent link or such a pipe. -/
theorem witness_port_waits : (twoSourceRows.all fun row =>
      let pop (p : Port) : Instr := row.1 (.x 1) (.port p) (.x 3)
      let push (p : Port) : Instr := row.1 (.port p) (.x 2) (.x 3)
      let with1 (ws : List Word) : State := { base [] with cores :=
        [(0, coreOf (ctxWith [])), (1, { group := some { group1 with id := 2, lin := 1 }, linkQ := [(dirNum .w, ws)] })] }
      let full := with1 (List.replicate 8 7)
      let st (m : Nat) (ws : List Word) : State := stateOf { coreOf (ctxWith []) with streams := [(3, { mode := m, words := ws })] }
      let away : State := { base [] with launches := [(1, { launch1 with pipes := [handle63 + wordOf (2 ^ 49)], homed := true })] }
      let b := blockedBase (row.1 (.x 1) (.port (.eq 2)) (.port (.ln .e))) 0 0 [9] []
      let far (i : Instr) : State := { blockedBase i 0 0 [9] [] with launches := away.launches }
      let g := far (row.1 (.x 1) (.port (.eq 2)) (.port (.pp 0)))
      mayTransfer (pop (.ln .e)) (with1 []) && linkPresent (with1 []) 0 .e && mayTransfer (push (.ln .e)) full && linkPresent full 0 .e &&
      decide (8 ≤ (mgetD (full.core 1).linkQ (dirNum (opposite .e)) []).length) && neighbour 0 .e == some 1 &&
      mayTransfer (pop (.ln .e)) (base []) && mayTransfer (push (.ln .e)) (base []) && !linkPresent (base []) 0 .e && trapsPlainly (base []) &&
      mayTransfer (pop (.eq 2)) (base []) && ((base []).myCore.res 2).halves == [] && mayTransfer (pop (.st 3)) (base []) &&
      mayTransfer (pop (.st 3)) (st 1 []) && mayTransfer (push (.st 3)) (base []) && mayTransfer (push (.st 3)) (st 2 (List.replicate 8 0)) &&
      mayTransfer (pop (.pp 0)) (portState (ctxWith []) []) && pipeHolds (portState (ctxWith []) []) [] &&
      mayTransfer (push (.pp 0)) (portState (ctxWith []) [1, 2, 3, 4]) && pipeHolds (portState (ctxWith []) [1, 2, 3, 4]) [1, 2, 3, 4] &&
      mayTransfer (pop (.pp 0)) away && mayTransfer (push (.pp 0)) away && trapsPlainly away && (match pipeAt away 0 0 with
        | .error (some _) => true
        | _ => false) &&
      waitsIn (row.1 (.x 1) (.port (.eq 2)) (.port (.pp 0))) 0 0 [9] g && trapsPlainly g && (match pipeAt g 0 0 with
        | .error (some _) => true
        | _ => false) &&
      waitsIn (row.1 (.x 1) (.port (.eq 2)) (.port (.ln .e))) 0 0 [9] b && mgetD b.myCore.linkQ (dirNum .e) [] == [] &&
      !linkPresent b 0 .e && trapsPlainly b) = true := by
  decide +kernel

/-- R86, R89: a raised trap at level 0, one of helper 3 at level 2, and one of the control context at level 2. -/
theorem witness_trap_entry :
    let r : TrapReq := { cause := 0x14, value := 42, pc := 0x104, ilen := some 1 }
    let s := stateOf (coreOf { ctxWith [] with trap := some r })
    let h : State := { stateOf { coreOf (ctxWith []) with ctxs := [(0, ctxWith []), (3, { ctxWith [] with trap := some r, tl := 2 })] }
                       with cur := { slot := 3 } }
    let k := stateOf (coreOf { ctxWith [] with trap := some r, tl := 2 })
    (∀ u ∈ [s, h, k], u.me.status = .live ∧ u.me.pend = [] ∧ u.me.halted = false ∧ u.me.stepping = none ∧
      tracesSlot u.myCore u.cur.slot = false ∧ u.me.trap = some r ∧ r.note = .plain) ∧
    (s.me.tl < 2 ∧ h.me.tl = 2 ∧ h.cur.slot ≠ 0 ∧ k.me.tl = 2 ∧ k.cur.slot = 0 ∧ k.myCore.group.isSome = true ∧
      tracing k.myCore = false) := by decide +kernel

/-- A traced core: ENABLE and every slot, a ring of the least size. -/
def traceOn : Trace := { ctl := wordOf (2 ^ 63 + 2047 * 2 ^ 39) }

/-- R165, R212, R219, R227, R233: each action at the stage at which its write waits; the first and the last clock of a RETAG of 4,096
granules; a barrier that lacks arrivals and one that has enough; a halted context with a held fault; a core without a group. -/
theorem witness_register_actions :
    (acts (acting 1 5) 1 5 = true ∧ (acting 1 5).myCore.storeQ = [] ∧ retagAhead (acting 1 5).myCore 0 (acting 1 5).me.lastIssue = false) ∧
    (acts (acting 10 5) 10 5 = true ∧ (acting 10 5).me.notBefore ≤ (acting 10 5).clk 0) ∧
    (∀ i ∈ [0, 4095], let w : Word := wordOf (0xFFF * 2 ^ 36 + 5)
      let s := (acting 10 w).updMe fun x => { x with notBefore := 4096 - i }
      acts s 10 w = true ∧ i < w.toNat / 2 ^ 36 % 2 ^ 12 + 1 ∧ s.me.notBefore = s.clk 0 + 4096 - i ∧
      ∀ x ∈ s.myCore.ctxs, x.1 ≠ s.cur.slot → retagGranule x.2 (s.clk 0) = none) ∧
    (acts (acting 2 0) 2 0 = true ∧ (mgetD (acting 2 0).myCore.bars (acting 2 0).me.barsel.toNat {}).arrived < 16) ∧
    (let s := (acting 2 1).updMyCore fun k => { k with
        bars := [(0, { arrived := 1 })], ctxs := k.ctxs ++ [(3, { status := .live, barWaiting := 1 })] };
      acts s 2 1 = true ∧ 1 ≤ (mgetD s.myCore.bars s.me.barsel.toNat {}).arrived ∧
      (s.ctx 0 3).barWaiting.getLsbD s.me.barsel.toNat = true ∧ (s.ctx 0 3).status = .live) ∧
    (let k := { coreOf (blockedCtx (.csrw (.x 1) (.x 2) 0x31) 3 1 [] []) with dbgsel := 3 };
      let live := stateOf { k with ctxs := k.ctxs ++ [(3, { status := .live })] }
      let r : TrapReq := { cause := 0x0B, value := 9, pc := 0 }
      let halted (f : Option TrapReq) := stateOf { k with
        ctxs := [(0, blockedCtx (.csrw (.x 1) (.x 2) 0x31) 3 2 [] []), (3, { status := .live, halted := true, heldFault := f })] }
      acts live 3 1 = true ∧ (live.ctx 0 3).status = .live ∧ (live.ctx 0 3).halted = false ∧ tracesSlot live.myCore 3 = false ∧
      ∀ f ∈ [none, some r], acts (halted f) 3 2 = true ∧ ((halted f).ctx 0 3).halted = true ∧ (halted f).myCore.held = [] ∧
        ((halted f).ctx 0 3).heldFault = f) ∧
    (let k := { coreOf (blockedCtx (.csrw (.x 1) (.x 2) 0x31) 3 2 [] []) with dbgsel := 3 };
      let s := stateOf { k with ctxs := k.ctxs ++ [(3, { blockedCtx .wfe 1 0 [] [] with
        halted := true, trap := some { cause := 0x09, value := 9, pc := 0, ilen := some 1 } })] }
      acts s 3 2 = true ∧ (s.ctx 0 3).halted = true ∧ s.myCore.held = [] ∧ (s.ctx 0 3).heldFault = none ∧ (s.ctx 0 3).trap ≠ none) ∧
    acts (acting 3 0x100000000) 3 0x100000000 = true ∧ acts (acting 5 0) 5 0 = true ∧
    (let s := stateOf { coreOf (blockedCtx (.csrw (.x 1) (.x 2) 0x3D) 6 7 [] []) with trace := traceOn };
      acts s 6 7 = true ∧ traceClear s 0 0 = true) ∧
    acts (acting 7 0) 7 0 = true ∧ (acting 7 0).myCore.dump.stat.toNat < 2 ^ 63 ∧
    (let s := (acting 7 0).updMyCore fun k => { k with group := none }; acts s 7 0 = true ∧ s.myCore.group = none) := by decide +kernel

/-- R221: registers of a halted helper, of one that is not halted, and one that a helper does not have; registers of the halted
control context; and a register and WPHIT written by each CSR instruction. -/
theorem witness_debug_write :
    ([1, 15, 64, 65, 128, 136, 40].all fun n => [true, false].all fun h =>
      let k := { coreOf (blockedCtx (.csrw (.x 1) (.x 2) 0x33) 4 7 [] []) with dbgsel := 10, dbgrnum := wordOf n }
      let s := stateOf { k with ctxs := k.ctxs ++ [(10, { status := .live, halted := h })] }
      acts s 4 7 && (s.ctx 0 10).halted == h && s.myCore.dbgsel.toNat == 10 &&
      (!h || (dbgRead s.myCore 10 n).isSome == (n != 40))) = true ∧
    ([47, 127, 135].all fun n =>
      let k := { coreOf { ctxWith [] with halted := true } with dbgsel := 0, dbgrnum := wordOf n }
      let s : State := { stateOf { k with ctxs := k.ctxs ++ [(3, blockedCtx (.csrw (.x 1) (.x 2) 0x33) 4 7 [] [])] } with cur := { slot := 3 } }
      acts s 4 7 && (s.ctx 0 0).halted && (dbgRead s.myCore 0 n).isSome) = true ∧
    ([Instr.csrw (.x 1) (.x 2) 0x33, .csrs (.x 1) (.x 2) 0x33, .csrc (.x 1) (.x 2) 0x33].all fun i => [1, 256 + 0x36].all fun n =>
      let k := { coreOf (blockedCtx i 4 (wordOf (2 ^ 63)) [] []) with dbgsel := 10, dbgrnum := wordOf n, wphit := wordOf (2 ^ 63) }
      let s := stateOf { k with ctxs := k.ctxs ++ [(10, { status := .live, halted := true })] }
      acts s 4 (wordOf (2 ^ 63)) && (s.ctx 0 10).halted && s.myCore.dbgrnum.toNat == n && !s.myCore.events.contains 0x036 &&
      ((dbgRead s.myCore 10 n).isSome == (n == 1)) &&
      -- R107: a CSRS leaves a status bit, the other two clear it
      nextIs (exec .dbgrdataWrite s) fun t => n != 256 + 0x36 || t.myCore.wphit == (match i with
        | .csrs _ _ _ => wordOf (2 ^ 63)
        | _ => 0)) = true := by decide +kernel

/-- A comparator of kind `kind` and action `act` for slot 0 that watches every byte of the word at an address. -/
def comparator (act kind a : Nat) : Comparator := { ctl := wordOf (act * 2 ^ 62 + kind * 2 ^ 60 + 2 ^ 49 + 2 ^ 40 + 255 * 2 ^ 27 + a) }

/-- R222 to R226: comparators of each action that match every local load and store, alone and behind one of another kind; and execute
comparators. -/
theorem witness_comparators : ([1, 2, 3].all fun act =>
      let s (reads : Bool) : State := (base [(2, 0x400)]).updMyCore fun k => { k with
        comps := [(0, comparator act (if reads then 2 else 1) 0x400), (3, comparator act 3 0x400)] }
      let x : State := (base []).updMyCore fun k => { k with comps := [(1, comparator act 0 0x100)] }
      ([true, false].all fun reads => (if reads then loadRows 1 2 1 0 0 0 else storeRows 1 2 0 0 ++ vectorStoreRows 1 2 0 0).all fun r =>
        issues r.1 (s reads) && !(s reads).me.exempt && localAt ((s reads).me.getX 2) r.2.1 r.2.2.1 == some 0x400 &&
        hitsAt (s reads) 3 reads 0x400 r.2.2.1 == some 0x400 && ([0, 1, 2].all fun j => hitsAt (s reads) j reads 0x400 r.2.2.1 == none) &&
        trapsPlainly (s reads) && !tracesSlot (s reads).myCore 0 && !tracing (s reads).myCore && (s reads).upsets == [] &&
        tagsPass (s reads) ((s reads).me.getX 2) 0x400 r.2.2.1) &&
      encode (.add (.x 1) (.x 2) (.x 3)) != [] && mayIssue x && x.me.pend == [] && impDue x == none &&
      !holdsBack (.add (.x 1) (.x 2) (.x 3)) x && !x.me.exempt && executeAt x 1 && !executeAt x 0 && trapsPlainly x) = true := by
  decide +kernel

/-- R220 to R234. -/
theorem witness_debug_events :
    (stepDone (stateOf (coreOf { ctxWith [] with stepping := some 1 })).me = true) ∧
    (let h : ImpHit := { due := 0, ctl := wordOf (2 ^ 62), offset := 0x400 };
      let s := stateOf { coreOf (ctxWith []) with impHits := [h] }
      h.due ≤ s.clk 0 ∧ wpAction h.ctl = 1 ∧ (s.ctx 0 (wpTarget h.ctl)).status = .live ∧ (s.ctx 0 (wpTarget h.ctl)).blk = none) ∧
    (let h : ImpHit := { due := 0, ctl := wordOf (2 ^ 63 + 2 ^ 49), offset := 0x400 };
      let s := stateOf { coreOf (ctxWith []) with impHits := [h] }
      wpAction h.ctl = 2 ∧ 0 ∈ liveSlots s 0 ∧ wpSlot h.ctl 0 = true ∧ (s.ctx 0 0).halted = false) ∧
    (∀ n ∈ [0, 4096], let s := stateOf { coreOf { ctxWith [] with needSync := true, icount := n } with trace := traceOn };
      tracesSlot s.myCore 0 = true ∧ s.me.needSync = true ∧ s.myCore.trace.lost = 0 ∧ s.myCore.trace.flying.length < 7 ∧
      s.myCore.trace.unsynced.contains 0 = false) ∧
    (let s := stateOf { coreOf { ctxWith [] with needSync := true } with trace := { traceOn with unsynced := [0] } };
      tracesSlot s.myCore 0 = true ∧ s.me.needSync = true ∧ s.myCore.trace.lost = 0 ∧ s.myCore.trace.flying.length < 8 ∧
      s.myCore.trace.unsynced.contains 0 = true) ∧
    (∀ x ∈ [{ ctxWith [] with hist := List.replicate 32 true }, { ctxWith [] with icount := 65535 }, { ctxWith [] with jlrTarget := 0x100 }],
      let s := stateOf { coreOf x with trace := traceOn };
      tracesSlot s.myCore 0 = true ∧ s.myCore.trace.unsynced.contains 0 = false ∧ owesFlow s.me = true ∧ s.myCore.trace.lost = 0 ∧
      s.myCore.trace.flying.length < 8) ∧
    (let m : Msg := { issuer := .trace 0, act := .store [], home := .hbm 0, va := 0, phase := .coming (.failed 6) 0 };
      message (msgState m) = some m) ∧
    (let s := stateOf { coreOf (ctxWith []) with pmcs := [(0, { val := 2 ^ 48 - 1, bump := 1 })] };
      mget s.myCore.pmcs 0 = some { val := 2 ^ 48 - 1, bump := 1 } ∧ ({ val := 2 ^ 48 - 1, bump := 1 } : Pmc).wrote = none ∧ tracing s.myCore = false) ∧
    (let s := stateOf { coreOf (ctxWith []) with dump := { stat := wordOf (2 ^ 63), pos := 2 ^ 64 } };
      2 ^ 63 ≤ s.myCore.dump.stat.toNat ∧ s.myCore.dump.flying = none ∧ s.myCore.dump.fresh = false ∧ dumpOver s 0 = true) := by decide +kernel

/-- R230: the first pulse at a traced core with one live slot. -/
theorem witness_sampling :
    let s : State := { stateOf { coreOf (ctxWith []) with trace := traceOn } with mgmt := { pulseNo := 1 } }
    tracing s.myCore = true ∧ s.myCore.pulse + 1 = pulsesDue s 0 ∧ s.myCore.trace.lost = 0 ∧ (liveSlots s 0).filter (tracesSlot s.myCore) = [0] ∧
    sampledCounters s.myCore = [] ∧ traceClear s 0 0 = true := by decide +kernel

/-- A walk for core 0 at plain 0. -/
def walk5 : Walk := { id := 5, job := 1, va := 0x10000000000, kind := 0, core := 0, slot := 0, due := 0 }

/-- The leaf it looks for. -/
def leaf5 : TlbEnt := { job := 1, page := 0x10000000000 / 2 ^ 15 * 2 ^ 15, size := 2 ^ 15, phys := 0, perms := 7 }

/-- A package with the walk at plain 0. -/
def walking (w : Walk) (tlb : List TlbEnt) (m : Memory) : State :=
  { base [] with plains := [(0, { walks := [w], tlb := tlb })], cur := { id := 5 }, hbm := m }

/-- R316: a walk that hits, one that fails, one that finds a 2^37-byte leaf at level 1, and one that is registered. -/
theorem witness_walks :
    (walk5.begun = true ∧ walk5.due ≤ (walking walk5 [] []).now ∧ walk5.stale = false ∧ walk5.core = 0 ∧ walk5.joined = [] ∧
      walk5.res = none ∧ (walking walk5 [] []).upsets = []) ∧
    (theWalk (walking walk5 [leaf5] []) = some walk5 ∧ invalidating (walking walk5 [leaf5] []) 1 walk5.va = false ∧
      tlbFind ((walking walk5 [leaf5] []).plain 0).tlb 1 walk5.va = some leaf5) ∧
    (tlbFind ((walking walk5 [] []).plain 0).tlb 1 walk5.va = none ∧ (match (walk (walking walk5 [] []) 1 walk5.va).1 with
      | .error _ => true
      | .ok _ => false) = true) ∧
    (match (walk (walking walk5 [] [(64, 0x3B)]) 1 walk5.va).1 with
      | .error _ => false
      | .ok e => e.size == 2 ^ 37) = true ∧
    (let w := { walk5 with res := some leaf5 };
      let s := walking w [] []
      theWalk s = some w ∧ s.cur.flag = false ∧ overtaken s leaf5 = false ∧ directoryFull s = false) := by decide +kernel

/-- A full directory whose least recently registered page die 0 has, and n pages more. -/
theorem full_directory (n : Nat) (h : 65535 ≤ n) :
    let r : Reg := { job := 1, page := 0x10000000000, size := 2 ^ 15, dies := [0] }
    let s : State := { base [] with regs := r :: List.replicate n r, cur := { flag := true } }
    s.cur.flag = true ∧ directoryFull s = true ∧ r.size ≠ 0 ∧ (∀ v ∈ s.invals, v.core ≠ noCore) ∧ invalDies s r.job r.page r.size ≠ [] := by
  intro r s
  refine ⟨rfl, ?_, by decide, by simp [s, base, stateOf], ?_⟩
  · simp only [directoryFull, s, List.length_cons, List.length_replicate, decide_eq_true_eq]
    omega
  have w : r.within 1 0x10000000000 32768 = true := by decide
  have m : 0 ∈ invalDies s r.job r.page r.size := by
    simp only [invalDies, overlapping, s, r, if_neg (show ¬ 2 ^ 15 = 0 by decide), List.mem_dedup, List.mem_flatMap, List.mem_filter]
    exact ⟨r, ⟨by simp [r], w⟩, by simp [r]⟩
  exact List.ne_nil_of_mem m

/-- R317. -/
theorem witness_full_directory :
    let r : Reg := { job := 1, page := 0x10000000000, size := 2 ^ 15, dies := [0] }
    let s : State := { base [] with regs := r :: List.replicate 65535 r, cur := { flag := true } }
    s.cur.flag = true ∧ directoryFull s = true ∧ r.size ≠ 0 ∧ (∀ v ∈ s.invals, v.core ≠ noCore) ∧ invalDies s r.job r.page r.size ≠ [] :=
  full_directory 65535 (Nat.le_refl _)

/-- R318: an invalidation that no die has to hear of, one of everything, and the two parts of a die's acknowledgement. -/
theorem witness_tlbinv :
    let all : Word := 0x6000
    let v : Inval := { id := 5, core := 0, slot := 0, gen := 0, job := 1, lo := 0, len := 0, dies := [0] }
    (acts (acting 9 0) 9 0 = true ∧ released (acting 9 0) 0 0 (acting 9 0).nextId = true ∧
      invalDies (acting 9 0) 1 (invalRange 0).1 (invalRange 0).2 = [] ∧ (acting 9 0).invals = [] ∧ (acting 9 0).cur.core < 2 ^ 14) ∧
    (acts (acting 9 all) 9 all = true ∧ invalDies (acting 9 all) 1 (invalRange all).1 (invalRange all).2 ≠ []) ∧
    (let s : State := { acting 12 5 with invals := [v], cur := { id := 5 } };
      s.invals.find? (fun x => x.id == s.cur.id) = some v ∧ v.dies.contains s.cur.slot = true ∧ mget v.removed 0 = none) ∧
    (let w := { v with removed := [(0, 9)] };
      let s : State := { acting 12 5 with invals := [w], cur := { id := 5 } }
      mget w.removed 0 = some 9 ∧ invalQuiet s w 0 9 = true ∧ w.dies.filter (· != 0) = [] ∧ sameCtx s 0 0 0 = true ∧
      acts s 12 5 = true) := by decide +kernel

/-! The copy engine. -/

/-- A header with tag 5 that asks for a record, for channel 0. -/
def hdr0 : CmdHdr := { tag := 5, result := true, flagen := false, flag := 0, ext := 0 }

/-- The entry of a command. -/
def entryCmd (i : Instr) : CmdEnt := entryOf ((encodeCmd i).getD 0)

/-- A package whose core 0 has a channel 0 and a scratchpad. -/
def withChan0 (x : Chan) (sp : Memory) : State := stateOf { coreOf (ctxWith []) with chans := [(0, x)], spad := sp }

/-- A channel at a command of its list. -/
def chanAt (i : Instr) : Chan := { active := true, ent := some (entryCmd i), word := encodeCmd i, addr := 0x2000 }

/-- R191, R196, R197: a list that starts; a word that is read, one beyond the scratchpad; a record that has room. -/
theorem witness_copy_lists :
    (let s := withChan0 { startQ := [entryOf 0] } [];
      (chan0 s).startQ = [entryOf 0] ∧ (chan0 s).active = false ∧ (entryOf 0).held = false) ∧
    (∀ a ∈ [0x7FFE0, 0x80000],
      let s := withChan0 { active := true, ent := some (entryOf 0), next := some a } []
      wordDue s 0 0 = some a ∧ quietCore s = true ∧ (a = 0x7FFE0 → chanFree s 0 0 a 32 = true ∧ tagsAt s 0 a 32 (chan0 s).key = true)) ∧
    (let s := withChan0 { active := true, ent := some (entryOf 0), recd := some 7 } [];
      (chan0 s).recd = some 7 ∧ groupHere s (chanEnt s 0 0) = true ∧ (s.myCore.res 0).places < 16) := by decide +kernel

/-- R192 to R195: every copy command that starts, with one element and none, and of another channel. -/
theorem witness_copies_start :
    let one : Memory := [(0x800, 1), (0x804, 1), (0x808, 1)]
    ([(1, one), (0, [])] : List (Nat × Memory)).all (fun n =>
      (copyRows (withChan0 {} n.2) hdr0 (fat 5 0 0 0x400) (fat 5 0 0 0x600) 0x800 (BitVec.ofNat 32 n.1) 0 0x700).all fun r =>
        let s := withChan0 (chanAt r.1) n.2
        cmdReady s 0 0 r.1 && quietCore s && (shapeGood s r.1 r.2.1 || n.1 == 0) && copyGood s r.2.2 && r.2.2.total == n.1) = true ∧
    ((copyRows (withChan0 {} []) { hdr0 with ext := 1 } (fat 5 0 0 0x400) (fat 5 0 0 0x600) 0x800 1 0 0x700).all fun r =>
      let s := withChan0 (chanAt r.1) []
      cmdReady s 0 0 r.1 && quietCore s && (1 : BitVec 16).toNat % 4 != s.cur.slot &&
      (match r.2.1 with
        | some p => recordFree s p
        | none => true)) = true := by decide +kernel

/-- R195 to R198: CFLAG of flag 255 of the own core, and of a peer through its window, CLINK, CEND; a command that is over, with a
record and without, and one that has faulted. -/
theorem witness_copy_control :
    let own : Instr := .cflag hdr0 0x807F8 7
    let peer : BitVec 52 := BitVec.ofNat 52 (0x1000000000 + 2 ^ 20 + 0x807F8)
    (cmdReady (withChan0 (chanAt own) []) 0 0 own = true ∧ hdr0.ext.toNat % 4 = 0 ∧
      cmdReady (withChan0 (chanAt (.clink hdr0 0x7FFE0)) []) 0 0 (.clink hdr0 0x7FFE0) = true ∧ localPtr 0x7FFE0 32 32 = 0 ∧
      cmdReady (withChan0 (chanAt (.cend hdr0)) []) 0 0 (.cend hdr0) = true) ∧
    (let i : Instr := .cflag hdr0 peer 7
      let s := withChan0 (chanAt i) []
      cmdReady s 0 0 i = true ∧ regionOf peer.toNat = .peerFlag 1 ∧ peerCore s 1 peer.toNat = some (1, 0x807F8) ∧ (chanEnt s 0 0).job = 1) ∧
    (∀ res ∈ [true, false], ∀ f ∈ [none, some (3, 9)],
      let r : CopyRun := { h := { hdr0 with result := res }, opcode := 0x0A, op := .affine, fault := f }
      let s := withChan0 { chanAt (.cend hdr0) with run := some r } []
      chanRun s 0 0 = some r ∧ badWord s 0 0 = none ∧ r.quiet = true ∧ r.limit ≤ r.idx ∧ r.op ≠ .stream ∧ r.op ≠ .near) ∧
    (let r : CopyRun := { h := hdr0, opcode := 1, op := .affine, fault := some (3, 9), limit := 3, total := 8 };
      let s := withChan0 { chanAt (.cend hdr0) with run := some r } []
      chanRun s 0 0 = some r ∧ badWord s 0 0 = none ∧ r.quiet = true ∧ r.idx < r.limit ∧ r.drains = false ∧ r.op ≠ .stream ∧
      r.op ≠ .near) := by decide +kernel

/-- A copy of two FP32 elements from 0x400 to 0x600, or of the words a list at 0x700 names. -/
def moving (op : CopyOp) : CopyRun :=
  { h := { hdr0 with flagen := true }, opcode := 1, op := op, src := fat 5 0 0 0x400, dst := fat 5 0 0 0x600
    counts := [2, 1, 1], sstr := [0, 0], dstr := [0, 0], total := 2, limit := 2, lists := 0x700 }

/-- The accesses find their homes in the scratchpad of core 0, with no translation made for them. -/
def homedAll (s : State) (as : List Nat) (k : XKind) : Bool :=
  as.all fun a => engineHome s 0 (chanEnt s 0 0).job a k == (some (.spad 0 a), s)

/-- R194: the first of two elements that can be read, by a plain copy and through a list; one that can be written with nothing
left to read, and with the next to read. -/
theorem witness_element_moves :
    ([(CopyOp.affine, []), (.gather, [0])].all fun p => let r := moving p.1
      let s := withChan0 { chanAt (.cend hdr0) with run := some r } []
      quietCore s && chanRun s 0 0 == some r && !r.stopped && decide (r.ridx < r.limit) && (r.listed == (p.2 == [0])) &&
      (!r.listed || entryGood s r 0) && !r.canWrite &&
      homedAll s ((r.readsOf { idx := 0, n := r.readSpan, entries := p.2 }).map (·.1)) .read) = true ∧
    ([1, 2].all fun n => let r := { moving .affine with counts := [1, 2, 1], sstr := [8, 0], dstr := [8, 0], ridx := n, steps := [{ idx := 0, n := n, reads := [(0, 7)] }] }
      let s := withChan0 { chanAt (.cend hdr0) with run := some r } []
      quietCore s && chanRun s 0 0 == some r && r.canWrite && (canRead s 0 0 r == (n == 1)) &&
      r.steps.all (fun x => decide (x.idx < r.ridx)) && homedAll s ((r.writesOf r.writeSpan).map (·.1)) .write &&
      homedAll s ((r.readsOf { idx := r.ridx, n := r.readSpan }).map (·.1)) .read) = true := by decide +kernel

/-- R194, R202: the elements of one aligned 8 bytes of INT8 at an odd base are read at once, with the metadata of both MX blocks they go to. -/
theorem test_copy_reads_units :
    let r : CopyRun := { moving .affine with src := fat 1 0 0 0x401, dst := fat 0x10 5 0 0x600, counts := [64, 1, 1], total := 64
                                             limit := 64, ridx := 31 }
    ptrE r.src = some (.int 8) ∧ r.readSpan = 8 ∧
      r.readsOf { idx := 31, n := 8 } = [(0x420, 8, 0), (0x600, 1, 2), (0x601, 1, 16 + 2)] := by decide +kernel

/-- R223, R226: an engine's access to one aligned 8 bytes is one hit, at the first watched byte. -/
theorem test_engine_access_one_hit :
    let s := (base []).updMyCore fun k => { k with comps := [(0, { ctl := wordOf (3 * 2 ^ 62 + 2 ^ 60 + 2 ^ 43 + 252 * 2 ^ 27 + 0x400) })], trace := traceOn }
    let rs : List ArrRead := (List.range 16).map fun i => { addr := 0x400 + i / 2, size := 1, key := 0, bit := 4 * (i % 2), width := 4 }
    let t := (engineUnit s (.arr 0 1 0 0) 0 rs).2
    t.myCore.wphit.toNat % 2 ^ 19 = 0x402 ∧ t.myCore.trace.seq = (s.myCore.trace.seq + 1) % 256 := by decide +kernel

/-- R194: a read of 16 bytes that an element waits for. -/
theorem witness_reads_return :
    let r := { moving .affine with ridx := 1, steps := [{ idx := 0, n := 1, waits := [5] }] }
    let m : Msg := { issuer := .chan 0 0 0 0, act := .load 16 false, home := .spad 0 0x7FFF0, va := 0x7FFF0, launch := 0, job := 1
                     direct := true, phase := .going 0 }
    let s : State := { withChan0 { chanAt (.cend hdr0) with run := some r } [] with msgs := [(5, m)], cur := { id := 5 } }
    quietAt s 0 = true ∧ message s = some m ∧ msgReady s 5 m = true ∧ tagsAt s 0 0x7FFF0 16 m.key = true ∧
      chanRun s 0 0 = some r := by decide +kernel

/-- R194: the write of an element of one format and of another, of a fill, of the first and the second element of a block, of a 4-bit
element, and of two elements side by side. -/
theorem witness_element_writes :
    let run (op : CopyOp) (src dst : Word) (i : Nat) : CopyRun :=
      { moving op with src := src, dst := dst, idx := i, ridx := 2, steps := [{ idx := 0, n := 2, reads := [(0, 7), (1, 5)] }] }
    ([(CopyOp.fill, 7, fat 5 0 0 0x600, 0), (.affine, fat 5 0 0 0x400, fat 5 0 0 0x600, 1), (.affine, fat 5 0 0 0x400, fat 1 0 0 0x600, 1),
        (.affine, fat 0x10 5 0 0x400, fat 0x10 5 0 0x600, 0), (.affine, fat 0x10 5 0 0x400, fat 0x10 5 0 0x600, 1),
        (.affine, fat 1 0 0 0x400, fat 0x0B 0 0 0x600, 1)].all fun p => let r := run p.1 p.2.1 p.2.2.1 p.2.2.2
      (r.stepOf r.idx).isSome && (ptrE r.dst).isSome && (p.1 == .fill || (ptrE r.src).isSome)) = true ∧
    (let r := run .affine (fat 0x10 5 0 0x400) (fat 0x10 5 0 0x600) 0;
      r.same = true ∧ (r.indices 0 (r.entryOf 0)).2.2 = true ∧ (elementLoc (.mx .e4m3) 5 0x600 0).metaAt.isSome = true ∧
      (r.indices 1 (r.entryOf 1)).2.2 = false) ∧
    (run .affine (fat 5 0 0 0x400) (fat 1 0 0 0x600) 1).same = false ∧
    (let r := run .affine (fat 5 0 0 0x400) (fat 5 0 0 0x600) 0;
      ([0, 1].all fun j => (r.stepOf j).isSome && (elementLoc (.flt .fp32) 0 0x600 (r.indices j 0).2.1).byte == 0x600 + 4 * j) = true) := by
  decide +kernel

/-- R171, R199: a binding in each direction; a bound register that can read its next element, one whose head has been read, one that has a
word to drain, and one whose word can be written. -/
theorem witness_streams :
    let one : Memory := [(0x800, 1), (0x804, 1), (0x808, 1)]
    let m := fat 4 0 0 0x400
    ([true, false].all fun dir =>
      let s := withChan0 (chanAt (.cstream hdr0 m 0x800 dir 3)) one
      let run := streamRun hdr0 m dir 3 (!(chanEnt s 0 0).nbv2) (shapeAt s 0x800)
      quietCore s && cmdReady s 0 0 (.cstream hdr0 m 0x800 dir 3) && shapeGood s (.cstream hdr0 m 0x800 dir 3) (some 0x800) &&
      shapeAt s 0x800 5 == 0 && shapeAt s 0x800 6 == 0 && sideStatus m == 0 && run.total == 1 &&
      sideRange s (chanEnt s 0 0).job m (topIndex run.counts run.sstr) == 0 && (mgetD s.myCore.streams 3 {}).mode == 0) = true ∧
    (let bound (dir : Bool) (l : List CopyStep) : CopyRun × Stream × State :=
      let r := { streamRun hdr0 m dir 3 true fun i => if i < 3 then 1 else 0 with steps := l, ridx := l.length }
      let x : Stream := { mode := if dir then 2 else 1, chan := 0, words := if dir then [7] else [], left := 1 }
      (r, x, stateOf { coreOf (ctxWith []) with chans := [(0, { chanAt (.cend hdr0) with run := some r })], streams := [(3, x)] })
    let read : CopyStep := { idx := 0, n := 1, reads := [(0, 7)] }
    let word : CopyStep := { idx := 0, n := 1, reads := [(8, 7)] }
    ([bound false [], bound false [read], bound true [], bound true [word]].all fun b =>
      boundStream b.2.2 0 0 == some (b.1, b.2.1) && !b.1.stopped && quietCore b.2.2 && b.1.steps.all (fun x => decide (x.idx < b.1.ridx)) &&
      ptrE b.1.src == some (.int 64) && homedAll b.2.2 [0x400] .read && homedAll b.2.2 [0x400] .write) = true ∧
    ((bound false []).1.headRead = none ∧ (bound false []).1.ridx < (bound false []).1.limit ∧
      (bound false [read]).1.idx < (bound false [read]).1.limit ∧ (bound true []).1.canWrite = false ∧
      (bound true []).1.ridx < (bound true []).1.limit ∧ (bound true [word]).1.canWrite = true ∧
      ((bound false []).1.readsOf { idx := 0, n := 1 }).map (·.1) = [0x400] ∧
      ((bound true [word]).1.writesOf (bound true [word]).1.writeSpan).map (·.1) = [0x400] ∧
      ((bound true []).1.readsOf { idx := 0, n := 1, reads := [(8, v128 7)] }) = [])) := by decide +kernel

/-- A list of an NGEMV of one row of 32 bytes in device memory, its vector at 0x400, its result at 0x600 (R321). -/
def ngemvState (shape : Word) : State :=
  { withChan0 (chanAt (.ngemv hdr0 (fat 1 0 0 0x10000000000) (fat 1 0 0 0x400) shape))
      [(0x801, 0x06), (0x807, 0x18), (0x808, 1), (0x80C, 32), (0x810, 32)] with plains := [(0, { tlb := [leaf5] })] }

/-- A state with another run in channel 0 of core 0. -/
def withRun (s : State) (r : CopyRun) : State := s.updChan 0 0 fun x => { x with run := some r }

/-- R321: an NGEMV whose checks pass and one whose shape pointer is misaligned; one that has a page of its matrix to test, one that has an element of its vector to read, and one that
has read them all; a unit with a command. -/
theorem witness_near_memory :
    let m := fat 1 0 0 0x10000000000
    let v := fat 1 0 0 0x400
    (let s := ngemvState 0x800;
      (quietCore s && cmdReady s 0 0 (.ngemv hdr0 m v 0x800) && recordFree s 0x800 &&
        match startNgemv hdr0 m v 0x800 s with
        | (.ok r, t) => r.op == .near && !mustWait s t
        | _ => false) = true) ∧
    cmdReady (ngemvState 0x808) 0 0 (.ngemv hdr0 m v 0x808) = true ∧
    (let run (k : Nat) : CopyRun := { h := hdr0, opcode := 0x0B, op := .near, total := 1, limit := 1, counts := [32, 32], src := m, vptr := v
                                      dst := fat 3 0 0 0x600, ridx := k, probe := 1, stack := 0 }
      let s (k : Nat) (l : List NearReq) : State := { withChan0 { chanAt (.cend hdr0) with run := some (run k) } [] with
        plains := [(0, { tlb := [leaf5, { leaf5 with page := 0x10000008000, perms := 0 }] })], near := [(0, l)] }
      let q : NearReq := { core := 0, ch := 0, vec := [], vmeta := [], rows := 1, cols := 2, stride := 32, matrix := m, vptr := v
                           dst := fat 3 0 0 0x600, nbv2 := true }
      let two : NearReq := { q with rows := 2 }
      let out : NearReq := { q with matrix := fat 1 0 0 0x10000008000 }
      (let first (st : Nat) : CopyRun := { run 0 with probe := 0, stack := st };
        [noStack, 0, 1].all fun st => let u : State := withRun (s 0 []) (first st);
          chanRun u 0 0 == some (first st) && decide ((first st).probe < (first st).total) && u.held.isNone &&
          rowPages m 0 32 == [0x10000000000] && stackOf u 0 1 0x10000000000 == (some 0, u)) = true ∧
      (∀ k ∈ [0, 31], (run k).total ≤ (run k).probe ∧ chanRun (s k []) 0 0 = some (run k) ∧ quietCore (s k []) = true ∧ (ptrE (run k).vptr).isSome = true ∧
        piecesFree (s k []) 0 0 (vectorPieces (run k)) = true ∧
        (vectorPieces (run k)).all (fun p => tagsAt (s k []) 0 p.1 p.2 (ptrKey v)) = true) ∧
      (chanRun (s 32 []) 0 0 = some (run 32) ∧ (run 32).counts.getD 0 0 ≤ (run 32).ridx) ∧
      (mgetD (s 32 [q]).near (s 32 [q]).cur.id [] = [q] ∧ chanRun (s 32 [q]) q.core q.ch = some (run 32) ∧ (run 32).fault = none ∧ q.row = 0 ∧ jobHeld (s 32 [q]) 1 = false ∧ jobHeld (s 32 [two]) 1 = false ∧
        ([two, out].all fun x => mgetD (s 32 [x]).near 0 [] == [x] && chanRun (s 32 [x]) 0 0 == some (run 32)) = true ∧
        (match nearRow (s 32 [out]) 0 1 out 0 with
          | (.error _, u) => u == s 32 [out]
          | _ => false) = true ∧
        engineHome (s 32 [q]) 0 1 (ptrAddr q.dst) .write = (some (.spad 0 0x600), s 32 [q]) ∧
        (match nearRow (s 32 [q]) 0 1 q 0 with
          | (.ok _, u) => u == s 32 [q]
          | _ => false) = true)) := by decide +kernel

/-! The square. -/

/-- `mayBegin` as a test. -/
def mayBeginB (i : Instr) (e : CmdEnt) (s : State) : Bool :=
  mayStart s s.cur.core == some e && (match decodeCmd 1 e.word with
    | .ok j => j == i
    | .error _ => false) && !needsToken s (coreSquare s.cur.core) && !sending s s.cur.core s.cur.id i && e.core == s.cur.core

/-- The test says it. -/
theorem mayBegin_of (i : Instr) (e : CmdEnt) (s : State) (h : mayBeginB i e s = true) : mayBegin i e s := by
  simp only [mayBeginB, Bool.and_eq_true, beq_iff_eq, Bool.not_eq_true'] at h
  obtain ⟨⟨⟨⟨h1, h2⟩, h3⟩, h4⟩, h5⟩ := h
  refine ⟨h1, ?_, h3, h4, h5⟩
  split at h2
  · rename_i hj; rw [hj, beq_iff_eq.mp h2]
  · cases h2

/-- The leased entry of an array command. -/
def arrEntry (i : Instr) : CmdEnt := { entryCmd i with leased := true }

/-- A package whose core 0 holds the array, with a command at its head. -/
def arrState (i : Instr) (slots : Map Slot) (k : Core → Core) : State :=
  { stateOf (k { coreOf (ctxWith []) with eq1 := [arrEntry i], lease := { state := .held, limit := 1, left := 1 } }) with
    squares := [(0, { slots := slots })] }

/-- A package whose core 0 has started a command of the array, which goes on. -/
def arrGoing (i : Instr) (slots : Map Slot) (f : ArrRun → ArrRun) (k : Core → Core) : State :=
  { stateOf (k { coreOf (ctxWith []) with lease := { state := .held, limit := 1 } }) with
    squares := [(0, { slots := slots, runs := [f { ent := { arrEntry i with id := 9 }, h := { tag := 5, result := true, flagen := false, flag := 0, ext := 0 }, opcode := 0x20 }] })]
    cur := { id := 9 } }

/-- `mayReadOn` as a test. -/
def readsB (i : Instr) (s : State) : Bool :=
  (match runOf s s.cur.core s.cur.id with
    | some r => r.ent.core == s.cur.core && r.reads != [] && r.reads.all fun x => tagsAt s s.cur.core x.addr x.size x.key
    | none => false) && reading s s.cur.core s.cur.id i && quietCore s

/-- The test says it. -/
theorem mayReadOn_of (i : Instr) (s : State) (h : readsB i s = true) :
    ∃ r, mayReadOn i r s ∧ r.ent.core = s.cur.core := by
  simp only [readsB, Bool.and_eq_true] at h
  obtain ⟨⟨h1, h2⟩, h3⟩ := h
  split at h1
  · rename_i r hr
    rw [Bool.and_eq_true, Bool.and_eq_true, beq_iff_eq, List.all_eq_true, bne_iff_ne] at h1
    exact ⟨r, ⟨hr, h1.1.2, h2, h3, h1.2⟩, h1.1.1⟩
  · cases h1

/-- A slot of core 0. -/
def slotOfTy (ty : SlotTy) : Slot := { owner := 0, ty := ty, elems := List.replicate 1024 0, prods := [0] }

/-- A SLOT field names slot n. -/
def isOld (r : Option SlotRef) (n : Nat) : Bool :=
  match r with
  | some (.old m) => m == n
  | _ => false

/-- A free slot n can be taken. -/
def isTake (r : TakeRes) (n : Nat) : Bool :=
  match r with
  | .take m => m == n
  | _ => false

/-- R239, R240: an array that can be granted, a turn that is over, leases that end, and a head without a lease. -/
theorem witness_lease_turns :
    let k := { coreOf (ctxWith []) with eq1 := [arrEntry (.trel hdr0 0)], lease := { state := .waiting, limit := 1 } }
    (grantee (stateOf k) 0 = some 0 ∧ holderOf (stateOf k) 0 = none ∧ (sq0 (stateOf k)).startAt ≤ sqNow (stateOf k) 0) ∧
    (let s : State := { stateOf k with cores := [(0, { k with lease := { state := .held, limit := 1, left := 0 } }), (1, k)] };
      holderOf s 0 = some 0 ∧ turnOver s 0 = true) ∧
    (∀ e ∈ [true, false],
      let s : State := { stateOf { k with eq1 := [], lease := { state := .held, releasing := true, groupEnding := e } } with
        squares := [(0, { slots := [(127, slotOfTy .fp32)] })] }
      s.myCore.lease.state ≠ .none ∧ s.myCore.lease.releasing = true ∧ hasLeased s 0 = false ∧ (slot0 s 127).alloc = true ∧
      (slot0 s 127).owner = coreInSquare 0 ∧ mget (sq0 s).slots 127 = some (slot0 s 127)) ∧
    (let e := entryCmd (.trel hdr0 0);
      arrHead (stateOf { k with eq1 := [e] }) 0 = some e ∧ e.leased = false) := by decide +kernel

/-- R236, R248, R249: loads of 8-bit integers of one and of four K-blocks, and a stride below a row; reads that go on, of integers, of
4-bit ones from the middle of a byte and of a block with its metadata; and one whose tag check fails. -/
theorem witness_operand_loads : ([(1, 0), (4, 3)].all fun n =>
      [Instr.tlda hdr0 (fat 1 0 0 0x400) (BitVec.ofNat 32 (32 * n.1)) (BitVec.ofNat 2 n.2),
       .tldb hdr0 (fat 1 0 0 0x400) (BitVec.ofNat 32 (32 * n.1)) (BitVec.ofNat 2 n.2)].all fun i =>
        let s := arrState i [] id
        let rg := arrayRange (.int 8) 0 0x400 (31 * (32 * n.1) + 32 * n.1 - 1)
        mayBeginB i (arrEntry i) s && ptrE (fat 1 0 0 0x400) == some (.int 8) && (tileClass 1).isSome && s.myCore.chans.isEmpty &&
        rg.2 < 0x80000) = true ∧
    ([Instr.tlda hdr0 (fat 1 0 0 0x400) 127 3, .tldb hdr0 (fat 1 0 0 0x400) 127 3].all fun i =>
      mayBeginB i (arrEntry i) (arrState i [] id)) = true ∧ ptrAddr (fat 1 0 0 0x400) % (EFmt.int 8).align = 0 ∧
    (127 : BitVec 32).toNat < 32 * ((3 : BitVec 2).toNat + 1) ∧
    ([(fat 1 0 0 0x400, EFmt.int 8, 32), (fat 0x0B 0 0 0x400, .int 4, 33), (fat 0x10 5 0 0x400, .mx .e4m3, 32)].all fun p =>
      [Instr.tlda hdr0 p.1 (BitVec.ofNat 32 p.2.2) 0, .tldb hdr0 p.1 (BitVec.ofNat 32 p.2.2) 0].all fun i =>
        let rs := (elementReads p.2.1 p.1 p.2.2 32).take 40
        readsB i (arrGoing i [] (fun r => { r with reads := rs }) id) && ptrE p.1 == some p.2.1 && rs != [] &&
        let s := arrGoing i [] (fun r => { r with reads := rs }) fun k => { k with tags := [(0x20, 3)] }
        reading s 0 9 i && rs.head?.any fun x => !tagsAt s 0 x.addr x.size x.key) = true := by decide +kernel

/-- A loaded buffer of one K-block. -/
def bufOf (fmt : Nat) : OpBuf :=
  { fmt := fmt, blog := 0, kb := 1, codes := List.replicate 32 (List.replicate 32 0), metas := List.replicate 32 [] }

/-- R245, R250: a product onto slot 127, fresh and not, of integers and of BF16; of another type; and into a new slot. -/
theorem witness_tile_product :
    ([(1, SlotTy.int32), (7, .fp32)].all fun p => [true, false].all fun fresh =>
      let i : Instr := .tmma hdr0 127 fresh
      let s := arrState i [(127, slotOfTy p.2)] fun k => { k with bufA := some (bufOf p.1), bufB := some (bufOf p.1) }
      mayBeginB i (arrEntry i) s && tmmaStatus (bufOf p.1) (bufOf p.1) == 0 && s.upsets == [] && (eFmtOf p.1 0).isSome &&
      isOld (resolveSlot s 0 hdr0 127 true) 127 && (slot0 s 127).version == hdr0.ext.toNat &&
      (slot0 s 127).ty == (if intPair p.1 p.1 then .int32 else .fp32)) = true ∧
    (let s := arrState (.tmma hdr0 127 false) [(127, slotOfTy .poly)] id;
      isOld (resolveSlot s 0 hdr0 127 true) 127 = true ∧ (slot0 s 127).ty ≠ .int32) ∧
    (let i : Instr := .tmma hdr0 0xFFFF false;
      let s := arrState i [] fun k => { k with bufA := some (bufOf 1), bufB := some (bufOf 1) }
      mayBeginB i (arrEntry i) s = true ∧ isTake (takeRes s 0) 0 = true) := by decide +kernel

/-- R251, R254, R333: TZPS of a slot, of a new one and of type 3; TREL of a slot, of a free one, and without a wake
token. -/
theorem witness_slot_commands :
    ([0, 1, 2].all fun ty => let i : Instr := .tzps hdr0 127 ty
      let s := arrState i [(127, slotOfTy .fp32)] id
      mayBeginB i (arrEntry i) s && isOld (resolveSlot s 0 hdr0 127 true) 127 && (slot0 s 127).version == 0) = true ∧
    (let s := arrState (.tzps hdr0 0xFFFF 0) [] id;
      mayBeginB (.tzps hdr0 0xFFFF 0) (arrEntry (.tzps hdr0 0xFFFF 0)) s = true ∧ isTake (takeRes s 0) 0 = true) ∧
    mayBeginB (.tzps hdr0 0 3) (arrEntry (.tzps hdr0 0 3)) (arrState (.tzps hdr0 0 3) [] id) = true ∧
    (let s := arrState (.trel hdr0 127) [(127, slotOfTy .fp32)] id;
      mayBeginB (.trel hdr0 127) (arrEntry (.trel hdr0 127)) s = true ∧ isOld (resolveSlot s 0 hdr0 127 false) 127 = true) ∧
    (let s := arrState (.trel hdr0 0) [] id;
      mayBeginB (.trel hdr0 0) (arrEntry (.trel hdr0 0)) s = true ∧ mget (sq0 s).slots 0 = none) ∧
    (let i : Instr := .trel hdr0 127;
      let s : State := { arrState i [(127, slotOfTy .fp32)] id with mgmt := { limRamp := 1 } }
      mayStart s 0 = some (arrEntry i) ∧ sending s 0 s.cur.id i = false ∧ needsToken s 0 = true ∧ (sq0 s).wantToken = false ∧
      isOld (resolveSlot s 0 hdr0 127 false) 127 = true ∧ (slot0 s 127).version = 0) := by decide +kernel

/-- The format code of the destinations of `tileStoreRows`. -/
def fmtCode : EFmt → Nat
  | .flt .fp32 => 5
  | .flt .fp16 => 6
  | .flt .bf16 => 7
  | _ => 3

/-- R252, R253: every row of the tables with STRIDE 32; a store of polynomials; an add of them. -/
theorem witness_tile_stores :
    ((tileStoreRows.map (fun r => (r.1, r.2.1, false)) ++ tileAddRows.map fun r => (r.1, r.2.1, true)).all fun r =>
      let dst := fat (fmtCode r.2.1) 0 0 0x400
      let i : Instr := if r.2.2 then .tadds hdr0 127 dst 32 else .tsto hdr0 127 dst 32
      let s := arrState i [(127, slotOfTy r.1)] id
      let rg := arrayRange r.2.1 0 0x400 (31 * 32 + 31)
      mayBeginB i (arrEntry i) s && isOld (resolveSlot s 0 hdr0 127 false) 127 && (slot0 s 127).version == 0 && s.upsets == [] &&
      ptrE dst == some r.2.1 && ptrAddr dst % r.2.1.align == 0 && rangeStatus s 1 rg.1 rg.2 == 0 && regionOf rg.1 != .host) = true ∧
    (let i : Instr := .tsto hdr0 127 (fat 4 0 0 0x400) 0;
      let s := arrState i [(127, slotOfTy .poly)] id
      mayBeginB i (arrEntry i) s = true ∧ isOld (resolveSlot s 0 hdr0 127 false) 127 = true ∧ (slot0 s 127).ty = .poly ∧
      ptrE (fat 4 0 0 0x400) = some (.int 64) ∧ rangeStatus s 1 0x400 (0x400 + 144 * (slot0 s 127).prods.length - 1) = 0) ∧
    (let i : Instr := .tadds hdr0 127 (fat 4 0 0 0x400) 0;
      let s := arrState i [(127, slotOfTy .poly)] id
      mayBeginB i (arrEntry i) s = true ∧ isOld (resolveSlot s 0 hdr0 127 false) 127 = true) := by decide +kernel

/-- R236, R260, R261: PMUL and PMAC of short images, single and split, into a slot and a new one, misaligned, PMAC of products of
another width and of a tile; and reads that go on, onto a slot without products and with some, and for a new slot. -/
theorem witness_products :
    ([true, false].all fun sp => [(Instr.pmul hdr0 127 sp 0x400 0x800, true), (.pmac hdr0 127 sp 0x400 0x800, false)].all fun r =>
      let s := arrState r.1 [(127, slotOfTy .poly)] id
      mayBeginB r.1 (arrEntry r.1) s && isOld (resolveSlot s 0 hdr0 127 r.2) 127 && (slot0 s 127).version == 0 &&
      (slot0 s 127).ty == .poly && (slot0 s 127).width == 0 && s.upsets == [] && s.myCore.chans.isEmpty &&
      localPtr 0x400 8 (if sp then 288 else 72) == 0 && localPtr 0x800 8 (if sp then 288 else 72) == 0) = true ∧
    (let i : Instr := .pmul hdr0 0xFFFF false 0x400 0x800;
      mayBeginB i (arrEntry i) (arrState i [] id) = true ∧ isTake (takeRes (arrState i [] id) 0) 0 = true) ∧
    (let i : Instr := .pmul hdr0 127 false 0x404 0x800;
      let s := arrState i [(127, slotOfTy .poly)] id
      mayBeginB i (arrEntry i) s = true ∧ s.upsets = [] ∧ (0x404 : Word).toNat / 2 ^ 56 = 0 ∧ (0x404 : Word).toNat % 8 ≠ 0) ∧
    ([slotOfTy .int32, { slotOfTy .poly with width := 9 }].all fun x => let i : Instr := .pmac hdr0 127 false 0x400 0x800
      let s := arrState i [(127, x)] id
      mayBeginB i (arrEntry i) s && isOld (resolveSlot s 0 hdr0 127 false) 127 && (slot0 s 127).width != (arrEntry i).width) = true ∧
    ([none, some 0, some 20].all fun w => [true, false].all fun sp => [(some 127, false), (some 127, true), (none, false)].all fun k =>
      let i : Instr := if k.2 then .pmac hdr0 127 sp 0x400 0x800 else .pmul hdr0 127 sp 0x400 0x800
      let n := if sp then 4 else 1
      let x : Slot := { slotOfTy .poly with width := w.getD 0, prods := List.replicate n 0, coeffs := List.replicate n [] }
      let s := arrGoing i (if k.1.isSome then [(127, x)] else []) (fun r => { r with slot := k.1, reads := wordReads false 0x400 n ++ wordReads true 0x800 n }) id
      readsB i s && (k.1.isSome || isTake (takeRes s 0) 0)) = true := by decide +kernel

/-- Every slot of core 0's square is allocated, to core o of the square. -/
def slotsTaken (o : Nat) : Map Slot := (List.range 128).map fun n => (n, { owner := o, ty := .poly, prods := [0] })

/-- The stall of R247. -/
def isStall (r : TakeRes) : Bool :=
  match r with
  | .stall => true
  | _ => false

/-- The end of R247. -/
def isExhausted (r : TakeRes) : Bool :=
  match r with
  | .exhausted => true
  | _ => false

/-- R247: a PMUL for a new slot reads while there is none, and where its core owns them all; one that has read finds a slot, and finds that
its core owns them all; none stalls in the head's place while another core owns a slot. -/
theorem witness_product_stall :
    let i : Instr := .pmul hdr0 0xFFFF false 0x400 0x800
    let words := wordReads false 0x400 1 ++ wordReads true 0x800 1
    let s (slots : Map Slot) (rs : List ArrRead) (cs : List Nat) : State :=
      arrGoing i slots (fun r => { r with reads := rs, codes := cs, metas := cs }) id
    (readsB i (s (slotsTaken 1) words []) = true ∧ isStall (takeRes (s (slotsTaken 1) words []) 0) = true ∧
      readsB i (s (slotsTaken 0) words []) = true ∧ isExhausted (takeRes (s (slotsTaken 0) words []) 0) = true) ∧
    (reading (s [] [] [1]) 0 9 i = true ∧ isTake (takeRes (s [] [] [1]) 0) 0 = true) ∧
    (reading (s (slotsTaken 0) [] [1]) 0 9 i = true ∧ isExhausted (takeRes (s (slotsTaken 0) [] [1]) 0) = true) ∧
    reading (s (slotsTaken 1) [] [1]) 0 9 i = false ∧ headStalled (s (slotsTaken 1) [] [1]) 0 = true := by decide +kernel

/-- R262: PEXTB of two coefficients, of none, of a tile, and of three and no 4-bit ones. -/
theorem witness_pextb : ([(SlotTy.poly, 2), (.poly, 0), (.int32, 1)].all fun r =>
      let i : Instr := .pextb hdr0 127 0 3 (BitVec.ofNat 16 r.2) (fat 3 0 0 0x400)
      let s := arrState i [(127, slotOfTy r.1)] id
      mayBeginB i (arrEntry i) s && isOld (resolveSlot s 0 hdr0 127 false) 127 && (slot0 s 127).version == 0 && s.upsets == [] &&
      ptrE (fat 3 0 0 0x400) == some (.int 32) && rangeStatus s 1 0x400 (0x400 + 4 * r.2 - (if r.2 = 0 then 0 else 1)) == 0) = true ∧
    ([3, 0].all fun n => let i : Instr := .pextb hdr0 127 0 3 (BitVec.ofNat 16 n) (fat 0x0B 0 0 0x400)
      let s := arrState i [(127, slotOfTy .poly)] id
      mayBeginB i (arrEntry i) s && isOld (resolveSlot s 0 hdr0 127 false) 127 && (slot0 s 127).version == 0 && s.upsets == [] &&
      ptrE (fat 0x0B 0 0 0x400) == some (.int 4) && rangeStatus s 1 0x400 (0x400 + (n - 1) / 2) == 0) = true := by
  decide +kernel

/-- R242, R333: commands that end with and without a record, and one with a guard to report; records that have room and whose group is
gone; tokens, with no square that waits and with one. -/
theorem witness_array_ends :
    ([true, false].all fun res => [none, some 5].all fun g =>
      let r : ArrRun := { ent := { arrEntry (.trel hdr0 127) with id := 9 }, h := { hdr0 with result := res }, opcode := 0x26, slot := some 127
                          frees := true, report := g }
      let s : State := { base [] with squares := [(0, { slots := [(127, slotOfTy .fp32)], runs := [r] })] }
      (sq0 s).runs.find? (fun r => r.ent.core == 0 && runEnded s r) == some r && sameCtx s 0 r.ent.slot r.ent.gen &&
      (s.ctx 0 r.ent.slot).failQ == []) = true ∧
    (let s : State := { base [] with squares := [(0, { recs := [(0, [{ group := 1, launch := 1, recd := 7 }])] })] };
      waitingRecs s 0 = [{ group := 1, launch := 1, recd := 7 }] ∧ (s.myCore.res 1).places < 16 ∧
      waitingRecs { s with cores := [] } 0 = [{ group := 1, launch := 1, recd := 7 }] ∧ ({ s with cores := [] } : State).myCore.group = none) ∧
    (∀ n ∈ [0, 4], let s : State := { base [] with now := 64 * 504, mgmt := { limRamp := n } }
      s.mgmt.tokenAt < s.ptime / 64 ∧ tokenQueue s = []) ∧
    (let s : State := { base [] with squares := [(0, { wantToken := true }), (256, { wantToken := true })]
                                     mgmt := { limRamp := 4, tokens := 1, lastDie := 0 } };
      tokenQueue s = [256, 0] ∧ s.ptime / 64 ≤ s.mgmt.tokenAt ∧ s.mgmt.tokens = 1 ∧ s.mgmt.limRamp ≠ 0) := by decide +kernel

/-- R252, R253, R262: a TSTO, a TADDS and a PEXTB with two writes left, at a rate of one and of 32 a clock. -/
theorem witness_array_sends :
    ([Instr.tsto hdr0 127 (fat 5 0 0 0x600) 32, .tadds hdr0 127 (fat 5 0 0 0x600) 32, .pextb hdr0 127 0 0 2 (fat 3 0 0 0x600)].all fun i =>
      [1, 32].all fun rate =>
        let m (k : Nat) : Msg := { issuer := .arr 0 9 0 0, act := .store [1, 2, 3, 4], home := .spad 0 0, va := 0x600 + 4 * k, job := 1
                                   elem := k, phase := .going 0 }
        let r : ArrRun := { ent := { arrEntry i with id := 9 }, h := hdr0, opcode := 0x24, slot := some 127, parts := [m 0, m 1], rate := rate }
        let s : State := { base [] with squares := [(0, { slots := [(127, slotOfTy .fp32)], runs := [r] })], cur := { id := 9 } }
        sending s 0 9 i && (sq0 s).runs.find? (fun r => r.ent.id == 9) == some r &&
        (r.parts.all fun m => m.issuer == .arr 0 9 0 0 && engineHome s 0 m.job m.va .write == (some (.spad 0 m.va), s))) = true := by
  decide +kernel

/-! Frontier and card launches. -/

/-- A package whose dispatcher has a command of eq3 from core 0. -/
def eq3State (i : Instr) (l : Launch) : State :=
  let e : CmdEnt := { entryCmd i with id := 9, launch := 1, job := 1 }
  { base [] with launches := [(1, l)], cur := { id := 9 }, mgmt := { featon := 8 }
                 requests := [{ id := 9, kind := 1, core := 0, slot := 0, gen := 0, job := 1, addr := 0, ent := some e }]
                 north := { tlb := [leaf5] } }

/-- The entry of `eq3State`. -/
def eq3Entry (i : Instr) : CmdEnt := { entryCmd i with id := 9, launch := 1, job := 1 }

/-- `serves` as a test. -/
def servesB (i : Instr) (e : CmdEnt) (s : State) : Bool :=
  (servedCmd s).map (·.2) == some e && match decodeCmd 3 e.word with
    | .ok j => j == i
    | .error _ => false

/-- The test says it. -/
theorem serves_of (i : Instr) (e : CmdEnt) (s : State) (h : servesB i e s = true) : serves i e s := by
  simp only [servesB, Bool.and_eq_true, beq_iff_eq] at h
  refine ⟨h.1, ?_⟩
  have h2 := h.2
  split at h2
  · rename_i hj; rw [hj, beq_iff_eq.mp h2]
  · cases h2

/-- A frontier launch of one dimension and four points, two of them complete. -/
def front1 : Frontier := { zero := false, added := 0, neff := 1, stair := [(0, 2)], home := some 0, reserve := 1 }

/-- Its launch, and the descriptor of it (R265). -/
def flaunch (f : Frontier) (addr : Nat) : Launch :=
  { launch1 with addr := addr, kind := 1, dims := 1, ext := (4, 1, 1), total := 4, frontier := some f
                 words := [0x11, 0, 0, 4, 0, wordOf (2 ^ 60 + 1), 0, 0] }

/-- R287: a card launch with records left and with none, and a grid launch. -/
theorem witness_card : ([5, 9].all fun d =>
      let l : Launch := { launch1 with kind := 2, ext := (9, 64, 2), cardDealt := d }
      servesB (.kcard hdr0) (eq3Entry (.kcard hdr0)) (eq3State (.kcard hdr0) l)) = true ∧
    servesB (.kcard hdr0) (eq3Entry (.kcard hdr0)) (eq3State (.kcard hdr0) launch1) = true := by decide +kernel

/-- R298: an FRSAVE of each mode of a firing and of a parked launch, of one that was abandoned, and of no launch. -/
theorem witness_save_starts : ([FrState.firing, .parked].all fun st => [0, 1, 2].all fun m =>
      let i : Instr := .frsave hdr0 1 m 0x10000000000 4
      let f := { front1 with state := st }
      let s := eq3State i (flaunch f 0)
      servesB i (eq3Entry i) s && featureOn s 3 && s.launch? 1 == some (flaunch f 0) && imageRange 0x10000000000 4 == 0) = true ∧
    (let i : Instr := .frsave hdr0 1 0 0x10000000000 4;
      let l := flaunch { front1 with state := .abandoned } 0;
      servesB i (eq3Entry i) (eq3State i l) = true ∧ featureOn (eq3State i l) 3 = true ∧ (eq3State i l).launch? 1 = some l) ∧
    (let i : Instr := .frsave hdr0 2 0 0x10000000000 4;
      servesB i (eq3Entry i) (eq3State i launch1) = true ∧ (eq3State i launch1).launch? 2 = none) := by decide +kernel

/-- R298, R299: a save that can be written, with room and without, and saves that end in each mode. -/
theorem witness_save_ends :
    (([1, 2] : List Nat).all fun n =>
      let v : FrSave := { ent := entryCmd (.kcard hdr0), h := hdr0, mode := 1, image := 0x10000000000, limit := n }
      let l := flaunch { front1 with state := .draining, saves := [v] } 0
      let s : State := { eq3State (.kcard hdr0) l with cur := { id := 1 }, plains := [(0, { tlb := [leaf5] })] }
      s.launch? s.cur.id == some l && v.late == none && unwrittenSave s 1 == none && s.upsets == [] && mget s.jobs l.job == some job1 && !job1.stopped && (imageBytes l front1 1).2 == 2 &&
      (List.range 2).all fun k => match tlbFind (unitPlain s 0).tlb l.job (v.image + 64 * k) with
        | none => false
        | some x => match leafCheck s x (v.image + 64 * k) .write with
          | .ok _ => true
          | .error _ => false) = true ∧
    ([FrState.firing, .draining, .parked, .finished].all fun st => [0, 1, 2].all fun m => [none, some 5].all fun bad =>
      let v : FrSave := { ent := entryCmd (.kcard hdr0), h := hdr0, mode := m, image := 0, limit := 0, written := true, failed := bad }
      let l := flaunch { front1 with state := st, saves := [v] } 0
      ({ eq3State (.kcard hdr0) l with cur := { id := 1 } } : State).launch? 1 == some l && lateSave (eq3State (.kcard hdr0) l) 1 == none &&
        unwrittenSave (eq3State (.kcard hdr0) l) 1 == none && !jobHeld (eq3State (.kcard hdr0) l) 1) = true := by decide +kernel

/-- R298: a save of a launch that has ended, whose writes are performed; and one that has its image still to write, with room and
without. -/
theorem witness_late_saves :
    (let v : FrSave := { ent := entryCmd (.kcard hdr0), h := hdr0, mode := 0, image := 0, limit := 4, written := true, length := 2, points := 2 };
      let s : State := { base [] with cur := { id := 7 }, lateSaves := [(7, v)] }
      lateSave s s.cur.id = some (7, v)) ∧
    ([1, 2].all fun n =>
      let i : LateImage := { die := 0, bytes := List.replicate 128 5, units := 2, points := 2 }
      let v : FrSave := { ent := entryCmd (.kcard hdr0), h := hdr0, mode := 0, image := 0x10000000000, limit := n, late := some i }
      let s : State := { base [] with cur := { id := 7 }, lateSaves := [(7, v)], plains := [(0, { tlb := [leaf5] })] }
      unwrittenSave s 7 == some (v, i) && s.upsets == [] && (List.range 2).all fun k =>
        match (tlbFind (unitPlain s 0).tlb v.ent.job (v.image + 64 * k)).map fun x => leafCheck s x (v.image + 64 * k) .write with
        | some (.ok _) => true
        | _ => false) = true := by decide +kernel

/-- Whether the reading of an image fails, and the address of its descriptor. -/
def imageAddr : ImageRes → Option Nat
  | .fail _ => none
  | .ok l => some l.addr

/-- `northAt` as a test. -/
def northAtB (s : State) (job va pa : Nat) : Bool :=
  s.held.isNone && s.upsets.isEmpty && regionOf va == .device &&
  (match (tlbFind (unitPlain s 10).tlb job va).map fun e => leafCheck s e va .write with
    | some (.ok p) => p == pa
    | _ => false)

/-- R301: images of a launch whose descriptor none and one has, a misaligned image, and a home with room. -/
theorem witness_image_loads :
    ([0, 64].all fun a =>
      let i : Instr := .frload hdr0 0x10000000000
      let s : State := { eq3State i launch1 with hbm := memWrite [] 0 (imageBytes (flaunch front1 a) front1 1).1 }
      let r := readFrontier s (eq3Entry i).job 0x10000000000
      servesB i (eq3Entry i) s && featureOn s 3 && imageAddr r.1 == some a && (liveAt r.2 1 a false == none) == (a == 64) &&
      r.2.held.isNone && r.2.launches.length < 1024) = true ∧
    (let i : Instr := .frload hdr0 0x10000000001;
      servesB i (eq3Entry i) (eq3State i launch1) = true ∧ (imageAddr (readFrontier (eq3State i launch1) 1 0x10000000001).1).isNone = true ∧
      (readFrontier (eq3State i launch1) 1 0x10000000001).2.held = none) ∧
    (let l := flaunch front1 0x10000000040;
      let i : Instr := .frload hdr0 0x10000000000;
      let r : DispReq := { id := 9, kind := 1, core := 0, slot := 0, gen := 0, job := 1, addr := 0, ent := some (eq3Entry i), loading := some l };
      ([[], [(1, flaunch { front1 with state := .parked } 0x10000000040)]].all fun ls =>
        let s : State := { eq3State i launch1 with requests := [r], launches := ls, north := { tlb := [leaf5] } };
        findReq s s.cur.id == some r && liveAt s l.job l.addr false == none && liveAt s l.job l.addr true == ls.head?.map (·.1) &&
        ls.all (fun p => (frontierOf s p.1).map (·.saves) == some []) && l.addr % 64 == 0 && northAtB s 1 0x10000000078 0x78 &&
        frontierHome s l.job == some 0 && front1.reserve ≤ storeRoom s 0 && s.launches.length < 1024) = true) := by decide +kernel

/-- R295: a notice of point 2, and point 2 that can fire. -/
theorem witness_frontier_steps :
    (let f := { front1 with pending := [2], intake := [2], tookAt := 7 };
      frontierAt { eq3State (.kcard hdr0) (flaunch f 0) with cur := { id := 1 } } 1 = some (0, flaunch f 0, f) ∧
      f.tookAt ≠ ((eq3State (.kcard hdr0) (flaunch f 0)).die 0).clk + 1) ∧
    (let s : State := { eq3State (.kcard hdr0) (flaunch { front1 with firedAt := 7 } 0) with cur := { id := 1 } };
      frontierAt s 1 = some (0, flaunch { front1 with firedAt := 7 } 0, { front1 with firedAt := 7 }) ∧
      eligiblePoint 1 (4, 1, 1) { front1 with firedAt := 7 } = some 2 ∧ 7 ≠ (s.die 0).clk + 1) := by decide +kernel

/-! Meetings. -/

/-- A handle of meeting 3 of virtual die 0 (R366): round, member, low bits. -/
def handle3 (round member low : Nat) : Word := wordOf (round * 2 ^ 48 + member * 2 ^ 42 + 3 * 2 ^ 23 + low)

/-- R172, R369, R373: MEET and MEETR with no rejection and with one, with an outbound unit that has accepted in this clock, and blocked. -/
theorem witness_meet :
    let b := base [(2, handle3 5 1 0)]
    let r := stateOf { coreOf (ctxWith [(2, handle3 5 1 0)]) with rejects := [(3, 1)] }
    let w (i : Instr) (vs : List VWord) : State := stateOf (coreOf (blockedCtx i 2 0 vs []))
    (issues (.meet (.x 2) (.v 1)) b = true ∧ admits b (b.me.getX 2) = true ∧ (outboundPosted b 0).length < 16 ∧ outOpen b 0 = true ∧
      outOpen (takeOut b 0) 0 = false ∧ issues (.meet (.x 2) (.v 1)) (takeOut b 0) = true ∧
      issues (.meetr (.v 1) (.x 2) 0) (takeOut b 0) = true ∧ admits (takeOut b 0) ((takeOut b 0).me.getX 2) = true) ∧
    (issues (.meetr (.v 1) (.x 2) 0) b = true) ∧
    (waitsIn (.meet (.x 2) (.v 1)) 2 0 [v128 (handle3 5 1 0), 7] (w (.meet (.x 2) (.v 1)) [v128 (handle3 5 1 0), 7]) = true ∧
      waitsIn (.meetr (.v 1) (.x 2) 0) 2 0 [v128 (handle3 5 1 0)] (w (.meetr (.v 1) (.x 2) 0) [v128 (handle3 5 1 0)]) = true ∧
      outOpen (w (.meetr (.v 1) (.x 2) 0) []) 0 = true ∧ (outboundPosted (w (.meet (.x 2) (.v 1)) []) 0).length < 16) ∧
    (issues (.meet (.x 2) (.v 1)) r = true ∧ issues (.meetr (.v 1) (.x 2) 0) r = true ∧ trapsPlainly r = true ∧
      r.myCore.rejects.contains (mIdent (r.me.getX 2), mMember (r.me.getX 2)) = true) := by decide +kernel

/-- A meeting of four members in round 5. -/
def meeting5 : Meeting := { job := 1, n := 4, k := 2, op := 1, lag := 3, weight := 1, deadline := 10, c := 5 }

/-- A message for meeting 3 of plain 0. -/
def toMeeting (act : MsgAct) : Msg :=
  { issuer := .ctx 0 0 0 5, act := act, home := .meeting 0 3, va := 0, job := 1, phase := .going 0 }

/-- A package with the meeting and the message. -/
def meetState (x : Meeting) (m : Msg) : State := { msgState m with plains := [(0, { meetings := [(3, x)] })] }

/-- R370, R371: a contribution held, one that makes the quorum, one early, one late, and three that are rejected; one that is
held already, early, late or for the open round; an early place that another round holds; one later than LAG; and 64 late ones. -/
theorem witness_contributions : ([(meeting5, 5, 1), ({ meeting5 with ontime := [(0, 7)] }, 5, 1), (meeting5, 6, 3), (meeting5, 3, 3),
      (meeting5, 2, 0), (meeting5, 5, 4), (meeting5, 7, 0), (meeting5, 65524, 0)] ++
      [({ meeting5 with seen := [(1, 1)] }, 5, 1), ({ meeting5 with early := [(3, (6, 9))] }, 6, 3), ({ meeting5 with seen := [(3, 4)] }, 3, 3),
        ({ meeting5 with early := [(3, (22, 9))] }, 6, 3), (meeting5, 1, 0), ({ meeting5 with late := List.replicate 64 (0, 1, 0) }, 3, 3)] : List (Meeting × Nat × Nat)).all (fun r =>
        let m := toMeeting (.meet (handle3 r.2.1 r.2.2 0) 9)
        let s := meetState r.1 m
        meetDue s == some m && meetingAt s 0 3 == some r.1 && r.1.job == m.job && m.issuer.core? == some 0 &&
        mRound (handle3 r.2.1 r.2.2 0) == r.2.1 && mMember (handle3 r.2.1 r.2.2 0) == r.2.2) = true ∧
    ([(5, 0), (6, 1), (3, -2), (2, -3), (7, 2), (65524, -17), (1, -4)] : List (Nat × Int)).all (fun r => roundDiff r.1 5 == r.2) = true ∧
    2 ≤ (mset ({ meeting5 with ontime := [(0, 7)] } : Meeting).ontime 1 (9 : VWord)).length := by decide +kernel

/-- R369, R370, R373: a deadline, a probe, a MEETR of a published round and of the open one, one of no meeting, an answer, a rejection. -/
theorem witness_meeting_reads :
    (let s : State := { meetState { meeting5 with timer := some 0, ontime := [(0, 7)] } (toMeeting (.meetr 0)) with cur := { id := 3 } };
      ((meetingAt s (s.cur.id / 64) (s.cur.id % 64)).any fun x => x.timer == some 0 && x.early == [] && x.k == 2) = true ∧ jobStopped s 1 = false) ∧
    (let u : Pub := { tag := 4, result := 7, lateacc := 0, ontime := 1, count := 1, byDeadline := false, latemap := 0, latecount := 0 };
      let x := { meeting5 with pubs := [u] };
      ([handle3 5 0 4, handle3 4 0 0, handle3 5 0 0].all fun h => let m := toMeeting (.meetr h)
        meetDue (meetState x m) == some m && meetingAt (meetState x m) 0 3 == some x && m.job == 1) = true ∧
      mProbe (handle3 5 0 4) = true ∧ mProbe (handle3 4 0 0) = false ∧ mProbe (handle3 5 0 0) = false ∧
      x.pubs.find? (fun u => decide (0 ≤ roundDiff u.tag (mRound (handle3 4 0 0)))) = some u ∧
      (x.pubs.all fun u => decide (roundDiff u.tag (mRound (handle3 5 0 0)) < 0)) = true) ∧
    (let m := toMeeting (.meetr (handle3 5 0 0));
      meetDue (msgState m) = some m ∧ meetingAt (msgState m) 0 3 = none ∧ m.issuer.core? = some 0) ∧
    (let p : Pend := { pend5 (.query []) none with dst := .v (.v 1) };
      let m : Msg := { toMeeting (.meetr 0) with phase := .coming (.data 7) 0 };
      let s : State := { pendState p with msgs := [(5, m)] };
      message s = some m ∧ (s.ctx 0 0).gen = 0 ∧ findPend (s.ctx 0 0) 5 = some p ∧ p.due ≤ s.clk 0 ∧ p.got = []) ∧
    (let m : Msg := { issuer := .foreign, act := .reject 3 1, home := .core 0, va := 0, phase := .going 0 };
      message (msgState m) = some m) := by decide +kernel

/-- A package whose plain 0 has a command of eq2 from core 0. -/
def eq2State (i : Instr) (p : Plain) : State :=
  { stateOf { coreOf (ctxWith []) with spad := [(0x400, 4), (0x401, 2), (0x404, 5)] } with
    cur := { id := 9 }, plains := [(0, { p with coll := [eq3Entry i] })] }

/-- `engineHas` as a test. -/
def engineHasB (i : Instr) (e : CmdEnt) (s : State) : Bool :=
  collCmd s == some e && match decodeCmd 2 e.word with
    | .ok j => j == i
    | .error _ => false

/-- The test says it. -/
theorem engineHas_of (i : Instr) (e : CmdEnt) (s : State) (h : engineHasB i e s = true) : engineHas i e s := by
  simp only [engineHasB, Bool.and_eq_true, beq_iff_eq] at h
  refine ⟨h.1, ?_⟩
  have h2 := h.2
  split at h2
  · rename_i hj; rw [hj, beq_iff_eq.mp h2]
  · cases h2

/-- R366 to R368: a definition of four members with a quorum of two, at a free number and at one in use; destroys of both; and either
with a definition that breaks R367. -/
theorem witness_definitions :
    let i : Instr := .mdefDefine hdr0 0x400 (handle3 0 0 0) 0
    let j : Instr := .mdefDestroy { hdr0 with ext := 1 } 0x400 (handle3 0 0 0) 0
    let reads (s : State) : Bool := quietAt s 0 && granted (s.core 0) 1 [(0x400, 32)] && localPtr 0x400 32 32 == 0 && !wmBlocks (s.core 0) none 0x400 32 && tagsAt s 0 0x400 32 0 &&
      meetPlain s 1 (handle3 0 0 0) == 0
    (([[], [(3, meeting5)]] : List (Map Meeting)).all fun ms => let s := eq2State i { meetings := ms }
      engineHasB i (eq3Entry i) s && reads s && defOk (memNat (s.core 0).spad 0x400 32) && (meetingAt s 0 3).isSome == (ms != []) &&
      engineHasB j (eq3Entry j) (eq2State j { meetings := ms }) && reads (eq2State j { meetings := ms })) = true ∧
    ([i, j].all fun k => let s := (eq2State k {}).updCore 0 fun c => { c with spad := [] }
      engineHasB k (eq3Entry k) s && reads s && !defOk (memNat (s.core 0).spad 0x400 32)) = true ∧ meeting5.waiting = [] := by decide +kernel

/-- R374, R375: an entry from the core in column 0 to that in column 2, alone and against stream 1 with the same path; one with a bit
that must be zero; steps and clears of both. -/
theorem witness_streams_routers :
    let w : Word := wordOf (2 * 2 ^ 26)
    let x := streamOf w.toNat 0
    (x.isSome = true ∧ x.all (fun x => x.sets != []) = true ∧ (streamOf w.toNat (2 ^ 12)).isNone = true) ∧
    (([[], [(1, x.getD { src := 0, dst := 0, level := 0, sets := [] })]] : List (Map StreamEnt)).all fun t =>
      (x.all fun x => streamClash t 0 x == if t == [] then none else some (1, 0)) &&
      [Instr.srouteLoad hdr0 w 0, .srouteLoad hdr0 w (2 ^ 12), .srouteStep hdr0 0x101 0, .srouteClear hdr0 0x201 0].all fun i =>
        engineHasB i (eq3Entry i) (eq2State i { streams := t }) && (mget t 1).isSome == (t != [])) = true := by decide +kernel

/-- Whether a word of eq2 is rejected. -/
def rejectedWord (w : BitVec 256) : Bool :=
  match decodeCmd 2 w with
  | .error _ => true
  | .ok _ => false

/-- R54, R56: a record that is due, at a core with its group and at one without, and a word that is no command. -/
theorem witness_engine_records :
    (let f : RecordFly := { q := 2, recd := 7, group := 1, launch := 1, due := 0 };
      let k := { coreOf (ctxWith []) with recFly := [f] };
      ((stateOf k).myCore.recFly.find? fun f => decide (f.due ≤ (stateOf k).now)) = some f ∧ (stateOf k).myCore.group = some group1 ∧
      group1.id = f.group ∧ (stateOf k).cur.flag = false ∧ (stateOf { k with group := none }).myCore.group = none) ∧
    (let e : CmdEnt := { entryOf 0 with id := 9 };
      let s : State := { base [] with plains := [(0, { coll := [e] })], cur := { id := 9, flag := true } };
      collCmd s = some e ∧ rejectedWord e.word = true) := by decide +kernel

/-! Launches and groups. -/

/-- R269: LAUNCH of a descriptor whose page is in the core TLB, of a misaligned address and of a local one; its answer. -/
theorem witness_launch :
    (let s := stateOf { coreOf (ctxWith [(2, 0x10000000000)]) with tlb := [leaf5] };
      issues (.launch (.x 1) (.x 2)) s = true ∧ regionOf 0x10000000000 = .device ∧ (match regionCheck 0x10000000000 0x1000000003F with
        | .ok => true
        | _ => false) = true ∧ (match xlate s 0x10000000000 .read with
        | .ok _ => true
        | _ => false) = true ∧ released s 0 0 s.nextId = true ∧ s.me.stepping = none) ∧
    (([0x404, 0x400] : List Word).all fun a => let s := base [(2, a)]
      issues (.launch (.x 1) (.x 2)) s && trapsPlainly s && regionOf a.toNat != .device) = true ∧
    (let i : Instr := .launch (.x 1) (.x 2);
      let r : CtxReply := { core := 0, slot := 0, gen := 0, value := 1, due := 0 };
      ctxReply { blockedBase i 3 0 [] [] with replies := [r] } = some r ∧
      (blockedBase i 3 0 [] []).me.blk = some { instr := i, pc := 0x100, len := 1, stage := 3 }) := by decide +kernel

/-- A package with a LAUNCH request for the descriptor at physical address 0. -/
def requested (m : Memory) : State :=
  { base [] with cur := { id := 9 }, north := { tlb := [leaf5] }, hbm := m
                 requests := [{ id := 9, kind := 0, core := 0, slot := 0, gen := 0, job := 1, addr := 0x10000000000 }] }

/-- The words of a descriptor of the given first and fourth words (R265). -/
def described (w0 w3 : Nat) : List Byte := natBytes 64 (w0 + 2 ^ 64 * 0x200 + 2 ^ 192 * w3)

/-- R267, R268: a grid of four groups, a card of one, a frontier launch, a gang of two, and a descriptor without dimensions. -/
theorem witness_requests : ([([(0x10, 4)], none, 0), ([(0x32, 9 + 64 * 2 ^ 21 + 2 * 2 ^ 42)], none, 2), ([(0x53, 4), (0x13, 2)], none, 3),
      ([(0, 0)], some 1, 0)] : List (List (Nat × Nat) × Option Nat × Nat)).all (fun r =>
        let s := requested (memWrite [] 0 (r.1.flatMap fun w => described w.1 w.2))
        let q := readMembers 1 (fun s i => (some (0x10000000000 + 64 * i), s)) (2 ^ 46) 0 s
        (findReq s s.cur.id).any (fun x => x.kind == 0 && x.due ≤ s.now && x.addr == 0x10000000000 && x.job == 1) && s.upsets == [] &&
        q.1.length == r.1.length && q.2.held.isNone && (judge q.2 1 false false q.1).2.held.isNone && northAtB q.2 1 0x10000000038 0x38 && s.launches.length + q.1.length ≤ 1024 &&
        (r.2.1.isSome || (q.1.all fun m => (m.words.map dKind) == some r.2.2) && rejectReason q.2 1 q.1 == none) &&
        (r.2.1.isNone || (rejectReason q.2 1 q.1).isSome)) = true := by decide +kernel

/-- R267, R294: a frontier launch of one dimension and one vector, with a home that has room. -/
theorem witness_frontier_request :
    let s : State := { requested (memWrite [] 0 (natBytes 64 (0x11 + 2 ^ 64 * 0x200 + 2 ^ 192 * 4 + 2 ^ 320 * (2 ^ 60 + 1)))) with
      mgmt := { featon := 8 } }
    let q := readMembers 1 (fun s i => (some (0x10000000000 + 64 * i), s)) (2 ^ 46) 0 s
    (q.1.map fun m => m.words.map dKind) = [some 1] ∧ rejectReason q.2 1 q.1 = none ∧ q.2.held = none ∧ (judge q.2 1 false false q.1).2.held = none ∧ frontierHome q.2 1 = some 0 ∧
    (q.1.all fun m => m.words.any fun w => worstCase (dDims w) (dExt w) ≤ storeRoom q.2 0) = true := by decide +kernel

/-- A package whose job 1 has its launch queue at the start of the page, with two entries of the descriptor at 0x400. -/
def queueing (lim : Option Nat) : State :=
  { base [] with cur := { id := 1, word := 1 }, north := { tlb := [leaf5] }, jobs := [(1, { job1 with launchq := 0x10000000000, lqLimit := lim })]
                 hbm := [(0, 2), (16, 1), (65, 4), (69, 1), (73, 4), (77, 1), (0x400, 0x10), (0x418, 4)] }

/-- The same with a pending notification, and with other bytes of device memory. -/
def queueing2 (lim : Nat) (pend : Bool) (m : Memory → Memory) : State :=
  let s := queueing (some lim)
  { s with jobs := [(1, { job1 with launchq := 0x10000000000, lqLimit := some lim, lqPending := pend })], hbm := m s.hbm }

/-- R350, R351: a notification of a job that is none, of one that is read and of one that is not, with a header that is good and one that
is not, and after a failed boot; entries up to the limit with and without a pending notification, one below the limit, none left, a
malformed header, an entry that cannot be read, and a gang that finds no places. -/
theorem witness_launch_queue :
    let j0 : Job := { job1 with launchq := 0x10000000000, lqPending := true }
    let header (s : State) := queueHeader s 1 { job1 with launchq := 0x10000000000 }
    mget (queueing none).jobs 2 = none ∧ ((mget (queueing (some 2)).jobs 1).all fun j => j.lqLimit != none) = true ∧
    (queueing none).mgmt.error = 0 ∧ (queueHeader (queueing none) 1 j0).1 = some (2, 0, 1) ∧ (queueHeader (queueing none) 1 j0).2.held = none ∧
    (let bad : State := { queueing none with hbm := [(0, 2), (16, 13)] };
      (header bad).1 = none ∧ (header bad).2.held = none) ∧
    (([(2, false, 0), (2, false, 1), (2, true, 1)] : List (Nat × Bool × Nat)).all fun r =>
      let s := queueing2 r.1 r.2.1 fun m => if r.2.2 = 0 then m else memWrite m 8 [1]
      let h := header s
      let q := readMembers 1 (queueEntry 1 { job1 with launchq := 0x10000000000 } 1) (2 - r.2.2) r.2.2 h.2
      let y := northPut (judge (updJob q.2 1 fun j => { j with lqAt := none }) 1 false true q.1).2 1 0x10000000008 8 (r.2.2 + 1)
      (h.1 == some (2, r.2.2, 1) && h.2.held.isNone && (q.1.map fun m => m.addr) == [0x10000000400] && q.2.held.isNone &&
        roomLive h.2 1 && mayJudge q.2 1 q.1 && y.1 && y.2.held.isNone &&
        (header (updJob y.2 1 fun j => { j with lqLimit := none, lqAt := none })).2.held.isNone)) = true ∧
    (let s := queueing2 0 false id; (header s).1 = some (2, 0, 1) ∧ (header s).2.held = none) ∧
    (let s := queueing2 2 false fun m => memWrite m 16 [13]; (header s).1 = none ∧ (header s).2.held = none) ∧
    (let s : State := { queueing2 2 false id with jobs := [(1, { job1 with launchq := 0x10000007FC0, lqLimit := some 2 })],
                                                   hbm := [(0x7FC0, 2), (0x7FD0, 1)] };
      let h := queueHeader s 1 { job1 with launchq := 0x10000007FC0 };
      let q := readMembers 1 (queueEntry 1 { job1 with launchq := 0x10000007FC0 } 1) 2 0 h.2;
      h.1 = some (2, 0, 1) ∧ h.2.held = none ∧ q.1.length = 0 ∧ q.2.held = none) := by decide +kernel

/-- R268: a gang of two that finds one place left. -/
theorem witness_queue_gang :
    let s : State := { queueing2 2 false fun _ => memWrite [(0, 2), (16, 1), (65, 4), (69, 1), (72, 0x40), (73, 4), (77, 1)] 0x400
        (described 0x53 4 ++ described 0x13 2) with launches := (List.range 1023).map fun n => (n + 1, { launch1 with gang := 7 }) }
    let h := queueHeader s 1 { job1 with launchq := 0x10000000000 }
    let q := readMembers 1 (queueEntry 1 { job1 with launchq := 0x10000000000 } 1) 2 0 h.2
    h.1 = some (2, 0, 1) ∧ h.2.held = none ∧ roomLive h.2 1 = true ∧ q.1.length = 2 ∧ q.2.held = none ∧ mayJudge q.2 1 q.1 = false := by
  decide +kernel

/-- A grid launch of four groups. -/
def grid4 : Launch := { launch1 with ext := (4, 1, 1), total := 4, words := [0x10, 0x200, 0, 4, 0, 0, 0, 0] }

/-- R270 to R272: a launch of four groups to deal, none of them returned and with two that were; a gang all of whose groups are placed. -/
theorem witness_dealing :
    ([grid4, { grid4 with next := 3, returned := [2, 0] }, { grid4 with kind := 1, frontier := some { front1 with offered := [2, 1], pending := [1, 2] } }].all fun l =>
      let s : State := { base [] with launches := [(1, l)], cur := { id := 1 } }
      mget s.jobs s.cur.id == some job1 && dealChoice s 1 == some (1, l) && bestPlain s 1 == some 0 && freeCount s 0 != 0 &&
      decide l.returned.Nodup && l.returned.all (· < l.next) == true) = true ∧
    (let s : State := { base [] with launches := [(1, { launch1 with gang := 5 })], cur := { id := 5 } };
      s.cur.id ≠ 0 ∧ gangMembers s 5 ≠ [] ∧
      ∀ p ∈ gangMembers s 5, undealt p.2 = 0 ∧ p.2.started = false ∧ jobHeld s p.2.job = false) := by decide +kernel

/-- R273 to R275, R286: the head batch of plain 0 has a group of a grid, of a card launch, of a started gang without pipes, of one whose
pipes stand, and a later group of one whose pipes do not stand yet; and one of a launch with a code image that can be read, one that
the core has, and one that cannot be read. -/
theorem witness_group_start :
    let gang : Launch := { grid4 with kind := 3, gang := 5, started := true }
    let b : Batch := { prio := 0, seq := 1, groups := [{ launch := 1, lin := 3 }] }
    let of (l : Launch) (e : TlbEnt) : State := { base [] with launches := [(1, l)], plains := [(0, { batches := [b], tlb := [e] })], cur := { id := 0 } }
    let ready (l : Launch) (s : State) : Bool := headBatch s 0 == some b && s.launch? 1 == some l && mget s.jobs l.job == some job1 &&
      (l.gang == 0 || l.started) && (chooseCore s 0 1).isSome && s.upsets == []
    ([grid4, { grid4 with kind := 2 }, gang, { gang with pipes := [handle63], homed := true }, { gang with pipes := [handle63] }] :
      List Launch).all (fun l => ready l (of l leaf5) && dImageLen l.words == 0) = true ∧
    (let l : Launch := { grid4 with words := [0x10, 0x200000200, 0, 4, wordOf 0x10000000000, 0, 0, 0] };
      let image := (dImage l.words, dImageLen l.words)
      let c := (chooseCore (of l leaf5) 0 1).getD 0
      [leaf5, { leaf5 with perms := 0 }].all (fun e => let s := of l e
        ready l s && image.2 != 0 && image.2 ≤ 8192 && (s.core c).lastImage != some image &&
        ready l (s.updCore c fun k => { k with lastJob := 1, lastImage := some image }) &&
        (match (tlbFind (unitPlain s 0).tlb l.job image.1).map fun e => leafCheck s e image.1 .read with
          | some (.ok _) => e == leaf5
          | some (.error _) => e != leaf5
          | none => false)) = true) := by decide +kernel

/-- R271, R278: a core that becomes free; the beginning of a sweep, its reading of a die, and the close of sweeps that found a launch idle,
idle as before, and not idle. -/
theorem witness_free_sweep :
    (let s := stateOf { ready := false };
      s.myCore.group = none ∧ s.myCore.ready = false ∧ coreIdle s.myCore = true) ∧
    (let s : State := { base [] with now := 504 * 2048 };
      s.sweep = none ∧ s.sweepAt < s.ptime / 2048) ∧
    (let w : Sweep := { due := [(0, 0), (1, 9)], found := [(1, (true, 0, 0))] };
      let s : State := { base [] with launches := [(1, { launch1 with sent := [(0, 3)] })], sweep := some w };
      s.sweep = some w ∧ 0 ≤ s.now ∧ (s.launch? 1).isSome = true) ∧
    (([(true, 3, 3, none), (true, 3, 3, some 3), (false, 3, 3, some 3), (true, 3, 2, some 3)] : List (Bool × Nat × Nat × Option Nat)).all fun r =>
      let l := { launch1 with addr := 0x10000000040, sweepSent := r.2.2.2 }
      let w : Sweep := { found := [(1, (r.1, r.2.1, r.2.2.1))] }
      let s : State := { base [] with launches := [(1, l)], sweep := some w, north := { tlb := [leaf5] } }
      s.sweep == some w && s.launches == [(1, l)] && s.upsets == [] && northAtB s 1 0x10000000078 0x78) = true := by decide +kernel

/-! The gang switch. -/

/-- The package control block is on, with every feature. -/
def mgmtOn : Mgmt := { stage := 5, featDone := true, featon := 0x7FF }

/-- A write of a word for unit c, with the features fixed. -/
def writing (w c : Nat) : State := { base [] with mgmt := mgmtOn, cur := { core := c, word := wordOf w } }

/-- R324: a GO of each OP while the block is armed; one that passes every check. -/
theorem witness_gang_arms :
    ([0, 1, 2].all fun op => let s : State := { writing (2 ^ 63 + op * 2 ^ 16 + 1) 0 with gangs := [(0, { state := 1 })] }
      arms s op && goReason s 0 op (s.cur.word.toNat % 256) == some 1) = true ∧
    ([0, 1].all fun op => let s : State := { writing (2 ^ 63 + op * 2 ^ 16 + 1) 0 with gangs := [(0, { time := 70000 })] }
      arms s op && goReason s 0 op 1 == none && s.cur.word.toNat % 256 == 1 && (mget s.jobs ((runningJob s 1).getD 0)).isSome) = true ∧
    (let i : Image := { addr := 0, job := 1, plains := 2, time := 0, cores := [], squares := [], plainSt := [], frontiers := [], msgs := [], replies := [] };
      let s : State := { writing (2 ^ 63 + 2 * 2 ^ 16 + 2) 0 with hbm := memWrite [] 0 (natBytes 32 (imageHeader i)), images := [i] };
      arms s 2 = true ∧ goReason s 0 2 2 = none ∧ (mget s.jobs i.job).isSome = true ∧ memNat s.hbm i.addr 32 = imageHeader i ∧
      goReason { s with images := [] } 0 2 2 = none) := by decide +kernel

/-- R325: the one plain of an armed block, and the last of two. -/
theorem witness_gang_stops :
    (let s : State := { writing 0 0 with gangs := [(0, { state := 1, runPlains := 1, job := 1 })] };
      (maskPlains (s.gang 0).runPlains).contains 0 = true ∧ (s.gang 0).stopTime ≤ plainTime s 0 ∧ relocking s 0 = false ∧
      mget s.jobs 1 = some job1) ∧
    (let s : State := { writing 0 0 with gangs := [(0, { state := 2, runPlains := 3, job := 1, stopped := [1] })]
                                         jobs := [(1, { job1 with stopped := true })] };
      (maskPlains (s.gang 0).runPlains).contains 0 = true ∧ (s.gang 0).stopped.contains 0 = false ∧ (s.gang 0).stopTime ≤ plainTime s 0 ∧ relocking s 0 = false) := by
  decide +kernel

/-- R325 to R328, R337: a save that can end, one with a restore to follow, with a failed unit and with a near-memory command, and a
restore of an image with a message. -/
theorem witness_gang_ends :
    (let s : State := { writing 0 0 with gangs := [(0, { state := 3, runPlains := 1, job := 1 })] };
      (s.gang 0).due ≤ s.now ∧ gangQuiet s (maskPlains 1) = true ∧ (mget s.jobs 1).isSome = true ∧ (s.gang 0).runOp = 0 ∧ s.retireDue = []) ∧
    (let i : Image := { addr := 2 ^ 36, job := 1, plains := 1, time := 0, cores := [], squares := [], plainSt := [], frontiers := [], msgs := [], replies := [] };
      let s : State := { writing 0 0 with gangs := [(0, { state := 3, runPlains := 1, job := 1, runOp := 1, runRest := 2 ^ 36 })], images := [i]
                                          hbm := memWrite [] (2 ^ 36) (natBytes 32 (imageHeader i)) };
      let u : Upset := { kind := 1, unit := 5, addr := 8, lasting := true };
      let q : NearReq := { core := 0, ch := 0, vec := [], vmeta := [], rows := 4, cols := 1, stride := 4, matrix := 0, vptr := 0, dst := 0, nbv2 := false, row := 3 };
      let k : Core := { (base []).core 0 with chans := [(0, { run := some { h := hdr0, opcode := 0x0B, op := .near } })] };
      gangQuiet s (maskPlains 1) = true ∧ (mget s.jobs 1).isSome = true ∧ memNat s.hbm i.addr 32 = imageHeader i ∧
      (s.gang 0).runSave + saveBytes (maskPlains 1).length ≤ i.addr ∧ gangQuiet { s with images := [] } (maskPlains 1) = true ∧
      gangQuiet { s with retireDue := [u] } (maskPlains 1) = true ∧ (maskPlains 1).contains (coreDie u.unit) = true ∧
      gangQuiet { s with cores := [(0, k)], near := [(0, [q])] } (maskPlains 1) = true ∧
      chanRun { s with cores := [(0, k)] } 0 0 = some { h := hdr0, opcode := 0x0B, op := .near }) ∧
    (let i : Image := { addr := 0, job := 1, plains := 2, time := 0, cores := [(2048, coreOf (ctxWith []))], squares := [], plainSt := []
                        frontiers := [(1, front1)]
                        msgs := [(7, storeMsg (.hbm 0) [1] (.going 0))], replies := [] };
      let s : State := { writing 0 0 with gangs := [(0, { state := 4, runPlains := 2, job := 1, slice := 7 })], images := [i]
                                          hbm := memWrite [] 0 (natBytes 32 (imageHeader i)) };
      (s.gang 0).due ≤ s.now ∧ imageToRestore s 0 = some i ∧ (i.cores.map Prod.fst).Nodup ∧ (i.frontiers.map Prod.fst).Nodup ∧ (i.msgs.map Prod.fst).Nodup ∧ s.msgs = [] ∧ s.launch? 1 = some launch1 ∧
      imageToRestore { s with images := [{ i with retired := true }] } 0 = none) := by decide +kernel

/-! Power states. -/

/-- The package writing a word to die d, which is as given. -/
def powering (w d : Nat) (x : Die) : State := { writing w d with dies := [(d, x)] }

/-- R331: a slower and a faster target of a steady die, one during a relock; widths of a steady die, in a ramp that follows a relock, in a
relock and in a ramp before one. -/
theorem witness_targets :
    (([(5, {}), (2, { target := 5, current := 5, milliv := 560 }), (2, { target := 5, current := 0, change := some (.relock 9 5 true) })] :
      List (Nat × Die)).all fun r => let s := powering r.1 2 r.2
        writesPower s && !asksWidth s 2 s.cur.word && !dpGate s.cur.word && !dpUngate s.cur.word && r.1 != (s.die 2).target &&
        (steady (s.die 2) || (s.die 2).change != none)) = true ∧
    (([{}, { change := some (.ramp 9 0) }, { change := some (.relock 9 0 true) }, { current := 5, change := some (.ramp 9 0) }] :
      List Die).all fun x => let s := powering 0x10 2 x
      writesPower s && asksWidth s 2 s.cur.word && !dpGate s.cur.word && !dpUngate s.cur.word && (s.die 2).target == 0 &&
      !(s.die 2).throttling && (steady (s.die 2) || (s.die 2).change != none)) = true := by decide +kernel

/-- R161: loads by key 3 and by key 15 of granules with tag 3 and 15, of one untagged, and across two; a queued store and one that arrives
with key 3 and key 0; no tag is above 15. -/
theorem witness_keys :
    ([0, 3, 15].all fun key => (loadRows 1 2 3 0 0 0).all fun r =>
      let s := tagged [(2, wordOf (key * 2 ^ 52 + 0x410))]
      issues r.1 s && quietCore s && trapsPlainly s && localAt (s.me.getX 2) r.2.1 r.2.2.1 == some 0x410 &&
      granulesMatch s.myCore 0x410 r.2.2.1 key == (key == 3)) = true ∧
    (∀ g : Nat, mgetD (tagged []).myCore.tags g 0 < 16) ∧
    (∀ e ∈ [queued 8 3 false, queued 8 0 false],
      let s := stateOf { coreOf (ctxWith []) with tags := [(0x20, 3)], storeQ := [e] }
      headReady s e 0x400 8 = true ∧ quietCore s = true ∧ granulesMatch s.myCore 0x400 8 e.key = (e.key == 3)) ∧
    (∀ key ∈ [0, 3],
      let m := { storeMsg (.spad 0 0x400) [1] (.going 0) with key := key }
      let s : State := { tagged [] with msgs := [(5, m)], cur := { id := 5 } }
      quietAt s 0 = true ∧ message s = some m ∧ reaches s m 0 = true ∧ granulesMatch (s.core 0) 0x400 1 m.key = (key == 3)) := by
  refine ⟨by decide +kernel, fun g => ?_, by decide +kernel, by decide +kernel⟩
  have m : mgetD (tagged []).myCore.tags g 0 = mgetD [(0x20, 3)] g 0 := by simp [tagged, stateOf, State.myCore, State.core, mgetD, mget]
  rw [m, mgetD, mget, mget]
  split <;> simp

/-- R331, R332: changes that end, one with a width that waits for it, and power that is back. -/
theorem witness_changes_end : ([{ current := 5, target := 3, change := some (.ramp 0 3) }, { current := 3, target := 3, change := some (.ramp 0 3) },
      { current := 3, target := 3, wantWidth := true, change := some (.ramp 0 3) },
      { current := 5, target := 3, change := some (.relock 0 3 false) }, { target := 3, change := some (.relock 0 3 true) },
      { target := 3, wantWidth := true, change := some (.relock 0 3 true) }, { target := 2, wantWidth := true, change := some (.relock 0 3 false) },
      { linkw := 1, wnext := 1, wchange := some 0 }, { gated := true, ungate := some 0 }] : List Die).all (fun x =>
        (powering 0 2 x).die 2 == x && !x.throttling) = true := by decide +kernel

/-- R332: a GATE of a plain without work, of a plain in a partition, of a valley die and of the north pass die; an UNGATE. -/
theorem witness_gating :
    ([(2, true), (0, false), (9, true), (10, false)].all fun r => let s := powering 0x100 r.1 {}
      writesPower s && (s.die r.1).target == 0 && !asksWidth s r.1 s.cur.word && dpGate s.cur.word && !dpUngate s.cur.word &&
      steady (s.die r.1) && gateOk s r.1 == r.2) = true ∧
    (let s := powering 0x200 2 { gated := true };
      (writesPower s && dpUngate s.cur.word && !dpGate s.cur.word && !asksWidth s 2 s.cur.word && featureOn s 9 && (s.die 2).ungate == none &&
        (s.die 2).target == 0) = true) := by decide +kernel

/-- R355: readings at the bounds, and steps of a throttled die at and below LIMIT less 5. -/
theorem witness_thermal : ([719, 720, 760, 761, 879, 880].all fun r => let s := writing r 2
      decide (s.cur.core < 12) && s.cur.word.toNat % 2 ^ 12 == r && s.mgmt.limit == 95 && s.mgmt.crit == 110) = true ∧
    ([719, 720].all fun t => ((powering 0 2 { throttling := true, temp := t }).die 2).throttling) = true := by decide +kernel

/-- R335, R336: a GO without plains; a GO of one of two plains that has a group of a launch to start and one of a frontier launch; drained
plains; and a removal, with GATE and without. -/
theorem witness_shrink :
    let two : Map Job := [(1, { job1 with partition := 3, vdtlo := 0x8180 })]
    (let s : State := { writing (2 ^ 63 + 2 ^ 8) 0 with jobs := two };
      featureOn s 8 = true ∧ 2 ^ 63 ≤ s.cur.word.toNat ∧ shrinkReason s 1 0 = some 2) ∧
    (let b : Batch := { prio := 0, seq := 1, groups := [{ launch := 1, lin := 3 }, { launch := 2, lin := 0 }] };
      let s : State := { writing (2 ^ 63 + 2 ^ 8 + 2) 0 with
        jobs := two, plains := [(1, { batches := [b] })], launches := [(1, { grid4 with running := 1 }), (2, flaunch front1 0)] };
      featureOn s 8 = true ∧ 2 ^ 63 ≤ s.cur.word.toNat ∧ shrinkReason s 1 2 = none ∧ s.launch? 1 = some { grid4 with running := 1 } ∧
      s.launch? 2 = some (flaunch front1 0)) ∧
    (let s : State := { writing 0 0 with jobs := two, shrink := { phase := 1, runJob := 1, runRemove := 2 } };
      jobStopped s 1 = false ∧ ∀ d ∈ maskPlains 2, plainWorks s 1 d = false) ∧
    (∀ g ∈ [true, false],
      let s : State := { writing 0 0 with jobs := two, shrink := { phase := 2, runJob := 1, runRemove := 2, runGate := g } };
      jobStopped s 1 = false ∧ s.retireDue = [] ∧ keepsHome s 1 (maskPlains 2) = false ∧ featureOn s 9 = true ∧ (s.die 1).gated = false ∧
      homeOfAny s 1 = false ∧ vdtEntry s 1 1 = some 1 ∧ (∀ j ∈ s.jobs, j.1 ≠ 1 → j.2.partition.getLsbD 1 = false) ∧
      goesOn (exec .shrinkComplete s) = true) := by decide +kernel

/-! Failures, reset and boot, the host. -/

/-- R169, R289, R339, R343, R344, R363: plain 0 not retired; the counts can be read, or the registers do not respond. -/
theorem witness_counts :
    (let s := writing 0 0
     s.cur.core < 8 ∧ (s.plain 0).retired = false ∧ s.retireDue = [] ∧ s.upsets = [] ∧ s.mgmt.featDone = true ∧ s.mgmt.error = 0 ∧ responds s 0x040 = true ∧
     responds s 0x3608 = true ∧ responds s 0x3848 = true ∧ portCarries s 0 (s.sport 0) = false ∧ (s.sport 0).harvest < 16 ∧
     (s.sport 0).resends < 2 ^ 16 ∧ (s.uport 0).resends < 2 ^ 16 ∧ (s.uport 0).speed < 4) ∧
    (let s : State := { writing 0 0 with mgmt := { stage := 2, error := 2 } };
     s.mgmt.featDone = false ∧ responds s 0x040 = false ∧ responds s 0x3608 = false ∧ responds s 0x3848 = false) := by decide +kernel

/-- R337: transient and lasting failures of a scratchpad word that a load meets, and of a word of device memory that a message reads and
writes, with spare rows left and none. -/
theorem witness_words_fail :
    (∀ l ∈ [true, false],
      let u : Upset := { kind := 1, unit := 0, addr := 0x404, lasting := l }
      let p := pend5 (.loc (.load 0x400 8 true .plain) 0) none
      let s : State := { pendState p with upsets := [u] }
      findPend s.me 5 = some p ∧ mayLand p s = true ∧ turnComes s p = true ∧ inPartition s 0 = true ∧ s.me.trap = none ∧
      s.me.halted = false) ∧
    (∀ l ∈ [true, false], ∀ n ∈ [0, 64],
      let u : Upset := { kind := 3, unit := 0, addr := 0x404, lasting := l }
      let m := { storeMsg (.hbm 0x400) [] (.going 0) with act := .load 8 false }
      let s : State := { msgState m with upsets := [u], spares := [(1, n)] }
      message s = some m ∧ msgReady s 5 m = true ∧ paMapped s 0x400 = true ∧ sparesUsed s u.addr = n) ∧
    (let m := storeMsg (.hbm 0x400) (List.replicate 8 1) (.going 0)
     let s : State := { msgState m with upsets := [{ kind := 3, unit := 0, addr := 0x404, lasting := true }] }
     message s = some m ∧ msgReady s 5 m = true ∧ paMapped s 0x400 = true) := by decide +kernel

/-- R341, R351: the stages that end without an image, and their errors; the trainings and an error of the link. -/
theorem witness_boot :
    ([0, 3, 4].all fun n => let s : State := { State.reset with mgmt := { stage := n, linkMode := 1 } }
      s.mgmt.stage == n && s.mgmt.error == 0 && !s.cur.flag) = true ∧
    (([(0, 1), (3, 4), (4, 5)] : List (Nat × Nat)).all fun p =>
      let s : State := { State.reset with mgmt := { stage := p.1 }, cur := { flag := true, word := wordOf p.2 } }
      s.mgmt.stage == p.1 && s.mgmt.error == 0 && s.cur.flag && s.cur.word.toNat == p.2) = true ∧
    (let s : State := { State.reset with mgmt := { stage := 4 } };
      s.mgmt.linkMode = 0 ∧ linkOutcome 3 2 1 = true ∧ linkOutcome 1 4 16 = true ∧
      (wordOf (4 * 3 + 32 * 2 + 256 * 1)).toNat = 4 * 3 + 32 * 2 + 256 * 1) := by decide +kernel

/-- R352: an image of each of the two stages. -/
theorem witness_images : ([1, 2].all fun n =>
      let f : Firmware := { body := [1, 2, 3], svn := 4, key := List.replicate 64 5, r := 6, s := 7 }
      let s : State := { State.reset with mgmt := { stage := n }, cur := { fw := some f } }
      s.mgmt.stage == n && s.mgmt.error == 0 && s.cur.fw == some f && f.key.length == 64) = true := by decide +kernel

/-- R342, R344: a range of CXL.mem and an aperture that are mapped, and addresses that nothing decodes. -/
theorem witness_host :
    (let s : State := { writing 0x40 0 with mgmt := { mgmtOn with linkMode := 1, hdmEnable := true } };
      s.upsets = [] ∧ hostPa s false = some 0x40 ∧ bytesMapped s 0x40 2 = true ∧
      hostPa { s with cur := { word := wordOf (2 ^ 40) } } false = none) ∧
    (∀ l ∈ [true, false], let s : State := { writing 0x40 0 with
          mgmt := { mgmtOn with linkMode := 1, hdmEnable := true }, upsets := [{ kind := 3, unit := 0, addr := 0x44, lasting := l }]
          cur := { word := wordOf 0x40, id := 8 } }
        hostPa s false = some 0x40 ∧ bytesMapped s 0x40 8 = true ∧ s.cur.bytes = none) ∧
    (let s : State := { writing 0 0 with mgmt := { mgmtOn with linkMode := 2, apBase := 0xFF } };
      hostPa s true = some (0xFF * 2 ^ 32) ∧ bytesMapped s (0xFF * 2 ^ 32) 2 = false) ∧
    (let s : State := { writing 0x40 0 with mgmt := { mgmtOn with linkMode := 2 } };
      hostPa s true = some 0x40 ∧ bytesMapped s 0x40 2 = true ∧ s.cur.word.toNat < 2 ^ 32) := by decide +kernel

/-! The window and the control block. -/

/-- R347: features 0 to 10, one that is not offered, and features that are fixed. -/
theorem witness_features :
    (∀ f ∈ [({} : Fuses), { offer := 0x3FF }], let s : State := { writing 1 0 with mgmt := { stage := 5, featreq := 0x7FF }, fuses := f }
      s.cur.word.getLsbD 0 = true ∧ responds s 0x028 = true ∧ s.mgmt.featDone = false ∧ s.mgmt.featreq.testBit 10 = true) ∧
    (({} : Fuses).offer = 0x7FF ∧ (0x3FF : Nat).testBit 10 = false) ∧ (writing 1 0).mgmt.featDone = true ∧
      responds (writing 1 0) 0x028 = true ∧ responds State.reset 0x028 = true := by decide +kernel

/-- A record of job 2 on plain 1 at physical address 0x40 (R306). -/
def record2 : Memory := memWrite [] 0x40 (natBytes 16 (2 + 2 * 2 ^ 8 + 2 ^ 64 * 0x81))

/-- R348: a good record, one whose plain is in use, and the removal of a job and of none. -/
theorem witness_jobs :
    let good (s : State) : Bool :=
      let pa := s.cur.word.toNat / 2 ^ 6 % 2 ^ 34 * 64
      let w := (List.range 8).map fun k => memNat s.hbm (pa + 8 * k) 8
      paMapped s pa && recordOk s w && (mget s.jobs (w.getD 0 0 % 64)).isNone &&
        (maskPlains (w.getD 0 0 / 2 ^ 8 % 2 ^ 8)).all fun p => !inPartition s p
    let s : State := { writing (2 ^ 63 + 0x40) 0 with hbm := record2 }
    (s.upsets = [] ∧ s.retireDue = [] ∧ jobctl s 0 = true ∧ good s = true) ∧
    (jobctl s 0 = true ∧ good { s with jobs := [(1, { job1 with partition := 2 })] } = false) ∧
    ([1, 2].all fun n => let s := writing (2 ^ 63 + 2 ^ 62 + n * 2 ^ 40) 0
      jobctl s 1 && s.shrink.phase == 0 && s.cur.word.toNat / 2 ^ 40 % 64 == n && (mget s.jobs n).isSome == (n == 1)) = true := by
  decide +kernel

/-- R345, R353, R354: the registers respond; a status bit 3 whose mask is set, with MSI-X enabled and not, and no status bit; the
operations of ATTCTL; series of pulses; a TEMPLIM that a die exceeds, and a UECTL that changes; registers that do not respond. -/
theorem witness_window :
    (∀ en ∈ [true, false], let s : State := { writing 8 0 with mgmt := { mgmtOn with intstat := 8, msixEnable := en } }
      responds s 0x0F8 = true ∧ s.mgmt.msixEnable = en ∧ s.mgmt.intstat &&& s.cur.word.setWidth 13 = BitVec.ofNat 13 (2 ^ 3) ∧
      msixMasked s.mgmt 3 = true ∧ msixMasked { s.mgmt with msix := [(7, 0)] } 3 = false) ∧
    (responds (writing 8 0) 0x0F8 = true ∧ (writing 8 0).mgmt.intstat &&& (writing 8 0).cur.word.setWidth 13 = 0) ∧
    ([1, 2].all fun op => let s := writing (2 ^ 63 + op) 0
      responds s 0x100 && s.mgmt.stage == 5 && s.cur.word.getLsbD 63 && Machine.bitsOf s.cur.word 1 0 == op && s.mgmt.attBusy.isNone) = true ∧
    responds (writing 0 0) 0x048 = true ∧ nextPulse 5 10 7 = some 15 ∧
    (csrRows.all fun row => [(false, 2 ^ 63), (true, 2 ^ 63 + 2 ^ 62)].all fun r => let s := writing (r.2 + row.1) 0
      portGo s r.1 && s.cur.word.toNat % 2 ^ 12 == row.1 && s.cur.word.toNat / 2 ^ 32 % 2 ^ 14 == 0 && (s.core 0).late == [] && featureOn s 4) = true ∧
    (let s : State := { writing (2 ^ 63) 0 with mgmt := { mgmtOn with featon := 0x7EF } }; featureOn s 4 = false ∧ portGo s true = false ∧
      portGo { s with cur := { word := wordOf (2 ^ 63 + 2 ^ 62) } } true = true) ∧
    (windowRows.all fun row => responds (writing 5 0) row.1) = true ∧
    (let s : State := { writing (2 ^ 8 * 50 + 40) 0 with dies := [(11, { temp := 400 })], cur := { word := wordOf (2 ^ 8 * 50 + 40), id := 0x058 } };
      responds s 0x058 = true ∧ 8 * (s.cur.word.toNat / 2 ^ 8 % 2 ^ 8) ≤ (s.die 11).temp ∧ 8 * (s.cur.word.toNat % 2 ^ 8) < (s.die 11).temp) ∧
    (let s : State := { writing 1 0 with cur := { word := 1, id := 0x3840 + 16 * 7 } };
      responds s (0x3840 + 16 * 7) = true ∧ s.cur.word.getLsbD 0 ≠ (s.uport 7).down) ∧ responds State.reset 0x048 = false := by decide +kernel

/-! Ports and other packages. -/

/-- R363, R364: a change of a port, its return, a retry, an error of a lane, a message that left by a port that is down. -/
theorem witness_port_events :
    (let s := writing 1 0;
      responds s 0x3600 = true ∧ s.cur.word.toNat % 8 ≠ (s.sport 0).ctl) ∧
    (let x : SPort := { up := true, found := true, resumeAt := some 0, retryAt := some 0 };
      let s : State := { writing 0 0 with ports := [(0, x)] };
      s.sport 0 = x ∧ (s.die 11).gated = false ∧ s.cur.slot < 4) ∧
    (let s : State := { writing 0 (36 + 7) with ueports := [(7, { resumeAt := some 0 })] };
      s.cur.core = 36 + 7 ∧ (s.uport 7).resumeAt = some 0) ∧
    (let m : Msg := { issuer := .ctx 0 0 0 5, act := .load 8 false, home := .fabric (5 * 2 ^ 42), va := 0, job := 1, phase := .going 0 };
      let s : State := { msgState m with mgmt := { mgmtOn with inDomain := true, fjob := [(1, 2 ^ 63 + 7)] }
                                         ports := [(0, { up := true }), (1, {})] };
      message s = some m ∧ outbound s m = true ∧ (s.sport 0).up = true ∧ (s.ports.filter (·.2.up)).map Prod.fst = [0] ∧
      message { s with msgs := [(5, { m with cut := true })] } = some { m with cut := true } ∧ outbound s { m with cut := true } = true) := by decide +kernel

/-- R364: a message to another package leaves by the one port that is up. -/
theorem witness_out_port (s : State) (id : Nat) (f : Nat) (far : f / 2 ^ 42 % 2 ^ 9 ≠ 0x1FF)
    (one : (s.ports.filter (·.2.up)).map Prod.fst = [0]) : outPort s id (.fabric f) = 0 := by
  have far' : (f / 2 ^ 42 % 2 ^ 9 == 0x1FF) = false := by simpa using far
  simp only [outPort, far', one]
  simp [Nat.mod_one]

/-- R358, R365: stores of a tag that job 1 holds and of one that none holds, for a running and a stopped job; refused messages. -/
theorem witness_foreign :
    ([7, 8].all fun tag => [true, false].all fun stop =>
      let f : FabMsg := { tag := tag, fpa := 0, key := 0, flag := none, act := .store [1] }
      let s : State := { writing 0 0 with mgmt := { mgmtOn with fjob := [(1, 2 ^ 63 + 7)] }, ports := [(0, { up := true })]
                                          jobs := [(1, { job1 with stopped := stop })], cur := { fab := some f } }
      s.cur.fab == some f && brings s 0 && jobOfTag s tag == (if tag = 7 then some 1 else none) && jobStopped s 1 == stop &&
      !ingressFull s 0) = true ∧
    (let m : Msg := { issuer := .foreign, act := .store [1], home := .fabric 0, va := 0, job := 1, phase := .refused 0 0 };
      message (msgState m) = some m ∧ jobStopped (msgState m) 1 = false ∧ ingressFull (msgState m) 0 = false ∧
      jobStopped { msgState m with jobs := [] } 1 = true) := by decide +kernel

/-- A package whose ingress store of port die 0 has n messages besides those it has. -/
def ingress (n : Nat) (s : State) : State :=
  { s with msgs := s.msgs ++ (List.range n).map fun k => (100 + k, { issuer := .foreign, act := .store [], home := .fabric 0, va := 0
                                                                     phase := .held 0 }) }

/-- So many that it refuses a further one. -/
theorem ingress_full (n : Nat) (s : State) (h : 838860 ≤ n) : ingressFull (ingress n s) 0 = true := by
  have len : ∀ l : List Nat, ((l.map fun k => ((100 + k, { issuer := .foreign, act := .store [], home := .fabric 0, va := 0
                                                           phase := .held 0 }) : Nat × Msg)).filter
      fun m => m.2.phase == .held 0).length = l.length := by
    intro l
    induction l with
    | nil => rfl
    | cons a l ih => simpa [List.filter_cons] using ih
  have := len (List.range n)
  simp only [ingressFull, ingressBytes, ingress, List.filter_append, List.length_append, this, List.length_range, decide_eq_true_eq]
  omega

/-- R365: a store of a stopped job, and a refused message, at a full ingress store. -/
theorem witness_full_ingress :
    let f : FabMsg := { tag := 7, fpa := 0, key := 0, flag := none, act := .store [1] }
    let s : State := { writing 0 0 with mgmt := { mgmtOn with fjob := [(1, 2 ^ 63 + 7)] }, ports := [(0, { up := true })]
                                        jobs := [(1, { job1 with stopped := true })], cur := { fab := some f } }
    let m : Msg := { issuer := .foreign, act := .store [1], home := .fabric 0, va := 0, job := 1, phase := .refused 0 0 }
    (s.cur.fab = some f ∧ brings (ingress 838860 s) 0 = true ∧ jobOfTag (ingress 838860 s) 7 = some 1 ∧
      jobStopped (ingress 838860 s) 1 = true ∧ ingressFull (ingress 838860 s) 0 = true) ∧
    message (ingress 838860 (msgState m)) = some m ∧ ingressFull (ingress 838860 (msgState m)) 0 = true := by
  refine ⟨⟨by decide +kernel, by decide +kernel, by decide +kernel, by decide +kernel, ingress_full _ _ (Nat.le_refl _)⟩,
    by decide +kernel, ingress_full _ _ (Nat.le_refl _)⟩

/-! The machine as a whole. -/

/-- R39 to R54: well-formed instructions with words, bytes that decode, commands and words that are none. -/
theorem witness_round_trip : ((specWordsA ++ specWordsLong.map fun (r : Nat × Nat × Nat × Nat × Instr) => (0, r.2.2.2.2)).all fun (r : Nat × Instr) =>
      encode r.2 != [] && wellFormed r.2 && match decodeBytes (encodeBytes r.2) with
        | .ok (j, _) => j == r.2
        | .error _ => false) = true ∧
    (match decodeCmd 3 (eq3Entry (.kcard hdr0)).word with
      | .ok i => i == .kcard hdr0
      | .error _ => false) = true ∧ opcodeListed 0 (0x60#256).toNat = false := by decide +kernel

/-- R75, R76, R147: core 0 issues an ADD. -/
theorem witness_step_runs :
    let s := { stateOf (coreOf { ctxWith [] with fbuf := encodeBytes (.add (.x 1) (.x 2) (.x 3)) }) with todo := [.issue 0] }
    s.halt = false ∧ (s.core 0).stopped = false ∧ issuer s 0 = some 0 ∧
    (match decodeBytes (s.ctx 0 0).fbuf with
      | .ok (i, n) => i == .add (.x 1) (.x 2) (.x 3) && n == 4
      | .error _ => false) = true := by decide +kernel

/-- R355: a core that can be freed is a candidate; a machine at rest; a machine whose clocks have stopped. -/
theorem witness_step_units :
    (let s : State := { stateOf { ready := false } with todo := [.control] };
      let on (y : Cand) : State := { s with cur := y.cur, todo := if y.stays then [.control] else [] };
      ((candidates s .control).find? fun y => goesOn (exec y.instr (on y))).isSome = true ∧
      ((candidates s .control).all fun y => match exec y.instr (on y) with
        | .fault _ => false
        | _ => true) = true) ∧
    (State.reset.halt = false ∧ State.reset.todo = [] ∧ State.reset.inputs = []) ∧
    resetNext { State.reset with halt := true } = false := by decide +kernel

/-- The reset state has its memories in canonical form, and steps on; x1 is not x0. -/
theorem witness_invariant :
    State.reset.memoriesWf = true ∧ goesOn (step State.reset) = true ∧ (1 : Fin 48) ≠ 0 := by decide +kernel

/-- R55, R241: a TLDA whose stride is below a row fails with status 2 and leaves its buffer unloaded. -/
theorem test_stride_below_row :
    nextIs (exec (.tlda hdr0 (fat 1 0 0 0x400) 127 3) (arrState (.tlda hdr0 (fat 1 0 0 0x400) 127 3) [] id))
      (fun t => t.myCore.bufA == none && (sq0 t).runs.any fun r => r.status == 2) = true := by decide +kernel

end Sys2Proof.Tests
end

