-- ==== Sys2Proof/Proofs/Scope.lean ====
section
/-! PROOFS. The machine right after module reset, the boot stages with their images, and the host's link (spec/00). -/

namespace Sys2Proof.Machine

/-! General lemmas. -/

/-- What holds of the default and of every entry of a map holds of what a look-up gives. -/
theorem mgetD_forall {α : Type} {P : α → Prop} (m : Map α) (k : Nat) (d : α) (hd : P d) (hm : ∀ p ∈ m, P p.2) :
    P (mgetD m k d) := by
  induction m with
  | nil => exact hd
  | cons p r ih =>
    obtain ⟨a, v⟩ := p
    obtain ⟨hv, hr⟩ := List.forall_mem_cons.mp hm
    by_cases hk : a = k
    · simpa [mgetD, mget, hk] using hv
    · simpa [mgetD, mget, hk] using ih hr

/-- An event whose condition holds has its effect. -/
theorem event_of {on : Bool} (h : on = true) (s : State) : event on s = .next s := by simp [event, h]

/-! The parts of the reset state. -/

@[simp] theorem State.core_reset (c : Nat) : State.reset.core c = {} := rfl
@[simp] theorem State.ctx_reset (c t : Nat) : State.reset.ctx c t = {} := rfl
@[simp] theorem State.square_reset (q : Nat) : State.reset.square q = {} := rfl
@[simp] theorem reset_coreJob (c : Nat) : coreJob State.reset c = 0 := rfl

/-- R188: with no group anywhere, no neighbour is resident for one's launch. -/
@[simp] theorem reset_linkPresent (c : Nat) (d : Dir) : linkPresent State.reset c d = false := by
  unfold linkPresent
  cases neighbour c d <;> rfl

@[simp] theorem reset_lnstat (c : Nat) : lnstat State.reset c = 0 := by
  simp [lnstat, mgetD, b2n]

/-! The registers of the reset state (R11). -/

/-- After reset only CTXNUM tells one slot of one core from another. -/
theorem reset_csrPeek_slot (c t : Nat) {n : Nat} (h : n ≠ 0x002) :
    csrPeek State.reset c t n = csrPeek State.reset 0 0 n := by
  simp only [csrPeek, State.core_reset, State.ctx_reset, State.square_reset, reset_coreJob, reset_lnstat]
  split
  case h_3 => exact absurd rfl h
  all_goals rfl

/-- Numbers above those of the table read zero, in any state. -/
theorem csrPeek_above_table (s : State) (c t : Nat) {n : Nat} (h : 0x053 < n) : csrPeek s c t n = 0 := by
  unfold csrPeek
  split
  case h_62 => rfl
  all_goals omega

theorem reset_csrPeek_listed : ∀ row ∈ resetCsrs, row.1 ≠ 0x002 ∧ csrPeek State.reset 0 0 row.1 = row.2 := by decide

theorem reset_csrPeek_unlisted :
    ∀ n < 0x054, n ∉ resetCsrs.map Prod.fst → n ≠ 0x002 → csrPeek State.reset 0 0 n = 0 := by decide

/-- Settles O58: the registers of one slot are evaluated, and those of every other slot read alike. -/
theorem resetState : Obligations.ResetState := by
  unfold Obligations.ResetState
  refine ⟨fun row hrow c t => ?_, fun c t n hn h2 => ?_, fun c t => ⟨rfl, rfl, rfl, rfl⟩, fun d => ⟨rfl, rfl, rfl, rfl⟩,
    rfl, rfl, rfl, rfl, rfl, rfl, rfl, rfl, rfl, rfl, rfl, rfl, rfl⟩
  · obtain ⟨hne, hval⟩ := reset_csrPeek_listed row hrow
    rw [reset_csrPeek_slot c t hne, hval]
  · by_cases hlt : n < 0x054
    · rw [reset_csrPeek_slot c t h2, reset_csrPeek_unlisted n hlt hn h2]
    · exact csrPeek_above_table _ c t (by omega)

/-! Module reset (R11, R351). -/

/-- A plain that a module reset leaves is one retired for good, without translations and queues. -/
theorem retiredPlains_empty (plains : Map Plain) (p : Nat) :
    let x := mgetD (plains.filterMap fun q => if q.2.retired then some (q.1, ({ retired := true } : Plain)) else none) p {}
    x.tlb = [] ∧ x.queues = [] := by
  refine mgetD_forall (P := fun x : Plain => x.tlb = [] ∧ x.queues = []) _ p {} ⟨rfl, rfl⟩ fun q hq => ?_
  obtain ⟨r, -, hr⟩ := List.mem_filterMap.mp hq
  obtain ⟨-, hq⟩ := Option.ite_none_right_eq_some.mp hr
  cases hq
  exact ⟨rfl, rfl⟩

theorem resetResets : Clause.ResetResets := fun s =>
  ⟨_, rfl, rfl, rfl, rfl, rfl, rfl, rfl, rfl, rfl, rfl, rfl, rfl, rfl, rfl, rfl, rfl, rfl, rfl,
    fun p => retiredPlains_empty s.plains p⟩

/-! What an event of the package leaves of its management registers. -/

@[simp] theorem Mgmt.signal_stage (m : Mgmt) (e : Nat) : (m.signal e).stage = m.stage := by
  simp only [Mgmt.signal, apply_ite Mgmt.stage, ite_self]

@[simp] theorem Mgmt.signal_error (m : Mgmt) (e : Nat) : (m.signal e).error = m.error := by
  simp only [Mgmt.signal, apply_ite Mgmt.error, ite_self]

@[simp] theorem Mgmt.signal_intstat (m : Mgmt) (e : Nat) : (m.signal e).intstat = m.intstat := by
  simp only [Mgmt.signal, apply_ite Mgmt.intstat, ite_self]

@[simp] theorem raiseIrq_cores (s : State) (e : Nat) : (raiseIrq s e).cores = s.cores := rfl

@[simp] theorem raiseIrq_stage (s : State) (e : Nat) : (raiseIrq s e).mgmt.stage = s.mgmt.stage := by
  simp only [raiseIrq, apply_ite Mgmt.stage, Mgmt.signal_stage, ite_self]

@[simp] theorem raiseIrq_error (s : State) (e : Nat) : (raiseIrq s e).mgmt.error = s.mgmt.error := by
  simp only [raiseIrq, apply_ite Mgmt.error, Mgmt.signal_error, ite_self]

@[simp] theorem raiseIrq_intstat (s : State) (e : Nat) :
    (raiseIrq s e).mgmt.intstat = s.mgmt.intstat ||| BitVec.ofNat 13 (2 ^ e) := by
  simp only [raiseIrq, apply_ite Mgmt.intstat, Mgmt.signal_intstat, ite_self]

/-! What a boot stage does, by its outcome (R351). -/

/-- The state of a boot that stops in its stage with an ERROR code. -/
def bootStopped (s : State) (code : Nat) : State := raiseIrq { s with mgmt := { s.mgmt with error := code } } 0

@[simp] theorem bootStopped_stage (s : State) (code : Nat) : (bootStopped s code).mgmt.stage = s.mgmt.stage := by
  simp [bootStopped]
@[simp] theorem bootStopped_error (s : State) (code : Nat) : (bootStopped s code).mgmt.error = code := by
  simp [bootStopped]
@[simp] theorem bootStopped_cores (s : State) (code : Nat) : (bootStopped s code).cores = s.cores := rfl

/-- A stage that ends well leads to the next. -/
theorem exec_bootStageComplete_well {s : State} (hs : s.mgmt.stage < 5) (he : s.mgmt.error = 0)
    (ho : stageOutcome s = some 0) : exec .bootStageComplete s = .next (nextStage s) := by
  change execBootStageComplete s = _
  rw [execBootStageComplete, ho]
  exact event_of (by simp [hs, he]) _

/-- A stage that fails stops the boot. -/
theorem exec_bootStageComplete_failed {s : State} {code : Nat} (hs : s.mgmt.stage < 5) (he : s.mgmt.error = 0)
    (ho : stageOutcome s = some code) (hc : code ≠ 0) : exec .bootStageComplete s = .next (bootStopped s code) := by
  change execBootStageComplete s = _
  obtain ⟨k, rfl⟩ := Nat.exists_eq_succ_of_ne_zero hc
  rw [execBootStageComplete, ho]
  exact event_of (by simp [hs, he]) _

/-- The stages without an image end as their hardware finds (R351). -/
theorem stageOutcome_of_no_image {s : State} (h1 : s.mgmt.stage ≠ 1) (h2 : s.mgmt.stage ≠ 2) :
    stageOutcome s =
      if s.cur.flag then (if (stageErrors s.mgmt.stage).contains s.cur.word.toNat then some s.cur.word.toNat else none)
      else if s.mgmt.stage = 4 ∧ s.mgmt.linkMode = 0 then none
      else some 0 := by
  simp [stageOutcome, h1, h2]

/-- Stages 1 and 2 end as the verification of their image says (R352). -/
theorem stageOutcome_of_image {s : State} {f : Firmware} (h : s.mgmt.stage = 1 ∨ s.mgmt.stage = 2) (hf : s.cur.fw = some f) :
    stageOutcome s = some (imageError f) := by
  simp [stageOutcome, h, hf]

@[simp] theorem nextStage_cores (s : State) : (nextStage s).cores = s.cores := by
  simp only [nextStage, apply_ite State.cores, raiseIrq_cores, portsTrain, ite_self]

/-- What a stage keeps of its image is neither its number nor its ERROR code. -/
@[simp] theorem nextStage_stage (s : State) : (nextStage s).mgmt.stage = s.mgmt.stage + 1 := by
  unfold nextStage
  cases s.cur.fw <;> simp only [apply_ite State.mgmt, apply_ite Mgmt.stage, raiseIrq_stage, portsTrain, measured, ite_self]

@[simp] theorem nextStage_error (s : State) : (nextStage s).mgmt.error = s.mgmt.error := by
  unfold nextStage
  cases s.cur.fw <;> simp only [apply_ite State.mgmt, apply_ite Mgmt.error, raiseIrq_error, portsTrain, measured, ite_self]

/-- The package reports by interrupt 0 that it is ready (R351). -/
theorem nextStage_intstat_of_last {s : State} (h : s.mgmt.stage = 4) : (nextStage s).mgmt.intstat.getLsbD 0 = true := by
  unfold nextStage
  cases s.cur.fw <;> simp [h, portsTrain]

/-- A stage with an image keeps the image's digest as its measurement (R352). -/
theorem nextStage_measures_of_image {s : State} {f : Firmware} (h : s.mgmt.stage = 1 ∨ s.mgmt.stage = 2)
    (hf : s.cur.fw = some f) : mgetD (nextStage s).mgmt.measures s.mgmt.stage 0 = imageDigest f := by
  have h4 : s.mgmt.stage ≠ 4 := by omega
  have h3 : s.mgmt.stage ≠ 3 := by omega
  have hkept : (nextStage s).mgmt.measures = (measured s.mgmt f).measures := by
    simp only [nextStage, hf, h, if_true, measured, h4, if_false]
  rw [hkept, measured, mgetD_mset_ne _ _ _ h3, mgetD_mset_self]

/-! The stages without an image (R341, R351). -/

/-- The codes of the clause are those of the stage's table, and none is 0. -/
theorem stageErrors_of_mem {n code : Nat} (h : (n, code) ∈ [(0, 1), (3, 4), (4, 5)]) :
    (stageErrors n).contains code = true ∧ code ≠ 0 := by
  simp only [List.mem_cons, Prod.mk.injEq, List.not_mem_nil, or_false] at h
  obtain ⟨rfl, rfl⟩ | ⟨rfl, rfl⟩ | ⟨rfl, rfl⟩ := h <;> decide

theorem bootStages : Clause.BootStages := by
  intro s hs he h1 h2
  have hout := stageOutcome_of_no_image h1 h2
  refine ⟨fun hflag hlink => ?_, fun hflag hcode => ?_⟩
  · have hwell : stageOutcome s = some 0 := by
      rw [hout, hflag, if_neg Bool.false_ne_true, if_neg fun ⟨h4, h0⟩ => hlink h4 h0]
    exact ⟨_, exec_bootStageComplete_well hs he hwell, nextStage_stage s, (nextStage_error s).trans he,
      nextStage_intstat_of_last⟩
  · obtain ⟨hmem, hne⟩ := stageErrors_of_mem hcode
    have hfail : stageOutcome s = some s.cur.word.toNat := by rw [hout, if_pos hflag, if_pos hmem]
    exact ⟨_, exec_bootStageComplete_failed hs he hfail hne, bootStopped_stage s _, bootStopped_error s _⟩

/-! The stages with an image (R351, R352). -/

/-- The key of an image is one of the fused hashes' and is not revoked. -/
def keyKnown (f : Firmware) : Bool :=
  (Config.keyHash 0 == sha256 f.key && !Config.keyRevoked 0) || (Config.keyHash 1 == sha256 f.key && !Config.keyRevoked 1)

/-- The signature of an image verifies under its key. -/
def signatureVerifies (f : Firmware) : Bool :=
  ecdsaVerify (bigEndian (f.key.take 32), bigEndian (f.key.drop 32)) (imageDigest f) f.r f.s

theorem imageError_eq {f : Firmware} (hlen : f.key.length = 64) :
    imageError f = if keyKnown f = false ∨ signatureVerifies f = false then 2 else if f.svn < Config.fusedSvn then 3 else 0 := by
  simp only [imageError, List.any_cons, List.any_nil, Bool.or_false, hlen, bne_self_eq_false, Bool.or_eq_true, Bool.not_eq_true']
  rfl

theorem imagesVerified : Clause.ImagesVerified := by
  intro f s hstage he hf hlen digest known verified
  have hs : s.mgmt.stage < 5 := by omega
  have hout : stageOutcome s = some (imageError f) := stageOutcome_of_image hstage hf
  have herr : imageError f = if known = false ∨ verified = false then 2 else if f.svn < Config.fusedSvn then 3 else 0 :=
    imageError_eq hlen
  by_cases hbad : known = false ∨ verified = false
  · rw [herr, if_pos hbad] at hout
    have hrejected (hk : known = true) (hv : verified = true) : False := by simp [hk, hv] at hbad
    exact ⟨_, exec_bootStageComplete_failed hs he hout (by decide), bootStopped_cores s 2,
      fun _ => ⟨bootStopped_error s 2, bootStopped_stage s 2⟩,
      fun hk hv => (hrejected hk hv).elim, fun hk hv => (hrejected hk hv).elim⟩
  by_cases hold : f.svn < Config.fusedSvn
  · rw [herr, if_neg hbad, if_pos hold] at hout
    exact ⟨_, exec_bootStageComplete_failed hs he hout (by decide), bootStopped_cores s 3, fun h => absurd h hbad,
      fun _ _ _ => ⟨bootStopped_error s 3, bootStopped_stage s 3⟩, fun _ _ h => absurd hold (Nat.not_lt.mpr h)⟩
  · rw [herr, if_neg hbad, if_neg hold] at hout
    exact ⟨_, exec_bootStageComplete_well hs he hout, nextStage_cores s, fun h => absurd h hbad, fun _ _ h => absurd h hold,
      fun _ _ _ => ⟨(nextStage_error s).trans he, nextStage_stage s, nextStage_measures_of_image hstage hf⟩⟩

/-! The host's link (R341, R344). -/

/-- The rows, speeds and lanes of R341 fit their fields of LINKSTAT. -/
theorem linkOutcome_bounds {order speed lanes : Nat} (h : linkOutcome order speed lanes = true) :
    order < 4 ∧ speed < 8 ∧ lanes < 32 := by
  unfold linkOutcome at h
  split at h
  case h_4 => cases h
  all_goals
    simp at h
    omega

theorem bitsOf_linkstat {w : Word} {order speed lanes : Nat} (h : linkOutcome order speed lanes = true)
    (hw : w.toNat = 4 * order + 32 * speed + 256 * lanes) :
    bitsOf w 3 2 = order ∧ bitsOf w 7 5 = speed ∧ bitsOf w 12 8 = lanes := by
  obtain ⟨ho, hs, hl⟩ := linkOutcome_bounds h
  refine ⟨?_, ?_, ?_⟩ <;>
  · simp only [bitsOf, hw]
    omega

theorem hostLink : Clause.HostLink := by
  intro s
  refine ⟨fun hstage herr hmode order speed lanes hout hw => ?_, fun hmode => ?_⟩
  · obtain ⟨ho, hs, hl⟩ := bitsOf_linkstat hout hw
    change execHostLinkTrain s = _
    rw [execHostLinkTrain, ho, hs, hl]
    exact event_of (by simp [hstage, herr, hmode, hout]) _
  · exact event_of (bne_iff_ne.mpr hmode) _

/-- Settles O52, clause by clause. -/
theorem resetAndBoot : Obligations.ResetAndBoot := ⟨resetResets, bootStages, imagesVerified, hostLink⟩

end Sys2Proof.Machine
end

section
/-! PROOFS. The instructions on polynomial images: PEXT, PACK and UNPACK (spec/01, R35; spec/10, R256 to R259). Each is blocked in
stages; what the checks at issue let pass goes on in its issue clock as it would from its block, so that each stage is described
once, for a context that waits in it. -/

namespace Sys2Proof.Machine

/-! The grants of banks (R144). -/

@[simp] theorem grants_cur (u : List Nat) (l : Map Nat) (s : State) : (grants u l s).cur = s.cur := rfl
@[simp] theorem grants_upsets (u : List Nat) (l : Map Nat) (s : State) : (grants u l s).upsets = s.upsets := rfl
@[simp] theorem grants_myCore (u : List Nat) (l : Map Nat) (s : State) :
    (grants u l s).myCore = { s.myCore with bankUsed := u, bankLast := l } := State.myCore_updMyCore ..
@[simp] theorem grants_me (u : List Nat) (l : Map Nat) (s : State) : (grants u l s).me = s.me :=
  State.me_updMyCore ..
@[simp] theorem grants_grants (u u' : List Nat) (l l' : Map Nat) (s : State) : grants u l (grants u' l' s) = grants u l s := by
  simp [grants, State.updMyCore, State.updCore]

/-- Grants and a change of the context do not meet. -/
theorem grants_updMe (u : List Nat) (l : Map Nat) (f : Ctx → Ctx) (s : State) :
    grants u l (s.updMe f) = (grants u l s).updMe f := by
  simp [grants, State.updMyCore, State.updCore, State.updMe, State.updCtx, State.setCtx, State.ctx]

theorem takeBanks_eq (s : State) (r : Nat) (ps : List (Nat × Nat)) :
    takeBanks s s.cur.core r ps =
      grants (banksOf ps ++ s.myCore.bankUsed) ((banksOf ps).foldl (fun m b => mset m b r) s.myCore.bankLast) s := rfl

@[simp] theorem quietCore_grants (u : List Nat) (l : Map Nat) (s : State) : quietCore (grants u l s) = quietCore s := by
  have h := grants_myCore u l s
  simp only [State.myCore, grants_cur] at h
  simp only [quietCore, quietAt, grants_cur, grants_upsets, h]

theorem wmBlocks_grants (u : List Nat) (l : Map Nat) (s : State) (self : Option Nat) (a n : Nat) :
    wmBlocks (grants u l s).myCore self a n = wmBlocks s.myCore self a n := by
  rw [grants_myCore]
  rfl

/-- A state is another but for the banks granted in this clock, if any are. -/
def tookBanks (s t : State) : Prop := t = s ∨ ∃ u l, t = grants u l s

theorem tookBanks_keeps {s t : State} (h : tookBanks s t) :
    t.me = s.me ∧ t.myCore.spad = s.myCore.spad ∧ t.myCore.storeQ = s.myCore.storeQ := by
  rcases h with rfl | ⟨u, l, rfl⟩ <;> simp

/-! The tests of a local access that nothing holds back (R144, R145, R170, R203, R224). -/

theorem wpDataHit_of_quietCore {s : State} (h : quietCore s = true) (src : Nat) (t : Option Nat) (rd wr : Bool)
    (bytes : List Nat) : wpDataHit s.myCore src t rd wr bytes = none := by
  simp only [quietCore, quietAt, Bool.and_eq_true, List.all_eq_true, beq_iff_eq] at h
  obtain ⟨hoff, -⟩ := h
  refine List.findSome?_eq_none_iff.mpr fun n hn => ?_
  simp only [State.myCore, wpData, hoff n hn]
  simp

theorem withWatch_of_quietCore {s : State} (h : quietCore s = true) (rd wr : Bool) (ps : List (Nat × Nat)) (go : State → State) :
    withWatch s rd wr ps go = go s := by
  simp only [withWatch, wpDataHit_of_quietCore h, ite_self]

theorem spadCheck_of_quietCore {s : State} (h : quietCore s = true) (a n : Nat) : spadCheck s s.cur.core a n = (true, s) := by
  have hu : upsetsIn s [1, 5, 6, 8] s.cur.core a n = [] := by
    simp only [quietCore, quietAt, Bool.and_eq_true, List.all_eq_true, Bool.not_eq_true', Bool.and_eq_false_imp] at h
    obtain ⟨-, hgood⟩ := h
    refine List.filter_eq_nil_iff.mpr fun u hu => ?_
    simp only [Bool.and_eq_true]
    rintro ⟨⟨⟨hk, hc⟩, -⟩, -⟩
    simp [hgood u hu hk] at hc
  rw [spadCheck, codeCheck, hu]
  rfl

theorem wmBlocks_of_localClear {s : State} (h : localClear s = true) (a n : Nat) : wmBlocks s.myCore none a n = false := by
  simp only [localClear, Bool.and_eq_true, List.all_eq_true, beq_iff_eq] at h
  refine List.any_eq_false.mpr fun c hc => ?_
  simp [h.2 c hc]

theorem earlierLocal_of_localClear {s : State} (h : localClear s = true) :
    earlierLocal s s.cur.core s.cur.slot s.nextId true = false := by
  simp only [localClear, Bool.and_eq_true, Bool.not_eq_true'] at h
  exact h.1

theorem granted_of_banksFree {k : Core} (h : banksFree k = true) (r : Nat) (ps : List (Nat × Nat)) : granted k r ps = true := by
  simp only [banksFree, Bool.and_eq_true, List.isEmpty_iff] at h
  simp [granted, h.1, h.2]

/-! Traps taken at once (R86). -/

/-- A trap of a context that `trapsPlainly` and stands in an instruction is entered at once (R86). -/
theorem trapHere_of_trapsPlainly {s : State} {b : Blk} (h : trapsPlainly s = true) (hb : s.me.blk = some b)
    (hh : s.me.halted = false) (cause : Cause) (value : Word) :
    trapHere s cause value = enters cause.code value b.pc b.len s := by
  simp only [trapsPlainly, Bool.and_eq_true, decide_eq_true_eq, Bool.not_eq_true', Option.isNone_iff_eq_none] at h
  obtain ⟨⟨⟨hp, htl⟩, htr⟩, hst⟩ := h
  have hrec (ty body : Nat) : slotRecord s s.cur.core s.cur.slot ty body = s :=
    if_neg (ne_true_of_eq_false htr)
  have hme : s.ctx s.cur.core s.cur.slot = s.me := rfl
  have hl : (s.me.tl = 2) = False := eq_false (by omega)
  simp only [trapHere, hb, raiseTrap, hme, hp, hh, Ctx.readsLength, Option.isNone_some, Bool.false_and, Bool.not_false,
    Bool.and_self, if_true, takeTrap, hl, if_false, hrec, Option.getD_some, Ctx.note, Ctx.enter, hst, Option.any_none,
    Bool.false_eq_true]
  rfl

theorem Ctx.setBank_setBlk (x : Ctx) (q : Option Blk) (level : Nat) (b : TrapBank) :
    (x.setBlk q).setBank level b = (x.setBank level b).setBlk q := by
  unfold Ctx.setBank
  split <;> rfl

theorem Ctx.setBank_halted (x : Ctx) (level : Nat) (b : TrapBank) : (x.setBank level b).halted = x.halted := by
  unfold Ctx.setBank
  split <;> rfl

/-- A change of the context is known from what it makes of that context. -/
theorem State.updMe_congr {s : State} {f g : Ctx → Ctx} (h : f s.me = g s.me) : s.updMe f = s.updMe g :=
  congrArg (s.setCtx s.cur.core s.cur.slot) h

/-- A context that has entered a trap (R86). -/
def Ctx.entered (x : Ctx) (cause : Nat) (value : Word) (pc ilen clk : Nat) : Ctx :=
  { x.setBank (x.tl + 1) { x.bank (x.tl + 1) with
      tcause := wordOf cause, tvalue := value, tepc := wordOf (pc % 2 ^ 52)
      tstat := wordOf (256 * ilen + 1024 * b2n (x.mode == .runtime)) } with
    tl := x.tl + 1, mode := .runtime, pc := (x.bank (x.tl + 1)).tvec.toNat, fbuf := [], ffault := none, trap := none, blk := none
    walking := none, notBefore := clk + 1 }

theorem enters_eq (cause : Nat) (value : Word) (pc len : Nat) (s : State) :
    enters cause value pc len s = s.updMe fun x => x.entered cause value pc len (s.clk s.cur.core) :=
  State.updMe_congr rfl

theorem Ctx.entered_setBlk (x : Ctx) (q : Option Blk) (cause : Nat) (value : Word) (pc ilen clk : Nat) :
    (x.setBlk q).entered cause value pc ilen clk = x.entered cause value pc ilen clk := by
  rw [Ctx.entered, Ctx.setBank_setBlk]
  rfl

theorem enters_grants (u : List Nat) (l : Map Nat) (cause : Nat) (value : Word) (pc len : Nat) (s : State) :
    enters cause value pc len (grants u l s) = grants u l (enters cause value pc len s) := by
  rw [enters, grants_me]
  exact (grants_updMe ..).symm

/-- The banks granted before a trap stay granted. -/
theorem trapHere_grants {s : State} {q : Blk} {u : List Nat} {l : Map Nat} {cause : Cause} {value : Word}
    (hp : trapsPlainly s = true) (hq : s.me.blk = some q) (hh : s.me.halted = false) :
    trapHere (grants u l s) cause value = grants u l (enters cause.code value q.pc q.len s) := by
  have hp' : trapsPlainly (grants u l s) = true := by
    simpa only [trapsPlainly, tracesSlot, tracing, grants_me, grants_myCore, grants_cur] using hp
  rw [trapHere_of_trapsPlainly hp' (by rwa [grants_me]) (by rwa [grants_me]), enters_grants]

/-! An instruction that has issued and is blocked (R77, R78). -/

/-- A core without what an issue changes of it: its counters, walks and contexts. -/
def Core.still (k : Core) : Core := { k with walks := [], pmcs := [], issueSeq := 0, ctxs := [] }

theorem noteIssue_still {i : Instr} {s : State} (h : issues i s = true) : (noteIssue i s).myCore.still = s.myCore.still := by
  obtain ⟨w, hw⟩ := noteIssue_eq h
  rw [State.myCore, noteIssue_cur h, hw, State.core_setCore_self]
  rfl

/-- The blocked context: it has issued, and holds what it took (R78). -/
theorem blocks_me {i : Instr} {st : Nat} {aux : Word} {vs : List VWord} {s : State} (h : issues i s = true) :
    (blocks i st aux vs s).me =
      { { s.me with walking := none }.issue i (s.myCore.issueSeq + 1) s.nextId (s.clk s.cur.core) with
        blk := some { issueBlk i s.me (s.clk s.cur.core) vs with stage := st, aux := aux } } := by
  rw [blocks, State.me_updMe, noteIssue_me h]
  rfl

section
variable {i : Instr} {st : Nat} {aux : Word} {vs : List VWord} {s : State} (h : issues i s = true)
include h

theorem blocks_cur : (blocks i st aux vs s).cur = s.cur := noteIssue_cur h

theorem blocks_nextId : (blocks i st aux vs s).nextId = s.nextId := by
  rw [blocks, State.updMe_nextId, noteIssue_package h]

theorem blocks_upsets : (blocks i st aux vs s).upsets = s.upsets := by
  rw [blocks, State.updMe_upsets, noteIssue_package h]

theorem blocks_still : (blocks i st aux vs s).myCore.still = s.myCore.still := by
  rw [blocks, State.myCore_updMe]
  exact noteIssue_still h

theorem blocks_spad : (blocks i st aux vs s).myCore.spad = s.myCore.spad := (congrArg Core.spad (blocks_still h) :)
theorem blocks_storeQ : (blocks i st aux vs s).myCore.storeQ = s.myCore.storeQ := (congrArg Core.storeQ (blocks_still h) :)
theorem blocks_chans : (blocks i st aux vs s).myCore.chans = s.myCore.chans := (congrArg Core.chans (blocks_still h) :)
theorem blocks_tags : (blocks i st aux vs s).myCore.tags = s.myCore.tags := (congrArg Core.tags (blocks_still h) :)
theorem blocks_comps : (blocks i st aux vs s).myCore.comps = s.myCore.comps := (congrArg Core.comps (blocks_still h) :)
theorem blocks_trace : (blocks i st aux vs s).myCore.trace = s.myCore.trace := (congrArg Core.trace (blocks_still h) :)
theorem blocks_bankUsed : (blocks i st aux vs s).myCore.bankUsed = s.myCore.bankUsed :=
  (congrArg Core.bankUsed (blocks_still h) :)
theorem blocks_bankWin : (blocks i st aux vs s).myCore.bankWin = s.myCore.bankWin := (congrArg Core.bankWin (blocks_still h) :)

theorem quietCore_blocks : quietCore (blocks i st aux vs s) = quietCore s := by
  have hc : ((blocks i st aux vs s).core s.cur.core).comps = (s.core s.cur.core).comps := by
    simpa only [State.myCore, blocks_cur h] using blocks_comps (st := st) (aux := aux) (vs := vs) h
  simp only [quietCore, quietAt, blocks_cur h, blocks_upsets h, hc]

theorem banksFree_blocks : banksFree (blocks i st aux vs s).myCore = banksFree s.myCore := by
  rw [banksFree, blocks_bankUsed h, blocks_bankWin h, banksFree]

theorem earlierLocal_blocks :
    earlierLocal (blocks i st aux vs s) s.cur.core s.cur.slot s.nextId true =
      earlierLocal s s.cur.core s.cur.slot s.nextId true := by
  have hq := blocks_storeQ (st := st) (aux := aux) (vs := vs) h
  have hm := blocks_me (st := st) (aux := aux) (vs := vs) h
  simp only [State.myCore, State.me, blocks_cur h] at hq hm
  simp only [earlierLocal, hm, hq, Ctx.issue, List.any_map]
  rfl

theorem localClear_blocks : localClear (blocks i st aux vs s) = localClear s := by
  rw [localClear, blocks_cur h, blocks_nextId h, earlierLocal_blocks h, blocks_chans h, localClear]

theorem trapsPlainly_blocks : trapsPlainly (blocks i st aux vs s) = trapsPlainly s := by
  simp only [trapsPlainly, tracesSlot, tracing, blocks_trace h, blocks_cur h]
  rw [blocks_me h]
  cases hp : s.me.pend <;> cases hs : s.me.stepping <;> simp [Ctx.issue, hp, hs]

theorem waitsIn_blocks : waitsIn i st aux vs (blocks i st aux vs s) = true := by
  have hm := mayIssue_of_issues h
  simp only [mayIssue, Bool.and_eq_true, Bool.not_eq_true', beq_iff_eq] at hm
  rw [waitsIn, blockedIn, blocks_me h]
  simp [Ctx.issue, issueBlk, hm]

theorem blocks_pwidth : (blocks i st aux vs s).me.pwidth = s.me.pwidth := by
  rw [blocks_me h]; rfl

end

theorem blocks_eq (i : Instr) (st : Nat) (aux : Word) (vs : List VWord) (s : State) :
    blocks i st aux vs s = (noteIssue i s).updMe fun x =>
      x.setBlk (some { issueBlk i s.me (s.clk s.cur.core) vs with stage := st, aux := aux }) := rfl

/-- An instruction that completes in its issue clock leaves what one of registers does. -/
theorem endsX_blocks (i : Instr) (st : Nat) (aux : Word) (vs : List VWord) (d : Fin 48) (w : Word) (s : State) :
    endsX d w (blocks i st aux vs s) = writesX i d w s := by
  rw [blocks_eq, endsX, writesX, issued, complete_eq, State.updMe_updMe, State.updMe_updMe]
  congr 1
  funext x
  rw [Ctx.setX_setBlk, Ctx.setX_setBlk]
  rfl

theorem enters_blocks (cause : Nat) (value : Word) (pc len : Nat) (i : Instr) (st : Nat) (aux : Word) (vs : List VWord)
    (s : State) : enters cause value pc len (blocks i st aux vs s) = enters cause value pc len (noteIssue i s) := by
  rw [blocks_eq, enters_eq, enters_eq, State.updMe_updMe]
  exact State.updMe_congr (Ctx.entered_setBlk ..)

theorem tagsPass_blocks {i : Instr} {st : Nat} {aux : Word} {vs : List VWord} {s : State} (h : issues i s = true) (base : Word)
    (a n : Nat) : tagsPass (blocks i st aux vs s) base a n = tagsPass s base a n := by
  simp only [tagsPass, tagAt, blocks_tags h]

theorem elementsPass_blocks {i : Instr} {st : Nat} {aux : Word} {vs : List VWord} {s : State} (h : issues i s = true) (w : Nat)
    (p : Word) (n : Nat) : elementsPass (blocks i st aux vs s) w p n = elementsPass s w p n := by
  simp only [elementsPass, tagsPass_blocks h]

/-! What an instruction's effect is to its step (R77). -/

/-- What an effect may leave behind that the end of the issue does not change: the context runs, and is not about to make
pushes. -/
def settled (t : State) : Prop := t.me.halted = false ∧ ∀ b, t.me.blk = some b → b.stage ≠ 0 ∧ b.stage ≠ stagePush

/-- The end of an issue leaves a settled state alone. -/
theorem settleOps_of_settled {t : State} (h : settled t) : settleOps t = t := by
  cases hb : t.me.blk with
  | none => simp [settleOps, hb]
  | some b => simp [settleOps, hb, h.2 b hb]

theorem waitsIn_iff {i : Instr} {st : Nat} {aux : Word} {held : List VWord} {s : State} :
    waitsIn i st aux held s = true ↔ s.me.halted = false ∧ s.me.status = .live ∧ ∃ b, s.me.blk = some b ∧ b.instr = i ∧
      b.stage = st ∧ b.outs = [] ∧ b.aux = aux ∧ b.held = held := by
  cases hb : s.me.blk <;> simp [waitsIn, blockedIn, hb, and_assoc]

/-- An instruction that waits by rules of its own tests its wait again (R77). -/
theorem waitOps_of_waitsIn {i : Instr} {st : Nat} {aux : Word} {held : List VWord} {s : State} {b : Blk}
    (h : waitsIn i st aux held s = true) (hb : s.me.blk = some b) (h0 : st ≠ 0) (hp : st ≠ stagePush)
    (eff : List VWord → State → State) (cont : Blk → State → State) : waitOps i eff cont s = .next (cont b s) := by
  obtain ⟨-, -, b', hb', hi, hs, -⟩ := waitsIn_iff.mp h
  obtain rfl : b = b' := Option.some.inj (hb.symm.trans hb')
  simp [waitOps, hb, hi, hs, h0, hp]

theorem waitOps_of_issues {i : Instr} {s : State} (h : issues i s = true) (eff : List VWord → State → State)
    (cont : Blk → State → State) : waitOps i eff cont s = issueOps i eff s := by
  simp [waitOps, blk_of_issues h]

theorem waitOps_next (i : Instr) (eff : List VWord → State → State) (cont : Blk → State → State) (s : State) :
    ∃ t, waitOps i eff cont s = .next t := by
  cases hb : s.me.blk <;> simp [waitOps, hb, issueOps]

/-- The values of an instruction's register sources. -/
def srcVals (i : Instr) (s : State) : List VWord := (srcs i).map (·.regVal s.me)

/-- An instruction of register sources whose effect leaves a settled state ends its issue there. -/
theorem waitOps_issue {i : Instr} {eff : List VWord → State → State} (cont : Blk → State → State) {s t : State}
    (h : issues i s = true) (hr : ∀ o ∈ srcs i, o.port? = none)
    (ht : eff (srcVals i s) (blocks i 0 0 (srcVals i s) s) = t) (hs : settled t) : waitOps i eff cont s = .next t := by
  rw [waitOps_of_issues h]
  refine issueOps_of h ?_ hs.1
  rw [← settleOps_of_settled hs, ← ht]
  exact runOps_regs eff h hr

theorem stay_blocks (i : Instr) (vs : List VWord) (s : State) : stay (blocks i 0 0 vs s) 1 0 = blocks i 1 0 vs s := by
  rw [stay, updBlk, blocks, State.updMe_updMe]
  rfl

/-- A polynomial instruction whose checks have passed goes on in its issue clock as it would from its block. -/
theorem waitOps_starts {i : Instr} {eff : List VWord → State → State} {s t : State} (h : issues i s = true)
    (hr : ∀ o ∈ srcs i, o.port? = none)
    (hc : eff (srcVals i s) (blocks i 0 0 (srcVals i s) s) = startPoly i (blocks i 0 0 (srcVals i s) s))
    (ht : waitOps i eff (contPoly i) (blocks i 1 0 (srcVals i s) s) = .next t) (hs : settled t) :
    waitOps i eff (contPoly i) s = .next t := by
  have hw := waitsIn_blocks (st := 1) (aux := 0) (vs := srcVals i s) h
  have hb : (blocks i 1 0 (srcVals i s) s).me.blk =
      some { issueBlk i s.me (s.clk s.cur.core) (srcVals i s) with stage := 1, aux := 0 } := by
    rw [blocks_me h]
  rw [waitOps_of_waitsIn hw hb (by decide) (by decide), Host.Outcome.next.injEq] at ht
  refine waitOps_issue _ h hr ?_ hs
  rw [hc, startPoly, stay_blocks, ← ht]
  simp only [hb]

theorem settled_enters {s : State} (h : s.me.halted = false) (cause : Nat) (value : Word) (pc len : Nat) :
    settled (enters cause value pc len s) := by
  rw [settled, enters, State.me_updMe]
  exact ⟨(Ctx.setBank_halted ..).trans h, fun b hb => absurd hb (Option.some_ne_none b).symm⟩

theorem settled_endsX {s : State} (h : s.me.halted = false) (d : Fin 48) (w : Word) : settled (endsX d w s) := by
  rw [settled, endsX, State.me_updMe]
  exact ⟨(Ctx.setX_halted ..).trans h, fun b hb => absurd hb (Option.some_ne_none b).symm⟩

theorem settled_grants {s : State} (h : settled s) (u : List Nat) (l : Map Nat) : settled (grants u l s) := by
  rwa [settled, grants_me]

theorem settled_of_waitsIn {i : Instr} {st : Nat} {aux : Word} {held : List VWord} {s : State}
    (h : waitsIn i st aux held s = true) (h0 : st ≠ 0) (hp : st ≠ stagePush) : settled s := by
  obtain ⟨hh, -, q, hq, -, rfl, -⟩ := waitsIn_iff.mp h
  exact ⟨hh, fun b hb => by obtain rfl := Option.some.inj (hq.symm.trans hb); exact ⟨h0, hp⟩⟩

/-- An instruction of register sources whose checks fail traps at issue (R85). -/
theorem waitOps_traps {i : Instr} {eff : List VWord → State → State} (cont : Blk → State → State) {s : State} {cause : Cause}
    {value : Word} (h : issues i s = true) (hr : ∀ o ∈ srcs i, o.port? = none) (hp : trapsPlainly s = true)
    (he : eff (srcVals i s) (blocks i 0 0 (srcVals i s) s) = trapHere (blocks i 0 0 (srcVals i s) s) cause value) :
    waitOps i eff cont s = .next (traps i cause.code value s.me.pc (instrLen i) s) := by
  have hm := blocks_me (st := 0) (aux := 0) (vs := srcVals i s) h
  have hh : (blocks i 0 0 (srcVals i s) s).me.halted = false := by
    rw [hm]
    exact not_halted_of_issues h
  have ht := trapHere_of_trapsPlainly ((trapsPlainly_blocks (st := 0) (aux := 0) (vs := srcVals i s) h).trans hp)
    (congrArg Ctx.blk hm) hh cause value
  rw [traps, ← enters_blocks _ _ _ _ i 0 0 (srcVals i s)]
  exact waitOps_issue cont h hr (he.trans ht) (settled_enters hh ..)

/-- An instruction of two register sources takes nothing from a port. -/
theorem port?_of_regSrcs {i : Instr} {a b : Fin 48} (h : srcs i = [.s (.x a), .s (.x b)]) : ∀ o ∈ srcs i, o.port? = none := by
  simp [h, Opnd.port?]

/-! The store queue (R152). -/

@[simp] theorem queueStore_me (s : State) (key : Nat) (x : StoreAct) : (queueStore s key x).me = s.me := by
  rw [queueStore, State.newId]
  exact State.me_updMyCore _ _

theorem queueStore_myCore (s : State) (key : Nat) (x : StoreAct) : ∃ e : StoreEnt, e.act = x ∧
    (queueStore s key x).myCore = { s.myCore with storeQ := s.myCore.storeQ ++ [e] } :=
  ⟨_, rfl, State.myCore_updMyCore _ _⟩

/-- Stores enter the queue in order, behind those that are there. -/
theorem queueStores_keep (key : Nat) (acts : List StoreAct) (s : State) :
    let t := acts.foldl (fun s x => queueStore s key x) s
    t.me = s.me ∧ t.myCore.spad = s.myCore.spad ∧
      t.myCore.storeQ.map (·.act) = s.myCore.storeQ.map (·.act) ++ acts := by
  induction acts generalizing s with
  | nil => simp
  | cons x r ih =>
    obtain ⟨hme, hspad, hq⟩ := ih (queueStore s key x)
    obtain ⟨e, he, hk⟩ := queueStore_myCore s key x
    refine ⟨hme.trans (queueStore_me ..), hspad.trans (by rw [hk]), hq.trans ?_⟩
    simp [hk, he]

/-! The stores of a polynomial instruction (R257, R258). -/

@[simp] theorem updBlk_me (s : State) (f : Blk → Blk) : (updBlk s f).me = { s.me with blk := s.me.blk.map f } :=
  State.me_updMe ..

theorem updBlk_spad (s : State) (f : Blk → Blk) : (updBlk s f).myCore.spad = s.myCore.spad := by
  rw [updBlk, State.myCore_updMe]

theorem updBlk_storeQ (s : State) (f : Blk → Blk) : (updBlk s f).myCore.storeQ = s.myCore.storeQ := by
  rw [updBlk, State.myCore_updMe]

theorem stay_me (s : State) (st : Nat) (aux : Word) :
    (stay s st aux).me = { s.me with blk := s.me.blk.map fun b => { b with stage := st, aux := aux } } := updBlk_me ..

/-- The stage and value of a polynomial instruction that has entered the stores for which the queue had room (R257, R258). -/
theorem enterStores_me (a : PolyArgs) (acts : List StoreAct) (k : Nat) (s : State) :
    let next := k + (8 - s.myCore.storeQ.length)
    (enterStores a acts k s).me = { s.me with blk := s.me.blk.map fun b =>
      if next < acts.length then { b with stage := 2, aux := wordOf next } else { b with stage := 3, aux := 0 } } := by
  obtain ⟨hme, -⟩ := queueStores_keep (ptrKey a.ptr) ((acts.drop k).take (8 - s.myCore.storeQ.length)) s
  by_cases h : k + (8 - s.myCore.storeQ.length) < acts.length <;> simp only [enterStores, h, if_true, if_false, stay_me, hme]

theorem enterStores_spad (a : PolyArgs) (acts : List StoreAct) (k : Nat) (s : State) :
    (enterStores a acts k s).myCore.spad = s.myCore.spad := by
  obtain ⟨-, hspad, -⟩ := queueStores_keep (ptrKey a.ptr) ((acts.drop k).take (8 - s.myCore.storeQ.length)) s
  simp only [enterStores]
  split <;> exact (updBlk_spad ..).trans hspad

theorem enterStores_storeQ (a : PolyArgs) (acts : List StoreAct) (k : Nat) (s : State) :
    (enterStores a acts k s).myCore.storeQ.map (·.act) =
      s.myCore.storeQ.map (·.act) ++ (acts.drop k).take (8 - s.myCore.storeQ.length) := by
  obtain ⟨-, -, hq⟩ := queueStores_keep (ptrKey a.ptr) ((acts.drop k).take (8 - s.myCore.storeQ.length)) s
  simp only [enterStores]
  split <;> exact (congrArg (List.map (·.act)) (updBlk_storeQ ..)).trans hq

/-- The context of a state stands in an instruction at a stage before its pushes, and runs. -/
def standsIn (i : Instr) (b : Blk) (s : State) : Prop :=
  s.me.halted = false ∧ s.me.status = .live ∧ s.me.blk = some b ∧ b.instr = i ∧ b.outs = []

theorem enterStores_settled {i : Instr} {b : Blk} {s : State} (h : standsIn i b s) (a : PolyArgs) (acts : List StoreAct)
    (k : Nat) : settled (enterStores a acts k s) := by
  obtain ⟨hh, -, hb, -⟩ := h
  rw [settled, enterStores_me]
  refine ⟨hh, fun c hc => ?_⟩
  rw [hb, Option.map_some, Option.some.injEq] at hc
  split at hc <;> subst hc <;> simp [stagePush]

/-- What enters the queue, and the stage that follows, are those of `entersFrom`. -/
theorem entersFrom_enterStores {i : Instr} {b : Blk} {s : State} (h : standsIn i b s) (a : PolyArgs) (acts : List StoreAct)
    (k : Nat) : entersFrom i k acts s (enterStores a acts k s) := by
  obtain ⟨hh, hl, hb, hi, ho⟩ := h
  refine ⟨enterStores_storeQ a acts k s, fun hk => ?_, fun hk => ?_⟩
  · rw [blockedIn, enterStores_me]
    simp [hh, hl, hb, hi, ho, if_pos hk]
  · rw [blockedIn, enterStores_me]
    simp [hh, hl, hb, hi, ho, if_neg (Nat.not_lt.mpr hk)]

theorem entersFrom_congr {i : Instr} {k : Nat} {acts : List StoreAct} {s s' t : State}
    (hq : s'.myCore.storeQ = s.myCore.storeQ) (h : entersFrom i k acts s' t) : entersFrom i k acts s t := by
  unfold entersFrom at h ⊢
  rwa [hq] at h

theorem standsIn_of_waitsIn {i : Instr} {st : Nat} {aux : Word} {held : List VWord} {s : State} {q : Blk}
    (h : waitsIn i st aux held s = true) (hq : s.me.blk = some q) : standsIn i q s := by
  obtain ⟨hh, hl, q', hq', hi, -, ho, -⟩ := waitsIn_iff.mp h
  obtain rfl := Option.some.inj (hq.symm.trans hq')
  exact ⟨hh, hl, hq, hi, ho⟩

/-- What a polynomial instruction has read replaces the values it holds behind its operands. -/
def holds (vals : List VWord) (s : State) : State := updBlk s fun b => { b with held := b.held.take 2 ++ vals }

theorem holds_spad (vals : List VWord) (s : State) : (holds vals s).myCore.spad = s.myCore.spad := updBlk_spad ..
theorem holds_storeQ (vals : List VWord) (s : State) : (holds vals s).myCore.storeQ = s.myCore.storeQ := updBlk_storeQ ..
theorem holds_pc (vals : List VWord) (s : State) : (holds vals s).me.pc = s.me.pc := by rw [holds, updBlk_me]

theorem standsIn_holds {i : Instr} {q : Blk} {s t : State} (h : standsIn i q s) (ht : t.me = s.me) (vals : List VWord) :
    standsIn i { q with held := q.held.take 2 ++ vals } (holds vals t) := by
  obtain ⟨hh, hl, hq, hi, ho⟩ := h
  rw [standsIn, holds, updBlk_me, ht, hq]
  exact ⟨hh, hl, rfl, hi, ho⟩

/-- The reads are done: the instruction enters its stores, for a state in which only banks have been granted. -/
theorem entersFrom_holds {i : Instr} {q : Blk} {s t : State} (h : standsIn i q s) (ht : tookBanks s t) (A : PolyArgs)
    (acts : List StoreAct) (vals : List VWord) : entersFrom i 0 acts s (enterStores A acts 0 (holds vals t)) := by
  obtain ⟨hme, -, hsq⟩ := tookBanks_keeps ht
  exact entersFrom_congr ((holds_storeQ vals t).trans hsq) (entersFrom_enterStores (standsIn_holds h hme vals) A acts 0)

/-! The reads of a polynomial instruction (R143, R144). -/

/-- What is made of each value of a list and its place, by the places. -/
theorem zipIdx_map_range {α β : Type} (F : α → Nat → β) (l : List α) (z : α) :
    (l.zipIdx.map fun p => F p.1 p.2) = (List.range l.length).map fun k => F (l.getD k z) k := by
  refine List.ext_getElem (by simp) fun k h1 h2 => ?_
  have hk : k < l.length := by simpa using h2
  simp [hk]

/-- What is left to read of pieces 0 to n − 1 when k of them are there. -/
theorem drop_pieces (pc : Nat → Nat × Nat) (n k : Nat) :
    ((List.range n).map pc).drop k = (List.range' k (n - k)).map pc := by
  rw [← List.map_drop, List.range_eq_range', List.drop_range']
  simp

/-- The values read when elements up to `m` are there, of which the first are `got`. -/
def fillTo (rd : Nat → VWord) (got : List VWord) (m : Nat) : List VWord :=
  got ++ (List.range (m - got.length)).map fun k => rd (got.length + k)

theorem fillTo_self (rd : Nat → VWord) (got : List VWord) : fillTo rd got got.length = got := by simp [fillTo]

theorem fillTo_snoc (rd : Nat → VWord) (got : List VWord) {m : Nat} (h : got.length < m) :
    fillTo rd (got ++ [rd got.length]) m = fillTo rd got m := by
  obtain ⟨c, rfl⟩ := Nat.exists_eq_add_of_lt h
  have hc : got.length + (c + 1) - (got.length + 1) = c := by omega
  simp [fillTo, hc, List.range_succ_eq_map, Function.comp_def, Nat.add_assoc, Nat.add_comm 1]

theorem length_fillTo (rd : Nat → VWord) {got : List VWord} {m : Nat} (h : got.length ≤ m) : (fillTo rd got m).length = m := by
  simp [fillTo]; omega

theorem getD_fillTo (rd : Nat → VWord) {got : List VWord} {m k : Nat} (hg : got.length ≤ k) (hk : k < m) :
    (fillTo rd got m).getD k 0 = rd k := by
  have h : k - got.length < m - got.length := by omega
  simp [fillTo, List.getElem?_append_right hg, h, Nat.add_sub_cancel' hg]

theorem fillTo_nil (rd : Nat → VWord) (m : Nat) : fillTo rd [] m = (List.range m).map rd := by simp [fillTo]

/-- A piece of the scratchpad, as a read of it. -/
def readPiece (s : State) (p : Nat × Nat) : VWord := BitVec.ofNat 128 (memNat s.myCore.spad p.1 p.2)

/-- What a polynomial instruction asks of a value read: that an element of PACK lies in the guard range (R257). -/
def goodRead (i : Instr) (a : PolyArgs) (k : Nat) (v : VWord) : Bool :=
  match i, ptrE a.ptr with
  | .pack _ _ _, some f => inGuard (packElem f a k v) a.width
  | _, _ => true

/-- The machine in which the reads of a piece have their banks, where the access before was of granule `g`. -/
def withBanks (g : Option Nat) (p : Nat × Nat) (s : State) : State :=
  if g == some (p.1 / 16) then s else takeBanks s s.cur.core 0 [p]

/-- A read has its bank or waits, and its value is good or traps: what is left of `polyTake` where no failing word and no watermark
meets it. -/
theorem polyTake_cons (i : Instr) (a : PolyArgs) (g : Option Nat) (p : Nat × Nat) (r : List (Nat × Nat)) (got : List VWord)
    {s : State} (hq : quietCore s = true) (hw : ∀ a n, wmBlocks s.myCore none a n = false) :
    polyTake i a g (p :: r) got s =
      if (g == some (p.1 / 16) || granted s.myCore 0 [p]) = false then .part got s
      else if goodRead i a got.length (readPiece s p) then
        polyTake i a (some (p.1 / 16)) r (got ++ [readPiece s p]) (withBanks g p s)
      else .trap (trapHere (withBanks g p s) .guard (wordOf got.length)) := by
  have hb : quietCore (withBanks g p s) = true ∧ (withBanks g p s).myCore.spad = s.myCore.spad ∧
      (withBanks g p s).cur = s.cur := by
    unfold withBanks
    split <;> simp [takeBanks_eq, hq]
  obtain ⟨hq', hs', hc'⟩ := hb
  have hcheck := spadCheck_of_quietCore hq' p.1 p.2
  rw [hc', withBanks] at hcheck
  rw [withBanks] at hs'
  rw [polyTake]
  simp only [hw, Bool.false_or, Bool.not_eq_true', hcheck, hs', Bool.not_true, Bool.false_eq_true, if_false, readPiece] <;> rfl

/-- The bank of piece `m` has served another granule in this clock, that of a piece from `first` on. -/
def bankTaken (pc : Nat → Nat × Nat) (first m : Nat) : Prop :=
  (pc (m - 1)).1 / 16 ≠ (pc m).1 / 16 ∧ ∃ k, first ≤ k ∧ k < m ∧ ∃ b ∈ banksOf [pc k], b ∈ banksOf [pc m]

/-- The values read from place `lo` to before `m` are good. -/
def goodReads (i : Instr) (a : PolyArgs) (rd : Nat → VWord) (lo m : Nat) : Prop :=
  ∀ k, lo ≤ k → k < m → goodRead i a k (rd k) = true

/-- What the reads of pieces 0 to n − 1 come to in a clock, where the values `got` are there and the clock began with piece
`first`: all are there, or one has to wait for its bank, or one is not good and traps. -/
def readsEnd (i : Instr) (a : PolyArgs) (pc : Nat → Nat × Nat) (n first : Nat) (got : List VWord) (s : State) : PolyRes → Prop
  | .done vs t => vs = fillTo (fun k => readPiece s (pc k)) got n ∧ goodReads i a (fun k => readPiece s (pc k)) got.length n ∧
      ∃ u l, t = grants u l s
  | .part vs t => ∃ m, got.length ≤ m ∧ m < n ∧ vs = fillTo (fun k => readPiece s (pc k)) got m ∧
      goodReads i a (fun k => readPiece s (pc k)) got.length m ∧ (∃ u l, t = grants u l s) ∧ bankTaken pc first m
  | .trap t => ∃ m, got.length ≤ m ∧ m < n ∧ goodReads i a (fun k => readPiece s (pc k)) got.length m ∧
      goodRead i a m (readPiece s (pc m)) = false ∧ ∃ u l, t = trapHere (grants u l s) .guard (wordOf m)

section
variable {i : Instr} {a : PolyArgs} {pc : Nat → Nat × Nat} {n first : Nat} {s : State}

theorem goodReads_self {rd : Nat → VWord} {m : Nat} : goodReads i a rd m m := fun _ hlo hk => absurd hk (Nat.not_lt.mpr hlo)

theorem goodReads_snoc {rd : Nat → VWord} {lo m : Nat} (h : goodRead i a lo (rd lo) = true) (hr : goodReads i a rd (lo + 1) m) :
    goodReads i a rd lo m := fun k hlo hk =>
  (Nat.eq_or_lt_of_le hlo).elim (fun e => e ▸ h) fun hlt => hr k hlt hk

/-- A good value more has been read. -/
theorem readsEnd_snoc {got : List VWord} {r : PolyRes} (hlt : got.length < n)
    (hgood : goodRead i a got.length (readPiece s (pc got.length)) = true)
    (h : readsEnd i a pc n first (got ++ [readPiece s (pc got.length)]) s r) : readsEnd i a pc n first got s r := by
  have hl : (got ++ [readPiece s (pc got.length)]).length = got.length + 1 := by simp
  have hf {m : Nat} (hm : got.length < m) := fillTo_snoc (fun k => readPiece s (pc k)) got hm
  cases r with
  | done vs t =>
    obtain ⟨hv, hg, ht⟩ := h
    rw [hl] at hg
    exact ⟨hv.trans (hf hlt), goodReads_snoc hgood hg, ht⟩
  | part vs t =>
    obtain ⟨m, hm, hmn, hv, hg, ht⟩ := h
    rw [hl] at hm hg
    exact ⟨m, by omega, hmn, hv.trans (hf hm), goodReads_snoc hgood hg, ht⟩
  | trap t =>
    obtain ⟨m, hm, hmn, hg, ht⟩ := h
    rw [hl] at hm hg
    exact ⟨m, by omega, hmn, goodReads_snoc hgood hg, ht⟩

theorem withBanks_grants (g : Option Nat) (p : Nat × Nat) (u : List Nat) (l : Map Nat) (s : State) : ∃ u' l',
    withBanks g p (grants u l s) = grants u' l' s ∧ ∀ b ∈ u', b ∈ u ∨ b ∈ banksOf [p] := by
  unfold withBanks
  split
  · exact ⟨u, l, rfl, fun b hb => .inl hb⟩
  · exact ⟨_, _, (takeBanks_eq ..).trans (grants_grants ..), fun b hb => by simpa [or_comm] using hb⟩

theorem granted_or_taken {u : List Nat} {l : Map Nat} (hwin : s.myCore.bankWin = []) (p : Nat × Nat)
    (h : granted (grants u l s).myCore 0 [p] = false) : ∃ b ∈ banksOf [p], b ∈ u := by
  simp only [granted, grants_myCore, hwin, mget_nil, Bool.and_true, List.all_eq_false] at h
  obtain ⟨b, hb, hu⟩ := h
  exact ⟨b, hb, by simpa using hu⟩

variable (hq : quietCore s = true) (hw : ∀ a n, wmBlocks s.myCore none a n = false)
include hq hw

/-- Once a clock has begun with a read, where the banks that have granted are those of pieces from `first` on. -/
theorem polyTake_goesOn (hwin : s.myCore.bankWin = []) (cnt : Nat) : ∀ (got : List VWord) (u : List Nat) (l : Map Nat),
    got.length + cnt = n → first < got.length →
    (∀ b ∈ u, ∃ k, first ≤ k ∧ k < got.length ∧ b ∈ banksOf [pc k]) →
    readsEnd i a pc n first got s (polyTake i a (some ((pc (got.length - 1)).1 / 16)) ((List.range' got.length cnt).map pc) got
      (grants u l s)) := by
  induction cnt with
  | zero =>
    rintro got u l rfl - -
    exact ⟨(fillTo_self _ got).symm, goodReads_self, u, l, rfl⟩
  | succ cnt ih =>
    intro got u l hn hfirst hu
    have hread : readPiece (grants u l s) (pc got.length) = readPiece s (pc got.length) := by simp [readPiece]
    have hwm : ∀ a n, wmBlocks (grants u l s).myCore none a n = false := fun a n => (wmBlocks_grants ..).trans (hw a n)
    rw [List.range'_succ, List.map_cons, polyTake_cons i a _ _ _ _ ((quietCore_grants u l s).trans hq) hwm, hread]
    obtain ⟨u', l', hb, hu'⟩ := withBanks_grants (some ((pc (got.length - 1)).1 / 16)) (pc got.length) u l s
    rw [hb]
    split
    next hwait =>
      rw [Bool.or_eq_false_iff] at hwait
      obtain ⟨hg, hno⟩ := hwait
      obtain ⟨b, hbm, hbu⟩ := granted_or_taken hwin _ hno
      obtain ⟨k, hk1, hk2, hbk⟩ := hu b hbu
      exact ⟨got.length, le_rfl, by omega, (fillTo_self _ got).symm, goodReads_self, ⟨u, l, rfl⟩,
        by simpa using hg, k, hk1, hk2, b, hbk, hbm⟩
    next =>
      split
      next hgood =>
        have hl : (got ++ [readPiece s (pc got.length)]).length = got.length + 1 := by simp
        have hrest := ih (got ++ [readPiece s (pc got.length)]) u' l' (by omega) (by omega) fun b hbu => by
          rcases hu' b hbu with h | h
          · obtain ⟨k, hk1, hk2, hbk⟩ := hu b h
            exact ⟨k, hk1, by omega, hbk⟩
          · exact ⟨got.length, hfirst.le, by omega, h⟩
        rw [hl] at hrest
        exact readsEnd_snoc (by omega) hgood hrest
      next hbad =>
        exact ⟨got.length, le_rfl, by omega, goodReads_self, Bool.eq_false_of_not_eq_true hbad,
          u', l', rfl⟩

/-- A clock in which the banks are free begins with the next read. -/
theorem polyTake_begins (hfree : banksFree s.myCore = true) (got : List VWord) (hlt : got.length < n) :
    readsEnd i a pc n got.length got s
      (polyTake i a none ((List.range' got.length (n - got.length)).map pc) got s) := by
  obtain ⟨cnt, rfl⟩ := Nat.exists_eq_add_of_lt hlt
  have hc : got.length + cnt + 1 - got.length = cnt + 1 := by omega
  rw [hc, List.range'_succ, List.map_cons, polyTake_cons i a _ _ _ _ hq hw, granted_of_banksFree hfree]
  simp only [banksFree, Bool.and_eq_true, List.isEmpty_iff] at hfree
  obtain ⟨hused, hwin⟩ := hfree
  obtain ⟨l, hb⟩ : ∃ l, withBanks none (pc got.length) s = grants (banksOf [pc got.length]) l s :=
    ⟨_, (takeBanks_eq ..).trans (by rw [hused, List.append_nil])⟩
  rw [hb, Bool.or_true, if_neg Bool.noConfusion]
  split
  next hgood =>
    have hl : (got ++ [readPiece s (pc got.length)]).length = got.length + 1 := by simp
    have hrest := polyTake_goesOn (i := i) (a := a) (pc := pc) (n := got.length + cnt + 1) (first := got.length) hq hw hwin cnt
      (got ++ [readPiece s (pc got.length)]) (banksOf [pc got.length]) l (by omega) (by omega)
      fun b hb => ⟨got.length, le_rfl, by omega, hb⟩
    rw [hl] at hrest
    exact readsEnd_snoc (by omega) hgood hrest
  next hbad =>
    exact ⟨got.length, le_rfl, by omega, goodReads_self, Bool.eq_false_of_not_eq_true hbad,
      _, _, rfl⟩

end

/-! Bits of a signed number, and what R35 takes of them. -/

theorem sextI_congr {x y : Int} {w : Nat} (h : x % (2 ^ w : Nat) = y % (2 ^ w : Nat)) : sextI x w = sextI y w := by
  simp only [sextI, lowBits, h]

/-- The carry that R35 adds to a coefficient is bit 0 of the number from that bit on. -/
theorem intBit_eq (p : Int) (n : Nat) : (intBit p n : Int) = p / (2 ^ n : Nat) % 2 :=
  Int.toNat_of_nonneg (Int.emod_nonneg _ (by decide))

/-- Two numbers that agree in w + 1 bits agree in the upper w of them with the lowest added. -/
theorem emod_half_add {x y : Int} {w : Nat} (h : x % (2 ^ (w + 1) : Nat) = y % (2 ^ (w + 1) : Nat)) :
    (x / 2 + x % 2) % (2 ^ w : Nat) = (y / 2 + y % 2) % (2 ^ w : Nat) := by
  obtain ⟨t, ht⟩ := Int.ModEq.dvd (show y ≡ x [ZMOD (2 ^ (w + 1) : Nat)] from h.symm)
  have hx : x / 2 + x % 2 = y / 2 + y % 2 + (2 ^ w : Nat) * t := by
    push_cast [pow_succ] at ht ⊢
    rw [mul_right_comm] at ht
    omega
  rw [hx, Int.add_mul_emod_self_left]

/-- R35 reads the bits from j·w − 1 (or 0) to j·w + w − 1 alone. -/
theorem polyExtract_congr {p q : Int} {w j lo : Nat} (hlo : lo = j * w - 1)
    (h : p / (2 ^ lo : Nat) % (2 ^ (j * w + w - lo) : Nat) = q / (2 ^ lo : Nat) % (2 ^ (j * w + w - lo) : Nat)) :
    polyExtract p w j = polyExtract q w j := by
  refine sextI_congr ?_
  rcases hk : j * w with _ | k
  · simpa [hlo, hk] using h
  · have hlo : lo = k := by omega
    have hw : k + 1 + w - k = w + 1 := by omega
    rw [hk, hlo, hw] at h
    have hdiv (x : Int) : x / (2 ^ (k + 1) : Nat) = x / (2 ^ k : Nat) / 2 := by
      rw [Int.ediv_ediv_of_nonneg (by positivity)]
      norm_cast
    simp only [Nat.succ_ne_zero, if_false, Nat.add_sub_cancel, intBit_eq, hdiv]
    exact emod_half_add h

/-- A signed number is its bits but for a multiple of 2^len. -/
theorem sextN_eq {n len : Nat} (hn : n < 2 ^ len) :
    sextN n len = (n : Int) - (2 ^ len : Nat) * (if 2 ^ (len - 1) ≤ n ∧ 0 < len then 1 else 0) := by
  simp only [sextN, Nat.mod_eq_of_lt hn]
  split <;> simp

/-- Bits below a place leave the quotient at it alone. -/
theorem add_ediv_of_dvd {q : Int} {r c lo : Nat} (hr : r < 2 ^ c) (hq : ((2 ^ c : Nat) : Int) ∣ q) (hlo : c ≤ lo) :
    (q + r) / (2 ^ lo : Nat) = q / (2 ^ lo : Nat) := by
  obtain ⟨d, rfl⟩ := hq
  obtain ⟨e, rfl⟩ := Nat.exists_eq_add_of_le hlo
  have hpos : ((2 ^ c : Nat) : Int) ≠ 0 := by positivity
  have hrc : (r : Int) / (2 ^ c : Nat) = 0 := by norm_cast; exact Nat.div_eq_of_lt hr
  rw [pow_add, Nat.cast_mul, ← Int.ediv_ediv_of_nonneg (by positivity), ← Int.ediv_ediv_of_nonneg (by positivity),
    Int.add_ediv_of_dvd_left (Dvd.intro _ rfl), hrc, add_zero]

/-- R258, R259: a coefficient of an image of which only some bits are there, those from c to e − 1, is that of the whole image
where its bits are among them, or where they reach the top of the image. -/
theorem polyExtract_of_part {n part r z c e len w j : Nat} (hn : n = part + r + 2 ^ e * z) (hlt : n < 2 ^ len) (hr : r < 2 ^ c)
    (hpart : 2 ^ c ∣ part) (hce : c < e) (hel : e ≤ len) (hlo : c ≤ j * w - 1) (hw : 0 < w) (he : e = len ∨ j * w + w ≤ e) :
    polyExtract (sextN part len) w j = polyExtract (sextN n len) w j := by
  have hpl : part < 2 ^ len := by omega
  have hdvd : ((2 ^ c : Nat) : Int) ∣ sextN part len := by
    rw [sextN_eq hpl]
    exact dvd_sub (Int.natCast_dvd_natCast.mpr hpart)
      (Dvd.dvd.mul_right (Int.natCast_dvd_natCast.mpr (pow_dvd_pow 2 (by omega))) _)
  refine polyExtract_congr rfl ?_
  rcases he with rfl | he
  · have hz : z = 0 := by
      by_contra h
      have : 2 ^ e * 1 ≤ 2 ^ e * z := Nat.mul_le_mul_left _ (by omega)
      omega
    have htop : 2 ^ (e - 1) ≤ n ↔ 2 ^ (e - 1) ≤ part := by
      obtain ⟨d, hd⟩ := hpart
      obtain ⟨f, hf⟩ := Nat.exists_eq_add_of_le (show c ≤ e - 1 by omega)
      rw [hn, hz, hd, hf, pow_add]
      refine ⟨fun h => ?_, fun h => by omega⟩
      by_contra hlt
      have hmul := Nat.mul_le_mul_left (2 ^ c) (Nat.lt_of_mul_lt_mul_left (Nat.lt_of_not_le hlt))
      rw [Nat.succ_eq_add_one, Nat.mul_add] at hmul
      omega
    have hs : sextN n e = sextN part e + r := by
      rw [sextN_eq hlt, sextN_eq hpl]
      simp only [htop]
      rw [hn, hz]; push_cast; ring
    rw [hs, add_ediv_of_dvd hr hdvd hlo]
  · obtain ⟨y, hy⟩ : ∃ y : Int, sextN n len = sextN part len + r + (2 ^ e : Nat) * y := by
      obtain ⟨f, rfl⟩ := Nat.exists_eq_add_of_le hel
      rw [sextN_eq hlt, sextN_eq hpl, pow_add]
      generalize (if 2 ^ (e + f - 1) ≤ n ∧ 0 < e + f then (1 : Int) else 0) = b
      generalize (if 2 ^ (e + f - 1) ≤ part ∧ 0 < e + f then (1 : Int) else 0) = b'
      refine ⟨z - (2 ^ f : Nat) * (b - b'), ?_⟩
      rw [hn]; push_cast; ring
    obtain ⟨f, rfl⟩ := Nat.exists_eq_add_of_le he
    have hsplit : 2 ^ (j * w + w + f) = 2 ^ (j * w - 1) * (2 ^ (j * w + w - (j * w - 1)) * 2 ^ f) := by
      rw [← pow_add, ← pow_add]
      congr 1
      omega
    rw [hy, hsplit, Nat.cast_mul, mul_assoc, Int.add_mul_ediv_left _ _ (by positivity), add_ediv_of_dvd hr hdvd hlo,
      Nat.cast_mul, mul_assoc, Int.add_mul_emod_self_left]

/-! Images and their words (R6, R257). -/

theorem memNat_lt (m : Memory) (a n : Nat) : memNat m a n < 2 ^ (8 * n) := by
  induction n generalizing a with
  | zero => simp [memNat]
  | succ n ih =>
    have hb := (memGet m a).isLt
    have hr := ih (a + 1)
    rw [memNat, show 8 * (n + 1) = 8 * n + 8 by ring, pow_add]
    omega

/-- Bytes read in two runs. -/
theorem memNat_add (m : Memory) (a i j : Nat) : memNat m a (i + j) = memNat m a i + 2 ^ (8 * i) * memNat m (a + i) j := by
  induction i generalizing a with
  | zero => simp [memNat]
  | succ i ih =>
    rw [Nat.add_right_comm, memNat, memNat, ih, show a + 1 + i = a + (i + 1) by ring, show 8 * (i + 1) = 8 * i + 8 by ring,
      pow_add]
    ring

/-- Word k of those that a polynomial instruction reads of an image, from word `k0` of it on. -/
def wordPiece (at_ k0 k : Nat) : Nat × Nat := (at_ + 8 * (k0 + k), 8)

theorem wordPieces_from (at_ k0 m : Nat) :
    wordPieces at_ ((List.range m).map (k0 + ·)) = (List.range m).map (wordPiece at_ k0) := by
  simp [wordPieces, wordPiece, Function.comp_def]

theorem readPiece_word_toNat (s : State) (at_ k0 k : Nat) :
    (readPiece s (wordPiece at_ k0 k)).toNat = memNat s.myCore.spad (at_ + 8 * (k0 + k)) 8 :=
  Nat.mod_eq_of_lt ((memNat_lt _ _ 8).trans (by decide))

/-- Words k0 to k0 + m − 1 of an image give its bits from 64·k0 on. -/
theorem readImage_words (s : State) (len at_ k0 m : Nat) :
    readImage len ((List.range m).map (k0 + ·)) ((List.range m).map fun k => readPiece s (wordPiece at_ k0 k)) =
      sextN (2 ^ (64 * k0) * memNat s.myCore.spad (at_ + 8 * k0) (8 * m)) len := by
  rw [readImage, List.zip_map', List.map_map]
  congr 1
  induction m with
  | zero => simp [memNat]
  | succ m ih =>
    rw [List.range_succ, List.map_append, List.foldl_append, ih, Nat.mul_succ, memNat_add]
    simp only [List.map_cons, List.map_nil, List.foldl_cons, List.foldl_nil, Function.comp_def, readPiece_word_toNat]
    rw [Nat.mul_add 8, Nat.mul_add 64, pow_add, ← Nat.add_assoc at_, ← mul_assoc 8 8 m]
    ring

/-- R258, R259: a coefficient of the words read of an image is that of the whole image, where they hold its bits or reach the
top. -/
theorem polyExtract_readImage (s : State) {len at_ k0 m w j : Nat} (hm : 0 < m) (hlen : 64 * (k0 + m) ≤ len) (h64 : len % 64 = 0)
    (hlo : 64 * k0 ≤ j * w - 1) (hw : 0 < w) (he : 64 * (k0 + m) = len ∨ j * w + w ≤ 64 * (k0 + m)) :
    polyExtract (readImage len ((List.range m).map (k0 + ·)) ((List.range m).map fun k => readPiece s (wordPiece at_ k0 k))) w j =
      polyExtract (sextN (memNat s.myCore.spad at_ (len / 8)) len) w j := by
  rw [readImage_words]
  have hsize : len / 8 = 8 * k0 + (8 * m + (len / 8 - 8 * (k0 + m))) := by omega
  refine polyExtract_of_part (r := memNat s.myCore.spad at_ (8 * k0))
    (z := memNat s.myCore.spad (at_ + 8 * k0 + 8 * m) (len / 8 - 8 * (k0 + m))) (c := 64 * k0) (e := 64 * (k0 + m)) ?_ ?_ ?_
    (Dvd.intro _ rfl) (by omega) hlen hlo hw he
  · rw [hsize, memNat_add, memNat_add]
    rw [← hsize, show 8 * (8 * k0) = 64 * k0 by ring, show 8 * (8 * m) = 64 * m by ring, Nat.mul_add 64, pow_add]
    ring
  · have := memNat_lt s.myCore.spad at_ (len / 8)
    rwa [Nat.mul_div_cancel' (by omega)] at this
  · have := memNat_lt s.myCore.spad at_ (8 * k0)
    rwa [← mul_assoc] at this

theorem banksOf_word {a : Nat} (h : a % 8 = 0) : banksOf [(a, 8)] = [a / 16 % 32] := by
  have : (a + 8 + 15) / 16 - a / 16 = 1 := by omega
  simp [banksOf, this]

/-- The words of an image lie in few granules in order, so that no bank is asked for two of them. -/
theorem not_bankTaken_words {at_ k0 m : Nat} (h8 : at_ % 8 = 0) (hm : m < 18) : ¬ bankTaken (wordPiece at_ k0) 0 m := by
  rintro ⟨hne, k, -, hk, b, hbk, hbm⟩
  have ha (k : Nat) : (at_ + 8 * (k0 + k)) % 8 = 0 := by omega
  simp only [wordPiece, banksOf_word (ha _), List.mem_singleton] at hne hbk hbm
  omega

section
variable {i : Instr} {a : PolyArgs} {s : State} (hq : quietCore s = true)
  (hw : ∀ a n, wmBlocks s.myCore none a n = false) (hfree : banksFree s.myCore = true) (hgood : ∀ k v, goodRead i a k v = true)
include hq hw hfree hgood

/-- The words of an image are read in one clock in which the banks are free. -/
theorem polyTake_words {at_ : Nat} (h8 : at_ % 8 = 0) (k0 : Nat) {n : Nat} (hn : 0 < n) (hn18 : n ≤ 18) : ∃ u l,
    polyTake i a none ((List.range n).map (wordPiece at_ k0)) [] s =
      .done ((List.range n).map fun k => readPiece s (wordPiece at_ k0 k)) (grants u l s) := by
  have h := polyTake_begins (i := i) (a := a) (pc := wordPiece at_ k0) (n := n) hq hw hfree [] hn
  rw [List.length_nil, Nat.sub_zero, ← List.range_eq_range'] at h
  cases hr : polyTake i a none ((List.range n).map (wordPiece at_ k0)) [] s with
  | done vs t =>
    rw [hr] at h
    obtain ⟨rfl, -, u, l, rfl⟩ := h
    exact ⟨u, l, by rw [fillTo_nil]⟩
  | part vs t =>
    rw [hr] at h
    obtain ⟨m, -, hm, -, -, -, ht⟩ := h
    exact absurd ht (not_bankTaken_words h8 (by omega))
  | trap t =>
    rw [hr] at h
    obtain ⟨m, -, -, -, hbad, -⟩ := h
    exact absurd (hgood m _) (ne_true_of_eq_false hbad)

end

/-! The checks at issue. -/

theorem tagFail_of_match (k : Core) (key a n : Nat) (h : ∀ j < n, tagMatch (tagAt k (a + j)) key = true) :
    tagFail k key a n = none := by
  induction n generalizing a with
  | zero => rfl
  | succ n ih =>
    have h0 : tagMatch (tagAt k a) key = true := h 0 n.succ_pos
    rw [tagFail, if_pos h0]
    exact ih (a + 1) fun j hj => by simpa [Nat.add_assoc, Nat.add_comm 1] using h (j + 1) (Nat.succ_lt_succ hj)

/-- A piece of a range whose tags pass passes (R162). -/
theorem tagFail_of_tagsPass {s : State} {base : Word} {a n : Nat} (h : tagsPass s base a n = true) {b m : Nat} (hb : a ≤ b)
    (hm : b + m ≤ a + n) : tagFail s.myCore (ptrKey base) b m = none := by
  refine tagFail_of_match _ _ _ _ fun j hj => ?_
  have := List.all_eq_true.mp h (b - a + j) (List.mem_range.mpr (by omega))
  rwa [← Nat.add_assoc, Nat.add_sub_cancel' hb] at this

theorem withTags_pass {s : State} {key : Nat} {ps : List (Nat × Nat)} (h : ∀ p ∈ ps, tagFail s.myCore key p.1 p.2 = none)
    (go : State → State) : withTags s key ps go = go s := by
  rw [withTags, List.findSome?_eq_none_iff.mpr h]

/-- A piece of the scratchpad passes the address check (R150, R151). -/
theorem localAddr_piece (s : State) (base : Word) {a n : Nat} (hn : 0 < n) (ha : a + n ≤ 0x80000) :
    localAddr s base ((a : Int) - ptrAddr base) n 1 = .ok a := by
  have hfirst : (ptrAddr base : Int) + ((a : Int) - ptrAddr base) = a := by ring
  have hlast : ((a : Int) + n - 1).toNat = a + n - 1 := by omega
  have hreg : regionCheck (a : Int) ((a : Int) + n - 1) = .ok := by
    have h1 : a < 0x80000 := by omega
    have h2 : a + n - 1 < 0x80000 := by omega
    have h3 : ¬((a : Int) < 0 ∨ ((2 ^ 52 : Nat) : Int) ≤ (a : Int) + n - 1) := by omega
    simp only [regionCheck, if_neg h3, hlast, Int.toNat_natCast, regionOf, if_pos h1, if_pos h2, ne_eq, not_true, if_false,
      Reg148.hole, Bool.false_eq_true]
  simp only [localAddr, hfirst, hreg, trapRegion, Int.toNat_natCast, Nat.mod_one, ne_eq, not_true, if_false]
  rw [if_neg (by omega)]

theorem piecesTrap_of_spad (s : State) (base : Word) {ps : List (Nat × Nat)}
    (h : ∀ p ∈ ps, 0 < p.2 ∧ p.1 + p.2 ≤ 0x80000) : piecesTrap s base ps = none := by
  refine List.findSome?_eq_none_iff.mpr fun p hp => ?_
  obtain ⟨hn, ha⟩ := h p hp
  rw [localAddr_piece s base hn ha]

/-! The reads and the end of a polynomial instruction that waits. -/

theorem polyReady_of_free {s : State} (hclear : localClear s = true) (hfree : banksFree s.myCore = true) (i : Instr) (b : Blk) :
    polyReady i b s = true := by
  rw [polyReady, polyDue, earlierLocal_of_localClear hclear]
  cases (polyLeft i b s).head? <;> simp [wmBlocks_of_localClear hclear, granted_of_banksFree hfree]

theorem contPoly_reads {i : Instr} {b : Blk} {s : State} (hb : b.stage = 1) (h : polyReady i b s = true) :
    contPoly i b s = polyRead i b s := by
  simp [contPoly, polyGoes, hb, h]

theorem contPoly_holds {i : Instr} {b : Blk} {s : State} (hb : b.stage = 1) (h : polyReady i b s = false) :
    contPoly i b s = s := by
  simp [contPoly, polyGoes, hb, h]

/-- The operands of a polynomial instruction in the context of a state. -/
def argsIn (s : State) (p y : Word) : PolyArgs := { ptr := p, x2 := y, width := s.me.pwidth }

@[simp] theorem argsIn_ptr (s : State) (p y : Word) : (argsIn s p y).ptr = p := rfl
@[simp] theorem argsIn_width (s : State) (p y : Word) : (argsIn s p y).width = s.me.pwidth := rfl
@[simp] theorem argsIn_index (s : State) (p y : Word) : (argsIn s p y).index = y.toNat % 2 ^ 16 := rfl
@[simp] theorem argsIn_off (s : State) (p y : Word) : (argsIn s p y).off = y.toNat % 2 ^ 19 := rfl
@[simp] theorem argsIn_count (s : State) (p y : Word) : (argsIn s p y).count = y.toNat / 2 ^ 32 % 2 ^ 16 := rfl

theorem polyArgs_pair (s : State) (v y : Word) (r : List VWord) :
    polyArgs s (v128 v :: v128 y :: r) = argsIn s v y := by
  simp [polyArgs, argsIn, arg, w64_v128]

theorem endsX_grants (u : List Nat) (l : Map Nat) (d : Fin 48) (w : Word) (s : State) :
    endsX d w (grants u l s) = grants u l (endsX d w s) := (grants_updMe ..).symm

/-- The last access has been performed: the result is written, and nothing has to be pushed (R256). -/
theorem polyDone_eq {i : Instr} {d : Fin 48} (hd : polyDst i = .x d) {s : State} {b : Blk} (hb : s.me.blk = some b)
    (ho : b.outs = []) (w : Word) : polyDone i w s = endsX d w s := by
  have hx : (s.me.setX d w).blk = s.me.blk := by unfold Ctx.setX; split <;> rfl
  have hblk : (updBlk (s.updMe fun x => x.setX d w) fun b => { b with stage := 0 }).me.blk = some { b with stage := 0 } := by
    rw [updBlk_me, State.me_updMe, hx, hb]
    rfl
  rw [polyDone, hd, putS, doneOps, settleOps, hblk]
  simp only [true_or, if_true, ho, pushAll]
  rw [updBlk, complete, State.updMe_updMe, State.updMe_updMe]
  rfl

theorem wordOf_lowBits (x : Int) : wordOf (lowBits x 64) = BitVec.ofInt 64 x :=
  BitVec.eq_of_toNat_eq (by simp [wordOf, lowBits, BitVec.toNat_ofInt]; omega)

theorem wordOf_toNat {k : Nat} (h : k < 2 ^ 64) : (wordOf k).toNat = k := by
  rw [wordOf, BitVec.toNat_ofNat, Nat.mod_eq_of_lt h]

section
variable {i : Instr} {held : List VWord} {s : State} (eff : List VWord → State → State)

/-- A blocked polynomial instruction enters the stores that are left, as the queue has room (R257, R258). -/
theorem poly_enters {k : Nat} {acts : List StoreAct} (hwait : waitsIn i 2 (wordOf k) held s = true) (hk : k < 2 ^ 64)
    (hroom : s.myCore.storeQ.length < 8)
    (hacts : ∀ q : Blk, q.held = held → polyStores i (polyArgs s q.held) (polyVals i q) = acts) :
    ∃ t, waitOps i eff (contPoly i) s = .next t ∧ entersFrom i k acts s t := by
  obtain ⟨-, -, q, hblk, -, hst, -, haux, hheld⟩ := waitsIn_iff.mp hwait
  refine ⟨_, waitOps_of_waitsIn hwait hblk (by decide) (by decide) .., ?_⟩
  have hcont : contPoly i q s = enterStores (polyArgs s q.held) acts k s := by
    simp [contPoly, polyGoes, hst, hroom, hacts q hheld, haux, wordOf_toNat hk]
  rw [hcont]
  exact entersFrom_enterStores (standsIn_of_waitsIn hwait hblk) ..

/-- A blocked polynomial instruction whose stores are performed completes (R257, R258). -/
theorem poly_ends {d : Fin 48} {w : Word} (hwait : waitsIn i 3 0 held s = true) (hd : polyDst i = .x d)
    (hcont : ∀ q : Blk, q.held = held → q.stage = 3 → contPoly i q s = polyDone i w s) :
    waitOps i eff (contPoly i) s = .next (endsX d w s) := by
  obtain ⟨-, -, q, hblk, -, hst, ho, -, hheld⟩ := waitsIn_iff.mp hwait
  rw [waitOps_of_waitsIn hwait hblk (by decide) (by decide), hcont q hheld hst, polyDone_eq hd hblk ho]

end

/-- The bits of the image that an instruction reads, by its LONG bit at place `n` of its second operand (R257). -/
def longBits (n : Nat) (w : Word) : Nat := if w.toNat / 2 ^ n % 2 = 1 then 1152 else 576

theorem longBits_cases (n : Nat) (w : Word) : longBits n w = 576 ∨ longBits n w = 1152 := by
  unfold longBits
  split <;> simp

theorem pextLen_eq (p w : Word) (s : State) : (argsIn s p w).pextLen = longBits 16 w := by
  simp [PolyArgs.pextLen, imageBits, longBits, argsIn]

theorem unpackLen_eq (p w : Word) (s : State) : (argsIn s p w).unpackLen = longBits 48 w := by
  simp [PolyArgs.unpackLen, imageBits, longBits, argsIn]

/-! PEXT (R259). -/

/-- The words that PEXT reads of an image of `len` bits: `m` of them, from word `k0` on, which lie in the image and hold the bits
of coefficient j or reach the image's top (R259). -/
theorem pextWords_spec {len w j : Nat} (hlen : len = 576 ∨ len = 1152) (hw : 0 < w) : ∃ k0 m,
    pextWords len w j = (List.range m).map (k0 + ·) ∧ 0 < m ∧ 64 * (k0 + m) ≤ len ∧ 64 * k0 ≤ j * w - 1 ∧
      (64 * (k0 + m) = len ∨ j * w + w ≤ 64 * (k0 + m)) := by
  refine ⟨(coeffWords len w j).1, (coeffWords len w j).2 + 1 - (coeffWords len w j).1, rfl, ?_⟩
  unfold coeffWords
  generalize j * w = t
  by_cases h : len ≤ t - 1 <;> simp only [h, if_true, if_false] <;> omega

/-- The coefficient PEXT gives (R259). -/
def pextValue (s : State) (v w : Word) : Word :=
  BitVec.ofInt 64 (polyExtract (sextN (memNat s.myCore.spad (v.toNat % 2 ^ 52) (longBits 16 w / 8)) (longBits 16 w)) s.me.pwidth
    (w.toNat % 2 ^ 16))

theorem exec_pext (d x y : SOp) (s : State) :
    exec (.pext d x y) s = waitOps (.pext d x y) (effPext d x y) (contPoly (.pext d x y)) s := rfl

theorem instrLen_pext (d a b : Fin 48) : instrLen (.pext (.x d) (.x a) (.x b)) = 1 := rfl

section
variable {d a b : Fin 48} {v w : Word} {s : State}

theorem polyReads_pext {k0 m : Nat} (h : pextWords (longBits 16 w) s.me.pwidth (w.toNat % 2 ^ 16) = (List.range m).map (k0 + ·)) :
    polyReads (.pext (.x d) (.x a) (.x b)) (argsIn s v w) = (List.range m).map (wordPiece (v.toNat % 2 ^ 52) k0) := by
  change wordPieces _ (pextWords (argsIn s v w).pextLen s.me.pwidth (w.toNat % 2 ^ 16)) = _
  rw [pextLen_eq, h]
  exact wordPieces_from ..

/-- In a clock in which nothing holds its reads back, a blocked PEXT completes with the coefficient. -/
theorem pext_completes (hq : quietCore s = true) (hpw : 0 < s.me.pwidth)
    (hwait : waitsIn (.pext (.x d) (.x a) (.x b)) 1 0 [v128 v, v128 w] s = true) (h8 : v.toNat % 2 ^ 52 % 8 = 0)
    (hclear : localClear s = true) (hfree : banksFree s.myCore = true) : ∃ u l,
      exec (.pext (.x d) (.x a) (.x b)) s = .next (grants u l (endsX d (pextValue s v w) s)) := by
  obtain ⟨-, -, q, hblk, -, hst, ho, -, hheld⟩ := waitsIn_iff.mp hwait
  obtain ⟨k0, m, hws, hm, hlen, hlo, he⟩ := pextWords_spec (j := w.toNat % 2 ^ 16) (longBits_cases 16 w) hpw
  have hbits := longBits_cases 16 w
  obtain ⟨u, l, htake⟩ := polyTake_words (i := .pext (.x d) (.x a) (.x b))
    (a := argsIn s v w) hq (wmBlocks_of_localClear hclear) hfree (fun _ _ => rfl) h8 k0 hm
    (by omega)
  refine ⟨u, l, ?_⟩
  rw [exec_pext, waitOps_of_waitsIn hwait hblk (by decide) (by decide), contPoly_reads hst (polyReady_of_free hclear hfree _ _),
    polyRead, polyLeft, hheld, polyArgs_pair, polyReads_pext hws]
  simp only [List.length_cons, List.length_nil, List.drop_zero, Nat.reduceAdd, Nat.sub_self, List.drop_succ_cons]
  rw [htake]
  simp only [polyGot, pextLen_eq, argsIn_width, argsIn_index, hws]
  rw [polyDone_eq (d := d) rfl (by rw [grants_me]; exact hblk) ho, endsX_grants, wordOf_lowBits,
    polyExtract_readImage s hm hlen (by omega) hlo hpw he, pextValue]

theorem polyReady_of_head {i : Instr} {q : Blk} {p : Nat × Nat} (hp : (polyLeft i q s).head? = some p)
    (h : granted s.myCore 0 [p] = false) : polyReady i q s = false := by
  rw [polyReady, hp, Option.all_some, h, Bool.and_false]

/-- Where every bank has granted, a word waits (R144). -/
theorem granted_word_of_used (h : ∀ k : Nat, k < 32 → k ∈ s.myCore.bankUsed) (n : Nat) : granted s.myCore 0 [(n, 8)] = false := by
  have hspan : (n + 8 + 15) / 16 - n / 16 = (n + 8 + 15) / 16 - n / 16 - 1 + 1 := by omega
  refine List.all_eq_false.mpr ⟨n / 16 % 32, ?_, by simp [h _ (Nat.mod_lt _ (by decide))]⟩
  rw [banksOf, List.mem_dedup, List.flatMap_singleton, hspan, List.range_succ_eq_map]
  exact List.mem_cons_self

/-- Behind an unperformed access, and where every bank has granted, a blocked PEXT reads nothing. -/
theorem pext_holds (hpw : 0 < s.me.pwidth)
    (hwait : waitsIn (.pext (.x d) (.x a) (.x b)) 1 0 [v128 v, v128 w] s = true)
    (hno : earlierLocal s s.cur.core s.cur.slot s.nextId true = true ∨ ∀ k : Nat, k < 32 → k ∈ s.myCore.bankUsed) :
    exec (.pext (.x d) (.x a) (.x b)) s = .next s := by
  obtain ⟨-, -, q, hblk, -, hst, -, -, hheld⟩ := waitsIn_iff.mp hwait
  obtain ⟨k0, m, hws, hm, -⟩ := pextWords_spec (j := w.toNat % 2 ^ 16) (longBits_cases 16 w) hpw
  have hready : polyReady (.pext (.x d) (.x a) (.x b)) q s = false := by
    rcases hno with he | hused
    · simp [polyReady, polyDue, he]
    · refine polyReady_of_head (p := wordPiece (v.toNat % 2 ^ 52) k0 0) ?_ (granted_word_of_used hused _)
      obtain ⟨c, rfl⟩ := Nat.exists_eq_succ_of_ne_zero hm.ne'
      rw [polyLeft, hheld, polyArgs_pair, polyReads_pext hws, List.range_succ_eq_map]
      rfl
  rw [exec_pext, waitOps_of_waitsIn hwait hblk (by decide) (by decide), contPoly_holds hst hready]

/-- PEXT's checks pass at issue (R259). -/
theorem effPext_passes (hq : quietCore s = true) (hpw : 0 < s.me.pwidth) (h8 : v.toNat % 2 ^ 52 % 8 = 0)
    (hrange : v.toNat % 2 ^ 52 + longBits 16 w / 8 ≤ 0x80000)
    (htags : tagsPass s v (v.toNat % 2 ^ 52) (longBits 16 w / 8) = true) :
    effPext (.x d) (.x a) (.x b) [v128 v, v128 w] s = startPoly (.pext (.x d) (.x a) (.x b)) s := by
  obtain ⟨k0, m, hws, -, hlen, -⟩ := pextWords_spec (j := w.toNat % 2 ^ 16) (longBits_cases 16 w) hpw
  have hspad : ∀ p ∈ (List.range m).map (wordPiece (v.toNat % 2 ^ 52) k0), 0 < p.2 ∧ p.1 + p.2 ≤ 0x80000 := by
    simp only [List.mem_map, List.mem_range, wordPiece]
    rintro p ⟨k, hk, rfl⟩
    dsimp only
    omega
  have htag : ∀ p ∈ (List.range m).map (wordPiece (v.toNat % 2 ^ 52) k0), tagFail s.myCore (ptrKey v) p.1 p.2 = none := by
    simp only [List.mem_map, List.mem_range, wordPiece]
    rintro p ⟨k, hk, rfl⟩
    exact tagFail_of_tagsPass htags (by dsimp only; omega) (by dsimp only; omega)
  have h8' : ¬ ptrAddr (argsIn s v w).ptr % 8 ≠ 0 := not_not.mpr h8
  simp only [effPext, polyArgs_pair, polyReads_pext hws, if_neg h8', piecesTrap_of_spad s _ hspad, withWatch_of_quietCore hq]
  exact withTags_pass htag _

theorem effPext_misaligned (h8 : v.toNat % 2 ^ 52 % 8 ≠ 0) :
    effPext (.x d) (.x a) (.x b) [v128 v, v128 w] s = trapHere s .misaligned (wordOf (v.toNat % 2 ^ 52)) := by
  simp only [effPext, polyArgs_pair, argsIn, ptrAddr, if_pos h8]

end

theorem pextResult : Clause.PextResult := by
  intro d a b s hq hpw i p bits coeff n x
  have hr : ∀ o ∈ srcs i, o.port? = none := port?_of_regSrcs rfl
  refine ⟨fun hi h8 hrange htags => ?_, fun v w hwait h8 => ⟨fun hclear hfree => ?_, fun hno => ?_⟩, fun hi h8 hp => ?_⟩
  · have hpw' {st : Nat} : 0 < (blocks i st 0 (srcVals i s) s).me.pwidth := by rwa [blocks_pwidth hi]
    have hwait : waitsIn i 1 0 (srcVals i s) (blocks i 1 0 (srcVals i s) s) = true := waitsIn_blocks hi
    have hpass : effPext (.x d) (.x a) (.x b) (srcVals i s) (blocks i 0 0 (srcVals i s) s) =
        startPoly i (blocks i 0 0 (srcVals i s) s) :=
      effPext_passes ((quietCore_blocks hi).trans hq) hpw' h8 hrange ((tagsPass_blocks hi ..).trans htags)
    refine ⟨fun hclear hfree => ?_, fun hno => ?_⟩
    · obtain ⟨u, l, ht⟩ := pext_completes ((quietCore_blocks hi).trans hq) hpw' hwait h8 ((localClear_blocks hi).trans hclear)
        ((banksFree_blocks hi).trans hfree)
      refine ⟨u, l, ?_⟩
      have hs := settled_grants (settled_endsX (settled_of_waitsIn hwait (by decide) (by decide)).1 d
        (pextValue (blocks i 1 0 (srcVals i s) s) p (s.me.getX b))) u l
      refine (waitOps_starts hi hr hpass ht hs).trans ?_
      rw [endsX_blocks, pextValue, blocks_spad hi, blocks_pwidth hi]
      rfl
    · refine waitOps_starts hi hr hpass (pext_holds hpw' hwait ?_) (settled_of_waitsIn hwait (by decide) (by decide))
      rwa [blocks_cur hi, blocks_nextId hi, earlierLocal_blocks hi, blocks_bankUsed hi]
  · exact pext_completes hq hpw hwait h8 hclear hfree
  · exact pext_holds hpw hwait hno
  · have hmis : effPext (.x d) (.x a) (.x b) (srcVals i s) (blocks i 0 0 (srcVals i s) s) =
        trapHere (blocks i 0 0 (srcVals i s) s) .misaligned (wordOf n) := effPext_misaligned h8
    have ht := waitOps_traps (contPoly i) hi hr hp hmis
    rwa [instrLen_pext] at ht

/-! PACK (R33, R257). -/

/-- The piece of element k of a pointer to integers (R26). -/
def elemPiece (w : Nat) (p : Word) (k : Nat) : Nat × Nat :=
  let l := elementLoc (.int w) 0 (p.toNat % 2 ^ 52) k
  (l.byte, l.size)

/-- The element k of a pointer to integers, as PACK reads it. -/
def elemRead (s : State) (w : Nat) (p : Word) (k : Nat) : VWord := readPiece s (elemPiece w p k)

/-- The words of the image that PACK makes of n elements (R33, R257). -/
def packedWords (A : PolyArgs) (w n : Nat) (vals : List VWord) : List VWord :=
  (List.range 9).map fun k => BitVec.ofNat 128
    (lowBits (polyPack A.width ((List.range n).map fun k => packElem (.int w) A k (vals.getD k 0))) 576 / 2 ^ (64 * k) % 2 ^ 64)

/-- The stores of words at the image of a PACK. -/
def wordStores (y : Word) (words : List VWord) : List StoreAct :=
  (List.range 9).map fun k => .bytes (y.toNat % 2 ^ 19 + 8 * k) 8 (words.getD k 0) false

/-- Element k of a PACK lies in the guard range (R32). -/
def elemGood (s : State) (w : Nat) (p y : Word) (k : Nat) : Bool :=
  inGuard (packElem (.int w) (argsIn s p y) k (elemRead s w p k)) s.me.pwidth

/-- The elements from place `lo` to before `m` lie in the guard range. -/
def elemsGood (s : State) (w : Nat) (p y : Word) (lo m : Nat) : Prop := ∀ k, lo ≤ k → k < m → elemGood s w p y k = true

theorem exec_pack (d x y : SOp) (s : State) :
    exec (.pack d x y) s = waitOps (.pack d x y) (effPack d x y) (contPoly (.pack d x y)) s := rfl

theorem instrLen_pack (d a b : Fin 48) : instrLen (.pack (.x d) (.x a) (.x b)) = 1 := rfl

theorem contPoly_ends_pack {d x y : SOp} {q : Blk} {s : State} (hst : q.stage = 3) (hown : ownStores s = false) :
    contPoly (.pack d x y) q s = polyDone (.pack d x y) (w64 (q.held.getD 2 0)) s := by
  simp [contPoly, polyGoes, hst, hown]

section
variable {i : Instr} {d a b : Fin 48} {w n m : Nat} {p y : Word} {got vs : List VWord} {s t : State} {q : Blk}

theorem goodRead_pack (hf : ptrE p = some (.int w)) (k : Nat) :
    goodRead (.pack (.x d) (.x a) (.x b)) (argsIn s p y) k (readPiece s (elemPiece w p k)) = elemGood s w p y k := by
  simp [goodRead, argsIn, hf, elemGood, elemRead]

theorem goodReads_pack (hf : ptrE p = some (.int w)) {lo : Nat}
    (h : goodReads (.pack (.x d) (.x a) (.x b)) (argsIn s p y) (fun k => readPiece s (elemPiece w p k)) lo m) :
    elemsGood s w p y lo m := fun k hlo hk => (goodRead_pack hf k).symm.trans (h k hlo hk)

/-- `packReads` by cases: `m` values are there, and the clock has ended in a trap, a wait or the stores. -/
theorem packReads_of (hm : got.length ≤ m) (hmn : m ≤ n) (hlt : got.length < n → got.length < m)
    (htrap : ∀ k < m, got.length ≤ k → elemGood s w p y k = false → elemsGood s w p y got.length k → trapsPlainly s = true →
      ∃ u l, t = grants u l (enters 0x10 (wordOf k) ((s.me.blk.map Blk.pc).getD 0) ((s.me.blk.map Blk.len).getD 0) s))
    (hpart : elemsGood s w p y got.length m → m < n →
      waitsIn i 1 0 (v128 p :: v128 y :: fillTo (elemRead s w p) got m) t = true ∧ t.myCore.spad = s.myCore.spad ∧
        t.myCore.storeQ = s.myCore.storeQ)
    (hdone : elemsGood s w p y got.length m → m = n → t.myCore.spad = s.myCore.spad ∧ t.me.pc = s.me.pc ∧
      entersFrom i 0 (wordStores y (packedWords (argsIn s p y) w n (fillTo (elemRead s w p) got n))) s t) :
    packReads i w n y.toNat p y got s t := by
  have hout (k : Nat) (hk : k < n) :
      (decide (got.length ≤ k) && !inGuard (packElem (.int w) (argsIn s p y) k
        ((fillTo (elemRead s w p) got n).getD k 0)) s.me.pwidth) = (decide (got.length ≤ k) && !elemGood s w p y k) := by
    by_cases hg : got.length ≤ k
    · rw [getD_fillTo _ hg hk, elemGood]
    · simp [hg]
  have hall {k : Nat} (hk : k ≤ n) (h : ∀ j < k, (decide (got.length ≤ j) && !inGuard (packElem (.int w) (argsIn s p y) j
      ((fillTo (elemRead s w p) got n).getD j 0)) s.me.pwidth) = false) : elemsGood s w p y got.length k := fun j hj hjk => by
    have := h j hjk
    rw [hout j (by omega)] at this
    simpa [hj] using this
  refine ⟨m, hm, hmn, hlt, fun k hk hbad hfirst hp => ?_, fun h hlt => ?_, fun h he => ?_⟩
  · have hb := (hout k (by omega)).symm.trans hbad
    rw [Bool.and_eq_true, decide_eq_true_eq, Bool.not_eq_true'] at hb
    exact htrap k hk hb.1 hb.2 (hall (by omega) hfirst) hp
  · exact hpart (hall hmn h) hlt
  · exact hdone (hall hmn h) he

theorem polyReads_pack (hf : ptrE p = some (.int w)) :
    polyReads (.pack (.x d) (.x a) (.x b)) (argsIn s p y) = (List.range (y.toNat / 2 ^ 32 % 2 ^ 16)).map (elemPiece w p) := by
  simp only [polyReads, argsIn, hf]
  rfl

theorem polyVals_pack : polyVals (.pack (.x d) (.x a) (.x b)) q = q.held.drop 2 := rfl

theorem polyStores_pack (hvs : vs.length = 9) :
    polyStores (.pack (.x d) (.x a) (.x b)) (argsIn s p y) vs = wordStores y vs := by
  rw [polyStores, zipIdx_map_range (fun v k => StoreAct.bytes ((argsIn s p y).off + 8 * k) 8 v false) vs 0, hvs, argsIn_off,
    wordStores]

theorem polyGot_pack (hf : ptrE p = some (.int w)) (hvs : vs.length = n) :
    polyGot (.pack (.x d) (.x a) (.x b)) (argsIn s p y) vs t =
      enterStores (argsIn s p y) (wordStores y (packedWords (argsIn s p y) w n vs)) 0
        (holds (packedWords (argsIn s p y) w n vs) t) := by
  have hw : (List.range 9).map (fun k => BitVec.ofNat 128 (lowBits (polyPack (argsIn s p y).width
      (vs.zipIdx.map fun e => packElem (.int w) (argsIn s p y) e.2 e.1)) 576 / 2 ^ (64 * k) % 2 ^ 64)) =
      packedWords (argsIn s p y) w n vs := by
    rw [packedWords, zipIdx_map_range (fun v k => packElem (.int w) (argsIn s p y) k v) vs 0, hvs]
  simp only [polyGot, argsIn_ptr, hf]
  rw [hw, polyStores_pack (by simp [packedWords])]
  rfl

/-- With the last element PACK goes on to its stores. -/
theorem pack_done (hst : standsIn i q s) (hf : ptrE p = some (.int w)) (hn : got.length ≤ n) (ht : tookBanks s t)
    (hgood : elemsGood s w p y got.length n) :
    packReads i w n y.toNat p y got s
      (polyGot (.pack (.x d) (.x a) (.x b)) (argsIn s p y) (fillTo (elemRead s w p) got n) t) ∧
    settled (polyGot (.pack (.x d) (.x a) (.x b)) (argsIn s p y) (fillTo (elemRead s w p) got n) t) := by
  obtain ⟨hme, hspad, -⟩ := tookBanks_keeps ht
  rw [polyGot_pack hf (length_fillTo _ hn)]
  refine ⟨packReads_of hn le_rfl id (fun k hk hlo hbad _ _ => ?_) (fun _ h => absurd h (lt_irrefl n)) fun _ _ => ?_,
    enterStores_settled (standsIn_holds hst hme _) ..⟩
  · exact absurd (hgood k hlo hk) (ne_true_of_eq_false hbad)
  · refine ⟨(enterStores_spad ..).trans ((holds_spad ..).trans hspad), ?_, entersFrom_holds hst ht ..⟩
    rw [enterStores_me]
    exact (holds_pc ..).trans (congrArg Ctx.pc hme)

/-- A PACK whose next element has to wait for its bank keeps what it has read. -/
theorem pack_waits (hwait : waitsIn i 1 0 (v128 p :: v128 y :: got) s = true)
    (hm : got.length < m) (hmn : m < n) (ht : tookBanks s t)
    (hgood : elemsGood s w p y got.length m) :
    packReads i w n y.toNat p y got s (holds (fillTo (elemRead s w p) got m) t) ∧
    settled (holds (fillTo (elemRead s w p) got m) t) := by
  obtain ⟨hme, hspad, hsq⟩ := tookBanks_keeps ht
  have hwait' : waitsIn i 1 0 (v128 p :: v128 y :: fillTo (elemRead s w p) got m)
      (holds (fillTo (elemRead s w p) got m) t) = true := by
    obtain ⟨hh, hl, q, hq, hi, hs, ho, haux, hheld⟩ := waitsIn_iff.mp hwait
    rw [waitsIn_iff, holds, updBlk_me, hme, hq]
    exact ⟨hh, hl, _, rfl, hi, hs, ho, haux, congrArg (fun h => h.take 2 ++ fillTo (elemRead s w p) got m) hheld⟩
  refine ⟨packReads_of hm.le hmn.le (fun _ => hm) (fun k hk hlo hbad _ _ => ?_) (fun _ _ => ?_)
    (fun _ h => absurd hmn (h ▸ lt_irrefl m)), settled_of_waitsIn hwait' (by decide) (by decide)⟩
  · exact absurd (hgood k hlo hk) (ne_true_of_eq_false hbad)
  · exact ⟨hwait', (holds_spad ..).trans hspad, (holds_storeQ ..).trans hsq⟩

/-- A PACK traps at its first element outside the guard range. -/
theorem pack_traps (hm : got.length ≤ m) (hmn : m < n)
    (hgood : elemsGood s w p y got.length m)
    (hbad : elemGood s w p y m = false)
    (ht : trapsPlainly s = true → ∃ u l, t =
      grants u l (enters 0x10 (wordOf m) ((s.me.blk.map Blk.pc).getD 0) ((s.me.blk.map Blk.len).getD 0) s)) :
    packReads i w n y.toNat p y got s t := by
  have hno (h : elemsGood s w p y got.length (m + 1)) : False :=
    absurd (h m hm m.lt_succ_self) (ne_true_of_eq_false hbad)
  refine packReads_of (m := m + 1) (by omega) hmn (fun _ => by omega) (fun k hk hlo hk' hfirst hp => ?_)
    (fun h => (hno h).elim) fun h => (hno h).elim
  rcases Nat.lt_or_eq_of_le (Nat.le_of_lt_succ hk) with hkm | rfl
  · exact absurd (hgood k hlo hkm) (ne_true_of_eq_false hk')
  · exact ht hp

/-- What a blocked PACK comes to in a clock in which the banks are free. Where its trap is not entered at once, `packReads` says
nothing of the state it leaves. -/
theorem pack_clock (hq : quietCore s = true) (hclear : localClear s = true) (hfree : banksFree s.myCore = true)
    (hf : ptrE p = some (.int w)) (hn : got.length ≤ y.toNat / 2 ^ 32 % 2 ^ 16)
    (hwait : waitsIn (.pack (.x d) (.x a) (.x b)) 1 0 (v128 p :: v128 y :: got) s = true) :
    ∃ t, exec (.pack (.x d) (.x a) (.x b)) s = .next t ∧
      ((packReads (.pack (.x d) (.x a) (.x b)) w (y.toNat / 2 ^ 32 % 2 ^ 16) y.toNat p y got s t ∧ settled t) ∨
        ∀ t', packReads (.pack (.x d) (.x a) (.x b)) w (y.toNat / 2 ^ 32 % 2 ^ 16) y.toNat p y got s t') := by
  obtain ⟨hh, -, q, hblk, -, hst, -, -, hheld⟩ := waitsIn_iff.mp hwait
  have hstand := standsIn_of_waitsIn hwait hblk
  refine ⟨_, (exec_pack ..).trans (waitOps_of_waitsIn hwait hblk (by decide) (by decide) ..), ?_⟩
  rw [contPoly_reads hst (polyReady_of_free hclear hfree _ _), polyRead, polyLeft, hheld, polyArgs_pair,
    polyReads_pack hf, drop_pieces]
  simp only [List.length_cons, Nat.add_sub_cancel, List.drop_succ_cons, List.drop_zero, Nat.add_assoc, Nat.reduceAdd]
  generalize hr : polyTake _ _ _ _ _ _ = r
  rcases hn.lt_or_eq with hlt | heq
  · have hend := polyTake_begins (i := .pack (.x d) (.x a) (.x b)) (a := argsIn s p y) (pc := elemPiece w p) hq
      (wmBlocks_of_localClear hclear) hfree got hlt
    rw [hr] at hend
    cases r with
    | done vs t =>
      obtain ⟨rfl, hgood, ht⟩ := hend
      exact .inl (pack_done hstand hf hn (.inr ht) (goodReads_pack hf hgood))
    | part vs t =>
      obtain ⟨m, -, hmn, rfl, hgood, ht, -, k, hk, hkm, -⟩ := hend
      exact .inl (pack_waits hwait (hk.trans_lt hkm) hmn (.inr ht) (goodReads_pack hf hgood))
    | trap t =>
      obtain ⟨m, hm, hmn, hgood, hbad, u, l, rfl⟩ := hend
      have hgood := goodReads_pack hf hgood
      have hbad := (goodRead_pack hf m).symm.trans hbad
      by_cases hp : trapsPlainly s = true
      · have ht := trapHere_grants (u := u) (l := l) (cause := .guard) (value := wordOf m) hp hblk hh
        refine .inl ⟨pack_traps hm hmn hgood hbad fun _ => ⟨u, l, ?_⟩, ?_⟩
        · rw [ht, hblk]
          rfl
        · rw [ht]
          exact settled_grants (settled_enters hh ..) u l
      · exact .inr fun t' => pack_traps hm hmn hgood hbad fun h => absurd h hp
  · rw [← heq, Nat.sub_self, List.range'_zero, List.map_nil, polyTake] at hr
    subst hr
    have hdone := pack_done (d := d) (a := a) (b := b) (y := y) hstand hf hn (.inl rfl) fun k hlo hk => absurd hk (by omega)
    rw [← heq, fillTo_self] at hdone
    rw [← heq]
    exact .inl hdone

end

theorem ptrE_int_pos {p : Word} {w : Nat} (h : ptrE p = some (.int w)) : 0 < w := by
  unfold ptrE eFmtOf at h
  dsimp only at h
  split at h <;> simp at h <;> omega

theorem elemPiece_size (w : Nat) (p : Word) (k : Nat) : (elemPiece w p k).2 = (w + 7) / 8 := rfl

section
variable {d a b : Fin 48} {w n : Nat} {p y : Word} {s : State}

/-- The elements of a pointer whose bytes lie in the scratchpad, with tags that pass. -/
theorem elementsPass_pieces (hpos : 0 < w) (h : elementsPass s w p n = true) :
    ∀ e ∈ (List.range n).map (elemPiece w p), (0 < e.2 ∧ e.1 + e.2 ≤ 0x80000) ∧ tagFail s.myCore (ptrKey p) e.1 e.2 = none := by
  intro e he
  obtain ⟨k, hk, rfl⟩ := List.mem_map.mp he
  have hel := List.all_eq_true.mp h k hk
  rw [Bool.and_eq_true, decide_eq_true_eq] at hel
  refine ⟨⟨?_, hel.1⟩, tagFail_of_tagsPass hel.2 le_rfl le_rfl⟩
  rw [elemPiece_size]
  omega

theorem polyFormat_int (hf : ptrE p = some (.int w)) (hal : p.toNat % 2 ^ 52 % ((w + 7) / 8) = 0) :
    polyFormat s p = .ok (.int w) := by
  simp only [polyFormat, hf, ptrAddr, hal, if_true]

/-- PACK's address, watch and tag checks pass at issue; what is left is the count of elements. -/
theorem effPack_passes (hq : quietCore s = true) (hf : ptrE p = some (.int w)) (hal : p.toNat % 2 ^ 52 % ((w + 7) / 8) = 0)
    (h8 : y.toNat % 2 ^ 19 % 8 = 0) (hrange : y.toNat % 2 ^ 19 + 72 ≤ 0x80000)
    (hel : elementsPass s w p (y.toNat / 2 ^ 32 % 2 ^ 16) = true) :
    effPack (.x d) (.x a) (.x b) [v128 p, v128 y] s =
      if 576 / s.me.pwidth < y.toNat / 2 ^ 32 % 2 ^ 16 then trapHere s .guard (wordOf (576 / s.me.pwidth))
      else startPoly (.pack (.x d) (.x a) (.x b)) s := by
  have hin := elementsPass_pieces (ptrE_int_pos hf) hel
  have himg : ∀ e ∈ [(y.toNat % 2 ^ 19, 72)], 0 < e.2 ∧ e.1 + e.2 ≤ 0x80000 := by simpa using hrange
  have hreads := polyReads_pack (d := d) (a := a) (b := b) (y := y) (s := s) hf
  simp only [effPack, polyArgs_pair, argsIn_ptr, polyFormat_int hf hal, argsIn_off, h8, ne_eq, not_true, if_false, hreads,
    piecesTrap_of_spad s 0 himg, piecesTrap_of_spad s p fun e he => (hin e he).1, withWatch_of_quietCore hq,
    withTags_pass fun e he => (hin e he).2, argsIn_width, argsIn_count]

end

theorem packRuns : Clause.PackRuns := by
  intro d a b w s i p x n act
  refine ⟨fun hi hq hclear hf hal h8 hrange hel => ?_, fun got v y hwait hq hclear hfree hf hgot => ?_,
    fun ws v y k hwait hk hws hroom => ?_, fun ws v y hwait hown => ?_⟩
  · have hr : ∀ o ∈ srcs i, o.port? = none := port?_of_regSrcs rfl
    have hpass := effPack_passes (d := d) (a := a) (b := b) (s := blocks i 0 0 (srcVals i s) s) ((quietCore_blocks hi).trans hq)
      hf hal h8 hrange ((elementsPass_blocks hi ..).trans hel)
    rw [blocks_pwidth hi] at hpass
    refine ⟨fun hn hfree => ?_, fun hn hp => ?_⟩
    · obtain ⟨t, ht, hres⟩ := pack_clock ((quietCore_blocks hi).trans hq) ((localClear_blocks hi).trans hclear)
        ((banksFree_blocks hi).trans hfree) hf (got := []) (Nat.zero_le _) (waitsIn_blocks (vs := srcVals i s) hi)
      rcases hres with ⟨hres, hs⟩ | hany
      · exact ⟨t, waitOps_starts hi hr (hpass.trans (if_neg (Nat.not_lt.mpr hn))) ht hs, hres⟩
      · obtain ⟨t', ht'⟩ := waitOps_next i (effPack (.x d) (.x a) (.x b)) (contPoly i) s
        exact ⟨t', ht', hany t'⟩
    · have ht := waitOps_traps (contPoly i) hi hr hp (hpass.trans (if_pos hn))
      rwa [instrLen_pack] at ht
  · obtain ⟨t, ht, hres⟩ := pack_clock hq hclear hfree hf hgot hwait
    exact ⟨t, ht, hres.elim And.left fun h => h t⟩
  · refine poly_enters _ hwait (by omega) hroom fun q hheld => ?_
    rw [polyVals_pack, hheld, polyArgs_pair, List.drop_succ_cons, List.drop_succ_cons, List.drop_zero, polyStores_pack hws]
    rfl
  · exact poly_ends _ hwait rfl fun q hheld hst => by rw [contPoly_ends_pack hst hown, hheld]; rfl

/-! UNPACK (R258). -/

/-- The words that UNPACK reads of an image of `len` bits for n coefficients: the first `m`, which hold the bits of each or reach
the image's top (R258). -/
theorem unpackWords_spec {len w n : Nat} (hlen : len = 576 ∨ len = 1152) (hw : 0 < w) : ∃ m,
    unpackWords len w n = (List.range m).map (0 + ·) ∧ 64 * m ≤ len ∧
      (0 < n → 0 < m ∧ (64 * (0 + m) = len ∨ n * w ≤ 64 * (0 + m))) := by
  rcases Nat.eq_zero_or_pos n with rfl | hn
  · exact ⟨0, rfl, Nat.zero_le _, fun h => absurd h (lt_irrefl 0)⟩
  · have hpos : 0 < n * w := Nat.mul_pos hn hw
    refine ⟨(min (n * w) len - 1) / 64 + 1, ?_, by omega, fun _ => ⟨by omega, by omega⟩⟩
    rw [unpackWords, if_neg hn.ne']
    simp

/-- The coefficients of the image that UNPACK reads (R35, R258). -/
def unpackCoeff (s : State) (y : Word) (k : Nat) : Int :=
  polyExtract (sextN (memNat s.myCore.spad (y.toNat % 2 ^ 19) (longBits 48 y / 8)) (longBits 48 y)) s.me.pwidth k

theorem exec_unpack (d x y : SOp) (s : State) :
    exec (.unpack d x y) s = waitOps (.unpack d x y) (effUnpack d x y) (contPoly (.unpack d x y)) s := rfl

theorem contPoly_ends_unpack {d x y : SOp} {q : Blk} {s : State} (hst : q.stage = 3) (hown : ownStores s = false) :
    contPoly (.unpack d x y) q s = polyDone (.unpack d x y) (w64 (q.held.getLastD 0)) s := by
  simp [contPoly, polyGoes, hst, hown]

section
variable {d a b : Fin 48} {w n m : Nat} {p y : Word} {s t : State} {q : Blk}

theorem polyVals_unpack : polyVals (.unpack (.x d) (.x a) (.x b)) q = (q.held.drop 2).dropLast := rfl

theorem polyReads_unpack (h : unpackWords (longBits 48 y) s.me.pwidth (y.toNat / 2 ^ 32 % 2 ^ 16) = (List.range m).map (0 + ·)) :
    polyReads (.unpack (.x d) (.x a) (.x b)) (argsIn s p y) = (List.range m).map (wordPiece (y.toNat % 2 ^ 19) 0) := by
  change wordPieces _ (unpackWords (argsIn s p y).unpackLen s.me.pwidth (y.toNat / 2 ^ 32 % 2 ^ 16)) = _
  rw [unpackLen_eq, h]
  exact wordPieces_from ..

/-- The coefficients of the words read are those of the image. -/
theorem unpackCoeffs_eq (hpw : 0 < s.me.pwidth)
    (hws : unpackWords (longBits 48 y) s.me.pwidth (y.toNat / 2 ^ 32 % 2 ^ 16) = (List.range m).map (0 + ·))
    (hlen : 64 * m ≤ longBits 48 y)
    (hcover : 0 < y.toNat / 2 ^ 32 % 2 ^ 16 →
      0 < m ∧ (64 * (0 + m) = longBits 48 y ∨ y.toNat / 2 ^ 32 % 2 ^ 16 * s.me.pwidth ≤ 64 * (0 + m))) :
    unpackCoeffs (argsIn s p y) ((List.range m).map fun k => readPiece s (wordPiece (y.toNat % 2 ^ 19) 0 k)) =
      (List.range (y.toNat / 2 ^ 32 % 2 ^ 16)).map (unpackCoeff s y) := by
  have hbits := longBits_cases 48 y
  rw [unpackCoeffs, unpackLen_eq]
  refine List.map_congr_left fun k hk => ?_
  have hk : k < y.toNat / 2 ^ 32 % 2 ^ 16 := List.mem_range.mp hk
  obtain ⟨hm, he⟩ := hcover (by omega)
  have hkw : k * s.me.pwidth + s.me.pwidth ≤ y.toNat / 2 ^ 32 % 2 ^ 16 * s.me.pwidth := by
    rw [← Nat.succ_mul]
    exact Nat.mul_le_mul_right _ hk
  rw [argsIn_count, argsIn_width, hws]
  exact polyExtract_readImage s hm (by omega) (by omega) (by omega) hpw (by omega)

/-- The values UNPACK writes, and how many of them it clamped. -/
theorem unpackVals_eq (w n : Nat) (c : Nat → Int) : unpackVals (.int w) ((List.range n).map c) =
    ((List.range n).map fun k => v128 (BitVec.ofInt 64 (satInt (c k) w true)),
      (List.range n).countP fun k => c k != satInt (c k) w true) := by
  simp only [unpackVals, EFmt.width, List.map_map, Function.comp_def, List.zip_map', List.filter_map, List.length_map,
    List.countP_eq_length_filter, wordOf_lowBits]

theorem polyStores_unpack (A : PolyArgs) (vs : List VWord) :
    polyStores (.unpack (.x d) (.x a) (.x b)) A vs =
      (List.range vs.length).map fun k => StoreAct.elem A.ptr k (w64 (vs.getD k 0)) :=
  zipIdx_map_range (fun v k => StoreAct.elem A.ptr k (w64 v)) vs 0

/-- The element stores of n values. -/
def elemStores (p : Word) (n : Nat) (c : Nat → Int) : List StoreAct :=
  (List.range n).map fun k => .elem p k (BitVec.ofInt 64 (c k))

theorem polyStores_vals (c : Nat → Int) (A : PolyArgs) (n : Nat) :
    polyStores (.unpack (.x d) (.x a) (.x b)) A ((List.range n).map fun k => v128 (BitVec.ofInt 64 (c k))) =
      elemStores A.ptr n c := by
  rw [polyStores_unpack, List.length_map, List.length_range]
  refine List.map_congr_left fun k hk => ?_
  have hk : k < n := List.mem_range.mp hk
  simp [hk, w64_v128]

/-- With the last word UNPACK goes on to its stores, and keeps the number it clamped behind the values. -/
theorem polyGot_unpack (hf : ptrE p = some (.int w)) {got : List VWord} {c : Nat → Int}
    (hc : unpackCoeffs (argsIn s p y) got = (List.range n).map c) :
    polyGot (.unpack (.x d) (.x a) (.x b)) (argsIn s p y) got t =
      enterStores (argsIn s p y) (elemStores p n fun k => satInt (c k) w true) 0
        (holds ((List.range n).map (fun k => v128 (BitVec.ofInt 64 (satInt (c k) w true))) ++
          [BitVec.ofNat 128 ((List.range n).countP fun k => c k != satInt (c k) w true)]) t) := by
  simp only [polyGot, argsIn_ptr, hf, hc, unpackVals_eq, polyStores_vals, holds, List.append_assoc]

/-- The last of the values held stays there while the stores are entered. -/
theorem enterStores_last (hq : t.me.blk = some q) (A : PolyArgs) (acts : List StoreAct) (k : Nat) (vals : List VWord)
    (c : VWord) : (enterStores A acts k (holds (vals ++ [c]) t)).me.blk.map (fun q => q.held.getLastD 0) = some c := by
  rw [enterStores_me, holds, updBlk_me, hq]
  simp only [Option.map_some, Option.some.injEq]
  split <;> simp [← List.append_assoc]

theorem polyTake_words_or_none {i : Instr} {A : PolyArgs} (hq : quietCore s = true) (hclear : localClear s = true)
    (hfree : banksFree s.myCore = true) (hgood : ∀ k v, goodRead i A k v = true) {at_ : Nat} (h8 : at_ % 8 = 0) (k0 : Nat)
    (hm : m ≤ 18) : ∃ t, tookBanks s t ∧ polyTake i A none ((List.range m).map (wordPiece at_ k0)) [] s =
      .done ((List.range m).map fun k => readPiece s (wordPiece at_ k0 k)) t := by
  rcases Nat.eq_zero_or_pos m with rfl | hpos
  · exact ⟨s, .inl rfl, by rw [List.range_zero, List.map_nil, polyTake, List.map_nil]⟩
  · obtain ⟨u, l, h⟩ := polyTake_words hq (wmBlocks_of_localClear hclear) hfree hgood h8 k0 hpos hm
    exact ⟨_, .inr ⟨u, l, rfl⟩, h⟩

/-- In a clock in which nothing holds its reads back, a blocked UNPACK reads its image and goes on to its stores. -/
theorem unpack_clock (hq : quietCore s = true) (hclear : localClear s = true) (hfree : banksFree s.myCore = true)
    (hf : ptrE p = some (.int w)) (hpw : 0 < s.me.pwidth) (h8 : y.toNat % 2 ^ 19 % 8 = 0)
    (hwait : waitsIn (.unpack (.x d) (.x a) (.x b)) 1 0 [v128 p, v128 y] s = true) :
    ∃ t, exec (.unpack (.x d) (.x a) (.x b)) s = .next t ∧ settled t ∧
      entersFrom (.unpack (.x d) (.x a) (.x b)) 0
        (elemStores p (y.toNat / 2 ^ 32 % 2 ^ 16) fun k => satInt (unpackCoeff s y k) w true) s t ∧
      t.me.blk.map (fun q => q.held.getLastD 0) = some (BitVec.ofNat 128 ((List.range (y.toNat / 2 ^ 32 % 2 ^ 16)).countP fun k =>
        unpackCoeff s y k != satInt (unpackCoeff s y k) w true)) := by
  obtain ⟨-, -, q, hblk, -, hst, -, -, hheld⟩ := waitsIn_iff.mp hwait
  have hstand := standsIn_of_waitsIn hwait hblk
  obtain ⟨m, hws, hlen, hcover⟩ := unpackWords_spec (n := y.toNat / 2 ^ 32 % 2 ^ 16) (longBits_cases 48 y) hpw
  have hbits := longBits_cases 48 y
  obtain ⟨t, htook, htake⟩ := polyTake_words_or_none (i := .unpack (.x d) (.x a) (.x b)) (A := argsIn s p y) hq hclear hfree
    (fun _ _ => rfl) h8 0 (m := m) (by omega)
  obtain ⟨hme, -⟩ := tookBanks_keeps htook
  refine ⟨_, (exec_unpack ..).trans (waitOps_of_waitsIn hwait hblk (by decide) (by decide) ..), ?_⟩
  rw [contPoly_reads hst (polyReady_of_free hclear hfree _ _), polyRead, polyLeft, hheld, polyArgs_pair,
    polyReads_unpack hws]
  simp only [List.length_cons, List.length_nil, List.drop_zero, Nat.reduceAdd, Nat.sub_self, List.drop_succ_cons]
  rw [htake]
  dsimp only
  rw [polyGot_unpack hf (unpackCoeffs_eq hpw hws hlen hcover)]
  exact ⟨enterStores_settled (standsIn_holds hstand hme _) .., entersFrom_holds hstand htook ..,
    enterStores_last (hme ▸ hblk) ..⟩

/-- UNPACK's checks pass at issue (R258). -/
theorem effUnpack_passes (hq : quietCore s = true) (hf : ptrE p = some (.int w)) (hpw : 0 < s.me.pwidth)
    (hal : p.toNat % 2 ^ 52 % ((w + 7) / 8) = 0) (h8 : y.toNat % 2 ^ 19 % 8 = 0)
    (hrange : y.toNat % 2 ^ 19 + longBits 48 y / 8 ≤ 0x80000)
    (hel : elementsPass s w p (y.toNat / 2 ^ 32 % 2 ^ 16) = true)
    (htags : tagsPass s p (y.toNat % 2 ^ 19) (longBits 48 y / 8) = true) :
    effUnpack (.x d) (.x a) (.x b) [v128 p, v128 y] s = startPoly (.unpack (.x d) (.x a) (.x b)) s := by
  have hin := elementsPass_pieces (ptrE_int_pos hf) hel
  obtain ⟨m, hws, hlen, -⟩ := unpackWords_spec (n := y.toNat / 2 ^ 32 % 2 ^ 16) (longBits_cases 48 y) hpw
  have himg : ∀ e ∈ [(y.toNat % 2 ^ 19, longBits 48 y / 8)], 0 < e.2 ∧ e.1 + e.2 ≤ 0x80000 := by
    have := longBits_cases 48 y
    simp only [List.forall_mem_singleton]
    omega
  have hsrc : ∀ e ∈ (List.range m).map (wordPiece (y.toNat % 2 ^ 19) 0), tagFail s.myCore (ptrKey p) e.1 e.2 = none := by
    simp only [List.mem_map, List.mem_range, wordPiece]
    rintro e ⟨k, hk, rfl⟩
    exact tagFail_of_tagsPass htags (by dsimp only; omega) (by dsimp only; omega)
  have hreads := polyReads_unpack (d := d) (a := a) (b := b) (p := p) hws
  have hbits := unpackLen_eq p y s
  have hdst (n : Nat) : elemPiecesOf (.int w) p n = (List.range n).map (elemPiece w p) := rfl
  simp only [effUnpack, polyArgs_pair, argsIn_ptr, polyFormat_int hf hal, argsIn_off, h8, ne_eq, not_true, if_false, hreads,
    hbits, argsIn_count, hdst, piecesTrap_of_spad s 0 himg, piecesTrap_of_spad s p fun e he => (hin e he).1, withWatch_of_quietCore hq]
  exact withTags_pass hsrc _

end

theorem unpackRuns : Clause.UnpackRuns := by
  intro d a b w s i p x n bits goesOn
  refine ⟨fun hi hq hclear hf hpw hal h8 hrange hel htags hfree => ?_, fun v y hwait hq hclear hfree hf hpw h8 => ?_,
    fun ws v y c k hwait hk hlen hroom => ?_, fun ws hwait hown => ?_⟩
  · have hr : ∀ o ∈ srcs i, o.port? = none := port?_of_regSrcs rfl
    have hpw' {st : Nat} : 0 < (blocks i st 0 (srcVals i s) s).me.pwidth := by rwa [blocks_pwidth hi]
    have hpass := effUnpack_passes (d := d) (a := a) (b := b) (s := blocks i 0 0 (srcVals i s) s) ((quietCore_blocks hi).trans hq)
      hf hpw' hal h8 hrange ((elementsPass_blocks hi ..).trans hel) ((tagsPass_blocks hi ..).trans htags)
    obtain ⟨t, ht, hs, hstores, hlast⟩ := unpack_clock ((quietCore_blocks hi).trans hq) ((localClear_blocks hi).trans hclear)
      ((banksFree_blocks hi).trans hfree) hf hpw' h8 (waitsIn_blocks (vs := srcVals i s) hi)
    have hcoeff : unpackCoeff (blocks i 1 0 (srcVals i s) s) (s.me.getX b) = unpackCoeff s (s.me.getX b) := by
      funext k
      rw [unpackCoeff, blocks_spad hi, blocks_pwidth hi, unpackCoeff]
    rw [hcoeff] at hstores hlast
    exact ⟨t, waitOps_starts hi hr hpass ht hs, entersFrom_congr (blocks_storeQ hi) hstores, hlast⟩
  · obtain ⟨t, ht, -, hstores, hlast⟩ := unpack_clock hq hclear hfree hf hpw h8 hwait
    exact ⟨t, ht, hstores, hlast⟩
  · refine poly_enters _ hwait (by omega) hroom fun q hheld => ?_
    rw [polyVals_unpack, hheld, polyArgs_pair, List.drop_succ_cons, List.drop_succ_cons, List.drop_zero, List.dropLast_concat,
      polyStores_unpack, argsIn_ptr]
  · exact poly_ends _ hwait rfl fun q hheld hst => by rw [contPoly_ends_unpack hst hown, hheld]

/-- Settles O29, clause by clause. -/
theorem polynomialImages : Obligations.PolynomialImages := ⟨pextResult, packRuns, unpackRuns⟩

end Sys2Proof.Machine
end

section
/-! PROOFS. Decoding and encoding (R39 to R54): the codes of operands, the fields of a word, what each form reads and writes in
them, and the bytes and command words around them. -/

namespace Sys2Proof

/-! Field codes. -/

@[simp] theorem dirOf_dirNum (d : Dir) : dirOf (dirNum d) = d := by cases d <;> rfl

@[simp] theorem portOf_portNum (p : Port) : portOf (portNum p) = p := by
  rcases p with d | q | q | q
  · cases d <;> rfl
  all_goals
    revert q
    decide

theorem portNum_lt (p : Port) : portNum p < 16 := by
  rcases p with d | q | q | q
  · cases d <;> decide
  all_goals
    simp only [portNum]
    omega

theorem portNum_portOf {k : Nat} (h : k < 16) : portNum (portOf k) = k := by
  revert k
  decide

@[simp] theorem SOp.dec_enc (a : SOp) : SOp.dec a.enc = a := by
  cases a <;> simp [SOp.dec, SOp.enc]

@[simp] theorem SOp.enc_lt (a : SOp) : a.enc < 64 := by
  rcases a with r | p
  · simp only [SOp.enc]; omega
  · have := portNum_lt p
    simp only [SOp.enc]; omega

theorem SOp.enc_dec {k : Nat} (h : k < 64) : (SOp.dec k).enc = k := by
  unfold SOp.dec
  split
  · rfl
  · simp only [SOp.enc, portNum_portOf (show k - 48 < 16 by omega)]
    omega

@[simp] theorem VOp.dec_enc (a : VOp) : VOp.dec a.enc = some a := by
  cases a <;> simp [VOp.dec, VOp.enc]
  omega

@[simp] theorem VOp.enc_lt (a : VOp) : a.enc < 64 := by
  rcases a with r | p
  · simp only [VOp.enc]; omega
  · have := portNum_lt p
    simp only [VOp.enc]; omega

@[simp] theorem VOp.dec_zero : VOp.dec 0 = some (.v 0) := rfl

theorem VOp.enc_of_dec {k : Nat} {a : VOp} (hk : k < 64) (h : VOp.dec k = some a) : a.enc = k := by
  unfold VOp.dec at h
  split at h
  · cases h; rfl
  · split at h
    · cases h
    · cases h
      simp only [VOp.enc, portNum_portOf (show k - 48 < 16 by omega)]
      omega

@[simp] theorem VType.dec_enc (t : VType) : VType.dec t.enc = some t := by cases t <;> rfl
@[simp] theorem AmoOp.dec_enc (t : AmoOp) : AmoOp.dec t.enc = some t := by cases t <;> rfl
@[simp] theorem CmpOp.dec_enc (t : CmpOp) : CmpOp.dec t.enc = some t := by cases t <;> rfl
@[simp] theorem CvtFmt.dec_enc (t : CvtFmt) : CvtFmt.dec t.enc = some t := by cases t <;> rfl
@[simp] theorem CvtRnd.dec_enc (t : CvtRnd) : CvtRnd.dec t.enc = some t := by cases t <;> rfl
@[simp] theorem DotSign.dec_enc (t : DotSign) : DotSign.dec t.enc = some t := by cases t <;> rfl

theorem VType.enc_of_dec {k : Nat} {t : VType} (h : VType.dec k = some t) : t.enc = k := by
  unfold VType.dec at h; split at h <;> cases h <;> rfl
theorem AmoOp.enc_of_dec {k : Nat} {t : AmoOp} (h : AmoOp.dec k = some t) : t.enc = k := by
  unfold AmoOp.dec at h; split at h <;> cases h <;> rfl
theorem CmpOp.enc_of_dec {k : Nat} {t : CmpOp} (h : CmpOp.dec k = some t) : t.enc = k := by
  unfold CmpOp.dec at h; split at h <;> cases h <;> rfl
theorem CvtFmt.enc_of_dec {k : Nat} {t : CvtFmt} (h : CvtFmt.dec k = some t) : t.enc = k := by
  unfold CvtFmt.dec at h; split at h <;> cases h <;> rfl
theorem CvtRnd.enc_of_dec {k : Nat} {t : CvtRnd} (h : CvtRnd.dec k = some t) : t.enc = k := by
  unfold CvtRnd.dec at h; split at h <;> cases h <;> rfl
theorem DotSign.enc_of_dec {k : Nat} {t : DotSign} (h : DotSign.dec k = some t) : t.enc = k := by
  unfold DotSign.dec at h; split at h <;> cases h <;> rfl

@[simp] theorem VType.enc_lt (t : VType) : t.enc < 8 := by cases t <;> decide
theorem AmoOp.enc_lt (t : AmoOp) : t.enc < 11 := by cases t <;> decide
@[simp] theorem CmpOp.enc_lt (t : CmpOp) : t.enc < 64 := by cases t <;> decide
theorem CvtFmt.enc_lt (t : CvtFmt) : t.enc < 12 := by cases t <;> decide
theorem CvtRnd.enc_lt (t : CvtRnd) : t.enc < 3 := by cases t <;> decide
@[simp] theorem DotSign.enc_lt (t : DotSign) : t.enc < 64 := by cases t <;> decide

/-! Fields and words (R39 to R41). -/

/-- Fields that stand in some words: each fits its place, and those of a word that the length leaves out are zero (R39). -/
def Fields.canon (f : Fields) : Prop :=
  f.fits = true ∧ (f.len < 2 → f.noWord1 = true) ∧ (f.len ≠ 3 → f.lit = 0)

theorem Fields.canon_iff (f : Fields) : f.canon ↔
    (f.len < 4 ∧ f.maj < 64 ∧ f.d < 64 ∧ f.s1 < 64 ∧ f.s2 < 64 ∧ f.hi < 64 ∧ f.imm < 65536 ∧ f.xq < 64 ∧ f.s3 < 64 ∧ f.la < 16 ∧
      f.lit < 4294967296) ∧ (f.len < 2 → f.imm = 0 ∧ f.xq = 0 ∧ f.s3 = 0 ∧ f.la = 0) ∧ (f.len ≠ 3 → f.lit = 0) := by
  simp [Fields.canon, Fields.fits, Fields.noWord1, and_assoc]

/-- The decoder's fields of the words of some fields are those fields. -/
theorem Fields.ofWords_words {f : Fields} (h : f.canon) : Fields.ofWords f.word0 f.word1 f.lit = f := by
  rw [Fields.canon_iff] at h
  have hlen : f.word0 % 4 = f.len := by
    simp only [Fields.word0]
    omega
  have h1 : (if 2 ≤ f.len then f.word1 else 0) = f.word1 := by
    simp only [Fields.word1]
    split <;> omega
  have h2 : (if f.len = 3 then f.lit % 4294967296 else 0) = f.lit := by
    split <;> omega
  simp only [Fields.ofWords, hlen, h1, h2]
  clear hlen h1 h2
  obtain ⟨len, maj, d, s1, s2, hi, imm, xq, s3, la, lit⟩ := f
  simp only [Fields.word0, Fields.word1, Fields.mk.injEq] at h ⊢
  refine ⟨trivial, ?_, ?_, ?_, ?_, ?_, ?_, ?_, ?_, ?_, trivial⟩ <;> omega

/-- The fields that the decoder takes from words are such fields. -/
theorem Fields.canon_ofWords (w0 w1 w2 : Nat) : (Fields.ofWords w0 w1 w2).canon := by
  rw [Fields.canon_iff]
  simp only [Fields.ofWords]
  refine ⟨⟨?_, ?_, ?_, ?_, ?_, ?_, ?_, ?_, ?_, ?_, ?_⟩, fun h => ?_, fun h => if_neg h⟩
  case refine_11 => split <;> omega
  case refine_12 => simp [Nat.not_le.mpr h]
  all_goals omega

/-- The words of the decoder's fields are the words it has read. -/
theorem Fields.word0_ofWords {w0 : Nat} (h : w0 < 2 ^ 32) (w1 w2 : Nat) : (Fields.ofWords w0 w1 w2).word0 = w0 := by
  simp only [Fields.word0, Fields.ofWords]
  omega

theorem Fields.word1_ofWords {w0 w1 : Nat} (h2 : 2 ≤ w0 % 4) (h : w1 < 2 ^ 32) (w2 : Nat) :
    (Fields.ofWords w0 w1 w2).word1 = w1 := by
  simp only [Fields.word1, Fields.ofWords, if_pos h2]
  omega

theorem Fields.lit_ofWords {w0 w2 : Nat} (h3 : w0 % 4 = 3) (w1 : Nat) (h : w2 < 2 ^ 32) : (Fields.ofWords w0 w1 w2).lit = w2 := by
  simp only [Fields.ofWords, if_pos h3]
  omega

/-! The forms of instructions as fields. -/

section
variable {maj hi d s1 s2 : Nat}

theorem canon_fA (hm : maj < 64) (hh : hi < 64) (hd : d < 64) (ha : s1 < 64) (hb : s2 < 64) : (fA maj hi d s1 s2).canon := by
  simp [Fields.canon_iff, fA, *]

theorem canon_fI {imm : Nat} (hm : maj < 64) (hd : d < 64) (ha : s1 < 64) (hi : imm < 4096) : (fI maj d s1 imm).canon := by
  simp [Fields.canon_iff, fI, *]
  omega

theorem canon_fK {sub la : Nat} (hm : maj < 64) (hs : sub < 4) (hl : la < 16) (hd : d < 64) (ha : s1 < 64) (hb : s2 < 64) :
    (fK maj sub la d s1 s2).canon := by
  simp [Fields.canon_iff, fK, *]
  omega

theorem canon_fM {off : BitVec 8} {la : BitVec 4} (hm : maj < 64) (hd : d < 64) (ha : s1 < 64) : (fM maj d s1 off la).canon := by
  simp [Fields.canon_iff, fM, *]
  omega

theorem canon_fV {t : VType} {m : Fin 8} (hm : maj < 64) (hd : d < 64) (ha : s1 < 64) (hb : s2 < 64) :
    (fV maj t m d s1 s2).canon := by
  have := VType.enc_lt t
  simp [Fields.canon_iff, fV, *]
  omega

theorem canon_f64 {imm xq s3 la : Nat} (hm : maj < 64) (hh : hi < 64) (hd : d < 64) (ha : s1 < 64) (hb : s2 < 64)
    (himm : imm < 65536) (hx : xq < 64) (hc : s3 < 64) (hl : la < 16) : (f64 maj hi d s1 s2 imm xq s3 la).canon := by
  simp [Fields.canon_iff, f64, *]

theorem canon_f64V {t imm xq s3 la : Nat} {m : Fin 8} (hm : maj < 64) (ht : t < 8) (hd : d < 64) (ha : s1 < 64) (hb : s2 < 64)
    (himm : imm < 65536) (hx : xq < 64) (hc : s3 < 64) (hl : la < 16) : (f64V maj t m d s1 s2 imm xq s3 la).canon :=
  canon_f64 hm (by omega) hd ha hb himm hx hc hl

theorem canon_lit {lit : Nat} (hm : maj < 64) (hd : d < 64) (hl : lit < 4294967296) :
    ({ len := 3, maj := maj, d := d, lit := lit } : Fields).canon := by
  simp [Fields.canon_iff, *]
end

theorem convImm_lt (x y : CvtFmt) (r : CvtRnd) : convImm x y r < 65536 := by
  have := CvtFmt.enc_lt x
  have := CvtFmt.enc_lt y
  have := CvtRnd.enc_lt r
  unfold convImm
  omega

/-- XQ of an atomic (R49). -/
theorem atomicXq_lt (op : AmoOp) (wide : Bool) : op.enc + (if wide then 16 else 0) < 64 := by
  have := AmoOp.enc_lt op
  split <;> omega

theorem toNat_lt_of_le {n k : Nat} (x : BitVec n) (h : 2 ^ n ≤ k) : x.toNat < k := x.isLt.trans_le h

/-- An instruction's fields stand in words, whatever its operands. -/
theorem encodeFields_canon {i : Instr} {f : Fields} (h : encodeFields i = some f) : f.canon := by
  cases i
  all_goals cases h
  case pfmt fmt blog => exact canon_fI (by decide) (SOp.enc_lt _) (SOp.enc_lt _) (by omega)
  case jl off => exact canon_fA (by decide) (by omega) (SOp.enc_lt _) (by omega) (by omega)
  case tcmd q a => exact canon_fA (by decide) (by decide) (by omega) (by omega) (by decide)
  case tcmdm q a => exact canon_fA (by decide) (by decide) (by omega) (SOp.enc_lt _) (by decide)
  all_goals
    simp [canon_fA, canon_fI, canon_fK, canon_fM, canon_fV, canon_f64, canon_f64V, canon_lit, convImm_lt, atomicXq_lt,
      toNat_lt_of_le, Fin.val_lt_of_le]

/-! What the decoder reads in the fields of each form. -/

section
variable (maj hi s1 s2 s3 imm xq la : Nat) (d : Nat) (m : Fin 8) (a : SOp)

@[simp] theorem xd_fA : (fA maj hi a.enc s1 s2).xd = a := SOp.dec_enc a
@[simp] theorem xs1_fA : (fA maj hi d a.enc s2).xs1 = a := SOp.dec_enc a
@[simp] theorem xs2_fA : (fA maj hi d s1 a.enc).xs2 = a := SOp.dec_enc a
@[simp] theorem d_fA : (fA maj hi d s1 s2).d = d := rfl
@[simp] theorem s1_fA : (fA maj hi d s1 s2).s1 = s1 := rfl
@[simp] theorem s2_fA : (fA maj hi d s1 s2).s2 = s2 := rfl
@[simp] theorem hi_fA : (fA maj hi d s1 s2).hi = hi := rfl
@[simp] theorem xd_fI : (fI maj a.enc s1 imm).xd = a := SOp.dec_enc a
@[simp] theorem xs1_fI : (fI maj d a.enc imm).xs1 = a := SOp.dec_enc a
@[simp] theorem imm12_fI (i : BitVec 12) : (fI maj d s1 i.toNat).imm12 = i := by
  simp [Fields.imm12, fI, Nat.div_add_mod]
@[simp] theorem xd_fK (sub : Nat) : (fK maj sub la a.enc s1 s2).xd = a := SOp.dec_enc a
@[simp] theorem xs1_fK (sub : Nat) : (fK maj sub la d a.enc s2).xs1 = a := SOp.dec_enc a
@[simp] theorem xs2_fK (sub : Nat) : (fK maj sub la d s1 a.enc).xs2 = a := SOp.dec_enc a
@[simp] theorem la32_fK (l : BitVec 4) {sub : Nat} (h : sub < 4) : (fK maj sub l.toNat d s1 s2).la32 = l := by
  simp [Fields.la32, fK, Nat.mul_add_div, Nat.div_eq_of_lt h]
theorem sub_fK {sub : Nat} (h : sub < 4) : (fK maj sub la d s1 s2).sub = sub := by
  simp [Fields.sub, fK, Nat.mod_eq_of_lt h]
@[simp] theorem xd_fM (off : BitVec 8) (l : BitVec 4) : (fM maj a.enc s1 off l).xd = a := SOp.dec_enc a
@[simp] theorem xs1_fM (off : BitVec 8) (l : BitVec 4) : (fM maj d a.enc off l).xs1 = a := SOp.dec_enc a
@[simp] theorem imm8_fM (off : BitVec 8) (l : BitVec 4) : (fM maj d s1 off l).imm8 = off := by
  apply BitVec.eq_of_toNat_eq
  simp only [Fields.imm8, fM, BitVec.toNat_ofNat]
  omega
@[simp] theorem la32_fM (off : BitVec 8) (l : BitVec 4) : (fM maj d s1 off l).la32 = l := by
  apply BitVec.eq_of_toNat_eq
  simp only [Fields.la32, fM, BitVec.toNat_ofNat]
  omega
theorem hi_fM (off : BitVec 8) : (fM maj d s1 off 0).hi / 4 = 0 := by
  change (0 + off.toNat / 64) / 4 = 0
  omega
@[simp] theorem xd_f64 : (f64 maj hi a.enc s1 s2 imm xq s3 la).xd = a := SOp.dec_enc a
@[simp] theorem xs1_f64 : (f64 maj hi d a.enc s2 imm xq s3 la).xs1 = a := SOp.dec_enc a
@[simp] theorem xs2_f64 : (f64 maj hi d s1 a.enc imm xq s3 la).xs2 = a := SOp.dec_enc a
@[simp] theorem xs3_f64 : (f64 maj hi d s1 s2 imm xq a.enc la).xs3 = a := SOp.dec_enc a
@[simp] theorem len_f64 : (f64 maj hi d s1 s2 imm xq s3 la).len = 2 := rfl
@[simp] theorem maj_f64 : (f64 maj hi d s1 s2 imm xq s3 la).maj = maj := rfl
@[simp] theorem hi_f64 : (f64 maj hi d s1 s2 imm xq s3 la).hi = hi := rfl
@[simp] theorem d_f64 : (f64 maj hi d s1 s2 imm xq s3 la).d = d := rfl
@[simp] theorem s1_f64 : (f64 maj hi d s1 s2 imm xq s3 la).s1 = s1 := rfl
@[simp] theorem s2_f64 : (f64 maj hi d s1 s2 imm xq s3 la).s2 = s2 := rfl
@[simp] theorem imm_f64 : (f64 maj hi d s1 s2 imm xq s3 la).imm = imm := rfl
@[simp] theorem xq_f64 : (f64 maj hi d s1 s2 imm xq s3 la).xq = xq := rfl
@[simp] theorem s3_f64 : (f64 maj hi d s1 s2 imm xq s3 la).s3 = s3 := rfl
@[simp] theorem la_f64 : (f64 maj hi d s1 s2 imm xq s3 la).la = la := rfl
@[simp] theorem imm16_f64 (i : BitVec 16) : (f64 maj hi d s1 s2 i.toNat xq s3 la).imm16 = i := by
  simp [Fields.imm16, f64]
@[simp] theorem la64_f64 (l : BitVec 4) : (f64 maj hi d s1 s2 imm xq s3 l.toNat).la64 = l := by
  simp [Fields.la64, f64]

theorem ofNat_div_eight {n : Nat} (h : n < 8) : Fin.ofNat 8 ((8 * m.val + n) / 8) = m := by
  rw [Nat.mul_add_div (by decide), Nat.div_eq_of_lt h, Nat.add_zero, Fin.ofNat_val_eq_self]

@[simp] theorem ty_fV (t : VType) : (fV maj t m d s1 s2).ty = some t := by
  simp [Fields.ty, fV, Nat.mod_eq_of_lt]
@[simp] theorem mask_fV (t : VType) : (fV maj t m d s1 s2).mask = m := ofNat_div_eight m t.enc_lt
theorem ty_f64 (t : VType) : (f64 maj (8 * m.val + t.enc) d s1 s2 imm xq s3 la).ty = some t := by
  simp [Fields.ty, Nat.mod_eq_of_lt]
theorem ty_f64_f32 : (f64 maj (8 * m.val + 0) d s1 s2 imm xq s3 la).ty = some .f32 := ty_f64 (t := .f32) ..
theorem ty_f64_i8 : (f64 maj (8 * m.val + 3) d s1 s2 imm xq s3 la).ty = some .i8 := ty_f64 (t := .i8) ..
theorem mask_f64 {n : Nat} (h : n < 8) : (f64 maj (8 * m.val + n) d s1 s2 imm xq s3 la).mask = m := ofNat_div_eight m h
end

/-- IMM16 of a conversion is read back (R135). -/
@[simp] theorem conv_f64 (maj hi d s1 s2 xq s3 la : Nat) (x y : CvtFmt) (r : CvtRnd) :
    (f64 maj hi d s1 s2 (convImm x y r) xq s3 la).conv = some (x, y, r) := by
  have hx := CvtFmt.enc_lt x
  have hy := CvtFmt.enc_lt y
  have hr := CvtRnd.enc_lt r
  have h1 : convImm x y r % 32 = x.enc := by rw [convImm]; omega
  have h2 : convImm x y r / 32 % 32 = y.enc := by rw [convImm]; omega
  have h3 : convImm x y r / 1024 % 4 = r.enc := by rw [convImm]; omega
  have h4 : convImm x y r / 4096 = 0 := by rw [convImm]; omega
  simp only [Fields.conv, imm_f64, h1, h2, h3, h4, CvtFmt.dec_enc, CvtRnd.dec_enc, if_true]

/-- XQ of an atomic is read back (R49). -/
@[simp] theorem atomic_f64 (maj hi d s1 s2 imm s3 la : Nat) (op : AmoOp) (wide : Bool) :
    (f64 maj hi d s1 s2 imm (op.enc + if wide then 16 else 0) s3 la).atomic = some (op, wide) := by
  have ho := AmoOp.enc_lt op
  have h1 : (op.enc + if wide then 16 else 0) % 16 = op.enc := by split <;> omega
  have h2 : (op.enc + if wide then 16 else 0) / 16 = if wide then 1 else 0 := by split <;> omega
  rw [Fields.atomic, xq_f64, h1, h2, AmoOp.dec_enc]
  cases wide <;> rfl

/-- The number of an engine queue is that of its port (R42). -/
theorem ofNat_queue (q : Fin 4) : Fin.ofNat 4 (52 + q.val) = q := by
  revert q
  decide

/-- The specifier of an engine queue is one of 52 to 55 (R42). -/
theorem queue_specifier (q : Fin 4) : ((0 : Nat) == 0 && 52 ≤ 52 + q.val && 52 + q.val ≤ 55) = true := by
  revert q
  decide

theorem okIf_eq {b : Bool} {i j : Instr} (hb : b = true) (h : i = j) : okIf b i = .ok j := by
  rw [okIf, if_pos hb, h]

theorem okSome_dec (a : VOp) (g : VOp → Instr) : okSome ((VOp.dec a.enc).map g) = .ok (g a) := by
  rw [VOp.dec_enc]
  rfl

theorem decodeB_fV3 {maj : Nat} {c : VType → Fin 8 → VOp → VOp → VOp → Instr} (h : vec3 maj = some c) (t : VType) (m : Fin 8)
    (d a b : VOp) : decodeB (fV maj t m d.enc a.enc b.enc) = .ok (c t m d a b) := by
  simp only [decodeB, ty_fV, mask_fV]
  simp [fV, h]

theorem decodeB_fV2 {maj : Nat} {c : VType → Fin 8 → VOp → VOp → Instr} (h3 : vec3 maj = none) (h : vec2 maj = some c)
    (t : VType) (m : Fin 8) (d a : VOp) : decodeB (fV maj t m d.enc a.enc 0) = .ok (c t m d a) := by
  simp only [decodeB, ty_fV, mask_fV]
  simp [fV, h3, h, okIf]

/-- What an instruction is encoded in decodes to it. -/
theorem decodeRaw_encodeFields {i : Instr} {f : Fields} (h : encodeFields i = some f) : decodeRaw f = .ok i := by
  cases i
  all_goals cases h
  -- map B
  case vadd | vsub | vmul | vfma | vfms | vnfma | vmin | vmax | vsel | vand | vor | vxor | vshl | vshr | vshra =>
    exact decodeB_fV3 rfl ..
  case vabs | vneg | vreds | vredm => exact decodeB_fV2 rfl rfl ..
  case vbcast =>
    change decodeB _ = _
    simp only [decodeB, ty_fV, mask_fV]
    simp [fV, okIf, vec3, vec2, Fields.xs1]
  -- a vector register among scalar operands
  case ldv | ldvFe | ldvFec | stv | stvSf | ldvLong | ldvFeLong | ldvFecLong | stvLong | stvSfLong | rldv =>
    exact (okSome_dec _ _).trans (congrArg _ (by simp))
  -- a field beside the operands that the decoder tests
  case div | divu | rem | remu =>
    simp [decodeRaw, decodeA, fK, Fields.sub, Fields.xd, Fields.xs1, Fields.xs2, Fields.la32, Nat.mul_add_div]
  case lde => exact okIf_eq (by simp [sub_fK]) (by simp)
  case tkget => exact okIf_eq (by simp only [sub_fK, (by decide : 0 < 4)]; rfl) (by simp)
  case farm | fwait | fread | fclr => exact okIf_eq (by rw [hi_fM]; rfl) (by simp)
  case phase level => exact okIf_eq (by simp [level.isLt]) (by simp)
  case pkey key => exact okIf_eq (by simp [key.isLt]) (by simp)
  case pfmt fmt blog =>
    refine okIf_eq ?_ ?_
    · simp only [fI, beq_iff_eq]
      omega
    · simp only [xd_fI, xs1_fI, Instr.pfmt.injEq, true_and]
      constructor <;> apply BitVec.eq_of_toNat_eq <;> simp only [fI, BitVec.toNat_ofNat] <;> omega
  case lease b =>
    refine okIf_eq ?_ ?_
    · simp [fI]
      omega
    · simp [fI, Nat.div_add_mod]
  case tcmd q a =>
    change decodePush (fA 0x3A 0 (52 + q.val) a.val 0) = _
    simp only [decodePush, hi_fA, d_fA, s1_fA, s2_fA, a.isLt, ofNat_queue, dif_pos]
    exact okIf_eq (queue_specifier q) rfl
  case tcmdm q a =>
    exact okIf_eq (queue_specifier q) (by simp only [d_fA, ofNat_queue, xs1_fA])
  case jl off =>
    refine congrArg Except.ok ?_
    simp only [xd_fA, hi_fA, s1_fA, s2_fA, Instr.jl.injEq, true_and]
    apply BitVec.eq_of_toNat_eq
    simp only [BitVec.toNat_ofNat]
    omega
  case lit | lith => exact congrArg Except.ok (by simp [Fields.xd])
  -- the 64-bit map
  case amo | ramor => simp [decodeRaw, decode64, decodeRamo, okIf]
  case ramo flag _ => simp [decodeRaw, decode64, decodeRamo, okIf, flag.isLt]
  case rst8 flag _ | rst16 flag _ | rst32 flag _ | rst flag _ | rstv flag _ =>
    simp [decodeRaw, decode64, decodeRst, Fields.noXqS3, flag.isLt, okSome]
  case meet | meetr => simp [decodeRaw, decode64, Fields.noXqS3, Fields.noWord1, okIf]
  case vins lane | vext lane =>
    change decodeVec64 _ = _
    simp only [decodeVec64, f64V, ty_f64, mask_f64, VType.enc_lt]
    simp [Fields.noXqS3, okIf, lane.isLt]
  case vcmp | vshuf | vmaxi | vmini | vrcp | vrsq | vrcps | vrsqs | vexp2 | vlog2 =>
    change decodeVec64 _ = _
    simp only [decodeVec64, f64V, ty_f64, mask_f64, VType.enc_lt]
    simp [Fields.noXqS3, okIf]
  case vcvt | vcvtef =>
    change decodeVec64 _ = _
    simp only [decodeVec64, f64V, ty_f64_f32, mask_f64, (by decide : 0 < 8)]
    simp [Fields.noXqS3, okIf]
  case vdot4 =>
    change decodeVec64 _ = _
    simp only [decodeVec64, f64V, ty_f64_i8, mask_f64, (by decide : 3 < 8)]
    simp [okIf]
  -- the others: the decoder tests only what their major and minor fix
  all_goals exact congrArg Except.ok (by simp)

/-! The fields of an instruction that decodes. -/

section
variable {f : Fields} (hc : f.canon)
include hc

theorem enc_xd : f.xd.enc = f.d := SOp.enc_dec ((Fields.canon_iff f).mp hc).1.2.2.1
theorem enc_xs1 : f.xs1.enc = f.s1 := SOp.enc_dec ((Fields.canon_iff f).mp hc).1.2.2.2.1
theorem enc_xs2 : f.xs2.enc = f.s2 := SOp.enc_dec ((Fields.canon_iff f).mp hc).1.2.2.2.2.1
theorem enc_xs3 : f.xs3.enc = f.s3 := SOp.enc_dec ((Fields.canon_iff f).mp hc).1.2.2.2.2.2.2.2.2.1

theorem toNat_imm12 : f.imm12.toNat = 64 * f.hi + f.s2 := by
  have := (Fields.canon_iff f).mp hc
  simp only [Fields.imm12, BitVec.toNat_ofNat]
  omega
theorem toNat_imm8 : f.imm8.toNat = 64 * (f.hi % 4) + f.s2 := by
  have := (Fields.canon_iff f).mp hc
  simp only [Fields.imm8, BitVec.toNat_ofNat]
  omega
theorem toNat_la32 : f.la32.toNat = f.hi / 4 := by
  have := (Fields.canon_iff f).mp hc
  simp only [Fields.la32, BitVec.toNat_ofNat]
  omega
theorem toNat_imm16 : f.imm16.toNat = f.imm := by
  have := (Fields.canon_iff f).mp hc
  simp only [Fields.imm16, BitVec.toNat_ofNat]
  omega
theorem toNat_la64 : f.la64.toNat = f.la := by
  have := (Fields.canon_iff f).mp hc
  simp only [Fields.la64, BitVec.toNat_ofNat]
  omega
theorem val_mask : f.mask.val = f.hi / 8 := by
  have := (Fields.canon_iff f).mp hc
  simp only [Fields.mask, Fin.ofNat]
  omega

theorem fA_eq_iff (hl : f.len = 0) {maj hi d s1 s2 : Nat} :
    fA maj hi d s1 s2 = f ↔ maj = f.maj ∧ hi = f.hi ∧ d = f.d ∧ s1 = f.s1 ∧ s2 = f.s2 := by
  have := (Fields.canon_iff f).mp hc
  obtain ⟨len, maj', d', s1', s2', hi', imm, xq, s3, la, lit⟩ := f
  simp only [fA, Fields.mk.injEq] at *
  omega

theorem fI_eq_iff (hl : f.len = 0) {maj d s1 imm : Nat} :
    fI maj d s1 imm = f ↔ maj = f.maj ∧ d = f.d ∧ s1 = f.s1 ∧ imm = 64 * f.hi + f.s2 := by
  have := (Fields.canon_iff f).mp hc
  obtain ⟨len, maj', d', s1', s2', hi', imm, xq, s3, la, lit⟩ := f
  simp only [fI, Fields.mk.injEq] at *
  omega

theorem fK_eq_iff (hl : f.len = 0) {maj sub la d s1 s2 : Nat} :
    fK maj sub la d s1 s2 = f ↔ maj = f.maj ∧ 4 * la + sub = f.hi ∧ d = f.d ∧ s1 = f.s1 ∧ s2 = f.s2 := by
  have := (Fields.canon_iff f).mp hc
  obtain ⟨len, maj', d', s1', s2', hi', imm, xq, s3, la, lit⟩ := f
  simp only [fK, Fields.mk.injEq] at *
  omega

theorem fM_eq_iff (hl : f.len = 0) {maj d s1 : Nat} {off : BitVec 8} {la : BitVec 4} :
    fM maj d s1 off la = f ↔ maj = f.maj ∧ d = f.d ∧ s1 = f.s1 ∧ off.toNat % 64 = f.s2 ∧ 4 * la.toNat + off.toNat / 64 = f.hi := by
  have := (Fields.canon_iff f).mp hc
  obtain ⟨len, maj', d', s1', s2', hi', imm, xq, s3, la, lit⟩ := f
  simp only [fM, Fields.mk.injEq] at *
  omega

theorem fV_eq_iff (hl : f.len = 1) {maj d s1 s2 : Nat} {t : VType} {m : Fin 8} :
    fV maj t m d s1 s2 = f ↔ maj = f.maj ∧ 8 * m.val + t.enc = f.hi ∧ d = f.d ∧ s1 = f.s1 ∧ s2 = f.s2 := by
  have := (Fields.canon_iff f).mp hc
  obtain ⟨len, maj', d', s1', s2', hi', imm, xq, s3, la, lit⟩ := f
  simp only [fV, Fields.mk.injEq] at *
  omega

theorem f64_eq_iff (hl : f.len = 2) {maj hi d s1 s2 imm xq s3 la : Nat} :
    f64 maj hi d s1 s2 imm xq s3 la = f ↔ maj = f.maj ∧ hi = f.hi ∧ d = f.d ∧ s1 = f.s1 ∧ s2 = f.s2 ∧ imm = f.imm ∧
      xq = f.xq ∧ s3 = f.s3 ∧ la = f.la := by
  have := (Fields.canon_iff f).mp hc
  obtain ⟨len, maj', d', s1', s2', hi', imm, xq, s3, la, lit⟩ := f
  simp only [f64, Fields.mk.injEq] at *
  omega
end

/-- The instruction that an answer of the decoder gives is one of fields `f`. -/
def readsAs (f : Fields) (r : Except DecodeErr Instr) : Prop := ∀ i, r = .ok i → encodeFields i = some f

section
variable {f : Fields}

@[simp] theorem readsAs_ok {i : Instr} : readsAs f (.ok i) ↔ encodeFields i = some f := by simp [readsAs]
@[simp] theorem readsAs_error (e : DecodeErr) : readsAs f (.error e) := by simp [readsAs]
@[simp] theorem readsAs_okIf {b : Bool} {i : Instr} : readsAs f (okIf b i) ↔ (b = true → encodeFields i = some f) := by
  cases b <;> simp [okIf]
@[simp] theorem readsAs_okSome {o : Option VOp} {g : VOp → Instr} :
    readsAs f (okSome (o.map g)) ↔ ∀ a, o = some a → encodeFields (g a) = some f := by
  cases o <;> simp [okSome]
end

theorem decodeAlu_reads {f : Fields} (hc : f.canon) (hl : f.len = 0) (hm : f.maj = 1) : readsAs f (decodeAlu f) := by
  unfold decodeAlu
  split
  all_goals simp only [readsAs_okIf, readsAs_ok, readsAs_error, beq_iff_eq]
  all_goals
    intros
    exact congrArg some ((fA_eq_iff hc hl).mpr (by simp [enc_xd hc, enc_xs1 hc, enc_xs2 hc, *]))

theorem decodeSys_reads {f : Fields} (hc : f.canon) (hl : f.len = 0) (hm : f.maj = 0x2D) : readsAs f (decodeSys f) := by
  unfold decodeSys
  split
  all_goals simp only [readsAs_okIf, readsAs_ok, readsAs_error, beq_iff_eq, Bool.and_eq_true, and_imp]
  all_goals
    intros
    exact congrArg some ((fA_eq_iff hc hl).mpr (by simp [enc_xd hc, enc_xs1 hc, enc_xs2 hc, *]))

theorem decodePush_reads {f : Fields} (hc : f.canon) (hl : f.len = 0) (hm : f.maj = 0x3A) : readsAs f (decodePush f) := by
  unfold decodePush
  split
  case' h_1 => split
  all_goals simp only [readsAs_okIf, readsAs_error, beq_iff_eq, Bool.and_eq_true, decide_eq_true_eq]
  all_goals
    intro _
    refine congrArg some ((fA_eq_iff hc hl).mpr ?_)
    simp only [hm, Fin.val_ofNat, enc_xd hc, enc_xs1 hc, enc_xs2 hc, true_and, and_true]
    omega

theorem decodeA_reads {f : Fields} (hc : f.canon) (hl : f.len = 0) : readsAs f (decodeA f) := by
  have hb := (Fields.canon_iff f).mp hc
  unfold decodeA
  split
  case h_1 hm => exact decodeAlu_reads hc hl hm
  case h_45 hm => exact decodeSys_reads hc hl hm
  case h_58 hm => exact decodePush_reads hc hl hm
  case' h_2 =>
    have hs : f.sub = f.hi % 4 := rfl
    obtain h | h | h | h : f.sub = 0 ∨ f.sub = 1 ∨ f.sub = 2 ∨ f.sub = 3 := by omega
    all_goals simp only [h]
  case' h_9 | h_60 => dsimp only; split
  all_goals
    simp only [readsAs_okIf, readsAs_ok, readsAs_error, readsAs_okSome, Fields.sub, beq_iff_eq, Bool.and_eq_true, and_imp]
  case h_38 | h_39 | h_40 | h_41 | h_42 =>
    intro a ha
    refine congrArg some ?_
    simp only [fI_eq_iff hc hl, fM_eq_iff hc hl, VOp.enc_of_dec hb.1.2.2.1 ha, enc_xs1 hc, toNat_imm12 hc, toNat_imm8 hc,
      toNat_la32 hc, and_true, true_and]
    omega
  all_goals
    intros
    refine congrArg some ?_
    simp only [fA_eq_iff hc hl, fI_eq_iff hc hl, fK_eq_iff hc hl, fM_eq_iff hc hl, enc_xd hc, enc_xs1 hc, enc_xs2 hc,
      toNat_imm12 hc, toNat_imm8 hc, toNat_la32 hc, BitVec.ofNat_eq_ofNat, BitVec.toNat_ofNat, Nat.zero_mod, and_true,
      true_and]
    omega

theorem encodeFields_vec3 {maj : Nat} {c : VType → Fin 8 → VOp → VOp → VOp → Instr} (h : vec3 maj = some c) (t : VType) (m : Fin 8)
    (d a b : VOp) : encodeFields (c t m d a b) = some (fV maj t m d.enc a.enc b.enc) := by
  unfold vec3 at h
  split at h <;> cases h <;> rfl

theorem encodeFields_vec2 {maj : Nat} {c : VType → Fin 8 → VOp → VOp → Instr} (h : vec2 maj = some c) (t : VType) (m : Fin 8)
    (d a : VOp) : encodeFields (c t m d a) = some (fV maj t m d.enc a.enc 0) := by
  unfold vec2 at h
  split at h <;> cases h <;> rfl

theorem decodeB_reads {f : Fields} (hc : f.canon) (hl : f.len = 1) : readsAs f (decodeB f) := by
  have hb := (Fields.canon_iff f).mp hc
  have hhi {t : VType} (ht : f.ty = some t) : 8 * f.mask.val + t.enc = f.hi := by
    rw [val_mask hc, VType.enc_of_dec ht]
    omega
  unfold decodeB
  split
  · exact readsAs_error _
  rename_i t ht
  split
  · rename_i c h3
    split
    · rename_i d a b hd ha hb'
      rw [readsAs_ok, encodeFields_vec3 h3, (fV_eq_iff hc hl).mpr]
      exact ⟨rfl, hhi ht, VOp.enc_of_dec (by omega) hd, VOp.enc_of_dec (by omega) ha, VOp.enc_of_dec (by omega) hb'⟩
    · exact readsAs_error _
  split
  · rename_i c h2
    split
    · rename_i d a hd ha
      rw [readsAs_okIf, encodeFields_vec2 h2]
      intro hs2
      rw [(fV_eq_iff hc hl).mpr]
      exact ⟨rfl, hhi ht, VOp.enc_of_dec (by omega) hd, VOp.enc_of_dec (by omega) ha, (beq_iff_eq.mp hs2).symm⟩
    · exact readsAs_error _
  split
  · rename_i hm
    split
    · rename_i d hd
      rw [readsAs_okIf]
      intro hs2
      exact congrArg some ((fV_eq_iff hc hl).mpr ⟨hm.symm, hhi ht, VOp.enc_of_dec (by omega) hd, enc_xs1 hc, (beq_iff_eq.mp hs2).symm⟩)
    · exact readsAs_error _
  · exact readsAs_error _

theorem decodeLoad64_reads {f : Fields} (hc : f.canon) (hl : f.len = 2) (hm : f.maj = 1) : readsAs f (decodeLoad64 f) := by
  have hb := (Fields.canon_iff f).mp hc
  unfold decodeLoad64
  split
  · rename_i h0
    simp only [Fields.noXqS3, Bool.and_eq_true, beq_iff_eq] at h0
    split
    all_goals simp only [readsAs_ok, readsAs_error, readsAs_okSome]
    case h_10 | h_11 | h_12 =>
      intro a ha
      refine congrArg some ((f64_eq_iff hc hl).mpr ?_)
      simp only [VOp.enc_of_dec hb.1.2.2.1 ha, enc_xs1 hc, toNat_imm16 hc, toNat_la64 hc, true_and, and_true]
      omega
    all_goals
      refine congrArg some ((f64_eq_iff hc hl).mpr ?_)
      simp only [enc_xd hc, enc_xs1 hc, toNat_imm16 hc, toNat_la64 hc, true_and, and_true]
      omega
  · exact readsAs_error _


theorem decodeStore64_reads {f : Fields} (hc : f.canon) (hl : f.len = 2) (hm : f.maj = 2) : readsAs f (decodeStore64 f) := by
  have hb := (Fields.canon_iff f).mp hc
  unfold decodeStore64
  split
  · rename_i h0
    simp only [Fields.noXqS3, Bool.and_eq_true, beq_iff_eq] at h0
    split
    all_goals simp only [readsAs_ok, readsAs_error, readsAs_okSome]
    case h_6 | h_7 =>
      intro a ha
      refine congrArg some ((f64_eq_iff hc hl).mpr ?_)
      simp only [VOp.enc_of_dec hb.1.2.2.2.2.1 ha, enc_xs1 hc, toNat_imm16 hc, true_and]
      omega
    all_goals
      refine congrArg some ((f64_eq_iff hc hl).mpr ?_)
      simp only [enc_xs2 hc, enc_xs1 hc, toNat_imm16 hc, true_and]
      omega
  · exact readsAs_error _

theorem decodeRst_reads {f : Fields} (hc : f.canon) (hl : f.len = 2) (hm : f.maj = 4) : readsAs f (decodeRst f) := by
  have hb := (Fields.canon_iff f).mp hc
  unfold decodeRst
  split
  · rename_i h0
    simp only [Fields.noXqS3, Bool.and_eq_true, beq_iff_eq] at h0
    dsimp only
    split
    all_goals simp only [readsAs_ok, readsAs_error, readsAs_okSome]
    case h_5 =>
      intro a ha
      refine congrArg some ((f64_eq_iff hc hl).mpr ?_)
      simp only [VOp.enc_of_dec hb.1.2.2.2.2.1 ha, enc_xs1 hc, toNat_la64 hc, BitVec.toNat_ofNat, true_and, and_true]
      omega
    all_goals
      refine congrArg some ((f64_eq_iff hc hl).mpr ?_)
      simp only [enc_xs2 hc, enc_xs1 hc, toNat_la64 hc, BitVec.toNat_ofNat, true_and, and_true]
      omega
  · exact readsAs_error _

theorem decodeRld_reads {f : Fields} (hc : f.canon) (hl : f.len = 2) (hm : f.maj = 5) : readsAs f (decodeRld f) := by
  have hb := (Fields.canon_iff f).mp hc
  unfold decodeRld
  split
  · rename_i h0
    simp only [Fields.noXqS3, Bool.and_eq_true, beq_iff_eq] at h0
    split
    all_goals simp only [readsAs_ok, readsAs_error, readsAs_okSome]
    case h_8 =>
      intro a ha
      refine congrArg some ((f64_eq_iff hc hl).mpr ?_)
      simp only [VOp.enc_of_dec hb.1.2.2.1 ha, enc_xs1 hc, toNat_imm16 hc, toNat_la64 hc, true_and, and_true]
      omega
    all_goals
      refine congrArg some ((f64_eq_iff hc hl).mpr ?_)
      simp only [enc_xd hc, enc_xs1 hc, toNat_imm16 hc, toNat_la64 hc, true_and, and_true]
      omega
  · exact readsAs_error _

/-- XQ of an atomic holds its operation and size, and nothing else (R49). -/
theorem xq_of_atomic {f : Fields} {op : AmoOp} {wide : Bool} (h : f.atomic = some (op, wide)) :
    op.enc + (if wide then 16 else 0) = f.xq := by
  unfold Fields.atomic at h
  split at h
  · rename_i o ho hs
    cases h
    rw [AmoOp.enc_of_dec ho, if_neg Bool.false_ne_true]
    omega
  · rename_i o ho hs
    cases h
    rw [AmoOp.enc_of_dec ho, if_pos rfl]
    omega
  · cases h

/-- IMM16 of a conversion holds its formats and rounding, and nothing else (R135). -/
theorem imm_of_conv {f : Fields} {x y : CvtFmt} {r : CvtRnd} (h : f.conv = some (x, y, r)) : convImm x y r = f.imm := by
  unfold Fields.conv at h
  split at h
  · rename_i a b c ha hb hr
    obtain ⟨h4, h⟩ := Option.ite_none_right_eq_some.mp h
    cases h
    rw [convImm, CvtFmt.enc_of_dec ha, CvtFmt.enc_of_dec hb, CvtRnd.enc_of_dec hr]
    omega
  · cases h

theorem decodeRamo_reads {f : Fields} (hc : f.canon) (hl : f.len = 2) (hm : f.maj = 6 ∨ f.maj = 7) : readsAs f (decodeRamo f) := by
  have hb := (Fields.canon_iff f).mp hc
  unfold decodeRamo
  split
  · exact readsAs_error _
  · rename_i op wide ho
    split
    all_goals
      simp only [readsAs_okIf, Bool.and_eq_true, beq_iff_eq]
      intro h0
      refine congrArg some ((f64_eq_iff hc hl).mpr ?_)
      simp only [xq_of_atomic ho, enc_xd hc, enc_xs1 hc, enc_xs2 hc, enc_xs3 hc, toNat_la64 hc, BitVec.toNat_ofNat, true_and, and_true]
      omega

theorem decodeVec64_reads {f : Fields} (hc : f.canon) (hl : f.len = 2) : readsAs f (decodeVec64 f) := by
  have hb := (Fields.canon_iff f).mp hc
  have hd {a : VOp} (h : VOp.dec f.d = some a) : a.enc = f.d := VOp.enc_of_dec (by omega) h
  have h1 {a : VOp} (h : VOp.dec f.s1 = some a) : a.enc = f.s1 := VOp.enc_of_dec (by omega) h
  have h2 {a : VOp} (h : VOp.dec f.s2 = some a) : a.enc = f.s2 := VOp.enc_of_dec (by omega) h
  have h3 {a : VOp} (h : VOp.dec f.s3 = some a) : a.enc = f.s3 := VOp.enc_of_dec (by omega) h
  have hp {p : CmpOp} (h : CmpOp.dec f.xq = some p) : p.enc = f.xq := CmpOp.enc_of_dec h
  have hg {g : DotSign} (h : DotSign.dec f.xq = some g) : g.enc = f.xq := DotSign.enc_of_dec h
  have hv {x y : CvtFmt} {r : CvtRnd} (h : f.conv = some (x, y, r)) : convImm x y r = f.imm := imm_of_conv h
  unfold decodeVec64
  split
  · exact readsAs_error _
  rename_i t ht
  have htype : t.enc = f.hi % 8 := VType.enc_of_dec ht
  split
  case h_10 =>
    split
    · rename_i d a b ed ea eb
      split
      · rename_i h0
        simp only [Fields.noXqS3, Bool.and_eq_true, beq_iff_eq] at h0
        split
        all_goals simp only [readsAs_okIf, readsAs_ok, readsAs_error, beq_iff_eq]
        all_goals
          intros
          refine congrArg some ((f64_eq_iff hc hl).mpr ?_)
          simp only [hd ed, h1 ea, h2 eb, toNat_la64 hc, htype, Fin.coe_ofNat_eq_mod, and_true, true_and]
          omega
      · exact readsAs_error _
    · exact readsAs_error _
  all_goals split
  all_goals
    simp only [readsAs_okIf, readsAs_error, Fields.noXqS3, Bool.and_eq_true, beq_iff_eq, decide_eq_true_eq]
  all_goals
    intro h0
    refine congrArg some ((f64_eq_iff hc hl).mpr ?_)
    simp only [val_mask hc, enc_xd hc, enc_xs1 hc,
      enc_xs3 hc, BitVec.toNat_ofNat, Fin.val_ofNat, Fin.coe_ofNat_eq_mod, and_true, true_and, *]
    omega

theorem decode64_reads {f : Fields} (hc : f.canon) (hl : f.len = 2) : readsAs f (decode64 f) := by
  have hb := (Fields.canon_iff f).mp hc
  unfold decode64
  split
  case h_1 hm => exact decodeLoad64_reads hc hl hm
  case h_2 hm => exact decodeStore64_reads hc hl hm
  case h_3 =>
    split
    · rename_i op wide ho
      simp only [readsAs_okIf, beq_iff_eq]
      intro h0
      refine congrArg some ((f64_eq_iff hc hl).mpr ?_)
      simp only [xq_of_atomic ho, enc_xd hc, enc_xs1 hc, enc_xs2 hc, enc_xs3 hc, toNat_imm16 hc, toNat_la64 hc,
        and_true]
      omega
    · exact readsAs_error _
  case h_4 hm => exact decodeRst_reads hc hl hm
  case h_5 hm => exact decodeRld_reads hc hl hm
  case h_6 hm => exact decodeRamo_reads hc hl (.inl hm)
  case h_7 hm => exact decodeRamo_reads hc hl (.inr hm)
  case h_8 =>
    simp only [readsAs_okIf, beq_iff_eq, Bool.and_eq_true]
    intro h0
    refine congrArg some ((f64_eq_iff hc hl).mpr ?_)
    simp only [enc_xd hc, enc_xs1 hc, enc_xs2 hc, enc_xs3 hc, true_and]
    omega
  case h_9 =>
    split
    · split
      · rename_i b eb
        simp only [readsAs_okIf, beq_iff_eq, Bool.and_eq_true, Fields.noWord1]
        intro h0
        refine congrArg some ((f64_eq_iff hc hl).mpr ?_)
        simp only [enc_xs1 hc, VOp.enc_of_dec hb.1.2.2.2.2.1 eb, true_and]
        omega
      · exact readsAs_error _
    · split
      · rename_i d ed
        simp only [readsAs_okIf, beq_iff_eq, Bool.and_eq_true, Fields.noXqS3]
        intro h0
        refine congrArg some ((f64_eq_iff hc hl).mpr ?_)
        simp only [enc_xs1 hc, VOp.enc_of_dec hb.1.2.2.1 ed, toNat_la64 hc, true_and, and_true]
        omega
      · exact readsAs_error _
    · exact readsAs_error _
  case h_10 =>
    split
    · exact decodeVec64_reads hc hl
    · exact readsAs_error _

theorem decode96_reads {f : Fields} (hc : f.canon) (hl : f.len = 3) : readsAs f (decode96 f) := by
  have hb := (Fields.canon_iff f).mp hc
  unfold decode96
  dsimp only
  split
  all_goals simp only [readsAs_okIf, readsAs_error, beq_iff_eq, Bool.and_eq_true, Fields.noWord1]
  all_goals
    intro h0
    refine congrArg some ?_
    rw [enc_xd hc, BitVec.toNat_ofNat, Nat.mod_eq_of_lt (by omega)]
    obtain ⟨len, maj, d, s1, s2, hi, imm, xq, s3, la, lit⟩ := f
    simp only [Fields.mk.injEq, true_and, and_true] at *
    omega

/-- Fields that decode to an instruction are those that encode it. -/
theorem decodeRaw_reads {f : Fields} (hc : f.canon) : readsAs f (decodeRaw f) := by
  have hb := (Fields.canon_iff f).mp hc
  unfold decodeRaw
  split
  case h_1 hl => exact decodeA_reads hc hl
  case h_2 hl => exact decodeB_reads hc hl
  case h_3 hl => exact decode64_reads hc hl
  case h_4 h0 h1 h2 => exact decode96_reads hc (by
    have : ¬ f.len = 0 := h0
    have : ¬ f.len = 1 := h1
    have : ¬ f.len = 2 := h2
    omega)

/-! Words and bytes (R6, R39). -/

@[simp] theorem length_toLeBytes (k n : Nat) : (toLeBytes k n).length = k := by
  induction k generalizing n with
  | zero => rfl
  | succ k ih => simp [toLeBytes, ih]

theorem leBytes_toLeBytes (k n : Nat) : leBytes (toLeBytes k n) = n % 2 ^ (8 * k) := by
  induction k generalizing n with
  | zero => simp [toLeBytes, leBytes, Nat.mod_one]
  | succ k ih =>
    rw [toLeBytes, leBytes, ih, Nat.mul_succ, Nat.add_comm (8 * k), Nat.pow_add, Nat.mod_mul]
    simp

theorem leBytes_lt (bs : List Byte) : leBytes bs < 2 ^ (8 * bs.length) := by
  induction bs with
  | nil => simp [leBytes]
  | cons b r ih =>
    have := b.isLt
    rw [leBytes, List.length_cons, Nat.mul_succ, Nat.add_comm (8 * r.length), Nat.pow_add]
    omega

theorem toLeBytes_leBytes (bs : List Byte) : toLeBytes bs.length (leBytes bs) = bs := by
  induction bs with
  | nil => rfl
  | cons b r ih =>
    have hb := b.isLt
    have hdiv : (b.toNat + 256 * leBytes r) / 256 = leBytes r := by omega
    rw [List.length_cons, toLeBytes, leBytes, hdiv, ih]
    congr 1
    apply BitVec.eq_of_toNat_eq
    rw [BitVec.toNat_ofNat]
    omega

/-- The bytes of a list of words, each little-endian (R39). -/
def wordBytes (ws : List Nat) : List Byte := ws.flatMap (toLeBytes 4)

theorem encodeBytes_of_fields {i : Instr} {f : Fields} (h : encodeFields i = some f) :
    encode i = f.words ∧ encodeBytes i = wordBytes f.words := by
  simp [encodeBytes, wordBytes, encode, h]

theorem encodeFields_of_encode {i : Instr} (h : encode i ≠ []) : ∃ f, encodeFields i = some f := by
  unfold encode at h
  split at h
  · exact ⟨_, ‹_›⟩
  · exact absurd rfl h

@[simp] theorem wordBytes_cons (w : Nat) (ws : List Nat) : wordBytes (w :: ws) = toLeBytes 4 w ++ wordBytes ws := rfl

@[simp] theorem wordBytes_nil : wordBytes [] = [] := rfl

@[simp] theorem length_wordBytes (ws : List Nat) : (wordBytes ws).length = 4 * ws.length := by
  induction ws with
  | nil => rfl
  | cons w ws ih => simp [ih]; omega

theorem leBytes_take_toLeBytes {w : Nat} (h : w < 2 ^ 32) (rest : List Byte) : leBytes ((toLeBytes 4 w ++ rest).take 4) = w := by
  rw [List.take_left' (length_toLeBytes 4 w), leBytes_toLeBytes, Nat.mod_eq_of_lt h]

theorem drop_toLeBytes (w : Nat) (rest : List Byte) : (toLeBytes 4 w ++ rest).drop 4 = rest :=
  List.drop_left' (length_toLeBytes 4 w)

section
variable {f : Fields} (hc : f.canon)
include hc

theorem word0_lt : f.word0 < 2 ^ 32 := by
  have := (Fields.canon_iff f).mp hc
  unfold Fields.word0
  omega

theorem word1_lt : f.word1 < 2 ^ 32 := by
  have := (Fields.canon_iff f).mp hc
  unfold Fields.word1
  omega

theorem word0_mod : f.word0 % 4 = f.len := by
  have := (Fields.canon_iff f).mp hc
  unfold Fields.word0
  omega

/-- The length that word 0 names is that of the words (R39). -/
theorem lengthOf_word0 : lengthOf f.word0 = f.words.length := by
  rw [lengthOf, word0_mod hc, Fields.words]
  split <;> simp_all

end


/-- The fields that the decoder takes from bytes. -/
def fieldsOf (bs : List Byte) : Fields :=
  Fields.ofWords (leBytes (bs.take 4)) (leBytes ((bs.drop 4).take 4)) (leBytes ((bs.drop 8).take 4))

/-- What the decoder reads at the head of some bytes: their fields, where the words are there, and the length of these. -/
theorem decodeBytes_eq_ok {bs : List Byte} {i : Instr} {n : Nat} : decodeBytes bs = .ok (i, n) ↔
    (4 ≤ bs.length ∧ n ≤ bs.length) ∧ decodeFields (fieldsOf bs) = .ok i ∧ n = 4 * lengthOf (leBytes (bs.take 4)) := by
  unfold decodeBytes fieldsOf
  dsimp only
  split
  case isTrue h =>
    refine ⟨fun h => (nomatch h), fun ⟨h1, _, h3⟩ => ?_⟩
    omega
  case isFalse h =>
    split
    case h_1 j hj =>
      rw [hj, Except.ok.injEq, Except.ok.injEq, Prod.mk.injEq]
      refine ⟨fun ⟨hi, hn⟩ => ⟨by omega, hi, hn.symm⟩, fun ⟨_, hi, hn⟩ => ⟨hi, hn.symm⟩⟩
    case h_2 e he =>
      rw [he]
      exact ⟨fun h => (nomatch h), fun ⟨_, h, _⟩ => (nomatch h)⟩

theorem decodeFields_eq_ok {f : Fields} {i : Instr} : decodeFields f = .ok i ↔ decodeRaw f = .ok i ∧ wellFormed i = true := by
  unfold decodeFields
  split
  case h_1 j hj =>
    rw [hj, Except.ok.injEq]
    split
    case isTrue h =>
      rw [Except.ok.injEq]
      exact ⟨fun e => ⟨e, e ▸ h⟩, fun e => e.1⟩
    case isFalse h => exact ⟨fun e => (nomatch e), fun ⟨e, hw⟩ => absurd (e ▸ hw) h⟩
  case h_2 e he =>
    rw [he]
    exact ⟨fun h => (nomatch h), fun ⟨h, _⟩ => (nomatch h)⟩

theorem fieldsOf_canon (bs : List Byte) : (fieldsOf bs).canon := Fields.canon_ofWords ..

/-- The words that the length in word 0 leaves out do not matter (R39). -/
theorem Fields.ofWords_congr {w0 w1 w2 v1 v2 : Nat} (h1 : 2 ≤ w0 % 4 → w1 = v1) (h2 : w0 % 4 = 3 → w2 = v2) :
    Fields.ofWords w0 w1 w2 = Fields.ofWords w0 v1 v2 := by
  simp only [Fields.ofWords]
  have e1 : (if 2 ≤ w0 % 4 then w1 else 0) = if 2 ≤ w0 % 4 then v1 else 0 := by
    split
    · rename_i h; exact h1 h
    · rfl
  have e2 : (if w0 % 4 = 3 then w2 % 4294967296 else 0) = if w0 % 4 = 3 then v2 % 4294967296 else 0 := by
    split
    · rename_i h; rw [h2 h]
    · rfl
  rw [e1, e2]

/-- The words of some fields, by their length (R39). -/
theorem Fields.words_eq (f : Fields) : f.words =
    if f.len = 2 then [f.word0, f.word1] else if f.len = 3 then [f.word0, f.word1, f.lit] else [f.word0] := by
  unfold Fields.words
  split <;> simp_all

/-- The decoder takes from the words of some fields those fields, whatever bytes follow. -/
theorem fieldsOf_words {f : Fields} (hc : f.canon) (rest : List Byte) : fieldsOf (wordBytes f.words ++ rest) = f := by
  have hb := (Fields.canon_iff f).mp hc
  have h0 := word0_mod hc
  have hl : f.lit < 2 ^ 32 := by omega
  refine Eq.trans ?_ (Fields.ofWords_words hc)
  rw [fieldsOf, Fields.words_eq]
  split
  case isTrue h2 =>
    simp only [wordBytes_cons, wordBytes_nil, List.append_nil, List.append_assoc, leBytes_take_toLeBytes (word0_lt hc), drop_toLeBytes,
      leBytes_take_toLeBytes (word1_lt hc)]
    exact Fields.ofWords_congr (fun _ => rfl) (by omega)
  case isFalse h2 =>
    split
    case isTrue h3 =>
      have h8 (bs : List Byte) : bs.drop 8 = (bs.drop 4).drop 4 := by rw [List.drop_drop]
      simp only [h8, wordBytes_cons, wordBytes_nil, List.append_nil, List.append_assoc, leBytes_take_toLeBytes (word0_lt hc), drop_toLeBytes,
        leBytes_take_toLeBytes (word1_lt hc), leBytes_take_toLeBytes hl]
    case isFalse h3 =>
      simp only [wordBytes_cons, wordBytes_nil, List.append_nil, leBytes_take_toLeBytes (word0_lt hc)]
      exact Fields.ofWords_congr (by omega) (by omega)

theorem take_wordBytes_words {f : Fields} (hc : f.canon) (rest : List Byte) :
    leBytes ((wordBytes f.words ++ rest).take 4) = f.word0 := by
  rw [Fields.words_eq]
  split <;> [skip; split] <;>
    simp only [wordBytes_cons, List.append_assoc, leBytes_take_toLeBytes (word0_lt hc)]

theorem length_words_pos (f : Fields) : 0 < f.words.length := by
  rw [Fields.words_eq]
  split <;> [skip; split] <;> simp

theorem instructionsReturn : Clause.InstructionsReturn := by
  intro i rest hi hw
  obtain ⟨f, hf⟩ := encodeFields_of_encode hi
  obtain ⟨hwords, hbytes⟩ := encodeBytes_of_fields hf
  have hc := encodeFields_canon hf
  have hpos := length_words_pos f
  rw [hwords, hbytes, decodeBytes_eq_ok, fieldsOf_words hc, take_wordBytes_words hc, lengthOf_word0 hc, List.length_append,
    length_wordBytes]
  exact ⟨by omega, decodeFields_eq_ok.mpr ⟨decodeRaw_encodeFields hf, hw⟩, rfl⟩

theorem toLeBytes_take {bs : List Byte} (h : 4 ≤ bs.length) : toLeBytes 4 (leBytes (bs.take 4)) = bs.take 4 := by
  have := toLeBytes_leBytes (bs.take 4)
  rwa [List.length_take, Nat.min_eq_left h] at this

theorem leBytes_take_lt (bs : List Byte) : leBytes (bs.take 4) < 2 ^ 32 :=
  (leBytes_lt _).trans_le (Nat.pow_le_pow_right (by decide) (by rw [List.length_take]; omega))

/-- The words of the fields that the decoder takes from bytes are those bytes, to the length it names. -/
theorem wordBytes_fieldsOf {bs : List Byte} (h4 : 4 ≤ bs.length) (h : 4 * lengthOf (leBytes (bs.take 4)) ≤ bs.length) :
    wordBytes (fieldsOf bs).words = bs.take (4 * lengthOf (leBytes (bs.take 4))) := by
  have h0 := leBytes_take_lt bs
  have h1 := leBytes_take_lt (bs.drop 4)
  have h2 := leBytes_take_lt (bs.drop 8)
  have e0 : (fieldsOf bs).word0 = leBytes (bs.take 4) := Fields.word0_ofWords h0 ..
  have hlen : (fieldsOf bs).len = leBytes (bs.take 4) % 4 := rfl
  rw [Fields.words_eq, hlen, e0]
  unfold lengthOf at h ⊢
  have h8 : bs.take 8 = bs.take 4 ++ (bs.drop 4).take 4 := List.take_add (i := 4) (j := 4)
  have h12 : bs.take 12 = bs.take 8 ++ (bs.drop 8).take 4 := List.take_add (i := 8) (j := 4)
  split at h
  case h_1 hl =>
    have e1 : (fieldsOf bs).word1 = leBytes ((bs.drop 4).take 4) := Fields.word1_ofWords (by omega) h1 _
    rw [if_pos hl, e1]
    simp [toLeBytes_take h4, toLeBytes_take (bs := bs.drop 4) (by rw [List.length_drop]; omega), h8]
  case h_2 hl =>
    have e1 : (fieldsOf bs).word1 = leBytes ((bs.drop 4).take 4) := Fields.word1_ofWords (by omega) h1 _
    have e2 : (fieldsOf bs).lit = leBytes ((bs.drop 8).take 4) := Fields.lit_ofWords hl _ h2
    rw [if_neg (by omega), if_pos hl, e1, e2]
    simp [toLeBytes_take h4, toLeBytes_take (bs := bs.drop 4) (by rw [List.length_drop]; omega),
      toLeBytes_take (bs := bs.drop 8) (by rw [List.length_drop]; omega), h8, h12]
  case h_3 hl2 hl3 =>
    have n2 : ¬ leBytes (bs.take 4) % 4 = 2 := hl2
    have n3 : ¬ leBytes (bs.take 4) % 4 = 3 := hl3
    rw [if_neg n2, if_neg n3]
    simp [toLeBytes_take h4]

theorem wordsHaveOneMeaning : Clause.WordsHaveOneMeaning := by
  intro bs i n h
  obtain ⟨⟨h4, hn⟩, hf, rfl⟩ := decodeBytes_eq_ok.mp h
  obtain ⟨hraw, hw⟩ := decodeFields_eq_ok.mp hf
  have hc := fieldsOf_canon bs
  have henc := decodeRaw_reads hc i hraw
  obtain ⟨hwords, hbytes⟩ := encodeBytes_of_fields henc
  have e0 : (fieldsOf bs).word0 = leBytes (bs.take 4) := Fields.word0_ofWords (leBytes_take_lt bs) ..
  refine ⟨hw, hbytes.trans (wordBytes_fieldsOf h4 hn), ?_⟩
  rw [hwords, ← lengthOf_word0 hc, e0]

/-! Command words (R52 to R54). -/

theorem bitsOf_lt (n hi lo : Nat) : bitsOf n hi lo < 2 ^ (hi + 1 - lo) := Nat.mod_lt _ (Nat.two_pow_pos _)

/-- A bit taken as a truth value and put back is that bit. -/
theorem ite_bitsOf (n k : Nat) : (if (bitsOf n k k == 1) = true then 1 else 0) = n / 2 ^ k % 2 := by
  have hk : bitsOf n k k = n / 2 ^ k % 2 := by simp [bitsOf]
  have := Nat.mod_two_eq_zero_or_one (n / 2 ^ k)
  rw [hk]
  split <;> rename_i hb <;> rw [beq_iff_eq] at hb <;> omega

/-- The header of a command word whose zero bits are zero is read back (R52). -/
theorem toNat_hdr_ofNat {n : Nat} (h : bitsOf n 31 26 = 0) (h' : bitsOf n 15 8 = 0) :
    (CmdHdr.ofNat n).toNat (n % 256) = n % 2 ^ 64 := by
  rw [CmdHdr.toNat, CmdHdr.ofNat, ite_bitsOf, ite_bitsOf]
  simp only [bitsOf, BitVec.toNat_ofNat, Nat.reduceAdd, Nat.reduceSub, Nat.reducePow] at *
  omega

/-- A word is made of its four words. -/
theorem cmdWord_bitsOf (w : BitVec 256) :
    cmdWord (w.toNat % 2 ^ 64) (bitsOf w.toNat 127 64) (bitsOf w.toNat 191 128) (bitsOf w.toNat 255 192) = w := by
  apply BitVec.eq_of_toNat_eq
  have := w.isLt
  simp only [cmdWord, bitsOf, BitVec.toNat_ofNat]
  omega

theorem cmdWord_congr {h a b c a' b' c' : Nat} (ha : a = a') (hb : b = b') (hc : c = c') :
    cmdWord h a b c = cmdWord h a' b' c' := by
  rw [ha, hb, hc]

/-- The command of a clean word of a listed opcode is encoded in that word. -/
theorem encodeCmd_commandOf {q op w1 w2 w3 : Nat} (hq : opcodeListed q op = true) (h1 : w1 < 2 ^ 64) (h2 : w2 < 2 ^ 64)
    (h3 : w3 < 2 ^ 64) (h : CmdHdr) (hclean : operandsClean op w1 w2 w3 h.ext.toNat = true) :
    encodeCmd (commandOf op h (BitVec.ofNat 64 w1) (BitVec.ofNat 64 w2) (BitVec.ofNat 64 w3)) =
      some (cmdWord (h.toNat op) w1 w2 w3) := by
  have e1 : (BitVec.ofNat 64 w1).toNat = w1 := Nat.mod_eq_of_lt h1
  have e2 : (BitVec.ofNat 64 w2).toNat = w2 := Nat.mod_eq_of_lt h2
  have e3 : (BitVec.ofNat 64 w3).toNat = w3 := Nat.mod_eq_of_lt h3
  unfold commandOf
  simp only [e1, e2, e3]
  split
  case h_22 =>
    simp only [operandsClean, Bool.and_eq_true, beq_iff_eq] at hclean
    split <;> exact congrArg some (cmdWord_congr e1 e2 hclean.1.2.symm)
  case h_23 =>
    split <;> exact congrArg some (cmdWord_congr e1 e2 e3)
  case h_26 =>
    have hop : op = 0x62 := by
      unfold opcodeListed at hq
      simp only [imp_false] at *
      split at hq <;> simp only [Bool.and_eq_true, Bool.or_eq_true, decide_eq_true_eq, beq_iff_eq] at hq <;> omega
    subst hop
    simp only [operandsClean, Bool.and_eq_true, beq_iff_eq] at hclean
    obtain ⟨⟨⟨-, rfl⟩, rfl⟩, rfl⟩ := hclean
    rfl
  all_goals
    simp only [operandsClean, bitsOf, Bool.and_eq_true, beq_iff_eq, Nat.reduceAdd, Nat.reduceSub, Nat.reducePow] at hclean
    refine congrArg some (congrArg (BitVec.ofNat 256) ?_)
    simp only [e1, e2, e3, BitVec.toNat_ofNat, ↓ite_bitsOf, bitsOf, Nat.reduceAdd, Nat.reduceSub, Nat.reducePow] <;> omega

/-- R52 to R54: an accepted command word is the word of its command, and an opcode that is not listed has status 0x01. -/
theorem commandsReturn : Clause.CommandsReturn := by
  intro q w
  constructor
  · intro i hi
    unfold decodeCmd at hi
    dsimp only at hi
    split at hi
    · cases hi
    rename_i hlisted
    split at hi
    · cases hi
    rename_i hzero
    split at hi
    · cases hi
    split at hi
    · cases hi
    split at hi
    · cases hi
    rename_i hclean
    split at hi
    · cases hi
    cases hi
    simp only [Bool.not_eq_true', Bool.not_eq_false, Bool.or_eq_true, bne_iff_ne, ne_eq, not_or, not_not] at hlisted hzero hclean
    refine ⟨?_, hlisted⟩
    rw [encodeCmd_commandOf hlisted (bitsOf_lt _ 127 64) (bitsOf_lt _ 191 128) (bitsOf_lt _ 255 192) _ hclean,
      toNat_hdr_ofNat hzero.1 hzero.2, cmdWord_bitsOf]
  · intro h
    simp only [decodeCmd, h, Bool.not_false, if_true]

/-- Settles O56: each of its three clauses is one of the round trips above. -/
theorem decodeReadsEncode : Obligations.DecodeReadsEncode :=
  ⟨instructionsReturn, wordsHaveOneMeaning, commandsReturn⟩

end Sys2Proof
end

section
/-! PROOFS. What a step runs (spec/02, R40 to R50; spec/03, R75, R76, R147). -/

namespace Sys2Proof.Machine

/-! The instructions of a context. -/

/-- The meaning of an instruction of a context: its issue, and for some a wait by rules of their own (R75, R77). -/
theorem exec_of_encodes {i : Instr} {f : Fields} (h : encodeFields i = some f) :
    (∃ eff, ∀ s, exec i s = issueOps i eff s) ∨ ∃ eff cont, ∀ s, exec i s = waitOps i eff cont s := by
  cases i
  case wfe | hjoin | barw | phase | fwait | launch | tkput | pack | unpack | pext | meet | meetr => exact .inr ⟨_, _, fun _ => rfl⟩
  case rst8 | rst16 | rst32 | rst | rstv | rldS8 | rldZ8 | rldS16 | rldZ16 | rldS32 | rldZ32 | rld | rldv | ramo | ramor =>
    exact .inr ⟨_, _, fun _ => rfl⟩
  all_goals cases h
  all_goals exact .inl ⟨_, fun _ => rfl⟩

/-- An instruction of a context is neither refused nor stops the machine. -/
theorem exec_next_of_encodes {i : Instr} {f : Fields} (h : encodeFields i = some f) (s : State) : ∃ t, exec i s = .next t := by
  rcases exec_of_encodes h with ⟨eff, he⟩ | ⟨eff, cont, he⟩
  · exact ⟨_, he s⟩
  · rw [he]
    exact waitOps_next ..

theorem encodes_of_decodes {bs : List Byte} {i : Instr} {n : Nat} (h : decodeBytes bs = .ok (i, n)) :
    ∃ f, encodeFields i = some f := by
  obtain ⟨-, hf, -⟩ := decodeBytes_eq_ok.mp h
  exact ⟨_, decodeRaw_reads (fieldsOf_canon bs) i (decodeFields_eq_ok.mp hf).1⟩

/-- What decodes at the head of a fetch buffer is the instruction of the head. -/
theorem Ctx.head_of_decodes {x : Ctx} {i : Instr} {n : Nat} (h : decodeBytes x.fbuf = .ok (i, n)) : x.head = .instr i := by
  obtain ⟨hlen, -, hn⟩ := decodeBytes_eq_ok.mp h
  subst hn
  simp only [Ctx.head, hlen, and_self, if_true, h]

/-! A unit's turn. -/

/-- A unit performs the first of its rows that is not refused. -/
theorem tryAll_append {s t : State} {a : Agent} {rest : List Agent} {x : Cand} (before l : List Cand)
    (hb : ∀ y ∈ before, ∃ r, exec y.instr { s with cur := y.cur, todo := if y.stays then a :: rest else rest } = .refused r)
    (hx : exec x.instr { s with cur := x.cur, todo := if x.stays then a :: rest else rest } = .next t) :
    tryAll s a rest (before ++ x :: l) = some (.next t) := by
  induction before with
  | nil => rw [List.nil_append, tryAll, hx]
  | cons y ys ih =>
    obtain ⟨r, hr⟩ := hb y (List.mem_cons_self ..)
    rw [List.cons_append, tryAll, hr]
    exact ih fun z hz => hb z (List.mem_cons_of_mem _ hz)

/-- While the clocks run, the step is the row that the first unit performs. -/
theorem step_of_tryAll {s : State} {a : Agent} {rest : List Agent} {o : Host.Outcome State Fault Refusal} (hh : s.halt = false)
    (ht : s.todo = a :: rest) (ho : tryAll s a rest (candidates s a) = some o) : step s = o := by
  simp only [step, advance, hh, ht, runAgents, ho, Bool.false_and, Bool.false_eq_true, if_false]

theorem foldl_now {α : Type} {f : State → α → State} (hf : ∀ s x, (f s x).now = s.now) (l : List α) (s : State) :
    (l.foldl f s).now = s.now := by
  induction l generalizing s with
  | nil => rfl
  | cons x l ih => rw [List.foldl_cons, ih, hf]

/-- Time passes to the next clock edge, and not back. -/
theorem tick_now (s : State) : (tick s).now = max s.now (nextEdge s) := by
  unfold tick
  dsimp only
  rw [foldl_now]
  exact fun _ _ => rfl

theorem specWordsDecode : Clause.SpecWordsDecode := by
  refine ⟨?_, ?_, ?_⟩ <;> decide +kernel

theorem stepRunsInstruction : Clause.StepRunsInstruction := by
  intro i n c t rest s hh ht hstop hissuer hdec
  obtain ⟨f, hf⟩ := encodes_of_decodes hdec
  obtain ⟨u, hu⟩ := exec_next_of_encodes hf { s with cur := { core := c, slot := t }, todo := rest }
  have hc : candidates s (.issue c) = [(Cand.slot i c t).once] := by
    simp only [candidates, issueCands, hstop, hissuer, headInstr, Ctx.head_of_decodes hdec, Bool.false_eq_true, if_false,
      List.map_cons, List.map_nil]
  rw [hu]
  refine step_of_tryAll hh ht ?_
  rw [hc]
  exact tryAll_append [] [] (fun _ h => nomatch h) hu

theorem stepRunsUnits : Clause.StepRunsUnits := by
  intro s
  refine ⟨fun a rest before l x t hh ht hc hb hx => ?_, fun hh ht hin => ⟨?_, ?_⟩, fun hh hr => ?_⟩
  · refine step_of_tryAll hh ht ?_
    rw [hc]
    exact tryAll_append before l hb hx
  · simp only [step, advance, hh, ht, runAgents, takeInput, hin, Bool.false_and, Bool.false_eq_true, if_false]
  · rw [tick_now]
    exact Nat.le_max_left ..
  · simp only [step, advance, hh, hr, Bool.not_false, Bool.and_self, if_true]

/-- Settles O57, clause by clause. -/
theorem stepsOfTheMachine : Obligations.StepsOfTheMachine := ⟨specWordsDecode, stepRunsInstruction, stepRunsUnits⟩

end Sys2Proof.Machine
end

section
/-! PROOFS. The tests before an issue (spec/03, R75 to R81): what they are for an instruction that reaches its own, and how one that
its core or slot cannot run traps (spec/02, R43, R44, R51). -/

namespace Sys2Proof.Machine


/-! The tests before an issue (R75, R81). -/

theorem reachesIssue_iff {s : State} : reachesIssue s = true ↔
    mayIssue s = true ∧ (s.me.pend.all fun p => p.n < p.l) = true ∧ impDue s = none ∧ execHit s = none := by
  simp only [reachesIssue, Bool.and_eq_true, beq_iff_eq, and_assoc]

theorem blk_of_mayIssue {s : State} (h : mayIssue s = true) : s.me.blk = none := by
  simp only [mayIssue, Bool.and_eq_true, Option.isNone_iff_eq_none] at h
  obtain ⟨⟨⟨⟨⟨⟨⟨⟨-, -⟩, hb⟩, -⟩, -⟩, -⟩, -⟩, -⟩, -⟩ := h
  exact hb

theorem not_halted_of_mayIssue {s : State} (h : mayIssue s = true) : s.me.halted = false := by
  simp only [mayIssue, Bool.and_eq_true, Bool.not_eq_true'] at h
  obtain ⟨⟨⟨⟨⟨⟨⟨⟨-, hh⟩, -⟩, -⟩, -⟩, -⟩, -⟩, -⟩, -⟩ := h
  exact hh

theorem pcVerdict_of_reachesIssue {s : State} (h : reachesIssue s = true) : pcVerdict s = .go := by
  obtain ⟨hm, hw, hi, hx⟩ := reachesIssue_iff.mp h
  have hb : beyondWindow s.me.pend = false := by
    rw [beyondWindow, List.any_eq_false]
    intro p hp
    have := List.all_eq_true.mp hw p hp
    simp only [decide_eq_true_eq] at this ⊢
    omega
  simp only [pcVerdict, hm, hb, hi, hx, Bool.not_true, Bool.or_self, Bool.false_eq_true, if_false]

theorem noteHit_of_reachesIssue {s : State} (h : reachesIssue s = true) : noteHit s = s := by
  obtain ⟨-, -, -, hx⟩ := reachesIssue_iff.mp h
  rw [noteHit, hx]

/-- An instruction that reaches its own tests, and that no pending instruction holds back, is tested for its place first (R75). -/
theorem verdict_of_reachesIssue {i : Instr} {s : State} (h : reachesIssue s = true) (hd : holdsBack i s = false)
    (hw : windowVerdict s.me.lkchk (touched i) s.me.pend = .go) : verdict i s =
      (if illegalHere s.cur.core s.cur.slot i then .trap .illegal (instrBits i) .plain else .go : Verdict).andThen fun _ =>
      (csrVerdict i s).andThen fun _ => (if unitFree i s then .go else .wait : Verdict).andThen fun _ =>
      (if i = .brk ∧ s.myCore.brkHalt then .halt 3 else .go : Verdict).andThen fun _ =>
      (walkVerdict i s).andThen fun _ => transferVerdict i s := by
  simp only [verdict, hd, Bool.false_eq_true, if_false, pcVerdict_of_reachesIssue h, hw, Verdict.go_andThen]

/-! An issue that no comparator hits (R76, R78, R81). -/

/-- What an issue counts at its core, and what the other slots see of it. -/
def countsIssue (i : Instr) (t : Nat) (k : Core) : Core :=
  { k with pmcs := issuePmcs i t k, issueSeq := k.issueSeq + 1, ctxs := sawAll k.ctxs t }

section
variable {i : Instr} {s : State}

theorem noteIssue_of_noHit (h : noteHit s = s) : noteIssue i s =
    ((endWalk s).updMyCore (countsIssue i s.cur.slot)).updMe fun x =>
      x.issue i ((endWalk s).updMyCore (countsIssue i s.cur.slot)).myCore.issueSeq (endWalk s).nextId
        ((endWalk s).clk (endWalk s).cur.core) := by
  have hc (k : Core) : countsIssue i s.cur.slot k =
      let k := pmcCount k 2 (some s.cur.slot) 1
      let k := if loadsRemote i then pmcCount k 7 (some s.cur.slot) 1 else if posts i then pmcCount k 8 (some s.cur.slot) 1 else k
      { k with
        issueSeq := k.issueSeq + 1
        ctxs := k.ctxs.map fun p => if p.1 = s.cur.slot then p else (p.1, p.2.sawIssue s.cur.slot) } := by
    simp only [countsIssue, issuePmcs, sawAll]
    split <;> [rfl; (split <;> rfl)]
  rw [noteIssue, h, funext hc]
  rfl

theorem endWalk_me (s : State) : (endWalk s).me = { s.me with walking := none } := by
  rcases endWalk_spec s with ⟨hn, he⟩ | ⟨w, he⟩
  · rw [he, ← hn]
  · simp [he, State.me, State.ctx]

theorem endWalk_package (s : State) : endWalk s = { s with cores := (endWalk s).cores } := by
  rcases endWalk_spec s with ⟨-, he⟩ | ⟨w, he⟩ <;> rw [he]
  rfl

theorem noteIssue_cur_of_noHit (h : noteHit s = s) : (noteIssue i s).cur = s.cur := by
  rw [noteIssue_of_noHit h, State.updMe_cur, endWalk_package]
  rfl

theorem noteIssue_free_of_noHit (h : noteHit s = s) : (noteIssue i s).free = s.free := by
  rw [noteIssue_of_noHit h, State.updMe_free, endWalk_package]
  rfl

theorem noteIssue_trace_of_noHit (h : noteHit s = s) : (noteIssue i s).myCore.trace = s.myCore.trace := by
  rw [noteIssue_of_noHit h, State.myCore_updMe, State.myCore_updMyCore]
  rcases endWalk_spec s with ⟨-, he⟩ | ⟨w, he⟩ <;> rw [he]
  · rfl
  · rw [State.myCore, State.setCore_cur, State.core_setCore_self]
    rfl

/-- The issuing context after its issue is counted. -/
theorem noteIssue_me_of_noHit (h : noteHit s = s) : ∃ a b c,
    (noteIssue i s).me = { s.me with walking := none }.issue i a b c := by
  have hme : ((endWalk s).updMyCore (countsIssue i s.cur.slot)).me = (endWalk s).me := by
    have hc : (endWalk s).cur = s.cur := by rw [endWalk_package]
    rw [State.me_updMyCore, hc, countsIssue, mgetD_sawAll_self, State.me, State.ctx, State.myCore, hc]
  rw [noteIssue_of_noHit h, State.me_updMe, hme, endWalk_me]
  exact ⟨_, _, _, rfl⟩

/-- A test before the issue that fails traps at the instruction, which has issued (R85, R86). -/
theorem trapHere_noteTrapped {c : Cause} {v : Word} (h : reachesIssue s = true) (hp : trapsPlainly s = true)
    (hc : c ≠ .lookahead) : trapHere (usedFree (noteTrapped i c s)) c v = trapsFirst i c.code v s := by
  obtain ⟨hm, -⟩ := reachesIssue_iff.mp h
  have hn := noteHit_of_reachesIssue h
  obtain ⟨a, b, d, hme⟩ := noteIssue_me_of_noHit (i := i) hn
  have hu : (usedFree (noteIssue i s)).me = (noteIssue i s).me := rfl
  have hp' : trapsPlainly (usedFree (noteIssue i s)) = true := by
    have ht : tracesSlot (usedFree (noteIssue i s)).myCore (usedFree (noteIssue i s)).cur.slot = tracesSlot s.myCore s.cur.slot := by
      change tracesSlot (noteIssue i s).myCore (noteIssue i s).cur.slot = _
      rw [tracesSlot, tracing, noteIssue_trace_of_noHit hn, noteIssue_cur_of_noHit hn, tracesSlot, tracing]
    rw [trapsPlainly, ht, hu, hme]
    simpa [trapsPlainly, Ctx.issue] using hp
  rw [noteTrapped, if_neg hc, trapHere_of_trapsPlainly hp' (by rw [hu, hme]; rfl)
    (by rw [hu, hme]; exact not_halted_of_mayIssue hm), trapsFirst, traps, ← noteIssue_free_of_noHit hn (i := i)]
  rfl

end

/-- An instruction that its core or slot cannot run is one of a context. -/
theorem encodes_of_illegalHere {i : Instr} {c t : Nat} (h : illegalHere c t i = true) : ∃ f, encodeFields i = some f := by
  by_contra hn
  have hnone : encodeFields i = none := by
    cases he : encodeFields i with
    | none => rfl
    | some f => exact absurd ⟨f, he⟩ hn
  cases i
  all_goals cases hnone
  all_goals exact Bool.false_ne_true h

/-- Settles O10: nothing is pending, so that the first test that can fail is that of the instruction's place. -/
theorem illegalHereTraps : Obligations.IllegalHereTraps := by
  intro i s hr hi hp
  have hpend : s.me.pend = [] := by
    simp only [trapsPlainly, Bool.and_eq_true, List.isEmpty_iff] at hp
    obtain ⟨⟨⟨hpend, -⟩, -⟩, -⟩ := hp
    exact hpend
  have hv : verdict i s = .trap .illegal (instrBits i) .plain := by
    rw [verdict_of_reachesIssue hr (by simp [holdsBack, hpend, windowVerdict]) (by rw [hpend]; rfl), hi]
    rfl
  have hs (eff : List VWord → State → State) : issueOps i eff s = .next (trapsFirst i 0x01 (instrBits i) s) := by
    rw [issueOps, issueState, hv]
    exact congrArg _ (trapHere_noteTrapped hr hp (by decide))
  obtain ⟨f, hf⟩ := encodes_of_illegalHere hi
  rcases exec_of_encodes hf with ⟨eff, he⟩ | ⟨eff, cont, he⟩
  · exact (he s).trans (hs eff)
  · rw [he, waitOps, blk_of_mayIssue (reachesIssue_iff.mp hr).1]
    exact hs eff

end Sys2Proof.Machine
end

section
/-! PROOFS. Ports (spec/02, R43; spec/03, R77): the instructions of two sources that transfer through them, and what each port gives and
takes (R55, R171, R187, R188, R190, R286). -/

namespace Sys2Proof.Machine

/-! The two-source instructions of R93. -/

/-- An instruction of two scalar sources: what it names, and that its effect is to give `d` a function of their values. -/
structure Alu2 (i : Instr) (d x y : SOp) (f : Word → Word → Word) : Prop where
  exec_eq : ∀ s, exec i s = issueOps i (alu2 d f) s
  effOf_eq : effOf i = alu2 d f
  srcs_eq : srcs i = [.s x, .s y]
  lateSrcs_eq : lateSrcs i = []
  dsts_eq : dsts i = [.s d]
  laOf_eq : laOf i = none
  unitFree_eq : ∀ s, unitFree i s = true

theorem Alu2.congr {i : Instr} {d x y : SOp} {f g : Word → Word → Word} (h : Alu2 i d x y f) (hfg : ∀ a b, f a b = g a b) :
    Alu2 i d x y g := by
  rwa [← funext fun a => funext fun b => hfg a b]

section
variable (a b : Word)

theorem shiftLeft_eq_ofNat : a <<< shAmount b = BitVec.ofNat 64 (a.toNat * 2 ^ (b.toNat % 64)) := by
  apply BitVec.eq_of_toNat_eq
  rw [BitVec.toNat_shiftLeft, Nat.shiftLeft_eq, BitVec.toNat_ofNat]
  rfl

theorem ushiftRight_eq_ofNat : a >>> shAmount b = BitVec.ofNat 64 (a.toNat / 2 ^ (b.toNat % 64)) := by
  apply BitVec.eq_of_toNat_eq
  rw [BitVec.toNat_ushiftRight, Nat.shiftRight_eq_div_pow, BitVec.toNat_ofNat,
    Nat.mod_eq_of_lt ((Nat.div_le_self ..).trans_lt a.isLt)]
  rfl

theorem sshiftRight_eq_ofInt : a.sshiftRight (shAmount b) = BitVec.ofInt 64 (a.toInt / (2 ^ (b.toNat % 64) : Nat)) := by
  rw [BitVec.sshiftRight, Int.shiftRight_eq_div_pow]
  rfl

/-- The test `<` chooses between two words as `≤` does. -/
theorem ite_lt_eq_ite_le {α : Type} [LinearOrder α] {f : Word → α} (hf : Function.Injective f) {c : Bool}
    (hc : c = true ↔ f a < f b) : (if c then a else b) = (if f a ≤ f b then a else b) ∧
      (if c then b else a) = if f a ≤ f b then b else a := by
  simp only [hc]
  rcases lt_trichotomy (f a) (f b) with h | h | h
  · simp [h, h.le]
  · simp [hf h]
  · simp [not_lt.mpr h.le, not_le.mpr h]

theorem boolWord_eq {c : Bool} {p : Prop} [Decidable p] (h : c = true ↔ p) : boolWord c = if p then 1 else 0 := by
  simp only [boolWord, h]

theorem addp_eq : addp a b =
    BitVec.ofNat 64 (a.toNat / 2 ^ 52 * 2 ^ 52 + ((a.toNat + b.toNat) % 2 ^ 52)) := by
  rw [addp, Nat.mod_add_mod]
  rfl

end

section
variable {row : (SOp → SOp → SOp → Instr) × (Word → Word → Word)} (d x y : SOp)

theorem alu2_of_twoSourceRows1 (h : row ∈ twoSourceRows1) : Alu2 (row.1 d x y) d x y row.2 := by
  simp only [twoSourceRows1, List.mem_cons, List.not_mem_nil, or_false] at h
  rcases h with rfl | rfl | rfl | rfl | rfl | rfl | rfl | rfl <;> exact ⟨fun _ => rfl, rfl, rfl, rfl, rfl, rfl, fun _ => rfl⟩

theorem alu2_of_twoSourceRows2 (h : row ∈ twoSourceRows2) : Alu2 (row.1 d x y) d x y row.2 := by
  have hs (a b : Word) := ite_lt_eq_ite_le a b (fun _ _ => BitVec.eq_of_toInt_eq) BitVec.slt_iff_toInt_lt
  have hu (a b : Word) := ite_lt_eq_ite_le a b (fun _ _ => BitVec.eq_of_toNat_eq) BitVec.ult_iff_lt
  simp only [twoSourceRows2, List.mem_cons, List.not_mem_nil, or_false] at h
  rcases h with rfl | rfl | rfl | rfl | rfl | rfl | rfl | rfl | rfl <;>
    refine Alu2.congr ⟨fun _ => rfl, rfl, rfl, rfl, rfl, rfl, fun _ => rfl⟩ fun a b => ?_
  · rfl
  · rfl
  · exact shiftLeft_eq_ofNat a b
  · exact ushiftRight_eq_ofNat a b
  · exact sshiftRight_eq_ofInt a b
  · exact (hs a b).1
  · exact (hs a b).2
  · exact (hu a b).1
  · exact (hu a b).2

theorem alu2_of_twoSourceRows3 (h : row ∈ twoSourceRows3) : Alu2 (row.1 d x y) d x y row.2 := by
  simp only [twoSourceRows3, List.mem_cons, List.not_mem_nil, or_false] at h
  rcases h with rfl | rfl | rfl | rfl | rfl <;>
    refine Alu2.congr ⟨fun _ => rfl, rfl, rfl, rfl, rfl, rfl, fun _ => rfl⟩ fun a b => ?_
  · exact boolWord_eq BitVec.slt_iff_toInt_lt
  · exact boolWord_eq BitVec.ult_iff_lt
  · exact boolWord_eq beq_iff_eq
  · exact (boolWord_eq bne_iff_ne).trans (ite_not ..)
  · exact addp_eq a b

/-- The instructions of the table have the values that it lists (R93). -/
theorem alu2_of_twoSourceRows (h : row ∈ twoSourceRows) : Alu2 (row.1 d x y) d x y row.2 := by
  simp only [twoSourceRows, List.mem_append] at h
  rcases h with (h | h) | h
  · exact alu2_of_twoSourceRows1 d x y h
  · exact alu2_of_twoSourceRows2 d x y h
  · exact alu2_of_twoSourceRows3 d x y h

end

/-! What a port gives (R55, R171, R188, R286). -/

theorem w64_joinWords (w : Word) : w64 (joinWords [w]) = w := by
  apply BitVec.eq_of_toNat_eq
  simp [w64, joinWords]
  omega

/-- A change of a core that keeps its contexts keeps the issuing one. -/
theorem me_setCore {s : State} {c : Nat} {k : Core} (h : k.ctxs = (s.core c).ctxs) : (s.setCore c k).me = s.me := by
  by_cases hc : s.cur.core = c
  · subst hc
    simp [State.me, State.ctx, h]
  · simp [State.me, State.ctx, State.core_setCore_ne _ _ hc]

theorem updMe_core_congr {α : Type} {f : Core → α} (hf : ∀ (k : Core) m, f { k with ctxs := m } = f k) (s : State) (g : Ctx → Ctx)
    (c : Nat) : f ((s.updMe g).core c) = f (s.core c) := by
  by_cases hc : c = s.cur.core
  · subst hc
    rw [State.updMe, State.updCtx, State.core_setCtx_self, hf]
  · rw [State.updMe, State.updCtx, State.core_setCtx_ne _ _ _ hc]

section
variable {s : State} {l : Dir} {q : Fin 4} {w : Word} {r : List Word}

theorem popPort_ln_cons (h : mgetD s.myCore.linkQ (dirNum l) [] = w :: r) :
    popPort s s.cur.core (.ln l) false = .ok (joinWords [w], s.updMyCore fun k => { k with linkQ := mset k.linkQ (dirNum l) r }) := by
  rw [State.myCore] at h
  simp [popPort, xferWords, h, State.updMyCore, State.updCore]

theorem popPort_ln_nil (h : mgetD s.myCore.linkQ (dirNum l) [] = []) : popPort s s.cur.core (.ln l) false =
    if linkPresent s s.cur.core l then .block else .trap .linkAbsent (wordOf (48 + dirNum l)) := by
  rw [State.myCore] at h
  simp [popPort, xferWords, h]

theorem popPort_eq_cons (h : (s.myCore.res q.val).halves = w :: r) : popPort s s.cur.core (.eq q) false =
    .ok (joinWords [w], s.updMyCore fun k => { k with resQ := mset k.resQ q.val { k.res q.val with halves := r } }) := by
  rw [State.myCore] at h
  simp [popPort, xferWords, h, State.updMyCore, State.updCore]

theorem popPort_eq_nil (h : (s.myCore.res q.val).halves = []) : popPort s s.cur.core (.eq q) false = .block := by
  rw [State.myCore] at h
  simp [popPort, xferWords, h]

theorem popPort_st_cons (hm : (mgetD s.myCore.streams q.val {}).mode = 1) (h : (mgetD s.myCore.streams q.val {}).words = w :: r) :
    ∃ m : Stream, m.words = r ∧ popPort s s.cur.core (.st q) false =
      .ok (joinWords [w], s.updMyCore fun k => { k with streams := mset k.streams q.val m }) := by
  rw [State.myCore] at hm h
  refine ⟨if r.isEmpty && (mgetD s.myCore.streams q.val {}).left == 0 then {} else
    { mgetD s.myCore.streams q.val {} with words := r }, ?_, ?_⟩
  · split
    · rename_i hr
      simp only [Bool.and_eq_true, List.isEmpty_iff] at hr
      exact hr.1.symm
    · rfl
  · simp [popPort, xferWords, hm, h, State.updMyCore, State.updCore, State.myCore]

theorem popPort_st_block (h : (mgetD s.myCore.streams q.val {}).mode ≠ 1 ∨ (mgetD s.myCore.streams q.val {}).words = []) :
    popPort s s.cur.core (.st q) false = .block := by
  rw [State.myCore] at h
  rcases h with h | h <;> simp [popPort, xferWords, h]

end

/-! Pipes (R286). -/

theorem mget_map_eq {α : Type} (m : Map α) (n : Nat) (f : α → α) :
    mget (m.map fun p => if p.1 = n then (p.1, f p.2) else p) n = (mget m n).map f := by
  induction m with
  | nil => rfl
  | cons p m ih =>
    obtain ⟨a, b⟩ := p
    by_cases h : a = n <;> simp [mget, h, ih]

theorem unitPlain_updQueue (s : State) (u n : Nat) (f : TQueue → TQueue) :
    mget (unitPlain (updQueue s u n f) u).queues n = (mget (unitPlain s u).queues n).map f := by
  unfold updQueue unitPlain updUnit
  split
  · simp only [State.plain_updPlain_self, mget_map_eq]
  · exact mget_map_eq ..

/-- What the place of a pipe depends on: the launches, the jobs and the number of the package, and the group of its core. -/
theorem pipe_place_congr {s t : State} {c : Nat} (hl : t.launches = s.launches) (hj : t.jobs = s.jobs) (hm : t.mgmt = s.mgmt)
    (hg : (t.core c).group = (s.core c).group) (hlast : (t.core c).lastJob = (s.core c).lastJob) (p : Nat) (h : Word) :
    pipeHandle t c p = pipeHandle s c p ∧ pipesHomed t c = pipesHomed s c ∧ coreJob t c = coreJob s c ∧
      hHome t (coreJob s c) h = hHome s (coreJob s c) h := by
  have hla : coreLaunch t c = coreLaunch s c := by rw [coreLaunch, coreLaunch, hg]
  refine ⟨?_, ?_, ?_, ?_⟩
  · rw [pipeHandle, pipeHandle, hla, State.launch?, hl, State.launch?]
  · rw [pipesHomed, pipesHomed, hla, State.launch?, hl, State.launch?]
  · rw [coreJob, coreJob, hg, hlast]
  · rw [hHome, hHome, hm, vdtEntry, hj, vdtEntry]

/-- What changes the cores alone, and neither the group of one nor its last job, changes no pipe of it. -/
theorem pipeAt_congr {s t : State} {c : Nat} (hp : t = { s with cores := t.cores }) (hg : (t.core c).group = (s.core c).group)
    (hj : (t.core c).lastJob = (s.core c).lastJob) (p : Nat) : pipeAt t c p = pipeAt s c p := by
  have hplace := pipe_place_congr (by rw [hp]) (by rw [hp]) (by rw [hp]) hg hj p
  have hq (u : Nat) (h : Word) : hQueue t (coreJob s c) u h = hQueue s (coreJob s c) u h := by rw [hp]; rfl
  simp only [pipeAt, (hplace 0).1, (hplace 0).2.1, (hplace 0).2.2.1, (hplace _).2.2.2, hq]

section
variable {s : State} {c p u : Nat} {h : Word} {tq : TQueue}

/-- A pipe that has come to its place (R286). -/
theorem pipeAt_eq_ok (hhome : pipesHomed s c = true) : pipeAt s c p = .ok (u, h, tq) ↔
    pipeHandle s c p = some h ∧ hHome s (coreJob s c) h = some u ∧ hQueue s (coreJob s c) u h = some tq ∧ hInside c u h = true := by
  constructor
  · intro ha
    unfold pipeAt at ha
    rw [hhome] at ha
    split at ha
    · cases ha
    · rename_i hh
      split at ha
      · cases ha
      · rename_i hu
        split at ha
        · cases ha
        · rename_i hq
          rw [Bool.not_true, if_neg Bool.false_ne_true] at ha
          split at ha
          · rename_i hin
            cases ha
            exact ⟨hh, hu, hq, hin⟩
          · cases ha
  · rintro ⟨hh, hu, hq, hin⟩
    simp only [pipeAt, hh, hu, hq, hhome, hin, Bool.not_true, Bool.false_eq_true, if_false, if_true]

/-- A pipe that holds a word, or has room for one, has come to its place (log entry 33). -/
theorem pipesHomed_of_pipeAt (ha : pipeAt s c p = .ok (u, h, tq)) (hw : tq.words ≠ [] ∨ 0 < tq.depth) : pipesHomed s c = true := by
  cases hn : pipesHomed s c with
  | true => rfl
  | false =>
    unfold pipeAt at ha
    simp only [hn, Bool.not_false, if_true] at ha
    split at ha
    · cases ha
    · split at ha
      · cases ha
      · split at ha
        · cases ha
        · cases ha
          simp at hw

theorem hQueue_eq_some {job : Nat} : hQueue s job u h = some tq ↔ mget (unitPlain s u).queues (hNumber h) = some tq ∧
    tq.job = job ∧ tq.scope = hScope h ∧ (hScope h ≠ 0 ∨ tq.square = hSquare h) := by
  unfold hQueue
  cases mget (unitPlain s u).queues (hNumber h) with
  | none => simp
  | some q =>
    simp only [Option.ite_none_right_eq_some, Option.some.injEq]
    constructor
    · rintro ⟨hc, rfl⟩
      exact ⟨rfl, hc⟩
    · rintro ⟨rfl, hc⟩
      exact ⟨hc, rfl⟩

theorem updQueue_package (s : State) (u n : Nat) (f : TQueue → TQueue) :
    updQueue s u n f = { s with plains := (updQueue s u n f).plains, north := (updQueue s u n f).north } := by
  unfold updQueue updUnit
  split <;> rfl

/-- A change of the words of a pipe at its home is a change of the pipe. -/
theorem pipeAt_updQueue {f : List Word → List Word} (ha : pipeAt s c p = .ok (u, h, tq)) (hw : tq.words ≠ [] ∨ 0 < tq.depth) :
    pipeAt (updQueue s u (hNumber h) fun x => { x with words := f x.words }) c p = .ok (u, h, { tq with words := f tq.words }) := by
  have hhome := pipesHomed_of_pipeAt ha hw
  obtain ⟨hh, hu, hq, hin⟩ := (pipeAt_eq_ok hhome).mp ha
  have hun := unitPlain_updQueue s u (hNumber h) fun x => { x with words := f x.words }
  have hpk := updQueue_package s u (hNumber h) fun x => { x with words := f x.words }
  generalize updQueue s u (hNumber h) (fun x => { x with words := f x.words }) = t at *
  obtain ⟨hh', hhome', hj', hu'⟩ := pipe_place_congr (t := t) (s := s) (c := c) (by rw [hpk]) (by rw [hpk]) (by rw [hpk])
    (by rw [hpk]; rfl) (by rw [hpk]; rfl) p h
  obtain ⟨hget, hprops⟩ := hQueue_eq_some.mp hq
  rw [pipeAt_eq_ok (hhome'.trans hhome), hh', hj', hu', hQueue_eq_some, hun, hget]
  exact ⟨hh, hu, ⟨rfl, hprops⟩, hin⟩

end

section
variable {s : State} {q : Fin 4} {u : Nat} {h : Word} {tq : TQueue} {w : Word} {r : List Word}

/-- The pipe after its words have changed. -/
def setsPipe (u : Nat) (h : Word) (f : List Word → List Word) (s : State) : State :=
  updQueue s u (hNumber h) fun x => { x with words := f x.words }

theorem popPort_pp_cons (ha : pipeAt s s.cur.core q.val = .ok (u, h, tq)) (hw : tq.words = w :: r) :
    popPort s s.cur.core (.pp q) false = .ok (joinWords [w], setsPipe u h (List.drop 1) s) := by
  simp [popPort, ha, xferWords, hw, setsPipe]

theorem popPort_pp_nil (ha : pipeAt s s.cur.core q.val = .ok (u, h, tq)) (hw : tq.words = []) :
    popPort s s.cur.core (.pp q) false = .block := by
  simp [popPort, ha, xferWords, hw]

theorem popPort_pp_trap (ha : pipeAt s s.cur.core q.val = .error (some h)) :
    popPort s s.cur.core (.pp q) false = .trap .scope h := by
  rw [popPort, ha]
  rfl

theorem pipeAt_setsPipe {c p : Nat} {f : List Word → List Word} (ha : pipeAt s c p = .ok (u, h, tq))
    (hw : tq.words ≠ [] ∨ 0 < tq.depth) : pipeAt (setsPipe u h f s) c p = .ok (u, h, { tq with words := f tq.words }) :=
  pipeAt_updQueue ha hw

theorem setsPipe_package (u : Nat) (h : Word) (f : List Word → List Word) (s : State) :
    setsPipe u h f s = { s with plains := (setsPipe u h f s).plains, north := (setsPipe u h f s).north } := updQueue_package ..

theorem setsPipe_me (u : Nat) (h : Word) (f : List Word → List Word) (s : State) : (setsPipe u h f s).me = s.me := by
  rw [setsPipe_package]
  rfl

end

/-- A change of a context is no change of a pipe. -/
theorem pipeAt_updMe (s : State) (g : Ctx → Ctx) (c p : Nat) : pipeAt (s.updMe g) c p = pipeAt s c p :=
  pipeAt_congr rfl (updMe_core_congr (fun _ _ => rfl) s g c) (updMe_core_congr (fun _ _ => rfl) s g c) p

/-! What a port takes (R171, R187, R188, R190, R286). -/

section
variable {s : State} {l : Dir} {q : Fin 4} {n t before : Nat} {v : VWord}

/-- Room on a link: fewer than eight words stand in its queue or are on their way (R187, log entry 31). -/
def linkUsed (s : State) (n : Nat) (l : Dir) : Nat :=
  (mgetD (s.core n).linkQ (dirNum (opposite l)) []).length + ((s.core n).linkFly.filter fun f => f.1 == dirNum (opposite l)).length

/-- A word on its way over a link (R187). -/
def sendsLink (n : Nat) (l : Dir) (w : Word) (s : State) : State :=
  s.updCore n fun k => { k with linkFly := k.linkFly ++ [(dirNum (opposite l), w,
    s.clk n + (if coreDie n = coreDie s.cur.core then 2 else 8))] }

theorem pushPort_ln (hn : neighbour s.cur.core l = some n) (hp : linkPresent s s.cur.core l = true) (hu : linkUsed s n l < 8) :
    pushPort s s.cur.core t before (.ln l) false v = .ok (sendsLink n l (w64 v) s) := by
  have h8 : ¬ 8 < linkUsed s n l + 1 := by omega
  simp only [linkUsed] at h8
  simp [pushPort, hn, hp, xferWords, splitWords, sendsLink, State.updCore, h8]

theorem pushPort_ln_full (hp : linkPresent s s.cur.core l = true) (hu : ∀ n, neighbour s.cur.core l = some n → 8 ≤ linkUsed s n l) :
    pushPort s s.cur.core t before (.ln l) false v = .block := by
  cases hn : neighbour s.cur.core l with
  | none => simp [linkPresent, hn] at hp
  | some n =>
    have h8 : 8 < linkUsed s n l + 1 := Nat.lt_succ_of_le (hu n hn)
    simp only [linkUsed] at h8
    simp [pushPort, hn, hp, xferWords, h8]

theorem pushPort_ln_trap (hp : linkPresent s s.cur.core l = false) :
    pushPort s s.cur.core t before (.ln l) false v = .trap .linkAbsent (wordOf (48 + dirNum l)) := by
  cases hn : neighbour s.cur.core l <;> simp [pushPort, hn, hp]

theorem sendsLink_linkFly (n : Nat) (l : Dir) (w : Word) (s : State) :
    ((sendsLink n l w s).core n).linkFly = (s.core n).linkFly ++ [(dirNum (opposite l), w,
      s.clk n + (if coreDie n = coreDie s.cur.core then 2 else 8))] := by
  rw [sendsLink, State.core_updCore_self]

theorem sendsLink_me (n : Nat) (l : Dir) (w : Word) (s : State) : (sendsLink n l w s).me = s.me := me_setCore rfl

theorem pushPort_st (hm : (mgetD s.myCore.streams q.val {}).mode = 2) (hl : (mgetD s.myCore.streams q.val {}).words.length < 8) :
    pushPort s s.cur.core t before (.st q) false v = .ok (s.updMyCore fun k => { k with
      streams := mset k.streams q.val { mgetD k.streams q.val {} with words := (mgetD k.streams q.val {}).words ++ [w64 v] } }) := by
  rw [State.myCore] at hm hl
  have hl' : (mgetD (s.core s.cur.core).streams q.val {}).words.length + 1 ≤ 8 := hl
  simp [pushPort, hm, hl', xferWords, splitWords, State.updMyCore, State.updCore]

theorem pushPort_st_block (h : (mgetD s.myCore.streams q.val {}).mode ≠ 2 ∨ 8 ≤ (mgetD s.myCore.streams q.val {}).words.length) :
    pushPort s s.cur.core t before (.st q) false v = .block := by
  rw [State.myCore] at h
  rw [pushPort, if_neg]
  rintro ⟨hm, hl⟩
  rw [xferWords] at hl
  simp only [Bool.false_eq_true, if_false] at hl
  rcases h with h | h
  · exact h hm
  · omega

/-- A word at the end of a pipe sets EVT in the cores of its gang (R112, R286). -/
theorem pushPort_pp {u : Nat} {h : Word} {tq : TQueue} (ha : pipeAt s s.cur.core q.val = .ok (u, h, tq))
    (hl : tq.words.length < tq.depth) : pushPort s s.cur.core t before (.pp q) false v =
      .ok (pipeEvents (setsPipe u h (· ++ [w64 v]) s) h) := by
  have hl' : tq.words.length + 1 ≤ tq.depth := hl
  simp [pushPort, ha, xferWords, splitWords, setsPipe, hl']

theorem pushPort_pp_full {u : Nat} {h : Word} {tq : TQueue} (ha : pipeAt s s.cur.core q.val = .ok (u, h, tq))
    (hl : tq.depth ≤ tq.words.length) : pushPort s s.cur.core t before (.pp q) false v = .block := by
  have hl' : ¬ tq.words.length + 1 ≤ tq.depth := by omega
  simp [pushPort, ha, xferWords, hl']

theorem pushPort_pp_trap {h : Word} (ha : pipeAt s s.cur.core q.val = .error (some h)) :
    pushPort s s.cur.core t before (.pp q) false v = .trap .scope h := by
  rw [pushPort, ha]
  rfl

end

/-! EVT (R112). -/

theorem mgetD_map_ite {α : Type} (m : Map α) (t : Nat) (d : α) (p : α → Prop) [DecidablePred p] (f : α → α) :
    mgetD (m.map fun e => if p e.2 then (e.1, f e.2) else e) t d = mgetD m t d ∨
      mgetD (m.map fun e => if p e.2 then (e.1, f e.2) else e) t d = f (mgetD m t d) := by
  induction m with
  | nil => exact .inl rfl
  | cons e m ih =>
    obtain ⟨a, x⟩ := e
    simp only [mgetD, List.map_cons] at ih ⊢
    by_cases hp : p x <;> by_cases ha : a = t <;> simp [mget, hp, ha, ih]

/-- What changes cores alone keeps of them: the group of each, and of the issuing context everything but EVT. -/
structure EvtOnly (s t : State) : Prop where
  package : t = { s with cores := t.cores }
  group : ∀ c, (t.core c).group = (s.core c).group
  lastJob : ∀ c, (t.core c).lastJob = (s.core c).lastJob
  me : ∃ e, t.me = { s.me with evt := e }

theorem setEvt_evtOnly (s : State) (c : Nat) : EvtOnly s (setEvt s c) := by
  have hk (k : Nat) : ∃ m, (setEvt s c).core k = { s.core k with ctxs := m } := by
    by_cases hk : k = c
    · subst hk
      exact ⟨_, State.core_updCore_self ..⟩
    · exact ⟨_, State.core_updCore_ne _ _ hk⟩
  refine ⟨rfl, fun k => ?_, fun k => ?_, ?_⟩
  · obtain ⟨m, hm⟩ := hk k
    rw [hm]
  · obtain ⟨m, hm⟩ := hk k
    rw [hm]
  · by_cases hc : s.cur.core = c
    · subst hc
      have hme : (setEvt s s.cur.core).me = mgetD (s.myCore.ctxs.map fun p =>
          if p.2.status = .live then (p.1, { p.2 with evt := true }) else p) s.cur.slot {} := by
        rw [State.me, State.ctx, setEvt, State.updCore_cur, State.core_updCore_self]
        rfl
      rcases mgetD_map_ite s.myCore.ctxs s.cur.slot {} (·.status = .live) (fun x => { x with evt := true }) with h | h
      · exact ⟨s.me.evt, hme.trans h⟩
      · exact ⟨true, hme.trans h⟩
    · refine ⟨s.me.evt, ?_⟩
      rw [State.me, State.ctx, setEvt, State.updCore_cur, State.core_updCore_ne _ _ hc]
      rfl

theorem foldl_setEvt_evtOnly (cs : List Nat) (s : State) : EvtOnly s (cs.foldl setEvt s) := by
  induction cs generalizing s with
  | nil => exact ⟨rfl, fun _ => rfl, fun _ => rfl, s.me.evt, rfl⟩
  | cons c cs ih =>
    obtain ⟨hp, hg, hj, e, hm⟩ := ih (setEvt s c)
    obtain ⟨-, hg', hj', e', hm'⟩ := setEvt_evtOnly s c
    refine ⟨?_, fun k => (hg k).trans (hg' k), fun k => (hj k).trans (hj' k), e, ?_⟩
    · rw [List.foldl_cons, hp]
      rfl
    · rw [List.foldl_cons, hm, hm']

theorem pipeEvents_evtOnly (s : State) (h : Word) : EvtOnly s (pipeEvents s h) := foldl_setEvt_evtOnly ..

theorem pipeAt_pipeEvents (s : State) (h : Word) (c p : Nat) : pipeAt (pipeEvents s h) c p = pipeAt s c p :=
  pipeAt_congr (pipeEvents_evtOnly s h).package ((pipeEvents_evtOnly s h).group c) ((pipeEvents_evtOnly s h).lastJob c) p

end Sys2Proof.Machine
end

section
/-! PROOFS. Transfers through ports (spec/03, R77): in the issue clock, later by PORT_TRANSFER_CONTINUE, and those that wait or trap. -/

namespace Sys2Proof.Machine

/-! What an issue keeps (R78). -/

/-- Another state but for what an issue changes of its cores. -/
structure Still (s t : State) : Prop where
  package : t = { s with cores := t.cores }
  cores : ∀ c, (t.core c).still = (s.core c).still

theorem Still.trans {s t u : State} (h : Still s t) (h' : Still t u) : Still s u := by
  refine ⟨?_, fun c => (h'.cores c).trans (h.cores c)⟩
  rw [h'.package, h.package]

theorem still_updMe (s : State) (g : Ctx → Ctx) : Still s (s.updMe g) :=
  ⟨rfl, fun c => updMe_core_congr (f := Core.still) (fun _ _ => rfl) s g c⟩

theorem still_noteIssue {i : Instr} {s : State} (h : issues i s = true) : Still s (noteIssue i s) := by
  refine ⟨noteIssue_package h, fun c => ?_⟩
  by_cases hc : c = s.cur.core
  · have := noteIssue_still h
    rwa [State.myCore, noteIssue_cur h, ← hc, State.myCore, ← hc] at this
  · obtain ⟨w, hw⟩ := noteIssue_eq h
    rw [hw, State.core_setCore_ne _ _ hc]

section
variable {s t : State} (h : Still s t)
include h

theorem Still.cur_eq : t.cur = s.cur := by rw [h.package]
theorem Still.clk_eq (c : Nat) : t.clk c = s.clk c := by rw [h.package]; rfl
theorem Still.nextId_eq : t.nextId = s.nextId := by rw [h.package]
theorem Still.now_eq : t.now = s.now := by rw [h.package]
theorem Still.group_eq (c : Nat) : (t.core c).group = (s.core c).group := (congrArg Core.group (h.cores c) :)
theorem Still.lastJob_eq (c : Nat) : (t.core c).lastJob = (s.core c).lastJob := (congrArg Core.lastJob (h.cores c) :)
theorem Still.linkQ_eq (c : Nat) : (t.core c).linkQ = (s.core c).linkQ := (congrArg Core.linkQ (h.cores c) :)
theorem Still.storeQ_eq (c : Nat) : (t.core c).storeQ = (s.core c).storeQ := (congrArg Core.storeQ (h.cores c) :)
theorem Still.chans_eq (c : Nat) : (t.core c).chans = (s.core c).chans := (congrArg Core.chans (h.cores c) :)
theorem Still.eq1_eq (c : Nat) : (t.core c).eq1 = (s.core c).eq1 := (congrArg Core.eq1 (h.cores c) :)
theorem Still.res_eq (c q : Nat) : (t.core c).res q = (s.core c).res q :=
  (congrArg (fun k => mgetD (Core.resQ k) q {}) (h.cores c) :)
theorem Still.linkFly_eq (c : Nat) : (t.core c).linkFly = (s.core c).linkFly := (congrArg Core.linkFly (h.cores c) :)

theorem Still.myCore_eq : t.myCore.still = s.myCore.still := by
  rw [State.myCore, h.cur_eq]
  exact h.cores _

theorem Still.resQ_eq : t.myCore.resQ = s.myCore.resQ := (congrArg Core.resQ h.myCore_eq :)
theorem Still.lease_eq : t.myCore.lease = s.myCore.lease := (congrArg Core.lease h.myCore_eq :)
theorem Still.holdDisp_eq : t.myCore.holdDisp = s.myCore.holdDisp := (congrArg Core.holdDisp h.myCore_eq :)
theorem Still.streams_eq : t.myCore.streams = s.myCore.streams := (congrArg Core.streams h.myCore_eq :)

theorem Still.linkUsed_eq (n : Nat) (l : Dir) : linkUsed t n l = linkUsed s n l := by
  rw [linkUsed, h.linkQ_eq, h.linkFly_eq, linkUsed]

theorem Still.linkPresent_eq (c : Nat) (l : Dir) : linkPresent t c l = linkPresent s c l := by
  unfold linkPresent
  simp only [residentFor, coreLaunch, h.group_eq]

theorem Still.pipeAt_eq (c p : Nat) : pipeAt t c p = pipeAt s c p := pipeAt_congr h.package (h.group_eq c) (h.lastJob_eq c) p

end

/-! The end of an instruction of two sources (R77). -/

theorem Ctx.setX_blk (x : Ctx) (d : Fin 48) (w : Word) : (x.setX d w).blk = x.blk := by
  unfold Ctx.setX
  split <;> rfl

theorem endsX_me (d : Fin 48) (w : Word) (s : State) : (endsX d w s).me = (s.me.setX d w).setBlk none := State.me_updMe ..

/-- The effect on a register, then the end of the instruction: no push is owed. -/
theorem settleOps_alu2_x {s : State} {b : Blk} {d : Fin 48} (hb : s.me.blk = some b) (h0 : b.stage = 0) (ho : b.outs = [])
    (f : Word → Word → Word) (vs : List VWord) :
    settleOps (alu2 (.x d) f vs (updBlk s fun b => { b with held := vs })) = endsX d (f (arg vs 0) (arg vs 1)) s := by
  generalize hw : f (arg vs 0) (arg vs 1) = w
  have hu : alu2 (.x d) f vs (updBlk s fun b => { b with held := vs }) =
      (updBlk s fun b => { b with held := vs }).updMe fun x => x.setX d w := by
    rw [alu2, hw, putS]
  have hblk : ((updBlk s fun b => { b with held := vs }).updMe fun x => x.setX d w).me.blk = some { b with held := vs } := by
    rw [State.me_updMe, Ctx.setX_blk, updBlk_me, hb]
    rfl
  rw [hu, settleOps, hblk]
  simp only [h0, ho, true_or, if_true, pushAll]
  rw [complete_eq, updBlk, State.updMe_updMe, State.updMe_updMe, endsX]
  refine State.updMe_congr ?_
  rw [show ({ s.me with blk := s.me.blk.map fun b => { b with held := vs } } : Ctx) = s.me.setBlk _ from rfl, Ctx.setX_setBlk,
    Ctx.setBlk_setBlk]
  rfl

/-- The effect on a port: the push is owed. -/
theorem settleOps_alu2_port {s : State} {b : Blk} {p : Port} (hb : s.me.blk = some b) (h0 : b.stage = 0) (ho : b.outs = [])
    (f : Word → Word → Word) (vs : List VWord) :
    settleOps (alu2 (.port p) f vs s) =
      pushAll [(p, v128 (f (arg vs 0) (arg vs 1)), false)] (putS s (.port p) (f (arg vs 0) (arg vs 1))) := by
  have hblk : (putS s (.port p) (f (arg vs 0) (arg vs 1))).me.blk =
      some { b with outs := [(p, v128 (f (arg vs 0) (arg vs 1)), false)] } := by
    rw [putS, State.me_updMe, hb]
    simp [ho]
  rw [alu2, settleOps, hblk]
  simp only [h0, true_or, if_true]

section
variable {i : Instr} {f : Word → Word → Word} {s u : State} {v : VWord}

/-- An instruction whose first source is a port takes its word in its issue clock. -/
theorem exec_of_pop {d b : Fin 48} {p : Port} (h : Alu2 i (.x d) (.port p) (.x b) f) (hi : issues i s = true)
    (hpop : popPort (noteIssue i s) (noteIssue i s).cur.core p false = .ok (v, u)) (hu : u.me = (noteIssue i s).me) :
    exec i s = .next (endsX d (f (w64 v) (s.me.getX b)) u) := by
  have hb : (noteIssue i s).me.blk = some (issueBlk i s.me (s.clk s.cur.core) []) := by
    rw [noteIssue_me hi]
    rfl
  have hx : u.me.getX b = s.me.getX b := by
    rw [hu, noteIssue_me hi]
    rfl
  have hrun : runOps i (alu2 (.x d) f) (noteIssue i s) = endsX d (f (w64 v) (s.me.getX b)) u := by
    rw [runOps, hb]
    simp only [issueBlk, List.length_nil, List.drop_zero, h.srcs_eq, popAll, popOpnd, hpop, List.nil_append, List.cons_append]
    rw [settleOps_alu2_x (hu ▸ hb) rfl rfl, hx]
    simp [arg, w64_v128]
  rw [h.exec_eq]
  refine issueOps_of hi hrun ?_
  rw [endsX_me, hu, noteIssue_me hi, Ctx.setBlk_halted, Ctx.setX_halted]
  exact not_halted_of_issues hi

theorem endsX_me_of_issued {d : Fin 48} (w : Word) (hu : u.me = (noteIssue i s).me) : (endsX d w u).me = (writesX i d w s).me := by
  rw [endsX_me, writesX, issued, complete_eq, State.me_updMe, State.me_updMe, hu, Ctx.setX_setBlk]

/-- The machine with an instruction that has run its effect and owes a push of its result. -/
def owes (i : Instr) (p : Port) (vs : List VWord) (w : Word) (s : State) : State := putS (blocks i 0 0 vs s) (.port p) w

theorem still_owes (hi : issues i s = true) (p : Port) (vs : List VWord) (w : Word) : Still s (owes i p vs w s) := by
  rw [owes, putS, blocks]
  exact (still_noteIssue hi).trans ((still_updMe ..).trans (still_updMe ..))

theorem complete_owes (p : Port) (vs : List VWord) (w : Word) : complete (owes i p vs w s) = issued i s := by
  rw [owes, putS, blocks_eq, issued, complete_eq, complete_eq, State.updMe_updMe, State.updMe_updMe]
  rfl

/-- An instruction whose destination is a port makes its push in its issue clock. -/
theorem exec_of_push {a b : Fin 48} {p : Port} {w : Word} (h : Alu2 i (.port p) (.x a) (.x b) f) (hi : issues i s = true)
    (hw : f (s.me.getX a) (s.me.getX b) = w)
    (hpush : pushPort (owes i p (srcVals i s) w s) (owes i p (srcVals i s) w s).cur.core (owes i p (srcVals i s) w s).cur.slot
      (owes i p (srcVals i s) w s).nextId p false (v128 w) = .ok u)
    (hh : u.me.halted = false) : exec i s = .next (complete u) := by
  have hv : srcVals i s = [v128 (s.me.getX a), v128 (s.me.getX b)] := by
    rw [srcVals, h.srcs_eq]
    rfl
  have hf : f (arg (srcVals i s) 0) (arg (srcVals i s) 1) = w := by
    rw [hv, ← hw]
    simp [arg, w64_v128]
  have hr : ∀ o ∈ srcs i, o.port? = none := port?_of_regSrcs h.srcs_eq
  rw [h.exec_eq]
  refine issueOps_of hi ((runOps_regs _ hi hr).trans ?_) (by rwa [complete_eq, State.me_updMe])
  have hm := blocks_me (st := 0) (aux := 0) (vs := srcVals i s) hi
  refine (settleOps_alu2_port (s := blocks i 0 0 (srcVals i s) s) (congrArg Ctx.blk hm) rfl rfl f (srcVals i s)).trans ?_
  rw [hf, ← owes, pushAll, hpush]
  rfl

end

/-! The word of a port, and what it leaves (R55, R171, R188, R286). -/

section
variable {s t : State}

/-- A change of the issuing core that keeps its contexts. -/
theorem me_updMyCore_of_ctxs {f : Core → Core} (h : (f s.myCore).ctxs = s.myCore.ctxs) : (s.updMyCore f).me = s.me := by
  rw [State.me_updMyCore, h]
  rfl

theorem endsX_myCore (d : Fin 48) (w : Word) (s : State) : (endsX d w s).myCore.still = s.myCore.still := by
  rw [endsX, State.myCore_updMe]
  rfl

theorem endsX_linkQ (d : Fin 48) (w : Word) (s : State) : (endsX d w s).myCore.linkQ = s.myCore.linkQ :=
  (congrArg Core.linkQ (endsX_myCore d w s) :)
theorem endsX_res (d : Fin 48) (w : Word) (s : State) (q : Nat) : (endsX d w s).myCore.res q = s.myCore.res q :=
  (congrArg (fun k => mgetD (Core.resQ k) q {}) (endsX_myCore d w s) :)
theorem endsX_streams (d : Fin 48) (w : Word) (s : State) : (endsX d w s).myCore.streams = s.myCore.streams :=
  (congrArg Core.streams (endsX_myCore d w s) :)

end

/-- What is left of a port from which a word has been taken. -/
structure Pops (s : State) (p : Port) (w : Word) (left : State → Prop) : Prop where
  ok : ∃ u, popPort s s.cur.core p false = .ok (joinWords [w], u) ∧ u.me = s.me ∧ ∀ d x, left (endsX d x u)

section
variable {s : State} {l : Dir} {q : Fin 4} {w : Word} {r : List Word}

theorem pops_ln (h : mgetD s.myCore.linkQ (dirNum l) [] = w :: r) :
    Pops s (.ln l) w fun t => mgetD t.myCore.linkQ (dirNum l) [] = r := by
  refine ⟨_, popPort_ln_cons h, me_updMyCore_of_ctxs rfl, fun d x => ?_⟩
  rw [endsX_linkQ, State.myCore_updMyCore, mgetD_mset_self]

theorem pops_eq (h : (s.myCore.res q.val).halves = w :: r) :
    Pops s (.eq q) w fun t => t.myCore.res q.val = { s.myCore.res q.val with halves := r } := by
  refine ⟨_, popPort_eq_cons h, me_updMyCore_of_ctxs rfl, fun d x => ?_⟩
  rw [endsX_res, State.myCore_updMyCore]
  exact mgetD_mset_self ..

theorem pops_st (hm : (mgetD s.myCore.streams q.val {}).mode = 1) (h : (mgetD s.myCore.streams q.val {}).words = w :: r) :
    Pops s (.st q) w fun t => (mgetD t.myCore.streams q.val {}).words = r := by
  obtain ⟨m, hr, hp⟩ := popPort_st_cons hm h
  refine ⟨_, hp, me_updMyCore_of_ctxs rfl, fun d x => ?_⟩
  rw [endsX_streams, State.myCore_updMyCore, mgetD_mset_self, hr]

theorem pops_pp {u : Nat} {h : Word} {tq : TQueue} (ha : pipeAt s s.cur.core q.val = .ok (u, h, tq)) (hw : tq.words = w :: r) :
    Pops s (.pp q) w fun t => pipeAt t s.cur.core q.val = .ok (u, h, { tq with words := r }) := by
  refine ⟨_, popPort_pp_cons ha hw, setsPipe_me .., fun d x => ?_⟩
  rw [endsX, pipeAt_updMe, pipeAt_setsPipe ha (.inl (by simp [hw])), hw]
  rfl

end

section
variable {i : Instr} {f : Word → Word → Word} {s : State} {w : Word} {left : State → Prop} {d b : Fin 48} {p o : Port}

/-- An instruction whose first source is a port that holds a word takes it and completes (R43, R77). -/
theorem exec_of_pops (h : Alu2 i (.x d) (.port p) (.x b) f) (hi : issues i s = true) (hp : Pops (noteIssue i s) p w left) :
    ∃ t, exec i s = .next t ∧ t.me = (writesX i d (f w (s.me.getX b)) s).me ∧ left t := by
  obtain ⟨u, hpop, hu, hleft⟩ := hp.ok
  refine ⟨_, exec_of_pop h hi hpop hu, ?_, hleft ..⟩
  rw [w64_joinWords]
  exact endsX_me_of_issued _ hu

/-- A blocked instruction that waits for its second source (R77). -/
theorem blk_of_waits {v : VWord} (h : Alu2 i (.x d) (.port p) (.port o) f) (hw : waitsIn i 0 0 [v] s = true) :
    s.me.halted = false ∧ ∃ k, s.me.blk = some k ∧ k.stage = 0 ∧ k.outs = [] ∧ k.held = [v] ∧ effOf k.instr = alu2 (.x d) f ∧
      (srcs k.instr).drop 1 = [.s (.port o)] ∧ unitFree k.instr s = true := by
  obtain ⟨hh, -, k, hk, rfl, hs, ho, -, hv⟩ := waitsIn_iff.mp hw
  exact ⟨hh, k, hk, hs, ho, hv, h.effOf_eq, by rw [h.srcs_eq]; rfl, h.unitFree_eq s⟩

/-- One that has popped its first word takes its second and completes. -/
theorem continue_of_pops {v : VWord} (h : Alu2 i (.x d) (.port p) (.port o) f) (hw : waitsIn i 0 0 [v] s = true)
    (hp : Pops s o w left) : ∃ t, exec .portTransferContinue s = .next t ∧
      t.me = { s.me.setX d (f (w64 v) w) with blk := none } ∧ left t := by
  obtain ⟨hh, k, hk, hs, ho, hv, he, hd, hfree⟩ := blk_of_waits h hw
  obtain ⟨u, hpop, hu, hleft⟩ := hp.ok
  have hready : transferReady s = true := by
    simp only [transferReady, hk, hs, if_true, hfree, hv, List.length_singleton, hd, popOpnd, hpop, Bool.and_self]
  have hend : (endsX d (f (w64 v) w) u).me.halted = false := by
    rw [endsX_me, Ctx.setBlk_halted, Ctx.setX_halted, hu, hh]
  have hgo : goOn s = endsX d (f (w64 v) w) u := by
    have hset := settleOps_alu2_x (d := d) (hu ▸ hk) hs ho f [v, joinWords [w]]
    have hvals : f (arg [v, joinWords [w]] 0) (arg [v, joinWords [w]] 1) = f (w64 v) w := congrArg _ (w64_joinWords w)
    rw [hvals] at hset
    have hwatch : watchHalted (updBlk u fun b => { b with held := [v, joinWords [w]] }) (endsX d (f (w64 v) w) u) = false := by
      simp [watchHalted, hend]
    simp only [goOn, hk, hs, if_true, he, hv, List.length_singleton, hd, popAll, popOpnd, hpop, List.cons_append, List.nil_append,
      hset, hwatch, Bool.false_eq_true, if_false]
  refine ⟨endsX d (f (w64 v) w) u, ?_, ?_, hleft ..⟩
  · change event (transferReady s) (goOn s) = _
    rw [hready, hgo]
    rfl
  · rw [endsX_me, hu]
    rfl

theorem continue_stays {v : VWord} (h : Alu2 i (.x d) (.port p) (.port o) f) (hw : waitsIn i 0 0 [v] s = true)
    (hp : popPort s s.cur.core o false = .block) : exec .portTransferContinue s = .refused .notEnabled := by
  obtain ⟨-, k, hk, hs, -, hv, -, hd, -⟩ := blk_of_waits h hw
  have hready : transferReady s = false := by
    simp only [transferReady, hk, hs, if_true, hv, List.length_singleton, hd, popOpnd, hp, Bool.and_false]
  change event (transferReady s) (goOn s) = _
  rw [hready]
  rfl

theorem continue_traps {v : VWord} {k : Blk} {c : Cause} {x : Word} (h : Alu2 i (.x d) (.port p) (.port o) f)
    (hw : waitsIn i 0 0 [v] s = true) (hk : s.me.blk = some k) (hplain : trapsPlainly s = true)
    (hp : popPort s s.cur.core o false = .trap c x) :
    exec .portTransferContinue s = .next { enters c.code x k.pc k.len s with free := s.free + 1 } := by
  obtain ⟨hh, k', hk', hs, -, hv, -, hd, hfree⟩ := blk_of_waits h hw
  obtain rfl : k = k' := Option.some.inj (hk.symm.trans hk')
  have hready : transferReady s = true := by
    simp only [transferReady, hk, hs, if_true, hfree, hv, List.length_singleton, hd, popOpnd, hp, Bool.and_self]
  have hgo : goOn s = trapHere (usedFree s) c x := by
    simp only [goOn, hk, hs, if_true, hv, List.length_singleton, hd, popAll, popOpnd, hp]
  change event (transferReady s) (goOn s) = _
  rw [hready, hgo, trapHere_of_trapsPlainly (s := usedFree s) hplain hk hh]
  rfl

end

theorem portSources : Clause.PortSources := by
  intro row hrow d b l q w r s result
  have ha (p : Port) := alu2_of_twoSourceRows (.x d) (.port p) (.x b) hrow
  refine ⟨fun hi h => ?_, fun hi h => ?_, fun hi hm h => ?_, fun hi u hd tq hq h => ?_⟩
  · exact exec_of_pops (ha _) hi (pops_ln (by rw [State.myCore, (still_noteIssue hi).linkQ_eq, noteIssue_cur hi]; exact h))
  · have hres := (still_noteIssue hi).resQ_eq
    have hq : (noteIssue (row.1 (.x d) (.port (.eq q)) (.x b)) s).myCore.res q.val = s.myCore.res q.val := by
      rw [Core.res, hres, Core.res]
    simpa only [hq] using exec_of_pops (ha _) hi (pops_eq (q := q) (by rw [hq]; exact h))
  · have hst := (still_noteIssue hi).streams_eq
    exact exec_of_pops (ha _) hi (pops_st (by rw [hst]; exact hm) (by rw [hst]; exact h))
  · have hst := still_noteIssue hi
    have hp := pops_pp (s := noteIssue (row.1 (.x d) (.port (.pp q)) (.x b)) s) (by rw [hst.cur_eq, hst.pipeAt_eq]; exact hq) h
    rw [hst.cur_eq] at hp
    exact exec_of_pops (ha _) hi hp

/-! The first transfer at issue (R75, R77). -/

theorem mayTransfer_iff {i : Instr} {s : State} : mayTransfer i s = true ↔ mayIssue s = true ∧
    (s.me.pend.all fun p => p.n < p.l && (touched i).all fun r => !p.uses.contains r) = true ∧ impDue s = none ∧ execHit s = none ∧
    illegalHere s.cur.core s.cur.slot i = false ∧ csrVerdict i s = .go ∧ (drains i = false ∨ s.me.pend = []) ∧
    unitFree i s = true ∧ (i = .brk → s.myCore.brkHalt = false) ∧ walkVerdict i s = .go := by
  simp only [mayTransfer, Bool.and_eq_true, Bool.or_eq_true, beq_iff_eq, Bool.not_eq_true', List.isEmpty_iff, Bool.and_eq_false_imp,
    and_assoc]

theorem reachesIssue_of_mayTransfer {i : Instr} {s : State} (h : mayTransfer i s = true) : reachesIssue s = true := by
  obtain ⟨hm, hw, hi, hx, -⟩ := mayTransfer_iff.mp h
  refine reachesIssue_iff.mpr ⟨hm, List.all_eq_true.mpr fun p hp => ?_, hi, hx⟩
  have := List.all_eq_true.mp hw p hp
  simp only [Bool.and_eq_true] at this
  exact this.1

/-- No pending instruction stands at the end of its window or has a register of the instruction (R81). -/
theorem windowVerdict_go {b : Bool} {keys : List (Nat × Nat)} {ps : List Pend}
    (h : (ps.all fun p => p.n < p.l && keys.all fun r => !p.uses.contains r) = true) : windowVerdict b keys ps = .go := by
  induction ps with
  | nil => rfl
  | cons p ps ih =>
    simp only [List.all_cons, Bool.and_eq_true, decide_eq_true_eq, List.all_eq_true, Bool.not_eq_true', List.contains_eq_mem,
      decide_eq_false_iff_not] at h
    obtain ⟨⟨hn, hk⟩, hps⟩ := h
    have hu : p.uses.any keys.contains = false := by
      rw [List.any_eq_false]
      intro r hr hc
      exact hk r (by simpa using hc) hr
    rw [windowVerdict, if_neg (by omega), hu, if_neg Bool.false_ne_true]
    exact ih (by simpa [List.all_eq_true] using hps)

/-- What has only its first transfer before it has the verdict on that (R75). -/
theorem verdict_of_mayTransfer {i : Instr} {s : State} (h : mayTransfer i s = true) : verdict i s = transferVerdict i s := by
  obtain ⟨-, hw, -, -, hl, hc, hd, hu, hb, hk⟩ := mayTransfer_iff.mp h
  have hback : holdsBack i s = false := by
    rw [holdsBack, windowVerdict_go hw]
    rcases hd with hd | hd <;> simp [hd]
  have hbrk : ¬(i = .brk ∧ s.myCore.brkHalt = true) := fun ⟨hi, ht⟩ => Bool.false_ne_true ((hb hi).symm.trans ht)
  rw [verdict_of_reachesIssue (reachesIssue_of_mayTransfer h) hback (windowVerdict_go hw), hl, hc, hu, if_neg hbrk, hk]
  rfl

section
variable {i : Instr} {f : Word → Word → Word} {s : State} {d x y : SOp} {a b : Fin 48} {p : Port}

theorem exec_waits (h : Alu2 i d x y f) (hm : mayTransfer i s = true) (ht : transferVerdict i s = .wait) : exec i s = .next s := by
  rw [h.exec_eq, issueOps, issueState, verdict_of_mayTransfer hm, ht]

theorem exec_trapsFirst {c : Cause} {v : Word} (h : Alu2 i d x y f) (hm : mayTransfer i s = true)
    (ht : transferVerdict i s = .trap c v .plain) (hp : trapsPlainly s = true) (hc : c ≠ .lookahead) :
    exec i s = .next (trapsFirst i c.code v s) := by
  rw [h.exec_eq, issueOps, issueState, verdict_of_mayTransfer hm, ht]
  exact congrArg _ (trapHere_noteTrapped (reachesIssue_of_mayTransfer hm) hp hc)

/-- The first transfer of an instruction whose first source is a port is its pop. -/
theorem transferVerdict_pop (h : Alu2 i d (.port p) y f) : transferVerdict i s = match popPort s s.cur.core p false with
    | .ok _ => lateVerdict i s
    | .block => .wait
    | .trap c v => .trap c v .plain := by
  rw [transferVerdict, firstPop, h.srcs_eq, h.lateSrcs_eq]
  rfl

/-- The first transfer of an instruction of register sources whose destination is a port is its push. -/
theorem transferVerdict_push (h : Alu2 i (.port p) (.x a) (.x b) f) : transferVerdict i s =
    match pushPort s s.cur.core s.cur.slot s.nextId p false 0 with
    | .ok _ => .go
    | .block => .wait
    | .trap c v => .trap c v .plain := by
  rw [transferVerdict, firstPop, h.srcs_eq, h.lateSrcs_eq, firstPush, lateDst, h.laOf_eq, h.dsts_eq]
  rfl

theorem pop_waits (h : Alu2 i d (.port p) y f) (hm : mayTransfer i s = true) (hp : popPort s s.cur.core p false = .block) :
    exec i s = .next s := exec_waits h hm (by rw [transferVerdict_pop h, hp])

theorem pop_traps {c : Cause} {v : Word} (h : Alu2 i d (.port p) y f) (hm : mayTransfer i s = true) (ht : trapsPlainly s = true)
    (hc : c ≠ .lookahead) (hp : popPort s s.cur.core p false = .trap c v) : exec i s = .next (trapsFirst i c.code v s) :=
  exec_trapsFirst h hm (by rw [transferVerdict_pop h, hp]) ht hc

theorem push_waits (h : Alu2 i (.port p) (.x a) (.x b) f) (hm : mayTransfer i s = true)
    (hp : pushPort s s.cur.core s.cur.slot s.nextId p false 0 = .block) : exec i s = .next s :=
  exec_waits h hm (by rw [transferVerdict_push h, hp])

theorem push_traps {c : Cause} {v : Word} (h : Alu2 i (.port p) (.x a) (.x b) f) (hm : mayTransfer i s = true)
    (ht : trapsPlainly s = true) (hc : c ≠ .lookahead)
    (hp : pushPort s s.cur.core s.cur.slot s.nextId p false 0 = .trap c v) : exec i s = .next (trapsFirst i c.code v s) :=
  exec_trapsFirst h hm (by rw [transferVerdict_push h, hp]) ht hc

end

theorem portsWaitOrTrap : Clause.PortsWaitOrTrap := by
  intro row hrow d a b l q s pop push stream
  have hpop (p : Port) : Alu2 (pop p) (.x d) (.port p) (.x b) row.2 := alu2_of_twoSourceRows _ _ _ hrow
  have hpush (p : Port) : Alu2 (push p) (.port p) (.x a) (.x b) row.2 := alu2_of_twoSourceRows _ _ _ hrow
  refine ⟨fun hm h => ⟨fun hl => ?_, fun hl ht => ?_⟩, fun hm h => ?_, fun hm h => ?_, fun hm => ⟨fun hl h => ?_, fun hl ht => ?_⟩,
    fun hm h => ?_, fun u h tq ha => ⟨fun hm h => ?_, fun hm h => ?_⟩, fun h ha ht => ⟨fun hm => ?_, fun hm => ?_⟩,
    fun p v w hk ht => ⟨fun hw h hl => ?_, fun hw h ha => ?_⟩⟩
  · exact pop_waits (hpop _) hm ((popPort_ln_nil h).trans (if_pos hl))
  · exact pop_traps (c := .linkAbsent) (hpop _) hm ht (by decide) ((popPort_ln_nil h).trans (if_neg (ne_true_of_eq_false hl)))
  · exact pop_waits (hpop _) hm (popPort_eq_nil h)
  · exact pop_waits (hpop _) hm (popPort_st_block h)
  · exact push_waits (hpush _) hm (pushPort_ln_full hl h)
  · exact push_traps (c := .linkAbsent) (hpush _) hm ht (by decide) (pushPort_ln_trap hl)
  · exact push_waits (hpush _) hm (pushPort_st_block h)
  · exact pop_waits (hpop _) hm (popPort_pp_nil ha h)
  · exact push_waits (hpush _) hm (pushPort_pp_full ha h)
  · exact pop_traps (c := .scope) (hpop _) hm ht (by decide) (popPort_pp_trap ha)
  · exact push_traps (c := .scope) (hpush _) hm ht (by decide) (pushPort_pp_trap ha)
  · exact continue_traps (c := .linkAbsent) (alu2_of_twoSourceRows _ _ _ hrow) hw hk ht
      ((popPort_ln_nil h).trans (if_neg (ne_true_of_eq_false hl)))
  · exact continue_traps (c := .scope) (alu2_of_twoSourceRows _ _ _ hrow) hw hk ht (popPort_pp_trap ha)

/-! PORT_TRANSFER_CONTINUE of an owed push (R77). -/

/-- An instruction that has only a push left makes it when there is room, and completes. -/
theorem continue_of_push {s u : State} {k : Blk} {p : Port} {v : VWord} (hk : s.me.blk = some k) (hs : k.stage = 99)
    (ho : k.outs = [(p, v, false)]) (hp : pushPort s s.cur.core s.cur.slot s.nextId p false v = .ok u) :
    exec .portTransferContinue s = .next (complete u) := by
  have hready : transferReady s = true := by simp [transferReady, hk, hs, stagePush, ho, hp]
  have hgo : goOn s = complete u := by simp [goOn, continueOps, hk, hs, stagePush, ho, pushAll, hp]
  change event (transferReady s) (goOn s) = _
  rw [hready, hgo]
  rfl

theorem transferContinues : Clause.TransferContinues := by
  constructor
  · intro row hrow d p l q v w r s waits result stays stream
    have ha (o : Port) := alu2_of_twoSourceRows (.x d) (.port p) (.port o) hrow
    refine ⟨fun hw => ⟨fun h => ?_, fun h hl => ?_⟩, fun hw => ⟨fun h => ?_, fun h => ?_⟩, fun hw => ⟨fun hm h => ?_, fun h => ?_⟩,
      fun hw u h tq hq => ⟨fun h => ?_, fun h => ?_⟩⟩
    · exact continue_of_pops (ha _) hw (pops_ln h)
    · exact continue_stays (ha _) hw ((popPort_ln_nil h).trans (if_pos hl))
    · exact continue_of_pops (ha _) hw (pops_eq h)
    · exact continue_stays (ha _) hw (popPort_eq_nil h)
    · exact continue_of_pops (ha _) hw (pops_st hm h)
    · exact continue_stays (ha _) hw (popPort_st_block h)
    · exact continue_of_pops (ha _) hw (pops_pp hq h)
    · exact continue_stays (ha _) hw (popPort_pp_nil hq h)
  · intro b l q v s hb hs
    refine ⟨fun ho n hn hl hu => ?_, fun ho hm hw => ?_⟩
    · refine ⟨_, continue_of_push hb hs ho (pushPort_ln hn hl hu), ?_, ?_⟩
      · rw [complete_eq, State.me_updMe, sendsLink_me]
        rfl
      · rw [complete_eq]
        exact (updMe_core_congr (f := Core.linkFly) (fun _ _ => rfl) _ _ n).trans (sendsLink_linkFly ..)
    · refine ⟨_, continue_of_push hb hs ho (pushPort_st hm hw), ?_, ?_⟩
      · rw [complete_eq, State.me_updMe, me_updMyCore_of_ctxs rfl]
        rfl
      · rw [complete_eq, State.myCore_updMe, State.myCore_updMyCore, mgetD_mset_self]

/-! The end of a push (R77, R190). -/

section
variable {i : Instr} {f : Word → Word → Word} {s u : State} {a b : Fin 48} {p : Port} {w : Word}

theorem complete_me (s : State) : (complete s).me = s.me.setBlk none := State.me_updMe ..

theorem issued_me_of_owes {vs : List VWord} (hu : u.me = (owes i p vs w s).me) : (complete u).me = (issued i s).me := by
  rw [← complete_owes p vs w, complete_me, complete_me, hu]

theorem owes_not_halted (hi : issues i s = true) (p : Port) (vs : List VWord) (w : Word) : (owes i p vs w s).me.halted = false := by
  rw [owes, putS, State.me_updMe, blocks_me hi]
  exact not_halted_of_issues hi

theorem owes_asm (hi : issues i s = true) (p : Port) (vs : List VWord) (w : Word) : (owes i p vs w s).me.asm = s.me.asm := by
  rw [owes, putS, State.me_updMe, blocks_me hi]
  rfl

/-- A context with other words in an assembly buffer. -/
def Ctx.setAsm (x : Ctx) (q : Fin 4) (ws : List Word) : Ctx := { x with asm := x.asm.set q.val ws }

theorem Ctx.setAsm_setBlk (x : Ctx) (b : Option Blk) (q : Fin 4) (ws : List Word) :
    (x.setBlk b).setAsm q ws = (x.setAsm q ws).setBlk b := rfl
theorem Ctx.setAsm_halted (x : Ctx) (q : Fin 4) (ws : List Word) : (x.setAsm q ws).halted = x.halted := rfl

theorem getD_asm (x : Ctx) (q : Fin 4) : x.asm.toList.getD q.val [] = x.asm[q.val] := by
  simp [List.getD_eq_getElem?_getD]

/-- A word that does not fill an assembly buffer stands at its end (R190). -/
theorem pushPort_asm {q : Fin 4} {before : Nat} (h : s.me.asm[q.val].length < 3) :
    pushPort s s.cur.core s.cur.slot before (.eq q) false (v128 w) =
      .ok (s.updMe fun x => x.setAsm q (s.me.asm[q.val] ++ [w])) := by
  have hx : s.ctx s.cur.core s.cur.slot = s.me := rfl
  have hl : (s.me.asm[q.val] ++ [w]).length < 4 := by simp; omega
  simp only [pushPort, hx, getD_asm, splitWords, Bool.false_eq_true, if_false, w64_v128, if_pos hl]
  rfl

end

/-! Command words (R56, R190, R208). -/

section
variable {s : State} {q : Fin 4} {w : Word}

/-- The word that fills an assembly buffer makes a command word of it, which enters the queue (R190). -/
theorem pushPort_cmd {before : Nat} (h : s.me.asm[q.val].length = 3) (hr : released s s.cur.core s.cur.slot before = true)
    (hroom : cmdRoom s s.cur.core q.val (cmdOfWords (s.me.asm[q.val] ++ [w])) = true) :
    pushPort s s.cur.core s.cur.slot before (.eq q) false (v128 w) =
      .ok (enterCmd (s.updMe fun x => x.setAsm q []) s.cur.core s.cur.slot q.val
        (cmdOfWords (s.me.asm[q.val] ++ [w])) none 0) := by
  have hx : s.ctx s.cur.core s.cur.slot = s.me := rfl
  have hl : ¬ (s.me.asm[q.val] ++ [w]).length < 4 := by simp; omega
  have hd : (s.me.asm[q.val] ++ [w]).drop 4 = [] := List.drop_of_length_le (by simp; omega)
  simp only [pushPort, hx, getD_asm, splitWords, Bool.false_eq_true, if_false, w64_v128, if_neg hl, hr, hroom, Bool.and_self,
    if_true, hd]
  rfl

theorem channel_eq (word : BitVec 256) : (word.extractLsb' 48 2).toNat = word.toNat / 2 ^ 48 % 4 := by
  simp [BitVec.extractLsb'_toNat, Nat.shiftRight_eq_div_pow]

theorem cmdRoom_eq_hasRoom (s : State) (q : Fin 4) (word : BitVec 256) : cmdRoom s s.cur.core q.val word = hasRoom s q.val word := by
  fin_cases q
  · simp only [cmdRoom, hasRoom, channel_eq]
    rfl
  all_goals rfl

/-- The entry of a command word is that of the issuing context (R190). -/
theorem enterCmd_eq {g : Group} (hg : s.myCore.group = some g) (q : Fin 4) (word : BitVec 256) (at_ : Option Nat) (key : Nat) :
    enterCmd s s.cur.core s.cur.slot q.val word at_ key =
      entersQueue q.val (commandEntry s g word at_ key) (later s).1 s := by
  have hgn : (({ s with nextId := s.nextId + 1 } : State).core s.cur.core).group = some g := hg
  fin_cases q
  all_goals
    simp only [enterCmd, entersQueue, commandEntry, State.newId, coreLaunch, coreJob, hgn, channel_eq]
    rfl

/-- A change of the issuing core beside its contexts and a change of the context do not meet. -/
theorem updMyCore_updMe {f : Core → Core} (hf : ∀ k m, f { k with ctxs := m } = { f k with ctxs := m }) (s : State)
    (g : Ctx → Ctx) : (s.updMyCore f).updMe g = (s.updMe g).updMyCore f := by
  have hc : (f (s.core s.cur.core)).ctxs = (s.core s.cur.core).ctxs :=
    (congrArg Core.ctxs (hf (s.core s.cur.core) (s.core s.cur.core).ctxs) :)
  simp only [State.updMyCore, State.updCore, State.updMe, State.updCtx, State.setCtx, State.ctx, State.core_setCore_self,
    State.setCore_setCore, State.setCore_cur, hc]
  exact congrArg (s.setCore s.cur.core) (hf ..).symm

/-- A core that has reserved the place of one more record in a result queue (R56). -/
def Core.reserves (k : Core) (n : Nat) : Core :=
  { k with resQ := mset k.resQ n { k.res n with reserved := (k.res n).reserved + 1 } }

/-- The end of the instruction and its command word do not meet. -/
theorem complete_entersQueue (q : Fin 4) (e : CmdEnt) (due : Nat) (s : State) :
    complete (entersQueue q.val e due s) = entersQueue q.val e due (complete s) := by
  fin_cases q
  · refine updMyCore_updMe ?_ { s with nextId := s.nextId + 1 } _
    exact fun _ _ => rfl
  · refine updMyCore_updMe ?_ { s with nextId := s.nextId + 1 } _
    exact fun _ _ => rfl
  all_goals
    have hr (n : Nat) := updMyCore_updMe (f := (·.reserves n)) (fun _ _ => rfl) { s with nextId := s.nextId + 1 }
      fun x => { x with blk := none }
  · exact congrArg (fun t : State => t.updPlain (coreDie s.cur.core) fun p => { p with coll := p.coll ++ [e] }) (hr 2)
  · exact congrArg (fun t : State => ({ t with
      free := s.free + 1
      requests := s.requests ++ [{ id := e.id, kind := 1, core := e.core, slot := e.slot, gen := e.gen, job := e.job, addr := 0
                                   ent := some e, due := due, held := e.held }] } : State)) (hr 3)

theorem entersQueue_me (q : Fin 4) (e : CmdEnt) (due : Nat) (s : State) : (entersQueue q.val e due s).me = s.me := by
  have hk (f : Core → Core) (hf : (f s.myCore).ctxs = s.myCore.ctxs) :
      (({ s with nextId := s.nextId + 1 } : State).updMyCore f).me = s.me :=
    me_updMyCore_of_ctxs (s := { s with nextId := s.nextId + 1 }) hf
  fin_cases q
  · refine hk _ ?_
    rfl
  · refine hk _ ?_
    rfl
  · exact hk (·.reserves 2) rfl
  · exact hk (·.reserves 3) rfl

/-- The entry of a command word depends on nothing that an issue changes. -/
theorem commandEntry_owes {i : Instr} {p : Port} {vs : List VWord} (hi : issues i s = true) (ws : List Word)
    (g : Group) (word : BitVec 256) :
    commandEntry ((owes i p vs w s).updMe fun x => x.setAsm q ws) g word none 0 = commandEntry s g word none 0 := by
  have hs := (still_owes hi p vs w).trans (still_updMe _ fun x => x.setAsm q ws)
  have hme := State.me_updMe (owes i p vs w s) fun x => x.setAsm q ws
  rw [commandEntry, hs.lease_eq, hs.holdDisp_eq, hs.cur_eq, hs.nextId_eq, hme, owes, putS, State.me_updMe, blocks_me hi, commandEntry]
  simp only [Ctx.setAsm, Ctx.issue, Option.isSome_map]

theorem released_owes {i : Instr} {p : Port} {vs : List VWord} (hi : issues i s = true) (before : Nat) :
    released (owes i p vs w s) s.cur.core s.cur.slot before = released s s.cur.core s.cur.slot before := by
  have hs := still_owes hi p vs w
  have hm : (owes i p vs w s).msgs = s.msgs := by rw [hs.package]
  have hc : (owes i p vs w s).ctx s.cur.core s.cur.slot = (owes i p vs w s).me := by rw [State.me, hs.cur_eq]
  have hme : s.ctx s.cur.core s.cur.slot = s.me := rfl
  simp only [released, hc, hme, hs.storeQ_eq, hm]
  rw [owes, putS, State.me_updMe, blocks_me hi]
  simp [Ctx.issue, Function.comp_def]

theorem cmdRoom_owes {i : Instr} {p : Port} {vs : List VWord} (hi : issues i s = true) (n : Nat) (word : BitVec 256) :
    cmdRoom (owes i p vs w s) s.cur.core n word = cmdRoom s s.cur.core n word := by
  have hs := still_owes hi p vs w
  simp only [cmdRoom, hs.chans_eq, hs.eq1_eq, hs.res_eq]

end

theorem complete_updMe {g : Ctx → Ctx} (hg : ∀ x b, g (x.setBlk b) = (g x).setBlk b) (s : State) :
    complete (s.updMe g) = (complete s).updMe g := by
  rw [complete_eq, complete_eq, State.updMe_updMe, State.updMe_updMe]
  exact State.updMe_congr (hg ..).symm

theorem lt_later (s : State) : s.now < (later s).1 := by
  have : (later s).1 = s.now + 1 + (s.fresh 1).1 := rfl
  omega

section
variable {i : Instr} {f : Word → Word → Word} {s : State} {a b : Fin 48} {q : Fin 4} {w : Word}

/-- A push into an assembly buffer that it does not fill (R190). -/
theorem exec_push_asm (h : Alu2 i (.port (.eq q)) (.x a) (.x b) f) (hi : issues i s = true)
    (hw : f (s.me.getX a) (s.me.getX b) = w) (hl : s.me.asm[q.val].length < 3) :
    exec i s = .next ((issued i s).updMe fun x => x.setAsm q (s.me.asm[q.val] ++ [w])) := by
  have hasm := owes_asm hi (.eq q) (srcVals i s) w
  have hh := owes_not_halted hi (.eq q) (srcVals i s) w
  have hc := complete_owes (i := i) (s := s) (.eq q) (srcVals i s) w
  have hrun (v : State) := exec_of_push (p := .eq q) (w := w) (u := v) h hi hw
  generalize owes i (.eq q) (srcVals i s) w s = u at *
  rw [← hasm] at hl
  rw [hrun _ (pushPort_asm hl) (by rw [State.me_updMe, Ctx.setAsm_halted, hh]), complete_updMe fun _ _ => Ctx.setAsm_setBlk ..,
    hc, hasm]

/-- A push that fills an assembly buffer (R190, R208). -/
theorem exec_push_cmd {g : Group} (h : Alu2 i (.port (.eq q)) (.x a) (.x b) f) (hi : issues i s = true)
    (hw : f (s.me.getX a) (s.me.getX b) = w) (hg : s.myCore.group = some g) (hl : s.me.asm[q.val].length = 3)
    (hrel : released s s.cur.core s.cur.slot s.nextId = true)
    (hroom : hasRoom s q.val (cmdOfWords (s.me.asm[q.val] ++ [w])) = true) :
    ∃ due, s.now < due ∧ exec i s = .next (entersQueue q.val (commandEntry s g (cmdOfWords (s.me.asm[q.val] ++ [w])) none 0) due
      ((issued i s).updMe fun x => x.setAsm q [])) := by
  have hst := still_owes hi (.eq q) (srcVals i s) w
  have hasm := owes_asm hi (.eq q) (srcVals i s) w
  have hh := owes_not_halted hi (.eq q) (srcVals i s) w
  have hc := complete_owes (i := i) (s := s) (.eq q) (srcVals i s) w
  have hent := commandEntry_owes (p := .eq q) (vs := srcVals i s) (w := w) (q := q) hi [] g (cmdOfWords (s.me.asm[q.val] ++ [w]))
  have hrel' := (released_owes (p := .eq q) (vs := srcVals i s) (w := w) hi s.nextId).trans hrel
  have hroom' := (cmdRoom_owes (p := .eq q) (vs := srcVals i s) (w := w) hi q.val (cmdOfWords (s.me.asm[q.val] ++ [w]))).trans
    ((cmdRoom_eq_hasRoom ..).trans hroom)
  have hrun (v : State) := exec_of_push (p := .eq q) (w := w) (u := v) h hi hw
  generalize owes i (.eq q) (srcVals i s) w s = u at *
  have hst' := hst.trans (still_updMe u fun x => x.setAsm q [])
  have hpush : pushPort u u.cur.core u.cur.slot u.nextId (.eq q) false (v128 w) = .ok (entersQueue q.val
      (commandEntry s g (cmdOfWords (s.me.asm[q.val] ++ [w])) none 0) (later (u.updMe fun x => x.setAsm q [])).1
      (u.updMe fun x => x.setAsm q [])) := by
    rw [← hst.cur_eq, ← hst.nextId_eq] at hrel'
    rw [← hst.cur_eq] at hroom'
    rw [← hasm] at hl hroom' ⊢
    have hg' : (u.updMe fun x => x.setAsm q []).myCore.group = some g := by rwa [State.myCore, hst'.group_eq, hst'.cur_eq]
    rw [pushPort_cmd hl hrel' hroom', hasm, ← hent]
    exact congrArg _ (enterCmd_eq hg' q ..)
  refine ⟨_, hst'.now_eq ▸ lt_later _, (hrun _ hpush ?_).trans ?_⟩
  · rw [entersQueue_me, State.me_updMe, Ctx.setAsm_halted, hh]
  · rw [complete_entersQueue, complete_updMe fun _ _ => Ctx.setAsm_setBlk .., hc]

/-- A push on a link to a resident neighbour with room (R171, R187, R188). -/
theorem exec_push_ln {l : Dir} {n : Nat} (h : Alu2 i (.port (.ln l)) (.x a) (.x b) f) (hi : issues i s = true)
    (hw : f (s.me.getX a) (s.me.getX b) = w) (hn : neighbour s.cur.core l = some n) (hl : linkPresent s s.cur.core l = true)
    (hu : linkUsed s n l < 8) : ∃ t, exec i s = .next t ∧ t.me = (issued i s).me ∧
      (t.core n).linkFly = (s.core n).linkFly ++ [(dirNum (opposite l), w,
        s.clk n + (if coreDie n = coreDie s.cur.core then 2 else 8))] := by
  have hst := still_owes hi (.ln l) (srcVals i s) w
  have hpush := pushPort_ln (s := owes i (.ln l) (srcVals i s) w s) (t := (owes i (.ln l) (srcVals i s) w s).cur.slot)
    (before := (owes i (.ln l) (srcVals i s) w s).nextId) (v := v128 w) (by rwa [hst.cur_eq])
    (by rwa [hst.cur_eq, hst.linkPresent_eq]) (by rwa [hst.linkUsed_eq])
  have hme := sendsLink_me n l (w64 (v128 w)) (owes i (.ln l) (srcVals i s) w s)
  refine ⟨_, exec_of_push h hi hw hpush (by rw [hme, owes_not_halted hi]), issued_me_of_owes hme, ?_⟩
  refine (updMe_core_congr (f := Core.linkFly) (fun _ _ => rfl) _ _ n).trans ?_
  rw [sendsLink_linkFly, hst.linkFly_eq, hst.clk_eq, hst.cur_eq, w64_v128]

/-- A push into a write stream with room (R55). -/
theorem exec_push_st (h : Alu2 i (.port (.st q)) (.x a) (.x b) f) (hi : issues i s = true)
    (hw : f (s.me.getX a) (s.me.getX b) = w) (hm : (mgetD s.myCore.streams q.val {}).mode = 2)
    (hl : (mgetD s.myCore.streams q.val {}).words.length < 8) : ∃ t, exec i s = .next t ∧ t.me = (issued i s).me ∧
      mgetD t.myCore.streams q.val {} =
        { mgetD s.myCore.streams q.val {} with words := (mgetD s.myCore.streams q.val {}).words ++ [w] } := by
  have hst := still_owes hi (.st q) (srcVals i s) w
  have hpush := pushPort_st (s := owes i (.st q) (srcVals i s) w s) (t := (owes i (.st q) (srcVals i s) w s).cur.slot)
    (before := (owes i (.st q) (srcVals i s) w s).nextId) (v := v128 w) (q := q) (by rwa [hst.streams_eq]) (by rwa [hst.streams_eq])
  refine ⟨_, exec_of_push h hi hw hpush ?_, issued_me_of_owes (me_updMyCore_of_ctxs rfl), ?_⟩
  · rw [me_updMyCore_of_ctxs rfl, owes_not_halted hi]
  · rw [complete_eq, State.myCore_updMe, State.myCore_updMyCore, mgetD_mset_self, hst.streams_eq, w64_v128]

/-- A push at the end of a pipe with room (R286). -/
theorem exec_push_pp {u : Nat} {hd : Word} {tq : TQueue} (h : Alu2 i (.port (.pp q)) (.x a) (.x b) f) (hi : issues i s = true)
    (hw : f (s.me.getX a) (s.me.getX b) = w) (hp : pipeAt s s.cur.core q.val = .ok (u, hd, tq)) (hl : tq.words.length < tq.depth) :
    ∃ t, exec i s = .next t ∧ (∃ e, t.me = { (issued i s).me with evt := e }) ∧
      pipeAt t s.cur.core q.val = .ok (u, hd, { tq with words := tq.words ++ [w] }) := by
  have hst := still_owes hi (.pp q) (srcVals i s) w
  have hc := complete_owes (i := i) (s := s) (.pp q) (srcVals i s) w
  have hh := owes_not_halted hi (.pp q) (srcVals i s) w
  have hrun (v : State) := exec_of_push (p := .pp q) (w := w) (u := v) h hi hw
  generalize owes i (.pp q) (srcVals i s) w s = o at *
  have hp' : pipeAt o o.cur.core q.val = .ok (u, hd, tq) := by rw [hst.cur_eq, hst.pipeAt_eq, hp]
  have hpush := pushPort_pp (t := o.cur.slot) (before := o.nextId) (v := v128 w) hp' hl
  obtain ⟨e, he⟩ := (pipeEvents_evtOnly (setsPipe u hd (· ++ [w64 (v128 w)]) o) hd).me
  rw [setsPipe_me] at he
  refine ⟨_, hrun _ hpush (by rw [he, ← hh]), ⟨e, ?_⟩, ?_⟩
  · rw [complete_me, he, ← hc, complete_me]
    rfl
  · rw [complete_eq, pipeAt_updMe, pipeAt_pipeEvents, ← hst.cur_eq,
      pipeAt_setsPipe hp' (.inr (Nat.zero_lt_of_lt hl)), w64_v128]

end

theorem portDestinations : Clause.PortDestinations := by
  intro row hrow a b l q s w
  have ha (p : Port) : Alu2 (row.1 (.port p) (.x a) (.x b)) (.port p) (.x a) (.x b) row.2 := alu2_of_twoSourceRows _ _ _ hrow
  refine ⟨fun hi n hn hl hu => exec_push_ln (ha _) hi rfl hn hl hu, fun hi => ⟨fun hlen => exec_push_asm (ha _) hi rfl hlen, ?_⟩,
    fun hi hm hlen => exec_push_st (ha _) hi rfl hm hlen, fun hi u h tq hp hlen => ?_⟩
  · intro g hg hlen hrel word hroom
    exact exec_push_cmd (ha _) hi rfl hg hlen hrel hroom
  · obtain ⟨t, ht, ⟨e, hme⟩, hpipe⟩ := exec_push_pp (ha _) hi rfl hp hlen
    rw [issued, complete_me, noteIssue_me hi] at hme
    exact ⟨t, ht, by rw [hme]; rfl, by rw [hme]; rfl, by rw [hme]; rfl, hpipe⟩

/-- Settles O32, clause by clause. -/
theorem portTransfers : Obligations.PortTransfers := ⟨portSources, portDestinations, transferContinues, portsWaitOrTrap⟩

end Sys2Proof.Machine
end

section
/-! PROOFS. The zero register (spec/03, R64), and what every instruction of a context has in common (R75, R77). -/

namespace Sys2Proof.Machine

theorem Opnd.key_ne_zero (o : Opnd) : o.key ≠ some (0, 0) := by
  rcases o with (r | _) | (_ | _) | _ <;> simp [Opnd.key]

theorem Ctx.getX_setX_self (x : Ctx) {d : Fin 48} (w : Word) (hd : d ≠ 0) : (x.setX d w).getX d = w := by
  have h0 : d.val ≠ 0 := fun h => hd (Fin.ext h)
  simp [Ctx.getX, Ctx.setX, h0]

theorem Ctx.getX_setX_ne (x : Ctx) {d r : Fin 48} (w : Word) (hr : r ≠ d) : (x.setX d w).getX r = x.getX r := by
  have hv : d.val ≠ r.val := fun h => hr (Fin.ext h.symm)
  unfold Ctx.setX
  split
  · rfl
  · simp [Ctx.getX, Vector.getElem_set_ne _ _ hv]

/-- Settles O60: x0 has no place among the pending registers, and a write changes the one register it names. -/
theorem zeroRegister : Obligations.ZeroRegister := by
  refine ⟨fun x w => ⟨rfl, rfl⟩, fun i hi => ?_, fun x d w hd => ⟨x.getX_setX_self w hd, fun r hr => x.getX_setX_ne w hr, ?_⟩⟩
  · obtain ⟨o, -, ho⟩ := List.mem_filterMap.mp hi
    exact o.key_ne_zero ho
  · unfold Ctx.setX
    split <;> rfl

theorem contextInstructionsGoOn : Clause.ContextInstructionsGoOn := by
  intro i s h
  obtain ⟨f, hf⟩ := encodeFields_of_encode h
  exact exec_next_of_encodes hf s

theorem issueOps_of_wait {i : Instr} {s : State} (h : verdict i s = .wait) (eff : List VWord → State → State) :
    issueOps i eff s = .next s := by
  rw [issueOps, issueState, h]

theorem waitingChangesNothing : Clause.WaitingChangesNothing := by
  intro i s h hb hv
  obtain ⟨f, hf⟩ := encodeFields_of_encode h
  rcases exec_of_encodes hf with ⟨eff, he⟩ | ⟨eff, cont, he⟩
  · rw [he, issueOps_of_wait hv]
  · rw [he, waitOps, hb]
    exact issueOps_of_wait hv eff

/-- Settles O11: every instruction of a context issues, and some wait by rules of their own. -/
theorem instructionsGoOn : Obligations.InstructionsGoOn := ⟨contextInstructionsGoOn, waitingChangesNothing⟩

end Sys2Proof.Machine
end

section
/-! PROOFS. The issue of an instruction of register sources (spec/03, R77), traps behind an instruction (R85, R86), TRET, SYS and BRK. -/

namespace Sys2Proof.Machine

/-! The issue of an instruction of register sources (R77). -/

theorem complete_blocks (i : Instr) (st : Nat) (aux : Word) (vs : List VWord) (s : State) :
    complete (blocks i st aux vs s) = issued i s := by
  rw [blocks_eq, issued, complete_eq, complete_eq, State.updMe_updMe]
  rfl

theorem still_blocks {i : Instr} {s : State} (h : issues i s = true) (st : Nat) (aux : Word) (vs : List VWord) :
    Still s (blocks i st aux vs s) :=
  (still_noteIssue h).trans (still_updMe ..)

theorem blocks_halted {i : Instr} {s : State} (h : issues i s = true) (st : Nat) (aux : Word) (vs : List VWord) :
    (blocks i st aux vs s).me.halted = false := by
  rw [blocks_me h]
  exact not_halted_of_issues h

theorem blocks_mode {i : Instr} {s : State} (h : issues i s = true) (st : Nat) (aux : Word) (vs : List VWord) :
    (blocks i st aux vs s).me.mode = s.me.mode := by
  rw [blocks_me h]
  rfl

theorem blocks_tl {i : Instr} {s : State} (h : issues i s = true) (st : Nat) (aux : Word) (vs : List VWord) :
    (blocks i st aux vs s).me.tl = s.me.tl := by
  rw [blocks_me h]
  rfl

/-- An effect that leaves the context in its instruction, with no push owed, completes it. -/
theorem settleOps_of_done {u : State} {b : Blk} (hb : u.me.blk = some b) (h0 : b.stage = 0) (ho : b.outs = []) :
    settleOps u = complete u := by
  simp [settleOps, hb, h0, ho, pushAll]

section
variable {i : Instr} {eff : List VWord → State → State} {s t u : State} (h : issues i s = true) (hr : ∀ o ∈ srcs i, o.port? = none)
include h hr

theorem issueOps_settles (he : settleOps (eff (srcVals i s) (blocks i 0 0 (srcVals i s) s)) = t) (hh : t.me.halted = false) :
    issueOps i eff s = .next t :=
  issueOps_of h ((runOps_regs eff h hr).trans he) hh

theorem issueOps_completes (he : eff (srcVals i s) (blocks i 0 0 (srcVals i s) s) = u)
    (hb : u.me.blk = (blocks i 0 0 (srcVals i s) s).me.blk) (hh : u.me.halted = false) : issueOps i eff s = .next (complete u) := by
  refine issueOps_settles h hr ?_ (by rw [complete_me]; exact hh)
  rw [he]
  exact settleOps_of_done (hb.trans (congrArg Ctx.blk (blocks_me h))) rfl rfl

/-- An effect on the context of the block that keeps the block. -/
theorem issueOps_changes (g : Ctx → Ctx) (hg : ∀ x b, g (x.setBlk b) = (g x).setBlk b)
    (hgb : ∀ x, (g x).blk = x.blk) (hgh : ∀ x, (g x).halted = x.halted)
    (he : eff (srcVals i s) (blocks i 0 0 (srcVals i s) s) = (blocks i 0 0 (srcVals i s) s).updMe g) :
    issueOps i eff s = .next ((issued i s).updMe g) := by
  rw [issueOps_completes h hr he (by rw [State.me_updMe, hgb]) (by rw [State.me_updMe, hgh, blocks_halted h]),
    complete_updMe hg, complete_blocks]

theorem issueOps_puts {d : Fin 48} {w : Word}
    (he : eff (srcVals i s) (blocks i 0 0 (srcVals i s) s) = putS (blocks i 0 0 (srcVals i s) s) (.x d) w) :
    issueOps i eff s = .next (writesX i d w s) :=
  issueOps_changes h hr (fun x => x.setX d w) (fun x b => Ctx.setX_setBlk x b d w) (fun x => Ctx.setX_blk x d w)
    (fun x => Ctx.setX_halted x d w) he

theorem issueOps_traps {cause : Cause} {value : Word} (hp : trapsPlainly s = true)
    (he : eff (srcVals i s) (blocks i 0 0 (srcVals i s) s) = trapHere (blocks i 0 0 (srcVals i s) s) cause value) :
    issueOps i eff s = .next (traps i cause.code value s.me.pc (instrLen i) s) :=
  (waitOps_of_issues h eff fun _ s => s).symm.trans (waitOps_traps _ h hr hp he)

end

/-! Traps with wait delivery (R85, R86). -/

/-- What a trap behind the instruction comes to where nothing else holds it: it is entered at once, or raised until its entry
reads the next word. -/
def trapsBehind (cause : Nat) (value : Word) (s : State) : State :=
  if lengthKnown s s.me.pc then enters cause value s.me.pc (lengthAt s.myCore s.me s.me.pc) s
  else raises cause value s.me.pc s

theorem trapAfter_of_trapsPlainly {s : State} (h : trapsPlainly s = true) (hh : s.me.halted = false) (cause : Cause) (value : Word) :
    trapAfter s cause value = trapsBehind cause.code value s := by
  simp only [trapsPlainly, Bool.and_eq_true, decide_eq_true_eq, Bool.not_eq_true', Option.isNone_iff_eq_none] at h
  obtain ⟨⟨⟨hp, htl⟩, htr⟩, hst⟩ := h
  have hrec (ty body : Nat) : slotRecord s s.cur.core s.cur.slot ty body = s := if_neg (ne_true_of_eq_false htr)
  have hme : s.ctx s.cur.core s.cur.slot = s.me := rfl
  have hcore : s.core s.cur.core = s.myCore := rfl
  have hl : (s.me.tl = 2) = False := eq_false (by omega)
  have hread : s.me.readsLength s.myCore { cause := cause.code, value := value, pc := s.me.pc } = !lengthKnown s s.me.pc := by
    have htl2 : (s.me.tl != 2) = true := bne_iff_ne.mpr (by omega)
    simp [Ctx.readsLength, lengthKnown, htl2]
  simp only [trapAfter, raiseTrap, hme, hcore, hp, hh, hread, Bool.not_false, Bool.true_and, Bool.not_not, Bool.false_and,
    Bool.false_eq_true, if_false, trapsBehind]
  refine if_congr Iff.rfl ?_ (by rw [raises, State.updMe, State.updCtx, hme, hh])
  simp only [takeTrap, hme, hcore, hl, if_false, hrec, Option.getD_none, Ctx.note, Ctx.enter, hst, Option.any_none, Bool.false_eq_true]
  rfl

theorem settled_raises {s : State} (h : s.me.halted = false) (cause : Nat) (value : Word) (pc : Nat) :
    settled (raises cause value pc s) := by
  rw [settled, raises, State.me_updMe]
  exact ⟨h, fun b hb => absurd hb (Option.some_ne_none b).symm⟩

theorem settled_trapsBehind {s : State} (h : s.me.halted = false) (cause : Nat) (value : Word) :
    settled (trapsBehind cause value s) := by
  unfold trapsBehind
  split
  · exact settled_enters h ..
  · exact settled_raises h ..

theorem lengthKnown_updMe_setBlk (s : State) (q : Option Blk) (pc : Nat) :
    lengthKnown (s.updMe fun x => x.setBlk q) pc = lengthKnown s pc := by
  simp only [lengthKnown, State.me_updMe, State.myCore_updMe]
  rfl

theorem trapsBehind_updMe_setBlk (s : State) (q : Option Blk) (cause : Nat) (value : Word) :
    trapsBehind cause value (s.updMe fun x => x.setBlk q) = trapsBehind cause value s := by
  have hpc : (s.updMe fun x => x.setBlk q).me.pc = s.me.pc := by rw [State.me_updMe]; rfl
  have hlen : lengthAt (s.updMe fun x => x.setBlk q).myCore (s.updMe fun x => x.setBlk q).me s.me.pc =
      lengthAt s.myCore s.me s.me.pc := by
    rw [State.me_updMe, State.myCore_updMe]
    rfl
  rw [trapsBehind, hpc, hlen, lengthKnown_updMe_setBlk, trapsBehind]
  refine if_congr Iff.rfl ?_ ?_
  · rw [enters_eq, enters_eq, State.updMe_updMe]
    exact State.updMe_congr (Ctx.entered_setBlk ..)
  · rw [raises, raises, State.updMe_updMe]
    rfl

/-- The block of an instruction is gone when its trap is taken. -/
theorem trapsBehind_blocks (i : Instr) (st : Nat) (aux : Word) (vs : List VWord) (s : State) (cause : Nat) (value : Word) :
    trapsBehind cause value (blocks i st aux vs s) = trapsBehind cause value (noteIssue i s) :=
  trapsBehind_updMe_setBlk ..

theorem noteIssue_pc {i : Instr} {s : State} (h : issues i s = true) :
    (noteIssue i s).me.pc = (s.me.pc + 4 * instrLen i) % 2 ^ 52 := by
  rw [noteIssue_me h]
  rfl

/-! Return from a trap, and the traps an instruction asks for (R86, R88, R110, R111). -/

theorem Ctx.ret_eq (x : Ctx) : x.ret = { x with
    pc := (x.bank x.tl).tepc.toNat % 2 ^ 52, tl := x.tl - 1, fbuf := [], ffault := none
    mode := if (x.bank x.tl).tstat.toNat / 1024 % 2 = 1 then .runtime else .job
    exempt := (x.bank x.tl).tcause == 0x12 } := rfl

theorem tretReturns : Clause.TretReturns := by
  intro s h
  have hr : ∀ o ∈ srcs Instr.tret, o.port? = none := fun o ho => nomatch ho
  have hissued : (issued .tret s).me.bank s.me.tl = s.me.bank s.me.tl ∧ (issued .tret s).me.tl = s.me.tl := by
    rw [issued, complete_me, noteIssue_me h]
    exact ⟨rfl, rfl⟩
  refine ⟨fun hm hl => ?_, fun hm hp => ?_, fun hm hl hp => ?_⟩
  · refine (issueOps_changes h hr Ctx.ret (fun _ _ => rfl) (fun _ => rfl) (fun _ => rfl) ?_).trans ?_
    · simp [effTret, blocks_mode h, blocks_tl h, hm, hl]
    · refine congrArg _ (State.updMe_congr ?_)
      rw [Ctx.ret_eq, hissued.2, hissued.1]
  · exact issueOps_traps h hr (cause := .privileged) hp (by simp [effTret, blocks_mode h, hm])
  · exact issueOps_traps h hr (cause := .illegal) hp (by simp [effTret, blocks_mode h, blocks_tl h, hm, hl])

theorem softwareTraps : Clause.SoftwareTraps := by
  intro code s hp
  have hr (j : Instr) (hj : srcs j = []) : ∀ o ∈ srcs j, o.port? = none := by simp [hj]
  refine ⟨fun h => ?_, fun h => issueOps_traps h (hr _ rfl) (cause := .breakpoint) hp rfl⟩
  have hrun : exec (.sys code) s = .next (trapsBehind 0x14 (code.setWidth 64) (noteIssue (.sys code) s)) := by
    have he : effSys code (srcVals (.sys code) s) (blocks (.sys code) 0 0 (srcVals (.sys code) s) s) =
        trapsBehind 0x14 (code.setWidth 64) (blocks (.sys code) 0 0 (srcVals (.sys code) s) s) :=
      trapAfter_of_trapsPlainly ((trapsPlainly_blocks h).trans hp) (blocks_halted h ..) .syscall _
    have hs := settled_trapsBehind (blocks_halted h 0 0 (srcVals (.sys code) s)) 0x14 (code.setWidth 64)
    rw [← trapsBehind_blocks _ 0 0 (srcVals (.sys code) s)]
    exact issueOps_settles h (hr _ rfl) ((congrArg settleOps he).trans (settleOps_of_settled hs)) hs.1
  have hpc : (noteIssue (.sys code) s).me.pc = (s.me.pc + 4) % 2 ^ 52 := noteIssue_pc h
  simp only [trapsBehind, hpc] at hrun
  exact ⟨fun hk => by rw [hrun, if_pos hk]; rfl, fun hk => by rw [hrun, if_neg (ne_true_of_eq_false hk)]⟩

/-- Settles O5, clause by clause. -/
theorem trapsAndReturns : Obligations.TrapsAndReturns := ⟨tretReturns, softwareTraps⟩

end Sys2Proof.Machine
end

section
/-! PROOFS. YIELD and WFE (spec/03, R78, R113), and the instructions that read time and place (R115 to R117). -/

namespace Sys2Proof.Machine

/-! Yielding and waiting (R78, R112, R113). -/

theorem mem_mset_ne {α : Type} (m : Map α) {t k : Nat} (v x : α) (h : t ≠ k) : (t, x) ∈ mset m k v ↔ (t, x) ∈ m := by
  induction m with
  | nil => simp [mset, h]
  | cons p r ih =>
    obtain ⟨a, b⟩ := p
    simp only [mset]
    split
    · simp [h]
    · split
      · rename_i hk
        simp [← hk, h]
      · simp [ih]

/-- The other live slots of a core are those that were live before an issue. -/
theorem others_live_of_blocks {i : Instr} {s : State} (h : issues i s = true) (st : Nat) (aux : Word) (vs : List VWord) {t : Nat}
    (ht : t ≠ s.cur.slot) : (∃ x, (t, x) ∈ (blocks i st aux vs s).myCore.ctxs ∧ x.status = .live) ↔
      ∃ x, (t, x) ∈ s.myCore.ctxs ∧ x.status = .live := by
  obtain ⟨w, hw⟩ := noteIssue_eq h
  have hc : (noteIssue i s).myCore.ctxs = mset (sawAll s.myCore.ctxs s.cur.slot) s.cur.slot
      ({ s.me with walking := none }.issue i (s.myCore.issueSeq + 1) s.nextId (s.clk s.cur.core)) := by
    rw [State.myCore, noteIssue_cur h, hw, State.core_setCore_self]
  rw [blocks, State.myCore_updMe, noteIssue_cur h]
  simp only [mem_mset_ne _ _ _ ht, hc, sawAll, List.mem_map]
  constructor
  · rintro ⟨x, ⟨⟨u, y⟩, hm, hx⟩, hl⟩
    split at hx
    · exact ⟨x, hx ▸ hm, hl⟩
    · obtain ⟨rfl, rfl⟩ := Prod.mk.inj hx
      exact ⟨y, hm, hl⟩
  · rintro ⟨x, hm, hl⟩
    exact ⟨_, ⟨_, hm, if_neg ht⟩, hl⟩

/-- A context with the slots that its YIELD waits for. -/
def Ctx.yields (x : Ctx) (l : Option (List Nat)) : Ctx := { x with yieldSet := l }

theorem yield_issues {s : State} (h : issues .yield s = true) : ∃ l : Option (List Nat),
    exec .yield s = .next ((issued .yield s).updMe fun x => x.yields l) ∧
      ∀ t : Nat, t ∈ l.getD [] ↔ (t ≠ s.cur.slot ∧ ∃ x, (t, x) ∈ s.myCore.ctxs ∧ x.status = .live) := by
  have hr : ∀ o ∈ srcs Instr.yield, o.port? = none := fun o ho => nomatch ho
  refine ⟨_, issueOps_changes h hr (·.yields _) (fun _ _ => rfl) (fun _ => rfl) (fun _ => rfl) rfl, fun t => ?_⟩
  rw [blocks_cur h]
  have hmem : ∀ l : List Nat, (if l.isEmpty then none else some l : Option (List Nat)).getD [] = l := by
    intro l
    cases l <;> rfl
  rw [hmem, List.mem_map]
  constructor
  · rintro ⟨⟨u, x⟩, hx, rfl⟩
    obtain ⟨hm, hp⟩ := List.mem_filter.mp hx
    obtain ⟨hu, hl⟩ := of_decide_eq_true hp
    exact ⟨hu, (others_live_of_blocks h 0 0 _ hu).mp ⟨x, hm, hl⟩⟩
  · rintro ⟨ht, hx⟩
    obtain ⟨x, hm, hl⟩ := (others_live_of_blocks h 0 0 (srcVals .yield s) ht).mpr hx
    exact ⟨(t, x), List.mem_filter.mpr ⟨hm, decide_eq_true ⟨ht, hl⟩⟩, rfl⟩

theorem blockedIn_iff {i : Instr} {st : Nat} {s : State} : blockedIn i st s = true ↔
    s.me.halted = false ∧ s.me.status = .live ∧ ∃ b, s.me.blk = some b ∧ b.instr = i ∧ b.stage = st ∧ b.outs = [] := by
  cases hb : s.me.blk <;> simp [blockedIn, hb, and_assoc]

/-- An instruction that waits by rules of its own tests its wait again (R77). -/
theorem waitOps_of_blockedIn {i : Instr} {st : Nat} {s : State} {b : Blk} (h : blockedIn i st s = true) (hb : s.me.blk = some b)
    (h0 : st ≠ 0) (hp : st ≠ stagePush) (eff : List VWord → State → State) (cont : Blk → State → State) :
    waitOps i eff cont s = .next (cont b s) := by
  obtain ⟨-, -, b', hb', hi, hs, -⟩ := blockedIn_iff.mp h
  obtain rfl : b = b' := Option.some.inj (hb.symm.trans hb')
  simp [waitOps, hb, hi, hs, h0, hp]

/-- The wait of an instruction that owes no push is over. -/
theorem doneOps_eq_complete {s : State} {b : Blk} (hb : s.me.blk = some b) (ho : b.outs = []) : doneOps s = complete s := by
  rw [doneOps, settleOps_of_done (b := { b with stage := 0 }) (by rw [updBlk_me, hb]; rfl) rfl ho, complete_eq, updBlk,
    State.updMe_updMe, complete_eq]
  rfl

theorem stay_blocks_to (i : Instr) (st st' : Nat) (aux aux' : Word) (vs : List VWord) (s : State) :
    stay (blocks i st aux vs s) st' aux' = blocks i st' aux' vs s := by
  rw [stay, updBlk, blocks, State.updMe_updMe]
  rfl

/-- An instruction that waits in its issue clock is blocked at its stage. -/
theorem waitOps_stays {i : Instr} {eff : List VWord → State → State} (cont : Blk → State → State) {s : State} {st : Nat} {aux : Word}
    (h : issues i s = true) (hr : ∀ o ∈ srcs i, o.port? = none) (h0 : st ≠ 0) (hp : st ≠ stagePush)
    (he : eff (srcVals i s) (blocks i 0 0 (srcVals i s) s) = stay (blocks i 0 0 (srcVals i s) s) st aux) :
    waitOps i eff cont s = .next (blocks i st aux (srcVals i s) s) :=
  waitOps_issue cont h hr (he.trans (stay_blocks_to ..)) (settled_of_waitsIn (waitsIn_blocks h) h0 hp)

theorem yieldAndWait : Clause.YieldAndWait := by
  intro s
  refine ⟨yield_issues, fun h => ?_, fun h he => ?_, fun h he => ?_⟩
  · exact waitOps_stays contWfe h (fun o ho => nomatch ho) (by decide) (by decide) rfl
  · obtain ⟨-, -, b, hb, -, -, ho⟩ := blockedIn_iff.mp h
    refine (waitOps_of_blockedIn h hb (by decide) (by decide) effWfe contWfe).trans (congrArg _ ?_)
    rw [contWfe, if_pos he]
    exact doneOps_eq_complete (by rw [State.me_updMe]; exact hb) ho
  · obtain ⟨-, -, b, hb, -⟩ := blockedIn_iff.mp h
    refine (waitOps_of_blockedIn h hb (by decide) (by decide) effWfe contWfe).trans (congrArg _ ?_)
    exact if_neg (ne_true_of_eq_false he)

/-! Time and place (R115 to R117). -/

theorem Still.ptime_eq {s t : State} (h : Still s t) : t.ptime = s.ptime := by rw [State.ptime, h.now_eq, State.ptime]
theorem Still.die_eq {s t : State} (h : Still s t) (d : Nat) : t.die d = s.die d := by rw [h.package]; rfl
theorem Still.jobs_eq {s t : State} (h : Still s t) : t.jobs = s.jobs := by rw [h.package]
theorem Still.mgmt_eq {s t : State} (h : Still s t) : t.mgmt = s.mgmt := by rw [h.package]
theorem Still.coreJob_eq {s t : State} (h : Still s t) (c : Nat) : coreJob t c = coreJob s c := by
  rw [coreJob, h.group_eq, h.lastJob_eq, coreJob]
theorem Still.plainTime_eq {s t : State} (h : Still s t) (d : Nat) : plainTime t d = plainTime s d := by
  rw [plainTime, h.ptime_eq, h.die_eq, plainTime]
theorem vdtEntry_congr {s t : State} (h : t.jobs = s.jobs) (job v : Nat) : vdtEntry t job v = vdtEntry s job v := by
  rw [vdtEntry, h, vdtEntry]
theorem vdieOf_congr {s t : State} (h : t.jobs = s.jobs) (job p : Nat) : vdieOf t job p = vdieOf s job p := by
  simp only [vdieOf, vdtEntry_congr h]

/-- What GTIME gives (R115). -/
def gtimeOf (s : State) : Nat := min (s.ptime + 2) (max (plainTime s (coreDie s.cur.core)) s.me.lastTime)

theorem gtimeOf_bounds (s : State) : s.ptime - 2 ≤ gtimeOf s ∧ gtimeOf s ≤ s.ptime + 2 ∧
    (s.me.lastTime ≤ s.ptime + 2 → s.me.lastTime ≤ gtimeOf s) ∧
    ((s.die (coreDie s.cur.core)).gtime ≤ s.ptime + 2 → (s.die (coreDie s.cur.core)).gtime ≤ gtimeOf s) := by
  simp only [gtimeOf, plainTime]
  omega

/-- A context that has read the time into a register. -/
def Ctx.readsTime (x : Ctx) (d : Fin 48) (v : Nat) : Ctx := { x.setX d (wordOf v) with lastTime := v }

theorem Ctx.readsTime_blk (x : Ctx) (d : Fin 48) (v : Nat) : (x.readsTime d v).blk = x.blk := x.setX_blk ..
theorem Ctx.readsTime_halted (x : Ctx) (d : Fin 48) (v : Nat) : (x.readsTime d v).halted = x.halted := x.setX_halted ..
theorem Ctx.readsTime_setBlk (x : Ctx) (q : Option Blk) (d : Fin 48) (v : Nat) :
    (x.setBlk q).readsTime d v = (x.readsTime d v).setBlk q := by
  rw [Ctx.readsTime, Ctx.setX_setBlk]
  rfl

theorem Ctx.readsTime_eq (x : Ctx) (d : Fin 48) (v : Nat) :
    ({ x with lastTime := v } : Ctx).setX d (wordOf v) = x.readsTime d v := by
  unfold Ctx.readsTime Ctx.setX
  split <;> rfl

theorem State.me_updDie (s : State) (p : Nat) (f : Die → Die) : (s.updDie p f).me = s.me := rfl

theorem complete_updDie (s : State) (p : Nat) (f : Die → Die) : complete (s.updDie p f) = (complete s).updDie p f := rfl

theorem gtime_issues {d : Fin 48} {s : State} (h : issues (.gtime (.x d)) s = true) : exec (.gtime (.x d)) s =
    .next (((issued (.gtime (.x d)) s).updDie (coreDie s.cur.core) fun x => { x with gtime := gtimeOf s }).updMe
      fun x => x.readsTime d (gtimeOf s)) := by
  have hstill := still_blocks h 0 0 (srcVals (.gtime (.x d)) s)
  have hlast : (blocks (.gtime (.x d)) 0 0 (srcVals (.gtime (.x d)) s) s).me.lastTime = s.me.lastTime := by
    rw [blocks_me h]
    rfl
  have he : effGtime (.x d) (srcVals (.gtime (.x d)) s) (blocks (.gtime (.x d)) 0 0 (srcVals (.gtime (.x d)) s) s) =
      ((blocks (.gtime (.x d)) 0 0 (srcVals (.gtime (.x d)) s) s).updDie (coreDie s.cur.core)
        fun x => { x with gtime := gtimeOf s }).updMe fun x => x.readsTime d (gtimeOf s) := by
    simp only [effGtime, putS, hstill.cur_eq, hstill.ptime_eq, hstill.plainTime_eq, hlast]
    rw [← gtimeOf, State.updMe_updMe]
    simp only [Ctx.readsTime_eq]
  rw [show exec (.gtime (.x d)) s = issueOps (.gtime (.x d)) (effGtime (.x d)) s from rfl,
    issueOps_completes h (fun o ho => nomatch ho) he (by rw [State.me_updMe, Ctx.readsTime_blk, State.me_updDie])
      (by rw [State.me_updMe, Ctx.readsTime_halted, State.me_updDie, blocks_halted h]),
    complete_updMe fun x q => x.readsTime_setBlk q d _, complete_updDie, complete_blocks]

theorem timeAndPlace : Clause.TimeAndPlace := by
  intro d a b s
  refine ⟨fun h => ⟨gtimeOf s, gtime_issues h, gtimeOf_bounds s⟩, fun h => ?_, fun h => ?_⟩
  · have hstill := still_blocks h 0 0 (srcVals (.cid (.x d)) s)
    refine issueOps_puts h (fun o ho => nomatch ho) ?_
    rw [effCid, ownPackage, hstill.cur_eq, hstill.coreJob_eq, vdieOf_congr hstill.jobs_eq, hstill.mgmt_eq]
  · have hstill := still_blocks h 0 0 (srcVals (.dhop (.x d) (.x a) (.x b)) s)
    refine issueOps_puts h (port?_of_regSrcs (a := a) (b := b) rfl) ?_
    have harg0 : arg (srcVals (.dhop (.x d) (.x a) (.x b)) s) 0 = s.me.getX a := w64_v128 _
    have harg1 : arg (srcVals (.dhop (.x d) (.x a) (.x b)) s) 1 = s.me.getX b := w64_v128 _
    rw [effDhop, hstill.cur_eq, hstill.coreJob_eq, harg0, harg1, vdtEntry_congr hstill.jobs_eq, vdtEntry_congr hstill.jobs_eq]

/-- Settles O6, clause by clause. -/
theorem waitsAndTime : Obligations.WaitsAndTime := ⟨yieldAndWait, timeAndPlace⟩

end Sys2Proof.Machine
end

section
/-! PROOFS. The slots of a core beside the issuing one (spec/03, R69 to R73, R78), and the start and the join of a helper. -/

namespace Sys2Proof.Machine

/-! Two keys of a map, and two slots of a core. -/

section
variable {α : Type} (b v : α) (r : Map α) {a k : Nat}

theorem mset_cons_lt (h : k < a) : mset ((a, b) :: r) k v = (k, v) :: (a, b) :: r := if_pos h

theorem mset_cons_self : mset ((a, b) :: r) a v = (a, v) :: r := by simp [mset]

theorem mset_cons_gt (h : a < k) : mset ((a, b) :: r) k v = (a, b) :: mset r k v := by
  rw [mset, if_neg (by omega), if_neg (by omega)]

end

/-- A lower key and a higher one may be set in either order. -/
theorem mset_mset_lt {α : Type} (m : Map α) {j k : Nat} (v w : α) (h : j < k) :
    mset (mset m j v) k w = mset (mset m k w) j v := by
  induction m with
  | nil => rw [mset, mset_cons_gt _ _ _ h, mset, mset_cons_lt _ _ _ h]
  | cons p r ih =>
    obtain ⟨a, b⟩ := p
    rcases Nat.lt_trichotomy j a with hj | rfl | hj
    · rw [mset_cons_lt _ _ _ hj, mset_cons_gt _ _ _ h]
      rcases Nat.lt_trichotomy k a with hk | rfl | hk
      · rw [mset_cons_lt _ _ _ hk, mset_cons_lt _ _ _ h]
      · rw [mset_cons_self, mset_cons_lt _ _ _ hj]
      · rw [mset_cons_gt _ _ _ hk, mset_cons_lt _ _ _ hj]
    · rw [mset_cons_self, mset_cons_gt _ _ _ h, mset_cons_gt _ _ _ h, mset_cons_self]
    · rw [mset_cons_gt _ _ _ hj, mset_cons_gt _ _ _ (hj.trans h), mset_cons_gt _ _ _ (hj.trans h), mset_cons_gt _ _ _ hj, ih]

theorem mset_comm {α : Type} (m : Map α) {j k : Nat} (v w : α) (h : j ≠ k) :
    mset (mset m j v) k w = mset (mset m k w) j v := by
  rcases Nat.lt_or_gt_of_ne h with hlt | hlt
  · exact mset_mset_lt m v w hlt
  · exact (mset_mset_lt m w v hlt).symm

theorem mget_map_snd {α : Type} (m : Map α) (t : Nat) (f : α → α) :
    mget (m.map fun p => (p.1, f p.2)) t = (mget m t).map f := by
  induction m with
  | nil => rfl
  | cons p r ih =>
    obtain ⟨a, b⟩ := p
    by_cases h : a = t <;> simp [mget, h, ih]

theorem mgetD_map_snd {α : Type} (m : Map α) (t : Nat) (f : α → α) {d : α} (hd : f d = d) :
    mgetD (m.map fun p => (p.1, f p.2)) t d = f (mgetD m t d) := by
  rw [mgetD, mget_map_snd, mgetD]
  cases mget m t <;> simp [hd]

theorem mgetD_sawAll_ne (m : Map Ctx) {t u : Nat} (h : u ≠ t) : mgetD (sawAll m t) u {} = (mgetD m u {}).sawIssue t := by
  rw [mgetD, sawAll, mget_map_other m (·.sawIssue t) h, mgetD]
  cases mget m u <;> rfl

theorem setCtx_updMe (s : State) {h : Nat} (hne : h ≠ s.cur.slot) (x : Ctx) (g : Ctx → Ctx) :
    (s.setCtx s.cur.core h x).updMe g = (s.updMe g).setCtx s.cur.core h x := by
  have hme : (s.setCtx s.cur.core h x).ctx s.cur.core s.cur.slot = s.me := State.ctx_setCtx_slot _ _ _ hne.symm
  simp only [State.updMe, State.updCtx, State.setCtx_cur, hme]
  simp only [State.setCtx, State.core_setCore_self, State.setCore_setCore, mset_comm _ _ _ hne, State.me]

theorem complete_setCtx (s : State) {h : Nat} (hne : h ≠ s.cur.slot) (x : Ctx) :
    complete (s.setCtx s.cur.core h x) = (complete s).setCtx s.cur.core h x := setCtx_updMe s hne x _

theorem me_setCtx (s : State) {h : Nat} (hne : h ≠ s.cur.slot) (x : Ctx) : (s.setCtx s.cur.core h x).me = s.me :=
  State.ctx_setCtx_slot _ _ _ hne.symm

/-- What another slot of the core is once an instruction has issued (R78). -/
theorem blocks_ctx_ne {i : Instr} {s : State} (h : issues i s = true) (st : Nat) (aux : Word) (vs : List VWord) {u : Nat}
    (hu : u ≠ s.cur.slot) : (blocks i st aux vs s).ctx s.cur.core u = (s.ctx s.cur.core u).sawIssue s.cur.slot := by
  obtain ⟨w, hw⟩ := noteIssue_eq h
  rw [blocks, State.updMe, State.updCtx, noteIssue_cur h, State.ctx_setCtx_slot _ _ _ hu, hw, State.ctx, State.core_setCore_self,
    mgetD_mset_ne _ _ _ hu, mgetD_sawAll_ne _ hu]
  rfl

theorem blocks_status {i : Instr} {s : State} (h : issues i s = true) (st : Nat) (aux : Word) (vs : List VWord) (u : Nat) :
    ((blocks i st aux vs s).ctx s.cur.core u).status = (s.ctx s.cur.core u).status := by
  by_cases hu : u = s.cur.slot
  · have hme := congrArg Ctx.status (blocks_me (st := st) (aux := aux) (vs := vs) h)
    rw [State.me, blocks_cur h] at hme
    rw [hu, hme]
    rfl
  · rw [blocks_ctx_ne h st aux vs hu]
    rfl

theorem live_of_issues {i : Instr} {s : State} (h : issues i s = true) : s.me.status = .live := by
  have hm := mayIssue_of_issues h
  simp only [mayIssue, Bool.and_eq_true, beq_iff_eq] at hm
  obtain ⟨⟨⟨⟨⟨⟨⟨⟨hl, -⟩, -⟩, -⟩, -⟩, -⟩, -⟩, -⟩, -⟩ := hm
  exact hl

/-- A slot that is not live is not the issuing one. -/
theorem slot_ne_of_status {s : State} {u : Nat} (hl : s.me.status = .live) (hu : (s.ctx s.cur.core u).status ≠ .live) :
    u ≠ s.cur.slot := by
  rintro rfl
  exact hu hl

/-! HSTART (R70, R218, R220). -/

theorem Still.trace_eq {s t : State} (h : Still s t) : t.myCore.trace = s.myCore.trace := (congrArg Core.trace h.myCore_eq :)

section
variable {i : Instr} {eff : List VWord → State → State} {s v : State} (h : issues i s = true) (hr : ∀ o ∈ srcs i, o.port? = none)
include h hr

/-- An effect beside the context, then a register. -/
theorem issueOps_putsAfter {d : Fin 48} {w : Word} (he : eff (srcVals i s) (blocks i 0 0 (srcVals i s) s) = putS v (.x d) w)
    (hv : v.me = (blocks i 0 0 (srcVals i s) s).me) : issueOps i eff s = .next ((complete v).updMe fun x => x.setX d w) := by
  rw [issueOps_completes h hr he (by rw [putS, State.me_updMe, Ctx.setX_blk, hv])
    (by rw [putS, State.me_updMe, Ctx.setX_halted, hv, blocks_halted h])]
  exact congrArg _ (complete_updMe (fun x q => Ctx.setX_setBlk x q d w) v)

end

theorem freeSlot_congr {k l : Core} (h : ∀ u : Nat, (mgetD l.ctxs u {}).status = (mgetD k.ctxs u {}).status) :
    freeSlot l = freeSlot k := by
  simp only [freeSlot, h]

theorem freeSlot_blocks {i : Instr} {s : State} (h : issues i s = true) (st : Nat) (aux : Word) (vs : List VWord) :
    freeSlot (blocks i st aux vs s).myCore = freeSlot s.myCore := by
  refine freeSlot_congr fun u => ?_
  have hu := blocks_status h st aux vs u
  rwa [State.ctx, ← blocks_cur h, ← State.myCore, blocks_cur h] at hu

theorem freeSlot_eq_some {k : Core} {h : Nat} (h1 : 1 ≤ h) (h10 : h ≤ 10) (hf : (mgetD k.ctxs h {}).status = .free)
    (hmin : ∀ j : Nat, 1 ≤ j → j < h → (mgetD k.ctxs j {}).status ≠ .free) : freeSlot k = some h := by
  have hl : (List.range 10).map (· + 1) = List.range' 1 10 := rfl
  rw [freeSlot, hl, List.find?_range'_eq_some]
  refine ⟨decide_eq_true hf, List.mem_range'_1.mpr ⟨h1, by omega⟩, fun j hj hlt => ?_⟩
  simpa using hmin j hj hlt

theorem freeSlot_eq_none {k : Core} (hn : ∀ j : Nat, 1 ≤ j → j ≤ 10 → (mgetD k.ctxs j {}).status ≠ .free) :
    freeSlot k = none := by
  rw [freeSlot, List.find?_eq_none]
  intro j hj
  obtain ⟨n, hlt, rfl⟩ := List.mem_map.mp hj
  have := List.mem_range.mp hlt
  simpa using hn (n + 1) (by omega) (by omega)

theorem blocks_stepping {i : Instr} {s : State} (h : issues i s = true) (st : Nat) (aux : Word) (vs : List VWord) :
    (blocks i st aux vs s).me.stepping.isSome = s.me.stepping.isSome := by
  rw [blocks_me h]
  exact Option.isSome_map

/-- The machine with the next identity. -/
def State.setNextId (s : State) (n : Nat) : State := { s with nextId := n }

@[simp] theorem State.setNextId_me (s : State) (n : Nat) : (s.setNextId n).me = s.me := rfl
@[simp] theorem State.setNextId_myCore (s : State) (n : Nat) : (s.setNextId n).myCore = s.myCore := rfl
@[simp] theorem State.setNextId_ctx (s : State) (n c t : Nat) : (s.setNextId n).ctx c t = s.ctx c t := rfl
@[simp] theorem State.setNextId_cur (s : State) (n : Nat) : (s.setNextId n).cur = s.cur := rfl
theorem State.newId_eq (s : State) : s.newId = (s.nextId, s.setNextId (s.nextId + 1)) := rfl
theorem complete_setNextId (s : State) (n : Nat) : complete (s.setNextId n) = (complete s).setNextId n := rfl

section
variable {d a b : Fin 48} {s : State} (hi : issues (.hstart (.x d) (.x a) (.x b)) s = true)
include hi

/-- The context that HSTART makes is that of R70. -/
theorem startedCtx_blocks {h : Nat} (hne : h ≠ s.cur.slot) (entry : Nat) (w : Word) (vs : List VWord) :
    startedCtx (blocks (.hstart (.x d) (.x a) (.x b)) 0 0 vs s).me (opVer (blocks (.hstart (.x d) (.x a) (.x b)) 0 0 vs s))
      ((blocks (.hstart (.x d) (.x a) (.x b)) 0 0 vs s).ctx s.cur.core h).step s.nextId entry w = startedAs s h entry w := by
  have hver : opVer (blocks (.hstart (.x d) (.x a) (.x b)) 0 0 vs s) = s.me.nbv2 := by
    rw [opVer, blocks_me hi]
    rfl
  rw [hver, blocks_ctx_ne hi 0 0 vs hne, blocks_me hi]
  rfl

/-- The machine that HSTART makes before its register, with the new helper in its slot (R70). -/
def startsHelper (s u : State) (h entry : Nat) (w : Word) : State :=
  (u.setNextId (s.nextId + 1)).setCtx s.cur.core h (startedAs s h entry w)

/-- HSTART to a proper entry with a free slot (R70). -/
theorem effHstart_starts {h : Nat} {vs : List VWord} (hvs : vs = srcVals (.hstart (.x d) (.x a) (.x b)) s)
    (h4 : (s.me.getX a).toNat % 2 ^ 52 % 4 = 0) (hf : freeSlot s.myCore = some h) (hne : h ≠ s.cur.slot) {t : State}
    (ht : t = startsHelper s (blocks (.hstart (.x d) (.x a) (.x b)) 0 0 vs s) h ((s.me.getX a).toNat % 2 ^ 52) (s.me.getX b)) :
    effHstart (.x d) vs (blocks (.hstart (.x d) (.x a) (.x b)) 0 0 vs s) =
      putS (if s.me.stepping.isSome && s.myCore.holdDisp then holdHelper t h else t) (.x d) (wordOf h) := by
  have hst := still_blocks hi 0 0 vs
  have harg0 : arg vs 0 = s.me.getX a := hvs ▸ w64_v128 _
  have harg1 : arg vs 1 = s.me.getX b := hvs ▸ w64_v128 _
  have hfree := (freeSlot_blocks hi 0 0 vs).trans hf
  have hx := startedCtx_blocks hi hne ((s.me.getX a).toNat % 2 ^ 52) (s.me.getX b) vs
  have hstep := blocks_stepping hi 0 0 vs
  generalize blocks (.hstart (.x d) (.x a) (.x b)) 0 0 vs s = u at *
  simp only [effHstart, harg0, harg1, ptrAddr, h4, ne_eq, not_true_eq_false, if_false, hfree, State.newId_eq, hst.nextId_eq,
    State.setNextId_me, State.setNextId_myCore, State.setNextId_ctx, State.setNextId_cur, hst.cur_eq, hst.holdDisp_eq, hstep, ht,
    startsHelper]
  rw [← hx]
  rfl

end

/-- A helper that no trace follows is held before its first instruction (R220). -/
theorem holdHelper_setCtx {s : State} {h : Nat} (x : Ctx) (ht : tracesSlot s.myCore h = false) :
    holdHelper (s.setCtx s.cur.core h x) h = (s.setCtx s.cur.core h { x with halted := true, hcause := 1 }).updMyCore fun k =>
      { k with held := k.held ++ [.helper s.cur.slot h] } := by
  have hu : (s.setCtx s.cur.core h x).updCtx s.cur.core h (fun x => { x with halted := true, hcause := 1 }) =
      s.setCtx s.cur.core h { x with halted := true, hcause := 1 } := by
    rw [State.updCtx, State.ctx_setCtx_self, State.setCtx_setCtx]
  have htr : tracesSlot ((s.setCtx s.cur.core h { x with halted := true, hcause := 1 }).core s.cur.core) h = false := by
    rw [State.core_setCtx_self]
    exact ht
  simp only [holdHelper, State.setCtx_cur, hu, slotRecord, htr, Bool.false_eq_true, if_false]

/-- HSTART with a free slot starts it, and holds the helper of a context that steps under HOLDDISP (R70, R220). -/
theorem hstart_starts {d a b : Fin 48} {s : State} (hi : issues (.hstart (.x d) (.x a) (.x b)) s = true)
    (h4 : (s.me.getX a).toNat % 2 ^ 52 % 4 = 0) {h : Nat} (hf : freeSlot s.myCore = some h) (hne : h ≠ s.cur.slot) :
    let new := startedAs s h ((s.me.getX a).toNat % 2 ^ 52) (s.me.getX b)
    let u : State := { issued (.hstart (.x d) (.x a) (.x b)) s with nextId := s.nextId + 1 }
    (s.me.stepping = none ∨ s.myCore.holdDisp = false → exec (.hstart (.x d) (.x a) (.x b)) s =
      .next ((u.setCtx s.cur.core h new).updMe fun x => x.setX d (wordOf h))) ∧
    (s.me.stepping ≠ none → s.myCore.holdDisp = true → tracesSlot s.myCore h = false → exec (.hstart (.x d) (.x a) (.x b)) s =
      .next (((u.setCtx s.cur.core h { new with halted := true, hcause := 1 }).updMyCore fun k =>
        { k with held := k.held ++ [.helper s.cur.slot h] }).updMe fun x => x.setX d (wordOf h))) := by
  have hr := port?_of_regSrcs (i := .hstart (.x d) (.x a) (.x b)) (a := a) (b := b) rfl
  have hst := still_blocks hi 0 0 (srcVals (.hstart (.x d) (.x a) (.x b)) s)
  have hrun (v : State) (hv : effHstart (.x d) (srcVals (.hstart (.x d) (.x a) (.x b)) s)
      (blocks (.hstart (.x d) (.x a) (.x b)) 0 0 (srcVals (.hstart (.x d) (.x a) (.x b)) s) s) = putS v (.x d) (wordOf h))
      (hme : v.me = (blocks (.hstart (.x d) (.x a) (.x b)) 0 0 (srcVals (.hstart (.x d) (.x a) (.x b)) s) s).me) :
      exec (.hstart (.x d) (.x a) (.x b)) s = .next ((complete v).updMe fun x => x.setX d (wordOf h)) :=
    issueOps_putsAfter hi hr hv hme
  have he := effHstart_starts hi rfl h4 hf hne rfl
  rw [← complete_blocks _ 0 0 (srcVals (.hstart (.x d) (.x a) (.x b)) s)]
  generalize blocks (.hstart (.x d) (.x a) (.x b)) 0 0 (srcVals (.hstart (.x d) (.x a) (.x b)) s) s = u at *
  have hnu : h ≠ (u.setNextId (s.nextId + 1)).cur.slot := by rwa [State.setNextId_cur, hst.cur_eq]
  have hme (x : Ctx) : ((u.setNextId (s.nextId + 1)).setCtx s.cur.core h x).me = u.me := by
    rw [← hst.cur_eq]
    exact me_setCtx (u.setNextId (s.nextId + 1)) hnu x
  have hcomp (x : Ctx) : complete ((u.setNextId (s.nextId + 1)).setCtx s.cur.core h x) =
      ((complete u).setNextId (s.nextId + 1)).setCtx s.cur.core h x := by
    rw [← complete_setNextId, ← hst.cur_eq]
    exact complete_setCtx (u.setNextId (s.nextId + 1)) hnu x
  refine ⟨fun hstep => ?_, fun hstep hhold htr => ?_⟩
  · have hcond : (s.me.stepping.isSome && s.myCore.holdDisp) = false := by
      rcases hstep with hs | hs <;> simp [hs]
    rw [hcond, if_neg (by decide)] at he
    rw [hrun _ he (hme _)]
    rw [startsHelper, hcomp]
    rfl
  · have hcond : (s.me.stepping.isSome && s.myCore.holdDisp) = true := by
      rw [hhold, Bool.and_true, Option.isSome_iff_ne_none]
      exact hstep
    have htr' : tracesSlot (u.setNextId (s.nextId + 1)).myCore h = false := by
      rwa [State.setNextId_myCore, tracesSlot, tracing, hst.trace_eq]
    have hheld : holdHelper (startsHelper s u h ((s.me.getX a).toNat % 2 ^ 52) (s.me.getX b)) h =
        ((u.setNextId (s.nextId + 1)).setCtx s.cur.core h
          { startedAs s h ((s.me.getX a).toNat % 2 ^ 52) (s.me.getX b) with halted := true, hcause := 1 }).updMyCore fun k =>
            { k with held := k.held ++ [.helper s.cur.slot h] } := by
      have := holdHelper_setCtx (startedAs s h ((s.me.getX a).toNat % 2 ^ 52) (s.me.getX b)) htr'
      rwa [State.setNextId_cur, hst.cur_eq] at this
    rw [hcond, if_pos rfl, hheld] at he
    rw [hrun _ he ((me_updMyCore_of_ctxs rfl).trans (hme _)), complete_eq, updMyCore_updMe fun _ _ => rfl, ← complete_eq, hcomp]
    rfl

theorem helperStart : Clause.HelperStart := by
  intro d a b s hi
  have hr := port?_of_regSrcs (i := .hstart (.x d) (.x a) (.x b)) (a := a) (b := b) rfl
  have harg0 : arg (srcVals (.hstart (.x d) (.x a) (.x b)) s) 0 = s.me.getX a := w64_v128 _
  refine ⟨fun h4 h h1 h10 hfree hmin => ?_, fun h4 hnone => ?_, fun h4 hp => ?_⟩
  · exact hstart_starts hi h4 (freeSlot_eq_some h1 h10 hfree hmin) (slot_ne_of_status (live_of_issues hi) (by rw [hfree]; decide))
  · refine issueOps_puts hi hr ?_
    have hf : freeSlot s.myCore = none := freeSlot_eq_none hnone
    simp only [effHstart, harg0, ptrAddr, h4, ne_eq, not_true_eq_false, if_false, freeSlot_blocks hi, hf]
  · refine issueOps_traps hi hr (cause := .misaligned) hp ?_
    simp only [effHstart, harg0, ptrAddr, h4, ne_eq, not_false_eq_true, if_true]

end Sys2Proof.Machine
end

section
/-! PROOFS. The join of a helper (spec/03, R72, R73, R86). -/

namespace Sys2Proof.Machine

/-! The slot that a join frees. -/

theorem freeHelper_me {s : State} {h : Nat} (hne : h ≠ s.cur.slot) : (freeHelper s h).me = s.me := me_setCtx s hne _

theorem freeHelper_trace (s : State) (h : Nat) : (freeHelper s h).myCore.trace = s.myCore.trace := by
  rw [freeHelper, State.myCore, State.updCtx_cur, State.updCtx, State.core_setCtx_self]
  rfl

theorem freeHelper_updMe {s : State} {h : Nat} (hne : h ≠ s.cur.slot) (g : Ctx → Ctx) :
    (freeHelper s h).updMe g = freeHelper (s.updMe g) h := by
  have hc : (s.updMe g).ctx s.cur.core h = s.ctx s.cur.core h := State.ctx_setCtx_slot _ _ _ hne
  rw [freeHelper, freeHelper, State.updMe_cur, State.updCtx, State.updCtx, hc]
  exact setCtx_updMe s hne _ g

theorem trapsPlainly_freeHelper {s : State} {h : Nat} (hne : h ≠ s.cur.slot) :
    trapsPlainly (freeHelper s h) = trapsPlainly s := by
  rw [trapsPlainly, freeHelper_me hne, tracesSlot, tracing, freeHelper_trace]
  rfl

theorem Still.myStoreQ_eq {s t : State} (h : Still s t) : t.myCore.storeQ = s.myCore.storeQ :=
  (congrArg Core.storeQ h.myCore_eq :)

/-! The test of a join, by the state of its helper (R72, R73). -/

section
variable {s : State} {d : Fin 48} {h : Nat}

theorem tryJoin_exited (hx : (s.ctx s.cur.core h).status = .exited) (hl : s.me.status = .live)
    (hq : ∀ e ∈ s.myCore.storeQ, e.slot = h → e.gen ≠ (s.ctx s.cur.core h).gen) {b : Blk} (hb : s.me.blk = some b) (ho : b.outs = []) :
    tryJoin (.x d) h s = (complete (freeHelper s h)).updMe fun x => x.setX d (s.ctx s.cur.core h).exitValue := by
  have hne : h ≠ s.cur.slot := slot_ne_of_status hl (by rw [hx]; decide)
  have hany : (s.myCore.storeQ.any fun e => e.slot == h && e.gen == (s.ctx s.cur.core h).gen) = false := by
    rw [List.any_eq_false]
    intro e he
    simpa using hq e he
  simp only [tryJoin, hx, hany, Bool.false_eq_true, if_false, putS]
  rw [doneOps_eq_complete (b := b) (by rw [State.me_updMe, Ctx.setX_blk, freeHelper_me hne, hb]) ho]
  exact complete_updMe (fun x q => Ctx.setX_setBlk x q d _) _

theorem tryJoin_stores (hx : (s.ctx s.cur.core h).status = .exited)
    (hq : ∃ e ∈ s.myCore.storeQ, e.slot = h ∧ e.gen = (s.ctx s.cur.core h).gen) : tryJoin (.x d) h s = stay s 1 (wordOf h) := by
  have hany : (s.myCore.storeQ.any fun e => e.slot == h && e.gen == (s.ctx s.cur.core h).gen) = true := by
    obtain ⟨e, he, hs, hg⟩ := hq
    exact List.any_eq_true.mpr ⟨e, he, by simp [hs, hg]⟩
  simp only [tryJoin, hx, hany, if_true]

theorem tryJoin_killed (hx : (s.ctx s.cur.core h).status = .killed) (hl : s.me.status = .live) (hp : trapsPlainly s = true)
    (hh : s.me.halted = false) : tryJoin (.x d) h s =
      trapsBehind 0x17 (wordOf (h + 256 * (s.ctx s.cur.core h).killCause)) (freeHelper s h) := by
  have hne : h ≠ s.cur.slot := slot_ne_of_status hl (by rw [hx]; decide)
  simp only [tryJoin, hx]
  exact trapAfter_of_trapsPlainly ((trapsPlainly_freeHelper hne).trans hp) (by rwa [freeHelper_me hne]) .helperKilled _

theorem tryJoin_live (hx : (s.ctx s.cur.core h).status = .live) : tryJoin (.x d) h s = stay s 1 (wordOf h) := by
  simp only [tryJoin, hx]

end

/-! HJOIN at its issue. -/

theorem port?_of_regSrc {i : Instr} {a : Fin 48} (h : srcs i = [.s (.x a)]) : ∀ o ∈ srcs i, o.port? = none := by
  simp [h, Opnd.port?]

section
variable {d a : Fin 48} {s : State} (hi : issues (.hjoin (.x d) (.x a)) s = true)
include hi

/-- HJOIN of a helper in use tests it (R72). -/
theorem effHjoin_tests (h1 : 1 ≤ (s.me.getX a).toNat) (h10 : (s.me.getX a).toNat ≤ 10)
    (hx : (s.ctx s.cur.core (s.me.getX a).toNat).status ≠ .free) :
    effHjoin (.x d) [v128 (s.me.getX a)] (blocks (.hjoin (.x d) (.x a)) 0 0 [v128 (s.me.getX a)] s) =
      tryJoin (.x d) (s.me.getX a).toNat (blocks (.hjoin (.x d) (.x a)) 0 0 [v128 (s.me.getX a)] s) := by
  have harg : arg [v128 (s.me.getX a)] 0 = s.me.getX a := w64_v128 _
  have hcond : ¬ ((s.me.getX a).toNat = 0 ∨ 10 < (s.me.getX a).toNat ∨
      ((blocks (.hjoin (.x d) (.x a)) 0 0 [v128 (s.me.getX a)] s).ctx s.cur.core (s.me.getX a).toNat).status = .free) := by
    rw [blocks_status hi]
    rintro (h | h | h)
    · exact absurd h (by omega)
    · exact absurd h (by omega)
    · exact hx h
  simp only [effHjoin, harg, blocks_cur hi, if_neg hcond]

end

theorem settled_completes {v : State} (hh : v.me.halted = false) (d : Fin 48) (w : Word) :
    settled ((complete v).updMe fun x => x.setX d w) := by
  rw [settled, State.me_updMe, Ctx.setX_halted, Ctx.setX_blk, complete_me]
  exact ⟨hh, fun b hb => absurd hb (Option.some_ne_none b).symm⟩

theorem freeHelper_blocks {i : Instr} {s : State} (hi : issues i s = true) (vs : List VWord) {h : Nat} (hne : h ≠ s.cur.slot) :
    freeHelper (blocks i 0 0 vs s) h =
      (freeHelper (noteIssue i s) h).updMe fun x => x.setBlk (some (issueBlk i s.me (s.clk s.cur.core) vs)) :=
  (freeHelper_updMe (s := noteIssue i s) (by rwa [noteIssue_cur hi]) _).symm

theorem complete_freeHelper_blocks {i : Instr} {s : State} (hi : issues i s = true) (vs : List VWord) {h : Nat}
    (hne : h ≠ s.cur.slot) : complete (freeHelper (blocks i 0 0 vs s) h) = frees h (issued i s) := by
  rw [complete_eq, freeHelper_updMe (by rwa [blocks_cur hi]), ← complete_eq, complete_blocks]
  rfl

section
variable {d a : Fin 48} {s : State} (hi : issues (.hjoin (.x d) (.x a)) s = true)
include hi

/-- What the test of a helper sees of a machine whose context stands in HJOIN. -/
theorem hjoin_blocks :
    let u := blocks (.hjoin (.x d) (.x a)) 0 0 [v128 (s.me.getX a)] s
    u.cur = s.cur ∧ u.me.status = .live ∧ (∀ n, (u.ctx s.cur.core n).status = (s.ctx s.cur.core n).status) ∧
      (∀ n, (s.ctx s.cur.core n).status ≠ .live → u.ctx s.cur.core n = (s.ctx s.cur.core n).sawIssue s.cur.slot) := by
  have hl := live_of_issues hi
  refine ⟨blocks_cur hi, ?_, fun n => blocks_status hi 0 0 _ n, fun n hn => blocks_ctx_ne hi 0 0 _ (slot_ne_of_status hl hn)⟩
  rw [blocks_me hi]
  exact hl

/-- HJOIN of a helper that has exited, its stores performed (R72). -/
theorem hjoin_exited (h1 : 1 ≤ (s.me.getX a).toNat) (h10 : (s.me.getX a).toNat ≤ 10)
    (hx : (s.ctx s.cur.core (s.me.getX a).toNat).status = .exited)
    (hq : ∀ e ∈ s.myCore.storeQ, e.slot = (s.me.getX a).toNat → e.gen ≠ (s.ctx s.cur.core (s.me.getX a).toNat).gen) :
    exec (.hjoin (.x d) (.x a)) s = .next ((frees (s.me.getX a).toNat (issued (.hjoin (.x d) (.x a)) s)).updMe fun y =>
      y.setX d (s.ctx s.cur.core (s.me.getX a).toNat).exitValue) := by
  have hr := port?_of_regSrc (i := .hjoin (.x d) (.x a)) (a := a) rfl
  have hstill := still_blocks hi 0 0 [v128 (s.me.getX a)]
  have hhalt := blocks_halted hi 0 0 [v128 (s.me.getX a)]
  have hblk := congrArg Ctx.blk (blocks_me (st := 0) (aux := 0) (vs := [v128 (s.me.getX a)]) hi)
  obtain ⟨hcur, hul, hst, hctx⟩ := hjoin_blocks hi
  have hnl : (s.ctx s.cur.core (s.me.getX a).toNat).status ≠ .live := by rw [hx]; decide
  have hne := slot_ne_of_status (live_of_issues hi) hnl
  have he := effHjoin_tests hi h1 h10 (by rw [hx]; decide)
  rw [tryJoin_exited (by rw [hcur, hst, hx]) hul (by rw [hstill.myStoreQ_eq, hcur, hctx _ hnl]; exact hq) hblk rfl, hcur, hctx _ hnl,
    complete_freeHelper_blocks hi _ hne] at he
  refine waitOps_issue _ hi hr he ?_
  rw [← complete_freeHelper_blocks hi [v128 (s.me.getX a)] hne]
  exact settled_completes (by rw [freeHelper_me (by rwa [hcur])]; exact hhalt) ..

/-- HJOIN of a helper that has been killed traps behind the HJOIN (R73, R86). -/
theorem hjoin_killed (h1 : 1 ≤ (s.me.getX a).toNat) (h10 : (s.me.getX a).toNat ≤ 10)
    (hx : (s.ctx s.cur.core (s.me.getX a).toNat).status = .killed) (hp : trapsPlainly s = true) :
    exec (.hjoin (.x d) (.x a)) s = .next (trapsBehind 0x17
      (wordOf ((s.me.getX a).toNat + 256 * (s.ctx s.cur.core (s.me.getX a).toNat).killCause))
      (freeHelper (noteIssue (.hjoin (.x d) (.x a)) s) (s.me.getX a).toNat)) := by
  have hr := port?_of_regSrc (i := .hjoin (.x d) (.x a)) (a := a) rfl
  have hhalt := blocks_halted hi 0 0 [v128 (s.me.getX a)]
  obtain ⟨hcur, hul, hst, hctx⟩ := hjoin_blocks hi
  have hnl : (s.ctx s.cur.core (s.me.getX a).toNat).status ≠ .live := by rw [hx]; decide
  have hne := slot_ne_of_status (live_of_issues hi) hnl
  have he := effHjoin_tests hi h1 h10 (by rw [hx]; decide)
  rw [tryJoin_killed (by rw [hcur, hst, hx]) hul ((trapsPlainly_blocks hi).trans hp) hhalt, hcur, hctx _ hnl] at he
  have hs := settled_trapsBehind (s := freeHelper (blocks (.hjoin (.x d) (.x a)) 0 0 [v128 (s.me.getX a)] s) (s.me.getX a).toNat)
    (by rw [freeHelper_me (by rwa [hcur])]; exact hhalt) 0x17
    (wordOf ((s.me.getX a).toNat + 256 * (s.ctx s.cur.core (s.me.getX a).toNat).killCause))
  refine (waitOps_issue _ hi hr he hs).trans (congrArg _ ?_)
  rw [freeHelper_blocks hi _ hne, trapsBehind_updMe_setBlk]
  rfl

/-- HJOIN of a helper that lives, or has stores to perform, waits (R72). -/
theorem hjoin_waits (h1 : 1 ≤ (s.me.getX a).toNat) (h10 : (s.me.getX a).toNat ≤ 10)
    (hx : (s.ctx s.cur.core (s.me.getX a).toNat).status = .live ∨ (s.ctx s.cur.core (s.me.getX a).toNat).status = .exited ∧
      ∃ e ∈ s.myCore.storeQ, e.slot = (s.me.getX a).toNat ∧ e.gen = (s.ctx s.cur.core (s.me.getX a).toNat).gen) :
    exec (.hjoin (.x d) (.x a)) s = .next (blocks (.hjoin (.x d) (.x a)) 1 (wordOf (s.me.getX a).toNat) [v128 (s.me.getX a)] s) := by
  have hr := port?_of_regSrc (i := .hjoin (.x d) (.x a)) (a := a) rfl
  have hstill := still_blocks hi 0 0 [v128 (s.me.getX a)]
  obtain ⟨hcur, hul, hst, hctx⟩ := hjoin_blocks hi
  have hfree : (s.ctx s.cur.core (s.me.getX a).toNat).status ≠ .free := by
    rcases hx with hx | ⟨hx, -⟩ <;> rw [hx] <;> decide
  refine waitOps_stays _ hi hr (by decide) (by decide) ((effHjoin_tests hi h1 h10 hfree).trans ?_)
  rcases hx with hx | ⟨hx, hq⟩
  · exact tryJoin_live (by rw [hcur, hst, hx])
  · have hnl : (s.ctx s.cur.core (s.me.getX a).toNat).status ≠ .live := by rw [hx]; decide
    exact tryJoin_stores (by rw [hcur, hst, hx]) (by rw [hstill.myStoreQ_eq, hcur, hctx _ hnl]; exact hq)

/-- HJOIN of a number that is no helper in use traps (R73). -/
theorem hjoin_invalid (hx : (s.me.getX a).toNat = 0 ∨ 10 < (s.me.getX a).toNat ∨
    (s.ctx s.cur.core (s.me.getX a).toNat).status = .free) (hp : trapsPlainly s = true) :
    exec (.hjoin (.x d) (.x a)) s = .next (traps (.hjoin (.x d) (.x a)) 0x16 (s.me.getX a) s.me.pc 1 s) := by
  have hr := port?_of_regSrc (i := .hjoin (.x d) (.x a)) (a := a) rfl
  have harg : arg [v128 (s.me.getX a)] 0 = s.me.getX a := w64_v128 _
  obtain ⟨hcur, -, hst, -⟩ := hjoin_blocks hi
  refine waitOps_traps _ hi hr (cause := .helperInvalid) hp ?_
  change effHjoin (.x d) [v128 (s.me.getX a)] (blocks (.hjoin (.x d) (.x a)) 0 0 [v128 (s.me.getX a)] s) = _
  rw [effHjoin, harg, if_pos (by rwa [hcur, hst])]
  rfl

end

theorem helperJoin : Clause.HelperJoin := by
  intro d a s hi
  refine ⟨fun h1 h10 hx hq => hjoin_exited hi h1 h10 hx hq, fun h1 h10 hx hq => hjoin_waits hi h1 h10 (.inr ⟨hx, hq⟩),
    fun h1 h10 hx hp => ?_, fun h1 h10 hx => hjoin_waits hi h1 h10 (.inl hx), fun hx hp => hjoin_invalid hi hx hp⟩
  have hne := slot_ne_of_status (live_of_issues hi) (by rw [hx]; decide)
  have hpc : (freeHelper (noteIssue (.hjoin (.x d) (.x a)) s) (s.me.getX a).toNat).me.pc = (s.me.pc + 4) % 2 ^ 52 := by
    rw [freeHelper_me (by rwa [noteIssue_cur hi]), noteIssue_pc hi]
    rfl
  rw [hjoin_killed hi h1 h10 hx hp, trapsBehind, hpc]
  rfl

/-! HJOIN that waits (R72). -/

theorem helperJoinEnds : Clause.HelperJoinEnds := by
  intro d a s hb b hbk
  obtain ⟨hh, hl, b', hb', -, -, ho⟩ := blockedIn_iff.mp hb
  obtain rfl := Option.some.inj (hbk.symm.trans hb')
  have hrun : exec (.hjoin (.x d) (.x a)) s = .next (tryJoin (.x d) b.aux.toNat s) :=
    waitOps_of_blockedIn hb hbk (by decide) (by decide) _ _
  refine ⟨fun hx hq => ?_, fun hx hp => ?_⟩
  · rw [hrun, tryJoin_exited hx hl hq hbk ho]
    rfl
  · have hne : b.aux.toNat ≠ s.cur.slot := slot_ne_of_status hl (by rw [hx]; decide)
    have hlen : lengthAt (freeHelper s b.aux.toNat).myCore s.me s.me.pc = lengthAt s.myCore s.me s.me.pc := by
      rw [freeHelper, State.myCore, State.updCtx_cur, State.updCtx, State.core_setCtx_self]
      rfl
    have hknown : lengthKnown (freeHelper s b.aux.toNat) s.me.pc = lengthKnown s s.me.pc := by
      rw [lengthKnown, freeHelper_me hne, freeHelper, State.myCore, State.updCtx_cur, State.updCtx, State.core_setCtx_self]
      rfl
    rw [hrun, tryJoin_killed hx hl hp hh, trapsBehind, freeHelper_me hne, hlen, hknown]
    rfl

end Sys2Proof.Machine
end

section
/-! PROOFS. The end of contexts and groups: EVT (spec/03, R112), the end of YIELD holds (R78), trace records (R228, R229), HEXIT and
RETIRE (R69, R71, R74, R276). -/

namespace Sys2Proof.Machine

/-! EVT and the YIELD holds of a core (R78, R112). -/

/-- A context sees an event of its core (R112). -/
def Ctx.seesEvent (x : Ctx) : Ctx := if x.status = .live then { x with evt := true } else x

theorem setEvt_ctx (s : State) (c u : Nat) : (setEvt s c).ctx c u = (s.ctx c u).seesEvent := by
  have hf : (fun p : Nat × Ctx => if p.2.status = .live then (p.1, { p.2 with evt := true }) else p) =
      fun p => (p.1, p.2.seesEvent) := by
    funext p
    unfold Ctx.seesEvent
    split <;> rfl
  rw [setEvt, State.ctx, State.core_updCore_self, State.ctx]
  simp only [hf]
  exact mgetD_map_snd _ u Ctx.seesEvent rfl

theorem Ctx.seesEvent_of_not_live {x : Ctx} (h : x.status ≠ .live) : x.seesEvent = x := if_neg h

theorem Ctx.evt_seesEvent {x : Ctx} (h : x.seesEvent.status = .live) : x.seesEvent.evt = true := by
  unfold Ctx.seesEvent at h ⊢
  split
  · rfl
  · rename_i hn
    exact absurd (by rwa [if_neg hn] at h) hn

/-- A context has left its slot's live state: what the other contexts of the core see of it (R78, R112). -/
def leaves (s : State) (c t : Nat) (x : Ctx) : State :=
  setEvt ((s.setCtx c t x).updCore c fun k =>
    { k with
      feTable := k.feTable.filter fun e => e.2.1 != t
      feOnce := k.feOnce.filter fun id => k.feTable.any fun e => e.2.1 != t && e.2.2 == id
      ctxs := sawAll k.ctxs t }) c

theorem leaveLive_eq (s : State) (c t : Nat) (x : Ctx) :
    leaveLive s c t x = leaves (if (s.ctx c t).stepping.isSome then releaseHeld s c (some t) false else s) c t x := rfl

theorem leaves_ctx_self (s : State) (c t : Nat) (x : Ctx) : (leaves s c t x).ctx c t = x.seesEvent := by
  rw [leaves, setEvt_ctx, State.ctx, State.core_updCore_self, mgetD_sawAll_self, State.core_setCtx_self, mgetD_mset_self]

theorem leaves_ctx_ne (s : State) (c t : Nat) (x : Ctx) {u : Nat} (h : u ≠ t) :
    (leaves s c t x).ctx c u = ((s.ctx c u).sawIssue t).seesEvent := by
  rw [leaves, setEvt_ctx, State.ctx, State.core_updCore_self, mgetD_sawAll_ne _ h, State.core_setCtx_self, mgetD_mset_ne _ _ _ h]
  rfl

/-- The core of a context that leaves: its slots and its wait table change. -/
theorem leaves_core (s : State) (c t : Nat) (x : Ctx) : ∃ fe once m,
    (leaves s c t x).core c = { s.core c with feTable := fe, feOnce := once, ctxs := m } := by
  rw [leaves, setEvt, State.core_updCore_self, State.core_updCore_self, State.core_setCtx_self]
  exact ⟨_, _, _, rfl⟩

/-! Trace records (R228, R229). -/

/-- A context without the counts that its trace records take. -/
def Ctx.untraced (x : Ctx) : Ctx := { x with icount := 0, hist := [], jlrTarget := 0, syncCount := 0, needSync := false }

/-- A launch without its counts of messages sent. -/
def Launch.unsent (l : Launch) : Launch := { l with sent := [] }

/-- What trace records of a core leave of the machine: they change the trace encoder, the counts of contexts, and what is on its way. -/
structure Records (c : Nat) (s t : State) : Prop where
  cur : t.cur = s.cur
  core : ∃ tr m, t.core c = { s.core c with trace := tr, ctxs := m }
  ctx : ∀ u, (t.ctx c u).untraced = (s.ctx c u).untraced
  launches : ∀ n, (t.launch? n).map Launch.unsent = (s.launch? n).map Launch.unsent
  held : s.held = none → t.held = none

theorem Records.refl (c : Nat) (s : State) : Records c s s := ⟨rfl, ⟨_, _, rfl⟩, fun _ => rfl, fun _ => rfl, id⟩

theorem Records.trans {c : Nat} {s t u : State} (h : Records c s t) (h' : Records c t u) : Records c s u := by
  obtain ⟨tr, m, hm⟩ := h'.core
  obtain ⟨tr', m', hm'⟩ := h.core
  exact ⟨h'.cur.trans h.cur, ⟨tr, m, by rw [hm, hm']⟩, fun n => (h'.ctx n).trans (h.ctx n),
    fun n => (h'.launches n).trans (h.launches n), fun hs => h'.held (h.held hs)⟩

theorem records_updCtx {f : Ctx → Ctx} (hf : ∀ x, (f x).untraced = x.untraced) (s : State) (c t : Nat) :
    Records c s (s.updCtx c t f) := by
  refine ⟨rfl, ⟨(s.core c).trace, _, State.core_setCtx_self ..⟩, fun u => ?_, fun _ => rfl, id⟩
  by_cases hu : u = t
  · rw [hu, State.ctx_updCtx_self, hf]
  · rw [State.updCtx, State.ctx_setCtx_slot _ _ _ hu]

theorem records_trace (g : Core → Trace) (s : State) (c : Nat) : Records c s (s.updCore c fun k => { k with trace := g k }) := by
  refine ⟨rfl, ⟨_, (s.core c).ctxs, State.core_updCore_self ..⟩, fun u => ?_, fun _ => rfl, id⟩
  rw [State.ctx, State.core_updCore_self]
  rfl

theorem updUnit_frame (s : State) (d : Nat) (f : Plain → Plain) :
    (updUnit s d f).cur = s.cur ∧ (updUnit s d f).launches = s.launches ∧ (updUnit s d f).held = s.held := by
  unfold updUnit
  split <;> exact ⟨rfl, rfl, rfl⟩

theorem dropLastParity_frame (s : State) (d job va : Nat) :
    (dropLastParity s d job va).cur = s.cur ∧ (dropLastParity s d job va).launches = s.launches ∧
      (dropLastParity s d job va).held = s.held := by
  unfold dropLastParity parityDropped evicted updUnit
  repeat' split
  all_goals exact ⟨rfl, rfl, rfl⟩

theorem startMiss_frame {s t : State} {m : Miss} (h : startMiss s m = some t) :
    t.cur = s.cur ∧ t.launches = s.launches ∧ t.held = s.held := by
  simp only [startMiss, State.newId, State.fresh] at h
  cases hw : (unitPlain s m.die).walks.find? (·.serves m.job m.va) with
  | some w =>
    simp only [hw] at h
    split at h
    · cases h
    · cases h
      exact updUnit_frame ..
  | none =>
    simp only [hw] at h
    split at h
    · cases h
    · obtain rfl := Option.some.inj h
      obtain ⟨hc, hl, hh⟩ := updUnit_frame
        (dropLastParity { s with nextId := s.nextId + 1, free := s.free + 1 } m.die m.job m.va) m.die _
      obtain ⟨hc', hl', hh'⟩ := dropLastParity_frame { s with nextId := s.nextId + 1, free := s.free + 1 } m.die m.job m.va
      exact ⟨hc.trans hc', hl.trans hl', hh.trans hh'⟩

theorem engXlate_frame (s : State) (d job va : Nat) (k : XKind) :
    (engXlate s d job va k).2.cur = s.cur ∧ (engXlate s d job va k).2.launches = s.launches := by
  unfold engXlate
  repeat' split
  all_goals exact ⟨rfl, rfl⟩

theorem traceHome_frame (s : State) (c job va : Nat) : (traceHome s c job va).2.cur = s.cur ∧
    (traceHome s c job va).2.launches = s.launches ∧ (s.held = none → (traceHome s c job va).2.held = none) := by
  obtain ⟨hcur, hlaunch⟩ := engXlate_frame s (coreDie c) job va .write
  have hok (pa : Nat) (h : (engXlate s (coreDie c) job va .write).1 = .ok pa) : (engXlate s (coreDie c) job va .write).2.held = s.held := by
    unfold engXlate at h ⊢
    split
    · rfl
    · rename_i hlook
      rw [hlook] at h
      dsimp only at h
      split at h <;> cases h
  unfold traceHome
  generalize engXlate s (coreDie c) job va .write = r at *
  obtain ⟨x, t⟩ := r
  cases x with
  | ok pa => exact ⟨hcur, hlaunch, fun hs => (hok pa rfl).trans hs⟩
  | error e =>
    dsimp only at hcur hlaunch ⊢
    split
    · cases hb : t.held.bind (startMiss { t with held := none }) with
      | none => exact ⟨hcur, hlaunch, fun _ => rfl⟩
      | some w =>
        obtain ⟨m, -, hm⟩ := Option.bind_eq_some_iff.mp hb
        obtain ⟨hc, hl, hh⟩ := startMiss_frame hm
        exact ⟨hc.trans hcur, hl.trans hlaunch, fun _ => hh⟩
    · rename_i hwait
      refine ⟨hcur, hlaunch, fun hs => ?_⟩
      simpa [mustWait, hs] using hwait

theorem updLaunch_unsent {f : Launch → Launch} (hf : ∀ l, (f l).unsent = l.unsent) (s : State) (l n : Nat) :
    ((s.updLaunch l f).launch? n).map Launch.unsent = (s.launch? n).map Launch.unsent := by
  unfold State.updLaunch State.launch?
  split
  · rename_i x hx
    by_cases hn : n = l
    · simp [hn, hx, hf]
    · rw [mget_mset_ne _ _ hn]
  · rfl

theorem countSent_unsent (s : State) (l d n : Nat) :
    ((countSent s l d).launch? n).map Launch.unsent = (s.launch? n).map Launch.unsent :=
  updLaunch_unsent (f := fun x => { x with sent := mupd x.sent d 0 (· + 1) }) (fun _ => rfl) s l n

theorem sendMsg_cur (s : State) (m : Msg) : (sendMsg s m).2.cur = s.cur :=
  State.updLaunch_cur { s with free := s.free + 1, nextId := s.nextId + 1 } ..

theorem sendMsg_held (s : State) (m : Msg) : (sendMsg s m).2.held = s.held :=
  State.updLaunch_held { s with free := s.free + 1, nextId := s.nextId + 1 } ..

theorem sendMsg_unsent (s : State) (m : Msg) (n : Nat) :
    ((sendMsg s m).2.launch? n).map Launch.unsent = (s.launch? n).map Launch.unsent :=
  countSent_unsent { s with free := s.free + 1, nextId := s.nextId + 1 } m.launch m.issuer.die n

theorem records_setCore {s w : State} {c : Nat} (tr : Trace) (hc : w.cur = s.cur) (hh : s.held = none → w.held = none)
    (hl : ∀ n, (w.launch? n).map Launch.unsent = (s.launch? n).map Launch.unsent) :
    Records c s (w.setCore c { s.core c with trace := tr }) := by
  refine ⟨hc, ⟨tr, (s.core c).ctxs, State.core_setCore_self ..⟩, fun u => ?_, hl, hh⟩
  rw [State.ctx, State.core_setCore_self]
  rfl

theorem launch?_congr {s t : State} (h : t.launches = s.launches) (n : Nat) : t.launch? n = s.launch? n := congrArg (mget · n) h

theorem oneRecord_records (s : State) (c ty slot body : Nat) : Records c s (oneRecord s c ty slot body) := by
  have hhome (job va : Nat) := traceHome_frame s c job va
  unfold oneRecord
  dsimp only
  split
  · exact records_setCore _ rfl id fun _ => rfl
  · refine records_setCore _ ?_ (fun hs => ?_) fun n => ?_
    · repeat' split
      all_goals exact (sendMsg_cur ..).trans (hhome ..).1
    · repeat' split
      all_goals exact (sendMsg_held ..).trans ((hhome ..).2.2 hs)
    · repeat' split
      all_goals exact (sendMsg_unsent ..).trans (congrArg _ (launch?_congr (hhome ..).2.1 n))

theorem lostRecord_records (s : State) (c : Nat) : Records c s (lostRecord s c) := by
  unfold lostRecord
  dsimp only
  split
  · exact (records_trace _ s c).trans (oneRecord_records ..)
  · exact .refl c s

theorem traceRecord_records (s : State) (c ty slot body : Nat) : Records c s (traceRecord s c ty slot body) :=
  (lostRecord_records s c).trans (oneRecord_records ..)

theorem flowRecord_records (s : State) (c t : Nat) : Records c s (flowRecord s c t) := by
  unfold flowRecord
  exact (traceRecord_records s c ..).trans (records_updCtx (fun x => by rfl) _ c t)

theorem syncRecord_records (s : State) (c t : Nat) : Records c s (syncRecord s c t) := by
  unfold syncRecord
  exact ((traceRecord_records s c ..).trans (records_trace _ _ c)).trans (records_updCtx (fun x => by rfl) _ c t)

theorem oweSync_records (s : State) (c t : Nat) : Records c s (oweSync s c t) := by
  unfold oweSync
  split
  · exact syncRecord_records s c t
  · split
    · exact (flowRecord_records s c t).trans (syncRecord_records ..)
    · exact .refl c s

theorem slotRecord_records (s : State) (c t ty body : Nat) : Records c s (slotRecord s c t ty body) := by
  unfold slotRecord
  split
  · exact ((oweSync_records s c t).trans (flowRecord_records ..)).trans (traceRecord_records ..)
  · exact .refl c s

/-! What HOLDDISP held is let go (R220). -/

theorem resumeHelper_frame (s : State) (c t : Nat) :
    (resumeHelper s c t).cur = s.cur ∧ ((resumeHelper s c t).core c).spad = (s.core c).spad := by
  unfold resumeHelper
  dsimp only
  generalize hu : s.updCtx c t (fun x => { x with halted := false, hcause := 0, evt := true, exempt := true }) = u
  have hspad : (u.core c).spad = (s.core c).spad := by
    rw [← hu, State.updCtx, State.core_setCtx_self]
  obtain ⟨hcur, ⟨tr, m, hm⟩, -⟩ := slotRecord_records u c t 4 (2 ^ 4 * ((u.ctx c t).pc % 2 ^ 52))
  exact ⟨hcur.trans (by rw [← hu]; rfl), by rw [hm]; exact hspad⟩

theorem foldl_resumeHelper_frame (hs : List Nat) (s : State) (c : Nat) :
    (hs.foldl (fun s t => resumeHelper s c t) s).cur = s.cur ∧
      ((hs.foldl (fun s t => resumeHelper s c t) s).core c).spad = (s.core c).spad := by
  induction hs generalizing s with
  | nil => exact ⟨rfl, rfl⟩
  | cons t r ih =>
    obtain ⟨hc, hp⟩ := ih (resumeHelper s c t)
    obtain ⟨hc', hp'⟩ := resumeHelper_frame s c t
    exact ⟨hc.trans hc', hp.trans hp'⟩

/-- What is let go beside helpers (R220). -/
theorem releaseHeld_true_core (s : State) (c : Nat) (owner : Option Nat) : ∃ h q m,
    (releaseHeld s c owner true).core c = { s.core c with held := h, eq1 := q, chans := m } := by
  simp only [releaseHeld, if_true, State.core, State.updPlain, State.updCore, State.setCore, mgetD_mset_self]
  exact ⟨_, _, _, rfl⟩

theorem releaseHeld_frame (s : State) (c : Nat) (owner : Option Nat) :
    (releaseHeld s c owner false).cur = s.cur ∧ ((releaseHeld s c owner false).core c).spad = (s.core c).spad := by
  obtain ⟨h, q, m, hk⟩ := releaseHeld_true_core s c owner
  obtain ⟨hc, hp⟩ := foldl_resumeHelper_frame
    (((s.core c).held.filter fun h => owner.all (· == h.owner)).filterMap fun
      | .helper _ t => some t
      | _ => none) (releaseHeld s c owner true) c
  refine ⟨hc, ?_⟩
  have := hp.trans (congrArg Core.spad hk)
  exact this

/-! HEXIT (R69, R71). -/

theorem Ctx.ended_setBlk (x : Ctx) (b : Option Blk) (st : CtxStatus) : (x.setBlk b).ended st = x.ended st := rfl

/-- The machine of a context that leaves, once the work it held is let go. -/
def letsGo (s : State) : State :=
  if (s.ctx s.cur.core s.cur.slot).stepping.isSome then releaseHeld s s.cur.core (some s.cur.slot) false else s

theorem letsGo_frame (s : State) : (letsGo s).cur = s.cur ∧ ((letsGo s).core s.cur.core).spad = s.myCore.spad := by
  unfold letsGo
  split
  · exact releaseHeld_frame ..
  · exact ⟨rfl, rfl⟩

theorem helperExit : Clause.HelperExit := by
  intro a s hi
  have hr := port?_of_regSrc (i := .hexit (.x a)) (a := a) rfl
  have harg : arg (srcVals (.hexit (.x a)) s) 0 = s.me.getX a := w64_v128 _
  have hstill := still_blocks hi 0 0 (srcVals (.hexit (.x a)) s)
  have hmu := blocks_me (st := 0) (aux := 0) (vs := srcVals (.hexit (.x a)) s) hi
  have hend : (blocks (.hexit (.x a)) 0 0 (srcVals (.hexit (.x a)) s) s).me.ended .exited =
      (issued (.hexit (.x a)) s).me.ended .exited := by
    rw [← complete_blocks _ 0 0 (srcVals (.hexit (.x a)) s), complete_me, Ctx.ended_setBlk]
  have hstep := blocks_stepping hi 0 0 (srcVals (.hexit (.x a)) s)
  have hspad := blocks_spad (st := 0) (aux := 0) (vs := srcVals (.hexit (.x a)) s) hi
  have hrun (t : State) := waitOps_issue (t := t) (eff := effHexit) (fun _ s => s) hi hr
  rw [waitOps_of_issues hi] at hrun
  generalize hx : { (issued (.hexit (.x a)) s).me.ended .exited with exitValue := s.me.getX a } = x at *
  generalize blocks (.hexit (.x a)) 0 0 (srcVals (.hexit (.x a)) s) s = u at *
  obtain ⟨hgc, hgs⟩ := letsGo_frame u
  have heff : effHexit (srcVals (.hexit (.x a)) s) u = leaves (letsGo u) s.cur.core s.cur.slot x := by
    rw [effHexit, harg, hend, hx, hstill.cur_eq, leaveLive_eq, letsGo, hstill.cur_eq]
  have hcur : (leaves (letsGo u) s.cur.core s.cur.slot x).cur = s.cur := hgc.trans hstill.cur_eq
  have hme : (leaves (letsGo u) s.cur.core s.cur.slot x).me = x := by
    rw [State.me, hcur, leaves_ctx_self, Ctx.seesEvent_of_not_live (by rw [← hx]; exact CtxStatus.noConfusion)]
  have hregs : x.x = s.me.x ∧ x.v = s.me.v ∧ x.k = s.me.k := by
    rw [← hx, issued, complete_me, noteIssue_me hi]
    exact ⟨rfl, rfl, rfl⟩
  obtain ⟨hxx, hxv, hxk⟩ := hregs
  have hblk : x.blk = none := by
    rw [← hx]
    rfl
  have hhalt : x.halted = false := by
    rw [← hx]
    rfl
  refine ⟨_, hrun _ heff ⟨by rw [hme, hhalt], fun b hb => ?_⟩, hme, by rw [hme, hxx], by rw [hme, hxv], by rw [hme, hxk],
    fun v hv hl => ?_, ?_, fun hs => ?_⟩
  · rw [hme, hblk] at hb
    cases hb
  · rw [leaves_ctx_ne _ _ _ _ hv] at hl ⊢
    exact Ctx.evt_seesEvent hl
  · obtain ⟨fe, once, m, hm⟩ := leaves_core (letsGo u) s.cur.core s.cur.slot x
    rw [State.myCore, hcur, hm, ← hspad, ← hgs, hstill.cur_eq]
  · have hgo : letsGo u = u := if_neg (by rw [State.me] at hstep; rw [hstep, hs]; decide)
    rw [hgo, hstill.package]
    exact ⟨rfl, rfl⟩

/-- Settles O7, clause by clause. -/
theorem helperContexts : Obligations.HelperContexts := ⟨helperStart, helperJoin, helperJoinEnds, helperExit⟩

end Sys2Proof.Machine
end

section
/-! PROOFS. The end of a group (spec/03, R74; spec/11, R276). -/

namespace Sys2Proof.Machine

/-! The end of a group, as a change of its core, its slots and its launch. -/

/-- A core whose group ends (R276). -/
def Core.endsGroup (k : Core) (job : Nat) (killed : Bool) : Core :=
  { askRelease k true with
    group := none, ready := false, linkQ := [], linkFly := [], lastJob := job
    ctxs := k.ctxs.map fun p => (p.1, p.2.ended (if killed ∧ p.1 = 0 then .killed else .free))
    feTable := [], feOnce := [], walks := [], held := [] }

/-- A launch one of whose groups ends (R276). -/
def Launch.endsGroup (l : Launch) (lin : Nat) (killed : Bool) : Launch :=
  let l := { l with running := l.running - 1, killed := satAdd l.killed (b2n killed) 65535 }
  match l.frontier with
  | some f => { l with frontier := some (if f.state = .abandoned then
      { f with pending := f.pending.filter (· != lin) } else { f with intake := f.intake ++ [lin] }) }
  | none => l

theorem Launch.endsGroup_running (l : Launch) (lin : Nat) (killed : Bool) : (l.endsGroup lin killed).running = l.running - 1 := by
  unfold Launch.endsGroup
  dsimp only
  split <;> rfl

theorem State.core_updLaunch (s : State) (l : Nat) (f : Launch → Launch) (c : Nat) : (s.updLaunch l f).core c = s.core c := by
  rw [State.core, State.updLaunch_cores, State.core]

theorem launch?_updLaunch_self (s : State) (n : Nat) (f : Launch → Launch) : (s.updLaunch n f).launch? n = (s.launch? n).map f := by
  unfold State.updLaunch State.launch?
  cases h : mget s.launches n with
  | some x => exact mget_mset_self ..
  | none => exact h

theorem mget_map_key {α : Type} (m : Map α) (t : Nat) {f : Nat → α → α} :
    mget (m.map fun p => (p.1, f p.1 p.2)) t = (mget m t).map (f t) := by
  induction m with
  | nil => rfl
  | cons p r ih =>
    obtain ⟨a, b⟩ := p
    by_cases h : a = t <;> simp [mget, h, ih]

/-- A launch that is no longer held back where it is among those let go (R220). -/
def Launch.freedIn (held : List Nat) (n : Nat) (l : Launch) : Launch :=
  if held.contains n then { l with heldBack := false } else l

theorem Launch.freedIn_running (held : List Nat) (n : Nat) (l : Launch) : (l.freedIn held n).running = l.running := by
  unfold Launch.freedIn
  split <;> rfl

/-- Work that is let go leaves what runs of a launch. -/
theorem releaseHeld_running {s : State} {c n : Nat} {owner : Option Nat} {l : Launch} (hl : s.launch? n = some l) :
    ∃ m, (releaseHeld s c owner true).launch? n = some m ∧ m.running = l.running := by
  have hf (held : List Nat) : (fun p : Nat × Launch => if held.contains p.1 then (p.1, { p.2 with heldBack := false }) else p) =
      fun p => (p.1, Launch.freedIn held p.1 p.2) := by
    funext p
    unfold Launch.freedIn
    split <;> rfl
  simp only [releaseHeld, if_true, State.launch?, hf]
  rw [mget_map_key (f := Launch.freedIn _)]
  exact ⟨_, congrArg (Option.map _) hl, Launch.freedIn_running ..⟩

section
variable {s : State} {c : Nat} {killed : Bool} {g : Group} (hg : (s.core c).group = some g)
include hg

theorem endGroup_eq : endGroup s c killed =
    ((releaseHeld s c none true).updCore c fun k => k.endsGroup g.job killed).updLaunch g.launch fun l => l.endsGroup g.lin killed := by
  simp only [endGroup, hg]
  rfl

theorem endGroup_cur : (endGroup s c killed).cur = s.cur := by
  rw [endGroup_eq hg, State.updLaunch_cur]
  rfl

theorem endGroup_memories : (endGroup s c killed).hbm = s.hbm ∧ (endGroup s c killed).host = s.host := by
  rw [endGroup_eq hg, State.updLaunch_hbm, State.updLaunch_host]
  exact ⟨rfl, rfl⟩

theorem endGroup_core : ∃ h q m, (endGroup s c killed).core c =
    ({ s.core c with held := h, eq1 := q, chans := m } : Core).endsGroup g.job killed := by
  obtain ⟨h, q, m, hk⟩ := releaseHeld_true_core s c none
  refine ⟨h, q, m, ?_⟩
  rw [endGroup_eq hg, State.core_updLaunch, State.core_updCore_self, hk]

/-- The slots of a core whose group ends: they keep what `ended` keeps (R64, R276). -/
theorem endGroup_ctx (u : Nat) (hu : killed = true → u = 0 → mget (s.core c).ctxs 0 ≠ none) :
    (endGroup s c killed).ctx c u = (s.ctx c u).ended (if killed ∧ u = 0 then .killed else .free) := by
  obtain ⟨h, q, m, hk⟩ := endGroup_core (killed := killed) hg
  rw [State.ctx, hk]
  change (mget ((s.core c).ctxs.map fun p => (p.1, p.2.ended (if killed ∧ p.1 = 0 then .killed else .free))) u).getD {} = _
  rw [mget_map_key (f := fun t x => Ctx.ended x (if killed ∧ t = 0 then .killed else .free)), State.ctx, mgetD]
  cases hx : mget (s.core c).ctxs u with
  | some x => rfl
  | none =>
    have hfree : ¬ (killed ∧ u = 0) := fun ⟨hk, h0⟩ => hu hk h0 (h0 ▸ hx)
    rw [if_neg hfree]
    rfl

theorem endGroup_running {l : Launch} (hl : s.launch? g.launch = some l) :
    ∃ m, (endGroup s c killed).launch? g.launch = some m ∧ m.running = l.running - 1 := by
  obtain ⟨m, hm, hr⟩ := releaseHeld_running (c := c) (owner := none) hl
  refine ⟨_, ?_, (Launch.endsGroup_running m g.lin killed).trans (by rw [hr])⟩
  rw [endGroup_eq hg, launch?_updLaunch_self]
  exact congrArg (Option.map _) hm

end

/-! A finished gang's pipes (R286). -/

theorem dropPipes_frame (s : State) (gang : Nat) : ∃ p n, dropPipes s gang = { s with plains := p, north := n } := by
  unfold dropPipes
  split
  · exact ⟨_, _, rfl⟩
  · exact ⟨_, _, rfl⟩

/-! The kills of the helpers are traced (R69, R229). -/

theorem traceHelperKills_records (s : State) (c : Nat) : Records c s (traceHelperKills s c) := by
  have hf (l : Map Ctx) (t : State) : Records c t (l.foldl (fun s p => if p.1 ≠ 0 ∧ p.2.status = .live then
      slotRecord s c p.1 3 (0x18 + 2 ^ 8 * 3 + 2 ^ 10 * (p.2.pc % 2 ^ 52)) else s) t) := by
    induction l generalizing t with
    | nil => exact .refl c t
    | cons p r ih =>
      refine Records.trans ?_ (ih _)
      dsimp only
      split
      · exact slotRecord_records ..
      · exact .refl c t
  exact hf _ s

theorem traceHelperKills_of_not_tracing {s : State} {c : Nat} (h : tracing (s.core c) = false) : traceHelperKills s c = s := by
  have hrec (t ty body : Nat) : slotRecord s c t ty body = s := if_neg (by simp [tracesSlot, h])
  have hf (l : Map Ctx) : l.foldl (fun s p => if p.1 ≠ 0 ∧ p.2.status = .live then
      slotRecord s c p.1 3 (0x18 + 2 ^ 8 * 3 + 2 ^ 10 * (p.2.pc % 2 ^ 52)) else s) s = s := by
    induction l with
    | nil => rfl
    | cons p r ih =>
      rw [List.foldl_cons, hrec, ite_self, ih]
  exact hf _

/-! RETIRE (R74). -/

theorem Ctx.untraced_ended {x y : Ctx} (h : x.untraced = y.untraced) (st : CtxStatus) : (x.ended st).untraced = (y.ended st).untraced :=
  congrArg (Ctx.ended · st) h

theorem Launch.running_of_unsent {l m : Launch} (h : m.unsent = l.unsent) : m.running = l.running := (congrArg Launch.running h :)

section
variable {s : State} {c : Nat} {killed : Bool} {g : Group} (hg : (s.core c).group = some g)
include hg

/-- The core of a group that has ended, its helpers' kills traced (R69, R276). -/
theorem finishGroup_core : ∃ tr h q m m', (finishGroup s c killed).core c =
    ({ s.core c with trace := tr, held := h, eq1 := q, chans := m, ctxs := m' } : Core).endsGroup g.job killed := by
  obtain ⟨tr, m', hT⟩ := (traceHelperKills_records s c).core
  have hgT : ((traceHelperKills s c).core c).group = some g := by rw [hT]; exact hg
  obtain ⟨h, q, m, hE⟩ := endGroup_core (killed := killed) hgT
  obtain ⟨p, n, hd⟩ := dropPipes_frame (endGroup (traceHelperKills s c) c killed) (gangOf s c)
  refine ⟨tr, h, q, m, m', ?_⟩
  rw [finishGroup, hd]
  refine Eq.trans ?_ (hE.trans (by rw [hT]))
  rfl

theorem finishGroup_cur : (finishGroup s c killed).cur = s.cur := by
  obtain ⟨tr, m', hT⟩ := (traceHelperKills_records s c).core
  have hgT : ((traceHelperKills s c).core c).group = some g := by rw [hT]; exact hg
  obtain ⟨p, n, hd⟩ := dropPipes_frame (endGroup (traceHelperKills s c) c killed) (gangOf s c)
  rw [finishGroup, hd]
  exact (endGroup_cur hgT).trans (traceHelperKills_records s c).cur

theorem finishGroup_running {l : Launch} (hl : s.launch? g.launch = some l) :
    ∃ m, (finishGroup s c killed).launch? g.launch = some m ∧ m.running = l.running - 1 := by
  obtain ⟨tr, m', hT⟩ := (traceHelperKills_records s c).core
  have hgT : ((traceHelperKills s c).core c).group = some g := by rw [hT]; exact hg
  have hlT := (traceHelperKills_records s c).launches g.launch
  rw [hl, Option.map_some] at hlT
  obtain ⟨m, hm, hu⟩ := Option.map_eq_some_iff.mp hlT
  obtain ⟨n, hn, hr⟩ := endGroup_running (killed := killed) hgT hm
  obtain ⟨p, q, hd⟩ := dropPipes_frame (endGroup (traceHelperKills s c) c killed) (gangOf s c)
  rw [finishGroup, hd]
  exact ⟨n, hn, by rw [hr, Launch.running_of_unsent hu]⟩

theorem finishGroup_memories (ht : tracing (s.core c) = false) :
    (finishGroup s c killed).hbm = s.hbm ∧ (finishGroup s c killed).host = s.host := by
  obtain ⟨p, n, hd⟩ := dropPipes_frame (endGroup (traceHelperKills s c) c killed) (gangOf s c)
  rw [finishGroup, hd, traceHelperKills_of_not_tracing ht]
  exact endGroup_memories hg

end

/-- The slots of a group that has ended without a kill. -/
theorem finishGroup_ctx {s : State} {c : Nat} {g : Group} (hg : (s.core c).group = some g) (u : Nat) :
    ((finishGroup s c false).ctx c u).untraced = ((s.ctx c u).ended .free).untraced := by
  obtain ⟨tr, m', hT⟩ := (traceHelperKills_records s c).core
  have hgT : ((traceHelperKills s c).core c).group = some g := by rw [hT]; exact hg
  obtain ⟨p, n, hd⟩ := dropPipes_frame (endGroup (traceHelperKills s c) c false) (gangOf s c)
  have hE := endGroup_ctx (killed := false) hgT u (fun h => nomatch h)
  rw [finishGroup, hd]
  refine (congrArg Ctx.untraced hE).trans ?_
  exact Ctx.untraced_ended ((traceHelperKills_records s c).ctx u) .free

/-- What a context's untraced part says of it. -/
theorem Ctx.fields_of_untraced {x y : Ctx} (h : x.untraced = y.untraced) :
    x.status = y.status ∧ x.x = y.x ∧ x.v = y.v ∧ x.k = y.k ∧ x.blk = y.blk ∧ x.halted = y.halted :=
  ⟨(congrArg Ctx.status h :), (congrArg Ctx.x h :), (congrArg Ctx.v h :), (congrArg Ctx.k h :), (congrArg Ctx.blk h :),
    (congrArg Ctx.halted h :)⟩

theorem blocks_regs {i : Instr} {s : State} (h : issues i s = true) (st : Nat) (aux : Word) (vs : List VWord) (u : Nat) :
    let x := (blocks i st aux vs s).ctx s.cur.core u
    x.x = (s.ctx s.cur.core u).x ∧ x.v = (s.ctx s.cur.core u).v ∧ x.k = (s.ctx s.cur.core u).k := by
  by_cases hu : u = s.cur.slot
  · have hme := blocks_me (st := st) (aux := aux) (vs := vs) h
    rw [State.me, blocks_cur h] at hme
    rw [hu, hme]
    exact ⟨rfl, rfl, rfl⟩
  · rw [blocks_ctx_ne h st aux vs hu]
    exact ⟨rfl, rfl, rfl⟩

/-- Settles O8: the effect of RETIRE is the end of the group, behind the trace of the helpers' kills. -/
theorem retireEndsGroup : Obligations.RetireEndsGroup := by
  intro g s hi hg
  have hstill := still_blocks hi 0 0 (srcVals .retire s)
  have hregs := blocks_regs hi 0 0 (srcVals .retire s)
  have hrun (t : State) := waitOps_issue (t := t) (eff := effRetire) (fun _ s => s) hi (fun o ho => nomatch ho)
  rw [waitOps_of_issues hi] at hrun
  generalize blocks .retire 0 0 (srcVals .retire s) s = u at *
  have hgu : (u.core s.cur.core).group = some g := (hstill.group_eq _).trans hg
  have hcur : (finishGroup u s.cur.core false).cur = s.cur := (finishGroup_cur hgu).trans hstill.cur_eq
  have hslot (n : Nat) := Ctx.fields_of_untraced (finishGroup_ctx hgu n)
  obtain ⟨tr, h, q, m, m', hcore⟩ := finishGroup_core (killed := false) hgu
  have hmy : (finishGroup u s.cur.core false).myCore = (finishGroup u s.cur.core false).core s.cur.core := by
    rw [State.myCore, hcur]
  have hsettled : settled (finishGroup u s.cur.core false) := by
    obtain ⟨-, -, -, -, hb, hh⟩ := hslot s.cur.slot
    rw [settled, State.me, hcur, hb, hh]
    exact ⟨rfl, fun b hb => nomatch hb⟩
  have hspad : (u.core s.cur.core).spad = s.myCore.spad := (congrArg Core.spad (hstill.cores s.cur.core) :)
  refine ⟨_, hrun _ (by rw [effRetire, hstill.cur_eq]) hsettled, ?_, ?_, ?_, ?_, fun n => ?_, fun ht => ?_, fun l hl => ?_⟩
  · rw [hmy, hcore]
    rfl
  · rw [hmy, hcore]
    rfl
  · rw [hmy, hcore]
    rfl
  · rw [hmy, hcore, ← hspad]
    rfl
  · obtain ⟨hs, hx, hv, hk, -⟩ := hslot n
    obtain ⟨hx', hv', hk'⟩ := hregs n
    exact ⟨hs, hx.trans hx', hv.trans hv', hk.trans hk'⟩
  · have htu : tracing (u.core s.cur.core) = false := by
      rw [← ht, tracing, tracing, ← hstill.trace_eq, State.myCore, hstill.cur_eq]
    obtain ⟨hh, ho⟩ := finishGroup_memories (killed := false) hgu htu
    rw [hh, ho, hstill.package]
    exact ⟨rfl, rfl⟩
  · exact finishGroup_running hgu (by rw [State.launch?, hstill.package]; exact hl)

end Sys2Proof.Machine
end

section
/-! PROOFS. The entry of a trap (spec/03, R86 to R89), and what the north pass die's accesses to device memory leave of the cores
(R290, R314 to R317, R337). -/

namespace Sys2Proof.Machine

/-! What an access of the north pass die leaves of the cores. -/

/-- A core without its translations. -/
def Core.untlb (k : Core) : Core := { k with tlb := [] }

/-- What keeps the sweep, and the cores but for translations that their plain's last-level TLB has lost (R315). -/
structure KeepsCores (s t : State) : Prop where
  cur : t.cur = s.cur
  sweep : t.sweep = s.sweep
  cores : ∀ c, (t.core c).untlb = (s.core c).untlb

theorem KeepsCores.refl (s : State) : KeepsCores s s := ⟨rfl, rfl, fun _ => rfl⟩

theorem KeepsCores.trans {s t u : State} (h : KeepsCores s t) (h' : KeepsCores t u) : KeepsCores s u :=
  ⟨h'.cur.trans h.cur, h'.sweep.trans h.sweep, fun c => (h'.cores c).trans (h.cores c)⟩

theorem KeepsCores.of_eq {s t : State} (hc : t.cur = s.cur) (hw : t.sweep = s.sweep) (hk : t.cores = s.cores) : KeepsCores s t :=
  ⟨hc, hw, fun c => by rw [State.core, hk, State.core]⟩

theorem KeepsCores.after {s t u : State} (h : KeepsCores t u) (hc : t.cur = s.cur) (hw : t.sweep = s.sweep)
    (hk : t.cores = s.cores) : KeepsCores s u :=
  (KeepsCores.of_eq hc hw hk).trans h

theorem noteLasting_keepsCores_hbm (s : State) (row die place : Nat) {u : Upset} (hu : u.kind = 3) :
    KeepsCores s (noteLasting s row die place u) := by
  have hp : u.plain = none := by simp [Upset.plain, hu]
  have hr (t : State) : KeepsCores t (retireUnit t u) := by
    simp only [retireUnit, hu, retireRow]
    split <;> exact .of_eq rfl rfl rfl
  simp only [noteLasting, hp]
  exact KeepsCores.after (hr _) rfl rfl rfl

theorem hbmCheck_keepsCores (s : State) (pa n : Nat) : KeepsCores s (hbmCheck s pa n).2 := by
  have hf (l : List Upset) (hl : ∀ u ∈ l, u.kind = 3) (r : Bool × State) : KeepsCores r.2 (l.foldl (fun (r : Bool × State) u =>
      if u.lasting then (false, noteLasting r.2 3 (stackDie (pa / 2 ^ 36)) (u.addr / 8 * 8) u)
      else (r.1, noteTransient (clearUpset r.2 u))) r).2 := by
    induction l generalizing r with
    | nil => exact .refl _
    | cons u l ih =>
      obtain ⟨hu, hl⟩ := List.forall_mem_cons.mp hl
      refine KeepsCores.trans ?_ (ih hl _)
      dsimp only
      split
      · exact noteLasting_keepsCores_hbm _ _ _ _ hu
      · exact .of_eq rfl rfl rfl
  refine hf _ (fun u hu => ?_) (true, s)
  obtain ⟨-, hu⟩ := List.mem_filter.mp hu
  simp only [Bool.and_eq_true, beq_iff_eq] at hu
  exact hu.1.1

/-- A core of a die that keeps of its translations those of a list. -/
def Core.pruned (keep : List TlbEnt) (d c : Nat) (k : Core) : Core :=
  if coreDie c = d then { k with tlb := k.tlb.filter keep.contains } else k

theorem Core.untlb_pruned (keep : List TlbEnt) (d c : Nat) (k : Core) : (k.pruned keep d c).untlb = k.untlb := by
  unfold Core.pruned
  split <;> rfl

theorem pruneCores_keepsCores (s : State) (d : Nat) : KeepsCores s (pruneCores s d) := by
  refine ⟨rfl, rfl, fun c => ?_⟩
  have hf : (fun p : Nat × Core => if coreDie p.1 = d then
      (p.1, { p.2 with tlb := p.2.tlb.filter (unitPlain s d).tlb.contains }) else p) =
      fun p => (p.1, p.2.pruned (unitPlain s d).tlb d p.1) := by
    funext p
    unfold Core.pruned
    split <;> rfl
  simp only [pruneCores, State.core, mgetD, hf]
  rw [mget_map_key (f := Core.pruned _ d)]
  cases mget s.cores c with
  | none => rfl
  | some k => exact Core.untlb_pruned ..

theorem updUnit_keepsCores (s : State) (d : Nat) (f : Plain → Plain) : KeepsCores s (updUnit s d f) := by
  unfold updUnit
  split <;> exact .of_eq rfl rfl rfl

theorem evicted_keepsCores (s : State) (d : Nat) (gone : List TlbEnt) : KeepsCores s (evicted s d gone) := by
  unfold evicted
  split
  · exact .refl s
  · exact KeepsCores.after (pruneCores_keepsCores ..) rfl rfl rfl

theorem parityDropped_keepsCores (s : State) (unit : Nat) (e : TlbEnt) : KeepsCores s (parityDropped s unit e) := by
  unfold parityDropped
  split <;> exact .of_eq rfl rfl rfl

theorem dropLastParity_keepsCores (s : State) (d job va : Nat) : KeepsCores s (dropLastParity s d job va) := by
  unfold dropLastParity
  repeat' split
  · exact ((updUnit_keepsCores s d _).trans (evicted_keepsCores ..)).trans (parityDropped_keepsCores ..)
  all_goals exact .refl s

theorem enterTlb_keepsCores (s : State) (d : Nat) (e : TlbEnt) : KeepsCores s (enterTlb s d e) := by
  have hreg : KeepsCores s (register s d e) := by
    unfold register
    repeat' split
    all_goals exact .of_eq rfl rfl rfl
  exact (hreg.trans (updUnit_keepsCores ..)).trans (evicted_keepsCores ..)

theorem walk_keepsCores (s : State) (job va : Nat) : KeepsCores s (walk s job va).2 := by
  have hf (l : List Nat) (t : State) : KeepsCores t (l.foldl (fun s a => (hbmCheck s a 8).2) t) := by
    induction l generalizing t with
    | nil => exact .refl t
    | cons a l ih => exact (hbmCheck_keepsCores t a 8).trans (ih _)
  exact hf _ s

theorem freeXlate_keepsCores (s : State) (d job va : Nat) (k : XKind) : KeepsCores s (freeXlate s d job va k).2 := by
  have hw := (dropLastParity_keepsCores s d job va).trans (walk_keepsCores (dropLastParity s d job va) job va)
  unfold freeXlate
  split
  · exact .refl s
  · generalize walk (dropLastParity s d job va) job va = r at *
    obtain ⟨x, t⟩ := r
    cases x with
    | error e =>
      dsimp only
      split
      · exact hw.trans (.of_eq rfl rfl rfl)
      · exact hw
    | ok e =>
      dsimp only
      split
      · exact hw.trans (.of_eq rfl rfl rfl)
      · exact hw.trans (enterTlb_keepsCores ..)

theorem hbmWrite_keepsCores (s : State) (pa : Nat) (bs : List Byte) : KeepsCores s (hbmWrite s pa bs) := .of_eq rfl rfl rfl

theorem northPart_keepsCores (s : State) (job va n : Nat) : KeepsCores s (northPart s job va n).2 := by
  have hx := freeXlate_keepsCores s 10 job va .read
  unfold northPart
  generalize freeXlate s 10 job va .read = r at *
  obtain ⟨x, t⟩ := r
  cases x with
  | error e => exact hx
  | ok pa => exact hx.trans (hbmCheck_keepsCores ..)

theorem northPlace_keepsCores (s : State) (job va : Nat) : KeepsCores s (northPlace s job va).2 := by
  have hx := freeXlate_keepsCores s 10 job va .write
  unfold northPlace
  generalize freeXlate s 10 job va .write = r at *
  obtain ⟨x, t⟩ := r
  cases x with
  | error e => exact hx
  | ok pa => exact hx

theorem northRead_keepsCores (s : State) (job va n : Nat) : KeepsCores s (northRead s job va n).2 := by
  have hx := northPart_keepsCores s job va (inPage va n)
  unfold northRead
  dsimp only
  generalize northPart s job va (inPage va n) = r at *
  obtain ⟨x, t⟩ := r
  cases x with
  | none => exact hx
  | some lo =>
    dsimp only
    split
    · exact hx
    · exact hx.trans (northPart_keepsCores ..)

theorem northPut_keepsCores (s : State) (job va n v : Nat) : KeepsCores s (northPut s job va n v).2 := by
  have hx := northPlace_keepsCores s job va
  unfold northPut
  dsimp only
  generalize northPlace s job va = r at *
  obtain ⟨x, t⟩ := r
  cases x with
  | none => exact hx
  | some pa =>
    dsimp only
    split
    · exact hx.trans (hbmWrite_keepsCores ..)
    · have hy := northPlace_keepsCores t job (va + inPage va n)
      generalize northPlace t job (va + inPage va n) = q at *
      obtain ⟨y, u⟩ := q
      cases y with
      | none => exact hx.trans hy
      | some pb => exact (hx.trans hy).trans ((hbmWrite_keepsCores ..).trans (hbmWrite_keepsCores ..))

theorem keepsCores_of_northPut {s t : State} {job va n v : Nat} {ok : Bool} (h : northPut s job va n v = (ok, t)) : KeepsCores s t := by
  have hk := northPut_keepsCores s job va n v
  rwa [h] at hk

/-- An entry of a job's fault queue changes no core but for lost translations (R290). -/
theorem putFault_keepsCores (s : State) (f : FaultNote) : KeepsCores s (putFault s f) := by
  unfold putFault
  cases mget s.jobs f.job with
  | none => exact .refl s
  | some j =>
    dsimp only
    have hw := northRead_keepsCores s f.job j.faultq 8
    generalize northRead s f.job j.faultq 8 = w at *
    obtain ⟨wr, t⟩ := w
    cases wr with
    | none => exact hw.trans (.of_eq rfl rfl rfl)
    | some wr =>
      dsimp only at hw ⊢
      have hr := hw.trans (northRead_keepsCores t f.job (j.faultq + 8) 8)
      generalize northRead t f.job (j.faultq + 8) 8 = r at *
      obtain ⟨rd, u⟩ := r
      cases rd with
      | none => exact hr.trans (.of_eq rfl rfl rfl)
      | some rd =>
        dsimp only at hr ⊢
        split
        · exact hr.trans (.of_eq rfl rfl rfl)
        · split
          · rename_i hp
            exact (hr.trans (keepsCores_of_northPut hp)).trans (.of_eq rfl rfl rfl)
          · rename_i hp
            split
            · rename_i hq
              exact ((hr.trans (keepsCores_of_northPut hp)).trans (keepsCores_of_northPut hq)).trans (.of_eq rfl rfl rfl)
            · rename_i hq
              exact ((hr.trans (keepsCores_of_northPut hp)).trans (keepsCores_of_northPut hq)).trans (.of_eq rfl rfl rfl)

theorem faultTurn_keepsCores (s : State) (f : FaultNote) : KeepsCores s (faultTurn s f) := by
  have h : KeepsCores s (putFault { s with held := none } f) := KeepsCores.after (putFault_keepsCores ..) rfl rfl rfl
  unfold faultTurn
  dsimp only
  split
  · exact .of_eq rfl rfl rfl
  · exact h.trans (.of_eq rfl rfl rfl)

/-! The trap sequence (R86 to R89). -/

theorem enter_eq_entered (x : Ctx) (r : TrapReq) (n : Nat) : x.enter r n = entered r n x := by
  have hmode : 1024 * b2n (x.mode == .runtime) = if x.mode = .runtime then 1024 else 0 := by
    cases x.mode <;> rfl
  have hdefer : 2048 * b2n r.defer = if r.defer then 2048 else 0 := by
    cases r.defer <;> rfl
  simp only [Ctx.enter, hmode, hdefer]
  rfl

section
variable {s : State} {r : TrapReq} (htr : tracesSlot s.myCore s.cur.slot = false) (hst : s.me.stepping = none) (hnote : r.note = .plain)
include htr hst hnote

/-- A trap below level 2 enters the next level (R86, R87). -/
theorem takeTrap_enters (hl : s.me.tl < 2) : takeTrap s s.cur.core s.cur.slot r =
    s.updMe fun x => { entered r (r.ilen.getD (lengthAt s.myCore s.me r.pc)) x with notBefore := s.clk s.cur.core + 1 } := by
  have hrec (ty body : Nat) : slotRecord s s.cur.core s.cur.slot ty body = s := if_neg (ne_true_of_eq_false htr)
  have hme : s.ctx s.cur.core s.cur.slot = s.me := rfl
  have hcore : s.core s.cur.core = s.myCore := rfl
  have hl2 : (s.me.tl = 2) = False := eq_false (by omega)
  simp only [takeTrap, hme, hcore, hl2, if_false, hrec, hnote, Ctx.note, hst, Option.any_none, Bool.false_eq_true]
  rw [enter_eq_entered]
  rfl

omit hst htr in
/-- A trap at level 2 kills its context (R89). -/
theorem takeTrap_kills (hl : s.me.tl = 2) : takeTrap s s.cur.core s.cur.slot r = killCtx (s.updMe fun x => x) s.cur.core s.cur.slot r := by
  have hme : s.ctx s.cur.core s.cur.slot = s.me := rfl
  simp only [takeTrap, hme, hl, if_true, hnote, Ctx.note]
  rfl

end

/-- The kill record of a trap (R89). -/
def killRecordOf (r : TrapReq) (c t : Nat) : KillRecord := { cause := r.cause, value := r.value, pc := r.pc, slot := t, core := c }

/-- A core with the record of its last kill (R89, R233). -/
def Core.notesKill (k : Core) (kr : KillRecord) : Core := { k with dump := { k.dump with kill := some kr } }

section
variable {s : State} {r : TrapReq} {c t : Nat} (htr : tracesSlot (s.core c) t = false)
include htr

/-- The kill of a helper that holds no work back (R89). -/
theorem killCtx_helper (h0 : t ≠ 0) (hst : (s.ctx c t).stepping = none) : killCtx s c t r =
    leaves (s.updCore c fun k => k.notesKill (killRecordOf r c t)) c t ((s.ctx c t).kill (killRecordOf r c t)) := by
  have hrec (ty body : Nat) : slotRecord s c t ty body = s := if_neg (ne_true_of_eq_false htr)
  have hctx : (s.updCore c fun k => k.notesKill (killRecordOf r c t)).ctx c t = s.ctx c t := by
    rw [State.ctx, State.core_updCore_self]
    rfl
  have hgo : (((s.updCore c fun k => k.notesKill (killRecordOf r c t)).ctx c t).stepping.isSome) = false := by
    rw [hctx, hst]
    rfl
  rw [killCtx, hrec]
  simp only [h0, if_false]
  change leaveLive (s.updCore c fun k => k.notesKill (killRecordOf r c t)) c t
    (((s.updCore c fun k => k.notesKill (killRecordOf r c t)).ctx c t).kill (killRecordOf r c t)) = _
  rw [leaveLive_eq, hgo, if_neg (by decide), hctx]

end

/-! TRAP_ENTRY (R86). -/

/-- TRAP_ENTRY takes the raised trap of a context that runs and has nothing pending. -/
theorem exec_trapEntry {s : State} {r : TrapReq} (hl : s.me.status = .live) (hp : s.me.pend = []) (hh : s.me.halted = false)
    (ht : s.me.trap = some r) (hread : s.me.readsLength s.myCore r = false) :
    exec .trapEntry s = .next (takeTrap s s.cur.core s.cur.slot r) := by
  rw [show exec .trapEntry s = execTrapEntry s from rfl]
  simp only [execTrapEntry, ht, hread, hl, hp, hh, Bool.false_eq_true, if_false]
  rfl

theorem exec_trapEntry_reads {s : State} {r : TrapReq} (hl : s.me.status = .live) (hp : s.me.pend = []) (hh : s.me.halted = false)
    (ht : s.me.trap = some r) (hread : s.me.readsLength s.myCore r = true) (hu : s.upsets = [])
    (hw : wmBlocks s.myCore none r.pc 4 = false) (hg : granted s.myCore 0 [(r.pc, 4)] = true) :
    exec .trapEntry s = .next (takeTrap (takeBanks s s.cur.core 0 [(r.pc, 4)]) s.cur.core s.cur.slot r) := by
  have hcheck : (spadCheck (takeBanks s s.cur.core 0 (trapPieces r)) s.cur.core r.pc 4).2 =
      takeBanks s s.cur.core 0 (trapPieces r) := by
    simp [spadCheck, codeCheck, upsetsIn, takeBanks, hu]
  rw [show exec .trapEntry s = execTrapEntry s from rfl]
  simp only [execTrapEntry, ht, hread, hl, hp, hh, if_true, hcheck, execTrapEntry.trapReady, hw]
  simp only [trapPieces, hg]
  rfl

/-- What the other live contexts of the core see of a kill (R78, R112). -/
theorem seesEvent_sawIssue_of_live {x : Ctx} (h : x.status = .live) (t : Nat) :
    (x.sawIssue t).seesEvent = { x.sawIssue t with evt := true } := if_pos h

theorem helper_killed {s : State} {r : TrapReq} (htr : tracesSlot s.myCore s.cur.slot = false) (hst : s.me.stepping = none)
    (h0 : s.cur.slot ≠ 0) :
    let kr := killRecordOf r s.cur.core s.cur.slot
    let t := killCtx (s.updMe fun x => x) s.cur.core s.cur.slot r
    t.me = s.me.kill kr ∧ t.myCore.dump.kill = some kr ∧ ∀ n : Nat, n ≠ s.cur.slot → (s.ctx s.cur.core n).status = .live →
      t.ctx s.cur.core n = { (s.ctx s.cur.core n).sawIssue s.cur.slot with evt := true } := by
  have hme : (s.updMe fun x => x).ctx s.cur.core s.cur.slot = s.me := State.me_updMe s _
  have htr' : tracesSlot ((s.updMe fun x => x).core s.cur.core) s.cur.slot = false := by
    have : ((s.updMe fun x => x).core s.cur.core).trace = s.myCore.trace := by
      rw [State.updMe, State.updCtx, State.core_setCtx_self]
      rfl
    rwa [tracesSlot, tracing, this]
  have hk := killCtx_helper (s := s.updMe fun x => x) (r := r) htr' h0 (by rw [hme, hst])
  rw [hme] at hk
  dsimp only
  rw [hk]
  refine ⟨?_, ?_, fun n hn hl => ?_⟩
  · exact (leaves_ctx_self ..).trans (Ctx.seesEvent_of_not_live CtxStatus.noConfusion)
  · obtain ⟨fe, once, m, hm⟩ := leaves_core ((s.updMe fun x => x).updCore s.cur.core fun k =>
      k.notesKill (killRecordOf r s.cur.core s.cur.slot)) s.cur.core s.cur.slot (s.me.kill (killRecordOf r s.cur.core s.cur.slot))
    refine (congrArg (fun k : Core => k.dump.kill) hm).trans ?_
    rw [State.core_updCore_self]
    rfl
  · rw [leaves_ctx_ne _ _ _ _ hn]
    have : ((s.updMe fun x => x).updCore s.cur.core fun k => k.notesKill (killRecordOf r s.cur.core s.cur.slot)).ctx s.cur.core n =
        s.ctx s.cur.core n := by
      rw [State.ctx, State.core_updCore_self]
      exact State.ctx_setCtx_slot _ _ _ hn
    rw [this, seesEvent_sawIssue_of_live hl]

/-! The kill of a control context (R89, R233, R276). -/

/-- A core whose dump starts by itself where AUTO asks for one (R233). -/
def Core.autoDumps (k : Core) : Core := if k.dump.ctl.toNat / 2 % 2 = 1 then { k with dump := k.dump.start } else k

theorem Core.autoDumps_eq (k : Core) : ∃ d, k.autoDumps = { k with dump := d } := by
  unfold Core.autoDumps
  split
  · exact ⟨_, rfl⟩
  · exact ⟨k.dump, rfl⟩

/-- A context with the record of its kill (R89). -/
def Ctx.notesKill (x : Ctx) (kr : KillRecord) : Ctx := { x with pc := kr.pc, killCause := kr.cause, killRec := some kr }

/-- The machine with the kill of a control context noted, before its group ends (R89, R233). -/
def marksKill (s : State) (c : Nat) (kr : KillRecord) : State :=
  ((s.updCore c fun k => k.notesKill kr).updCtx c 0 fun x => x.notesKill kr).updCore c Core.autoDumps

theorem marksKill_core (s : State) (c : Nat) (kr : KillRecord) : ∃ d, (marksKill s c kr).core c =
    { s.core c with dump := d, ctxs := mset (s.core c).ctxs 0 ((s.ctx c 0).notesKill kr) } := by
  have hctx : (s.updCore c fun k => k.notesKill kr).ctx c 0 = s.ctx c 0 := by
    rw [State.ctx, State.core_updCore_self]
    rfl
  rw [marksKill, State.core_updCore_self, State.updCtx, hctx, State.core_setCtx_self, State.core_updCore_self]
  obtain ⟨d, hd⟩ := Core.autoDumps_eq { (s.core c).notesKill kr with
    ctxs := mset ((s.core c).notesKill kr).ctxs 0 ((s.ctx c 0).notesKill kr) }
  exact ⟨d, hd⟩

/-- The machine with the record of a control context's kill on its way, where its slot is traced (R229). -/
def recordsKill (s : State) (c : Nat) (r : TrapReq) : State :=
  slotRecord s c 0 3 (r.cause + 2 ^ 8 * 3 + 2 ^ 10 * (r.pc % 2 ^ 52))

theorem recordsKill_of_not_tracing {s : State} {c : Nat} (htr : tracing (s.core c) = false) (r : TrapReq) : recordsKill s c r = s :=
  if_neg (by simp [tracesSlot, htr])

theorem killCtx_control {s : State} {c : Nat} {r : TrapReq} {g : Group} (hg : ((recordsKill s c r).core c).group = some g) :
    ∃ f, killCtx s c 0 r = faultTurn (finishGroup (marksKill (recordsKill s c r) c (killRecordOf r c 0)) c true) f := by
  rw [killCtx]
  change ∃ f, (match ((recordsKill s c r).updCore c fun k => k.notesKill (killRecordOf r c 0)).core c |>.group with
    | none => (recordsKill s c r).updCore c fun k => k.notesKill (killRecordOf r c 0)
    | some g => faultEntry (finishGroup (marksKill (recordsKill s c r) c (killRecordOf r c 0)) c true) g.job 1 r.cause 0 c g.launch
        r.value.toNat r.pc) = faultTurn _ f
  generalize recordsKill s c r = u at *
  have hg' : ((u.updCore c fun k => k.notesKill (killRecordOf r c 0)).core c).group = some g := by
    rw [State.core_updCore_self]
    exact hg
  rw [hg']
  exact ⟨_, rfl⟩

/-- The slots of a group that has ended by a kill that nothing traces. -/
theorem finishGroup_ctx_killed {s : State} {c : Nat} {g : Group} (hg : (s.core c).group = some g) (htr : tracing (s.core c) = false)
    (h0 : mget (s.core c).ctxs 0 ≠ none) (u : Nat) :
    (finishGroup s c true).ctx c u = (s.ctx c u).ended (if u = 0 then .killed else .free) := by
  obtain ⟨p, n, hd⟩ := dropPipes_frame (endGroup (traceHelperKills s c) c true) (gangOf s c)
  rw [finishGroup, hd, traceHelperKills_of_not_tracing htr]
  refine Eq.trans ?_ ((endGroup_ctx (killed := true) hg u fun _ _ => h0).trans (by simp))
  rfl

theorem KeepsCores.ctx_eq {s t : State} (h : KeepsCores s t) (c u : Nat) : t.ctx c u = s.ctx c u :=
  (congrArg (fun k : Core => mgetD k.ctxs u {}) (h.cores c) :)

theorem Core.spad_eq_of_untlb {k k' : Core} (h : k.untlb = k'.untlb) : k.spad = k'.spad := (congrArg Core.spad h :)

theorem finishGroup_spad {s : State} {c : Nat} {g : Group} {killed : Bool} (hg : (s.core c).group = some g) :
    ((finishGroup s c killed).core c).spad = (s.core c).spad := by
  obtain ⟨tr, h, q, m, m', hF⟩ := finishGroup_core (killed := killed) hg
  rw [hF]
  rfl

/-- No slot of a core whose group has ended is live. -/
theorem finishGroup_liveSlots {s t : State} {c : Nat} {g : Group} {killed : Bool} (hg : (s.core c).group = some g)
    (ht : (t.core c).untlb = ((finishGroup s c killed).core c).untlb) : liveSlots t c = [] := by
  obtain ⟨tr, h, q, m, m', hF⟩ := finishGroup_core (killed := killed) hg
  have hctxs : (t.core c).ctxs = ((finishGroup s c killed).core c).ctxs := (congrArg Core.ctxs ht :)
  rw [hF] at hctxs
  rw [liveSlots, hctxs, Core.endsGroup, List.filterMap_map, List.filterMap_eq_nil_iff]
  refine fun p _ => if_neg ?_
  show (if killed ∧ p.1 = 0 then CtxStatus.killed else .free) ≠ .live
  split <;> exact CtxStatus.noConfusion

theorem control_killed {s : State} {r : TrapReq} {g : Group} (h0 : s.cur.slot = 0) (hg : s.myCore.group = some g)
    (htr : tracing s.myCore = false) :
    let t := killCtx (s.updMe fun x => x) s.cur.core 0 r
    t.myCore.group = none ∧ t.myCore.ready = false ∧ t.me = s.me.kill (killRecordOf r s.cur.core 0) ∧
      t.myCore.spad = s.myCore.spad ∧ liveSlots t s.cur.core = [] := by
  have hcore : (s.updMe fun x => x).core s.cur.core = { s.myCore with ctxs := mset s.myCore.ctxs s.cur.slot s.me } :=
    State.myCore_updMe s _
  have htr' : tracing ((s.updMe fun x => x).core s.cur.core) = false := by rw [hcore]; exact htr
  have hrec := recordsKill_of_not_tracing htr' r
  obtain ⟨f, hf⟩ := killCtx_control (s := s.updMe fun x => x) (r := r) (g := g) (by rw [hrec, hcore]; exact hg)
  rw [hrec] at hf
  have hk := faultTurn_keepsCores (finishGroup (marksKill (s.updMe fun x => x) s.cur.core (killRecordOf r s.cur.core 0)) s.cur.core true) f
  rw [← hf] at hk
  obtain ⟨d, hd⟩ := marksKill_core (s.updMe fun x => x) s.cur.core (killRecordOf r s.cur.core 0)
  have hme : (s.updMe fun x => x).ctx s.cur.core 0 = s.me := by
    rw [← h0]
    exact State.me_updMe s _
  have hcur : (marksKill (s.updMe fun x => x) s.cur.core (killRecordOf r s.cur.core 0)).cur = s.cur := rfl
  rw [hme, hcore] at hd
  generalize marksKill (s.updMe fun x => x) s.cur.core (killRecordOf r s.cur.core 0) = u at *
  have hgu : (u.core s.cur.core).group = some g := by rw [hd]; exact hg
  have htu : tracing (u.core s.cur.core) = false := by rw [hd]; exact htr
  have h0u : mget (u.core s.cur.core).ctxs 0 ≠ none := by
    rw [hd]
    simp
  have hmeu : u.ctx s.cur.core 0 = s.me.notesKill (killRecordOf r s.cur.core 0) := by
    rw [State.ctx, hd]
    exact mgetD_mset_self ..
  obtain ⟨tr, h, q, m, m', hF⟩ := finishGroup_core (killed := true) hgu
  have hslot := finishGroup_ctx_killed hgu htu h0u
  have hcurt := hk.cur.trans ((finishGroup_cur hgu).trans hcur)
  have hmy := hk.cores s.cur.core
  have hspad := (Core.spad_eq_of_untlb hmy).trans ((finishGroup_spad hgu).trans (congrArg Core.spad hd))
  rw [hF] at hmy
  dsimp only
  rw [State.myCore, State.me, hcurt]
  refine ⟨(congrArg Core.group hmy :), (congrArg Core.ready hmy :), ?_, ?_, ?_⟩
  · rw [h0, hk.ctx_eq, hslot, hmeu]
    rfl
  · exact hspad
  · exact finishGroup_liveSlots hgu (hk.cores s.cur.core)

/-- A trap whose word is read takes its length from the scratchpad (R86). -/
theorem takeTrap_takeBanks {s : State} {r : TrapReq} (htr : tracesSlot s.myCore s.cur.slot = false) (hst : s.me.stepping = none)
    (hnote : r.note = .plain) (hl : s.me.tl < 2) (hn : r.ilen = none) (hk : lengthKnown s r.pc = false) :
    takeTrap (takeBanks s s.cur.core 0 [(r.pc, 4)]) s.cur.core s.cur.slot r =
      (takeBanks s s.cur.core 0 [(r.pc, 4)]).updMe fun x =>
        { entered r (lengthOf (memNat s.myCore.spad r.pc 4)) x with notBefore := s.clk s.cur.core + 1 } := by
  obtain ⟨hfetch, hbuf⟩ : fetchable s.myCore r.pc = true ∧ ¬ (r.pc = s.me.pc ∧ 4 ≤ s.me.fbuf.length) := by
    simp [lengthKnown] at hk
    exact ⟨hk.2, fun h => by have := hk.1 h.1.symm; omega⟩
  rw [takeBanks_eq]
  generalize banksOf [(r.pc, 4)] ++ s.myCore.bankUsed = used
  generalize (banksOf [(r.pc, 4)]).foldl (fun m b => mset m b 0) s.myCore.bankLast = last
  have hlen : lengthAt (grants used last s).myCore (grants used last s).me r.pc = lengthOf (memNat s.myCore.spad r.pc 4) := by
    have hfetch' : fetchable { s.myCore with bankUsed := used, bankLast := last } r.pc = true := hfetch
    rw [grants_me, grants_myCore, lengthAt, if_neg hbuf, if_pos hfetch']
  have henter := takeTrap_enters (s := grants used last s) (r := r) (by simpa [tracesSlot, tracing] using htr)
    (by simpa using hst) hnote (by simpa using hl)
  rw [hlen, hn] at henter
  exact henter

/-- Settles O33: a trap is entered below level 2, and kills its context at level 2. -/
theorem trapIsTaken : Obligations.TrapIsTaken := by
  intro s hl hp hh hst htr r ht hnote
  have hread : s.me.readsLength s.myCore r = (r.ilen.isNone && s.me.tl != 2 && !lengthKnown s r.pc) := by
    have hpc : (r.pc == s.me.pc) = (s.me.pc == r.pc) := BEq.comm
    simp [Ctx.readsLength, lengthKnown, hpc, Bool.and_assoc]
  refine ⟨fun htl n hn => ?_, fun htl hn hk => ?_, fun htl hn hk hu hw hg => ?_, fun htl h0 => ?_, fun htl h0 hg htr' => ?_⟩
  · rw [exec_trapEntry hl hp hh ht (by rw [hread, hn]; rfl), takeTrap_enters htr hst hnote htl, hn]
    rfl
  · rw [exec_trapEntry hl hp hh ht (by rw [hread, hk]; simp), takeTrap_enters htr hst hnote htl, hn]
    rfl
  · have hread' : s.me.readsLength s.myCore r = true := by
      rw [hread, hn, hk]
      simp
      omega
    rw [exec_trapEntry_reads hl hp hh ht hread' hu hw hg, takeTrap_takeBanks htr hst hnote htl hn hk]
  · obtain ⟨hme, hdump, hothers⟩ := helper_killed (r := r) htr hst h0
    rw [exec_trapEntry hl hp hh ht (by rw [hread, htl]; simp), takeTrap_kills hnote htl]
    exact ⟨_, rfl, hme, by rw [hme]; rfl, by rw [hme]; rfl, by rw [hme]; rfl, hdump, hothers⟩
  · obtain ⟨g, hg⟩ := Option.isSome_iff_exists.mp hg
    obtain ⟨hgr, hre, hme, hspad, hlive⟩ := control_killed (r := r) h0 hg htr'
    rw [exec_trapEntry hl hp hh ht (by rw [hread, htl]; simp), takeTrap_kills hnote htl, h0]
    exact ⟨_, rfl, hgr, hre, by rw [hme]; rfl, by rw [hme]; rfl, by rw [hme]; rfl, hspad, hlive⟩

end Sys2Proof.Machine
end

section
/-! PROOFS. The completion of pending instructions (spec/05, R79; spec/06, R152 to R159). A local access that performs at its bank is put
on its pending entry and leaves it in the same clock, so that it ends as a value that had come would. -/

namespace Sys2Proof.Machine

/-! The landing of a value (R79). -/

theorem Ctx.setX_pend (x : Ctx) (r : Fin 48) (w : Word) : (x.setX r w).pend = x.pend := by
  unfold Ctx.setX
  split <;> rfl

theorem mayLand_due {s : State} {p : Pend} (h : mayLand p s = true) : decide (p.due ≤ s.clk s.cur.core) = true :=
  (Bool.and_eq_true_iff.mp h).1

/-- A pending instruction that may land writes no port. -/
theorem mayLand_dst {s : State} {p : Pend} (h : mayLand p s = true) :
    p.dst = .none ∨ (∃ r, p.dst = .s (.x r)) ∨ ∃ r, p.dst = .v (.v r) := by
  have hdst := (Bool.and_eq_true_iff.mp h).2
  split at hdst
  · rename_i hd
    exact .inl hd
  · rename_i r hd
    exact .inr (.inl ⟨r, hd⟩)
  · rename_i r hd
    exact .inr (.inr ⟨r, hd⟩)
  · cases hdst

theorem writePend_of_mayLand {s : State} {p : Pend} (h : mayLand p s = true) (v : VWord) :
    writePend s s.cur.core s.cur.slot p v = s.updMe (lands p v) := by
  rcases mayLand_dst h with hd | ⟨r, hd⟩ | ⟨r, hd⟩ <;> simp only [writePend, hd]
  · exact State.updMe_congr (by simp only [lands, hd])
  · exact (State.updMe_updMe ..).trans (State.updMe_congr (by simp only [lands, hd, Ctx.setX_pend]))
  · exact (State.updMe_updMe ..).trans (State.updMe_congr (by simp only [lands, hd, Ctx.setV]))

theorem pendReady_of_mayLand {s : State} {p : Pend} {v : VWord} (h : mayLand p s = true) (hr : p.res = some (.value v)) :
    pendReady s s.cur.core s.cur.slot p = true := by
  rw [pendReady, mayLand_due h, hr]
  rcases mayLand_dst h with hd | ⟨r, hd⟩ | ⟨r, hd⟩ <;> simp only [hd, Bool.and_true]

theorem completeEvent_lands {s : State} {p : Pend} {v : VWord} {sel : PendKind → Bool} (hf : findPend s.me s.cur.id = some p)
    (hr : p.res = some (.value v)) (h : mayLand p s = true) (hk : sel p.kind = true) :
    completeEvent sel s = .next (s.updMe (lands p v)) := by
  simp only [completeEvent, hf, hr, hk, pendReady_of_mayLand h hr, completePend, writePend_of_mayLand h]
  rfl

theorem pendingCompletes : Clause.PendingCompletes := by
  intro s p hf v hr h
  rw [show exec .divideComplete s = completeEvent (· == .divide) s from rfl,
    show exec .approximationComplete s = completeEvent (fun k => k == .approx) s from rfl]
  refine ⟨fun hk => ?_, fun hk => ?_, fun a key hk => ?_, fun ms hk hm => ?_⟩
  · exact completeEvent_lands hf hr h (by rw [hk]; rfl)
  · exact completeEvent_lands hf hr h (by rw [hk]; rfl)
  · rw [show exec .localLoadComplete s = execLocalLoadComplete s from rfl]
    simp only [execLocalLoadComplete, hf, hk, hr, pendReady_of_mayLand h hr, completePend, writePend_of_mayLand h]
    rfl
  · rw [show exec .remoteLoadComplete s = execRemoteLoadComplete s from rfl]
    simp only [execRemoteLoadComplete, hm]
    exact completeEvent_lands hf hr h (by rw [hk])

/-! A local access that performs and completes in one clock (R152). -/

theorem findPend_id {x : Ctx} {id : Nat} {p : Pend} (h : findPend x id = some p) : p.id = id := by
  simpa using List.find?_some h

theorem findPend_updWhere {x : Ctx} {id : Nat} {p : Pend} (h : findPend x id = some p) (r : PendRes) :
    findPend { x with pend := updWhere (·.id == p.id) (fun q => { q with res := some r }) x.pend } p.id =
      some { p with res := some r } := by
  have hid := findPend_id h
  subst hid
  rw [findPend, updWhere, List.find?_map]
  have hcomp : (fun q : Pend => q.id == p.id) ∘ (fun q => if (q.id == p.id) = true then { q with res := some r } else q) =
      fun q => q.id == p.id := by
    funext q
    dsimp only [Function.comp]
    split <;> rfl
  rw [hcomp, show x.pend.find? (fun q => q.id == p.id) = some p from h]
  simp

/-- A pending entry that leaves is the same whatever outcome it has. -/
theorem filter_updWhere (id : Nat) (r : PendRes) (l : List Pend) :
    (updWhere (·.id == id) (fun q => { q with res := some r }) l).filter (fun q => q.id != id) = l.filter fun q => q.id != id := by
  induction l with
  | nil => rfl
  | cons q l ih =>
    rw [updWhere, List.map_cons]
    by_cases hq : q.id = id
    · simpa [hq, updWhere] using ih
    · simpa [hq, updWhere] using ih

theorem lands_updWhere (p : Pend) (v : VWord) (r : PendRes) (x : Ctx) :
    lands { p with res := some r } v { x with pend := updWhere (·.id == p.id) (fun q => { q with res := some r }) x.pend } =
      lands p v x := by
  have hfilter := filter_updWhere p.id r x.pend
  unfold lands
  cases p.dst with
  | none => simp only [hfilter]
  | s d => cases d with
    | x r =>
      by_cases hr : r.val = 0
      · simp only [Ctx.setX, hr, if_true, hfilter]
      · simp only [Ctx.setX, hr, if_false, hfilter]
    | port q => simp only [hfilter]
  | v d => cases d with
    | v r => simp only [Ctx.setV, hfilter]
    | port q => simp only [hfilter]

theorem finishAcc_value {s : State} {p : Pend} {v : VWord} (hf : findPend s.me p.id = some p) (h : mayLand p s = true) :
    finishAcc s s.cur.core s.cur.slot p (.value v) = s.updMe (lands p v) := by
  have hset : setPendRes s s.cur.core s.cur.slot p.id (.value v) =
      s.updMe fun x => { x with pend := updWhere (·.id == p.id) (fun q => { q with res := some (.value v) }) x.pend } := rfl
  unfold finishAcc
  dsimp only
  rw [hset]
  generalize hu : s.updMe _ = u
  have hcur : u.cur = s.cur := by rw [← hu]; rfl
  have hq : findPend u.me p.id = some { p with res := some (.value v) } := by
    rw [← hu, State.me_updMe]
    exact findPend_updWhere hf _
  have hland : mayLand { p with res := some (.value v) } u = true := by rw [← hu]; exact h
  rw [← hcur, show u.ctx u.cur.core u.cur.slot = u.me from rfl, hq]
  simp only [pendReady_of_mayLand hland rfl, completePend, writePend_of_mayLand hland, if_true]
  rw [← hu, State.updMe_updMe]
  exact State.updMe_congr (lands_updWhere ..)

/-! The performance of a local access that nothing holds back (R144, R152). -/

theorem foldl_spadCheck_of_quietCore {s : State} (h : quietCore s = true) (ps : List (Nat × Nat)) :
    ps.foldl (fun (r : Bool × State) q =>
      let (ok, s') := spadCheck r.2 s.cur.core q.1 q.2
      (r.1 && ok, s')) (true, s) = (true, s) := by
  induction ps with
  | nil => rfl
  | cons q ps ih => simpa [spadCheck_of_quietCore h] using ih

theorem accDue_of_turnComes {s : State} {p : Pend} (a : LocalAcc)
    (h : (!earlierLocal s s.cur.core s.cur.slot p.id true && s.myCore.chans.all (fun c => c.2.wm == none)) = true) :
    accDue s s.cur.core s.cur.slot p a = true := by
  simp only [Bool.and_eq_true, List.all_eq_true, beq_iff_eq] at h
  obtain ⟨hearlier, hwm⟩ := h
  have hblock (a n : Nat) : wmBlocks (s.core s.cur.core) none a n = false :=
    List.any_eq_false.mpr fun c hc => by simp [hwm c hc]
  simp [accDue, hearlier, hblock]

section
variable {s : State} (hq : quietCore s = true)
include hq

theorem performAcc_checks (ps : List (Nat × Nat)) :
    ps.foldl (fun (r : Bool × State) q =>
      let (ok, s') := spadCheck r.2 s.cur.core q.1 q.2
      (r.1 && ok, s')) (true, takeBanks s s.cur.core 0 ps) = (true, takeBanks s s.cur.core 0 ps) := by
  rw [takeBanks_eq]
  exact foldl_spadCheck_of_quietCore (s := grants _ _ s) (by simpa using hq) ps

theorem performAcc_load (n size : Nat) (sgn : Bool) (act : FeAct) :
    performAcc s s.cur.core (.load n size sgn act) =
      (.value (extend (memNat s.myCore.spad n size) size sgn),
        if act = .fec then setEmpty (takeBanks s s.cur.core 0 [(n, size)]) s.cur.core (n / 16)
        else takeBanks s s.cur.core 0 [(n, size)]) := by
  have hspad : ((takeBanks s s.cur.core 0 [(n, size)]).core s.cur.core).spad = s.myCore.spad := by
    rw [takeBanks, State.core_updCore_self]
    rfl
  simp only [performAcc, accPieces, performAcc_checks hq, hspad]
  rfl

theorem performAcc_lde {ptr : Word} {f : EFmt} (hf : ptrE ptr = some f) (index : Nat) :
    let l := elementLoc f (ptrBlog ptr) (ptrAddr ptr) index
    performAcc s s.cur.core (.lde ptr index) =
      (.value (elementValue f (elementCode s.myCore.spad f l).1 (elementCode s.myCore.spad f l).2),
        takeBanks s s.cur.core 0 (elementPieces f l)) := by
  have hspad (ps : List (Nat × Nat)) : ((takeBanks s s.cur.core 0 ps).core s.cur.core).spad = s.myCore.spad := by
    rw [takeBanks, State.core_updCore_self]
    rfl
  simp only [performAcc, accPieces, hf, performAcc_checks hq, hspad]
  rfl

theorem performAcc_amo (op : AmoOp) (wide : Bool) (n : Nat) (w cmp : Word) :
    let size := if wide then 8 else 4
    let old := memNat s.myCore.spad n size
    performAcc s s.cur.core (.amo op wide n w cmp) =
      (.value (amoOld wide old), spadWrite (takeBanks s s.cur.core 0 [(n, size)]) s.cur.core n
        (natBytes size (amoNew op wide old w.toNat cmp.toNat))) := by
  have hspad (ps : List (Nat × Nat)) : ((takeBanks s s.cur.core 0 ps).core s.cur.core).spad = s.myCore.spad := by
    rw [takeBanks, State.core_updCore_self]
    rfl
  simp only [performAcc, accPieces, performAcc_checks hq, hspad]
  rfl

end

/-- A local access that nothing holds back performs and completes in one clock (R144, R152). -/
theorem exec_localLoadComplete {s u : State} {p : Pend} {a : LocalAcc} {key : Nat} {v : VWord} (hf : findPend s.me s.cur.id = some p)
    (hr : p.res = none) (hl : mayLand p s = true) (ht : turnComes s p = true) (hk : p.kind = .loc a key)
    (hp : performAcc s s.cur.core a = (.value v, u)) (hcur : u.cur = s.cur) (hme : u.me = s.me)
    (hclk : u.clk s.cur.core = s.clk s.cur.core) : exec .localLoadComplete s = .next (u.updMe (lands p v)) := by
  simp only [turnComes, Bool.and_eq_true] at ht
  obtain ⟨⟨⟨hearlier, hwm⟩, hfe⟩, hbanks⟩ := ht
  have hdue := accDue_of_turnComes a (Bool.and_eq_true_iff.mpr ⟨hearlier, hwm⟩)
  have hready : accReady s s.cur.core s.cur.slot p a = true := by
    rw [accReady, hdue]
    exact granted_of_banksFree hbanks 0 _
  have hclk' : decide (p.due ≤ s.clk s.cur.core) = true := mayLand_due hl
  have hland : mayLand p u = true := by rw [mayLand, hcur, hclk]; exact hl
  have hfind : findPend u.me p.id = some p := by rw [hme, findPend_id hf, hf]
  have hfin := finishAcc_value (v := v) hfind hland
  rw [hcur] at hfin
  rw [show exec .localLoadComplete s = execLocalLoadComplete s from rfl]
  simp only [execLocalLoadComplete, hf, hk, hr, hclk', hready, hfe, hp, hfin]
  rfl

/-! The values of loads and atomics (R154 to R156). -/

theorem sextN_eq_toInt {n : Nat} (hn : 0 < n) (x : Nat) : sextN x n = (BitVec.ofNat n x).toInt := by
  have hpow : 2 ^ n = 2 * 2 ^ (n - 1) := by rw [← pow_succ']; congr 1; omega
  rw [BitVec.toInt_eq_toNat_cond, BitVec.toNat_ofNat, sextN]
  split <;> split <;> omega

theorem extend_eq {size : Nat} (hs : 0 < size) (hs' : size ≠ 16) (raw : Nat) :
    extend raw size true = v128 ((BitVec.ofNat (8 * size) raw).signExtend 64) := by
  rw [extend, if_neg hs', if_pos rfl, sextN_eq_toInt (by omega)]
  rfl

theorem amoNew_eq {n : Nat} {wide : Bool} (hn : n = if wide then 64 else 32) (op : AmoOp) (old v cmp : BitVec n) :
    BitVec.ofNat n (amoNew op wide old.toNat v.toNat cmp.toNat) = atomicNew n op old v cmp := by
  have hpos : 0 < n := by rw [hn]; split <;> decide
  have hsext (x : BitVec n) : sextN x.toNat n = x.toInt := by rw [sextN_eq_toInt hpos, BitVec.ofNat_toNat, BitVec.setWidth_eq]
  have hself (x : BitVec n) : BitVec.ofNat n x.toNat = x := by rw [BitVec.ofNat_toNat, BitVec.setWidth_eq]
  cases op <;> simp only [amoNew, atomicNew, ← hn, hsext, apply_ite (BitVec.ofNat n), hself]
  case add => exact BitVec.eq_of_toNat_eq (by simp)
  case and => exact hself (old &&& v)
  case or => exact hself (old ||| v)
  case xor => exact hself (old ^^^ v)
  case minu =>
    rw [show old.toNat.min v.toNat = _ from Nat.min_def]
    simp only [apply_ite (BitVec.ofNat n), hself]
  case maxu =>
    rw [show old.toNat.max v.toNat = _ from (Nat.max_comm ..).trans Nat.max_def]
    simp only [apply_ite (BitVec.ofNat n), hself]
  case cas => simp only [BitVec.toNat_inj]

theorem memNat_memWrite_natBytes (m : Memory) (a k x : Nat) : memNat (memWrite m a (natBytes k x)) a k = x % 2 ^ (8 * k) := by
  induction k generalizing m a x with
  | zero => simp [memNat, Nat.mod_one]
  | succ k ih =>
    have hout : memGet (memWrite (memSet m a (BitVec.ofNat 8 x)) (a + 1) (natBytes k (x / 256))) a = BitVec.ofNat 8 x := by
      rw [memGet_memWrite_out _ _ _ (by omega), memGet_memSet_self]
    rw [natBytes, memWrite, memNat, ih, hout, BitVec.toNat_ofNat, show 8 * (k + 1) = 8 + 8 * k by ring, pow_add, Nat.mod_mul]
    rfl

theorem memNat_of_natBytes (m : Memory) (a k x : Nat) :
    memNat (memWrite m a (natBytes k x)) a k = (BitVec.ofNat (8 * k) x).toNat :=
  (memNat_memWrite_natBytes ..).trans (BitVec.toNat_ofNat ..).symm

theorem natBytes_length (k x : Nat) : (natBytes k x).length = k := by
  induction k generalizing x with
  | zero => rfl
  | succ k ih => rw [natBytes, List.length_cons, ih]

theorem spadWrite_core_self (s : State) (c a : Nat) (bs : List Byte) :
    (spadWrite s c a bs).core c = { s.core c with spad := memWrite (s.core c).spad a bs } := by
  have h := State.core_updCore_self s c fun k => { k with spad := memWrite k.spad a bs }
  unfold spadWrite
  dsimp only
  split
  · exact h
  · exact h

theorem spadWrite_core_ne (s : State) {c j : Nat} (a : Nat) (bs : List Byte) (hj : j ≠ c) : (spadWrite s c a bs).core j = s.core j := by
  have h := State.core_updCore_ne s (fun k => { k with spad := memWrite k.spad a bs }) hj
  unfold spadWrite
  dsimp only
  split
  · exact h
  · exact h

/-- A write to a scratchpad changes no more than cores and the codes of words (R337). -/
theorem spadWrite_frame (s : State) (c a : Nat) (bs : List Byte) :
    ∃ cs us, spadWrite s c a bs = { s with cores := cs, upsets := us } := by
  unfold spadWrite
  dsimp only
  split
  · exact ⟨_, s.upsets, rfl⟩
  · exact ⟨_, _, rfl⟩

/-- An atomic that nothing holds back writes its old value, and its new one to its bytes alone (R156). -/
theorem amo_completes {s : State} {p : Pend} {op : AmoOp} {wide : Bool} {n key : Nat} {w cmp : Word} (hf : findPend s.me s.cur.id = some p)
    (hr : p.res = none) (hl : mayLand p s = true) (ht : turnComes s p = true) (hq : quietCore s = true)
    (hk : p.kind = .loc (.amo op wide n w cmp) key) :
    let size := if wide then 8 else 4
    let old := memNat s.myCore.spad n size
    ∃ t : State, exec .localLoadComplete s = .next t ∧ t.me = lands p (amoOld wide old) s.me ∧
      memNat t.myCore.spad n size = (BitVec.ofNat (8 * size) (amoNew op wide old w.toNat cmp.toNat)).toNat ∧
      (∀ j : Nat, j < n ∨ n + size ≤ j → memGet t.myCore.spad j = memGet s.myCore.spad j) ∧
      (∀ c : Nat, c ≠ s.cur.core → t.core c = s.core c) ∧ t.hbm = s.hbm ∧ t.host = s.host := by
  intro size old
  have hperf : performAcc s s.cur.core (.amo op wide n w cmp) = (.value (amoOld wide old),
      spadWrite (takeBanks s s.cur.core 0 [(n, size)]) s.cur.core n (natBytes size (amoNew op wide old w.toNat cmp.toNat))) :=
    performAcc_amo hq op wide n w cmp
  obtain ⟨cs, us, hframe⟩ := spadWrite_frame (takeBanks s s.cur.core 0 [(n, size)]) s.cur.core n
    (natBytes size (amoNew op wide old w.toNat cmp.toNat))
  have hcore := spadWrite_core_self (takeBanks s s.cur.core 0 [(n, size)]) s.cur.core n
    (natBytes size (amoNew op wide old w.toNat cmp.toNat))
  have hother (c : Nat) (hc : c ≠ s.cur.core) := spadWrite_core_ne (takeBanks s s.cur.core 0 [(n, size)]) n
    (natBytes size (amoNew op wide old w.toNat cmp.toNat)) hc
  generalize spadWrite (takeBanks s s.cur.core 0 [(n, size)]) s.cur.core n _ = u at hperf hframe hcore hother
  rw [takeBanks, State.core_updCore_self] at hcore
  have hcur : u.cur = s.cur := by rw [hframe]; rfl
  have hspad : (u.updMe (lands p (amoOld wide old))).myCore.spad =
      memWrite s.myCore.spad n (natBytes size (amoNew op wide old w.toNat cmp.toNat)) := by
    rw [State.myCore_updMe, State.myCore, hcur, hcore]
    rfl
  have hme : u.me = s.me := by
    rw [State.me, hcur, State.ctx, hcore]
    rfl
  refine ⟨_, exec_localLoadComplete hf hr hl ht hk hperf hcur hme (by rw [hframe]; rfl), ?_, ?_, fun j hj => ?_, fun c hc => ?_, ?_, ?_⟩
  · rw [State.me_updMe, hme]
  · rw [hspad, memNat_of_natBytes]
  · rw [hspad, memGet_memWrite_out _ _ _ (by rwa [natBytes_length])]
  · rw [State.updMe, State.updCtx, hcur, State.core_setCtx_ne _ _ _ hc, hother c hc]
    exact State.core_updCore_ne _ _ hc
  · rw [hframe]; rfl
  · rw [hframe]; rfl

theorem localCompletes : Clause.LocalCompletes := by
  intro key s p hf hr hl ht hq
  have htake (ps : List (Nat × Nat)) (v : VWord) : takeBanks (s.updMe (lands p v)) s.cur.core 0 ps =
      (takeBanks s s.cur.core 0 ps).updMe (lands p v) := by
    rw [takeBanks_eq, ← grants_updMe, show s.cur.core = (s.updMe (lands p v)).cur.core from rfl, takeBanks_eq, State.myCore_updMe]
  refine ⟨fun n size sgn hk hsize => ?_, fun ptr index hk f hptr => ?_, fun op n w cmp hk => ?_, fun op n w cmp hk hw hcmp => ?_⟩
  · intro raw v hs
    have hv : extend raw size sgn = v := by
      cases sgn with
      | false => simp [v, extend]
      | true => exact extend_eq (by omega) (hs rfl) raw
    rw [htake]
    refine exec_localLoadComplete hf hr hl ht hk ?_ rfl ?_ rfl
    · rw [performAcc_load hq, hv]
      rfl
    · rw [takeBanks_eq, grants_me]
  · intro l code block v
    have hpieces : elementPieces f l = (l.byte, l.size) :: (l.metaAt.map fun m => [(m, f.meta)]).getD [] := by
      unfold elementPieces
      split <;> rename_i hm <;> rw [hm] <;> rfl
    have hblock : (elementCode s.myCore.spad f l).2 = block := by
      simp only [elementCode, block]
      cases l.metaAt <;> rfl
    have hv : elementValue f (elementCode s.myCore.spad f l).1 (elementCode s.myCore.spad f l).2 = v := by
      rw [hblock]
      rfl
    rw [htake, ← hpieces]
    refine exec_localLoadComplete hf hr hl ht hk ?_ rfl ?_ rfl
    · rw [← hv]
      exact performAcc_lde hq hptr index
    · rw [takeBanks_eq, grants_me]
  · intro old
    have hold : old.toNat = memNat s.myCore.spad n 8 := Nat.mod_eq_of_lt (memNat_lt _ _ 8)
    have hval : amoOld true (memNat s.myCore.spad n 8) = v128 old := by
      rw [amoOld, if_pos rfl, extend_eq (by decide) (by decide)]
      exact congrArg v128 (BitVec.signExtend_eq _)
    have hnew := amoNew_eq (n := 64) (wide := true) rfl op old w cmp
    obtain ⟨t, hx, hme, hmem, hrest⟩ := amo_completes hf hr hl ht hq hk
    rw [hold] at hnew
    exact ⟨t, hx, hval ▸ hme, hmem.trans (congrArg BitVec.toNat hnew), hrest⟩
  · intro old
    have hold : old.toNat = memNat s.myCore.spad n 4 := Nat.mod_eq_of_lt (memNat_lt _ _ 4)
    have hval : amoOld false (memNat s.myCore.spad n 4) = v128 (old.signExtend 64) := extend_eq (by decide) (by decide) _
    have hnew := amoNew_eq (n := 32) (wide := false) rfl op old (w.setWidth 32) (cmp.setWidth 32)
    obtain ⟨t, hx, hme, hmem, hrest⟩ := amo_completes hf hr hl ht hq hk
    rw [hold, BitVec.toNat_setWidth, BitVec.toNat_setWidth, Nat.mod_eq_of_lt hw, Nat.mod_eq_of_lt hcmp] at hnew
    exact ⟨t, hx, hval ▸ hme, hmem.trans (congrArg BitVec.toNat hnew), hrest⟩

/-! The wait table (R159). -/

theorem State.updCore_updCore (s : State) (c : Nat) (f g : Core → Core) :
    (s.updCore c f).updCore c g = s.updCore c fun k => g (f k) := by
  simp [State.updCore]

theorem fullEmptyServes : Clause.FullEmptyServes := by
  intro key n size act s p hf hk hact hsize hclear hq hbanks hfull hhead v
  have hid := findPend_id hf
  have hdue := accDue_of_turnComes (.load n size false act) hclear
  have hserved : feServed s s.cur.core s.cur.slot p = some (.load n size false act) := by
    have hfull' : isFull s.myCore (n / 16) = true := by simp [isFull, hfull]
    simp only [feServed, hk]
    rw [show s.core s.cur.core = s.myCore from rfl, hfull', feHead, hhead, hdue]
    simp
  have hv : extend (memNat s.myCore.spad n size) size false = BitVec.ofNat 128 (memNat s.myCore.spad n size) := by
    simp [extend]
  rw [show exec .fullEmptyServe s = execFullEmptyServe s from rfl]
  simp only [execFullEmptyServe, hf, hserved, granted_of_banksFree hbanks, if_true, performAcc_load hq, hv]
  rcases hact with rfl | rfl
  · rw [if_neg (by decide)]
    rfl
  · rw [if_pos (show FeAct.fec = .fec from rfl), setEmpty, State.updCore_updCore]
    rfl

/-- Settles O18, clause by clause. -/
theorem pendingEnds : Obligations.PendingEnds := ⟨pendingCompletes, localCompletes, fullEmptyServes⟩

end Sys2Proof.Machine
end

section
/-! PROOFS. Dealing, and the sweeps that end launches (spec/11, R270 to R272, R278). -/

namespace Sys2Proof.Machine

/-! The plain a batch goes to (R271). -/

/-- Of the best plain so far and the next one, the better (R271). -/
def betterPlain (s : State) (b : Option Nat) (p : Nat) : Option Nat :=
  match b with
  | none => some p
  | some q => if freeCount s q < freeCount s p then some p else some q

theorem bestPlain_eq (s : State) (job : Nat) :
    bestPlain s job = ((jobPlains s job).filter fun p => !leaving s job p).foldl (betterPlain s) none := rfl

/-- A plain is the first of those with the most free cores. -/
def leads (s : State) (ps : List Nat) (p : Nat) : Prop :=
  ∃ before after, ps = before ++ p :: after ∧ (∀ q ∈ before, freeCount s q < freeCount s p) ∧ ∀ q ∈ after, freeCount s q ≤ freeCount s p

theorem leads_of_foldl_betterPlain {s : State} {p : Nat} (l : List Nat) (q : Nat) (h : l.foldl (betterPlain s) (some q) = some p) :
    leads s (q :: l) p := by
  induction l generalizing q with
  | nil =>
    obtain rfl := Option.some.inj h
    exact ⟨[], [], rfl, by simp, by simp⟩
  | cons x r ih =>
    rw [List.foldl_cons, betterPlain] at h
    split at h
    · rename_i hlt
      obtain ⟨before, after, heq, hb, ha⟩ := ih x h
      refine ⟨q :: before, after, by rw [heq]; rfl, List.forall_mem_cons.mpr ⟨?_, hb⟩, ha⟩
      cases before with
      | nil => obtain ⟨rfl, -⟩ := List.cons.inj heq; exact hlt
      | cons y b => obtain ⟨rfl, -⟩ := List.cons.inj heq; exact hlt.trans (hb _ List.mem_cons_self)
    · rename_i hle
      obtain ⟨before, after, heq, hb, ha⟩ := ih q h
      cases before with
      | nil =>
        obtain ⟨rfl, rfl⟩ := List.cons.inj heq
        exact ⟨[], x :: r, rfl, by simp, List.forall_mem_cons.mpr ⟨Nat.le_of_not_lt hle, ha⟩⟩
      | cons y b =>
        obtain ⟨rfl, rfl⟩ := List.cons.inj heq
        obtain ⟨hq, hb⟩ := List.forall_mem_cons.mp hb
        exact ⟨q :: x :: b, after, rfl, List.forall_mem_cons.mpr ⟨hq, List.forall_mem_cons.mpr ⟨by omega, hb⟩⟩, ha⟩

theorem bestPlain_leads {s : State} {job p : Nat} (h : bestPlain s job = some p) :
    leads s ((jobPlains s job).filter fun q => !leaving s job q) p := by
  rw [bestPlain_eq] at h
  generalize (jobPlains s job).filter (fun q => !leaving s job q) = ps at *
  cases ps with
  | nil => cases h
  | cons q l => exact leads_of_foldl_betterPlain l q h

/-! The groups of a batch (R274, R295). -/

theorem insertNat_eq (x : Nat) (l : List Nat) : insertNat x l = l.orderedInsert (· ≤ ·) x := by
  induction l with
  | nil => rfl
  | cons y ys ih => rw [insertNat, List.orderedInsert, ih]

theorem sortNat_eq (l : List Nat) : sortNat l = l.insertionSort (· ≤ ·) := by
  induction l with
  | nil => rfl
  | cons x l ih => rw [List.insertionSort_cons, ← ih, ← insertNat_eq]; rfl

theorem sortNat_perm (l : List Nat) : (sortNat l).Perm l := by
  rw [sortNat_eq]
  exact List.perm_insertionSort ..

theorem sortNat_sorted (l : List Nat) : (sortNat l).Pairwise (· ≤ ·) := by
  rw [sortNat_eq]
  exact List.pairwise_insertionSort ..

theorem sortNat_strict {l : List Nat} (h : l.Nodup) : (sortNat l).Pairwise (· < ·) :=
  (sortNat_sorted l).imp₂ (fun _ _ hle hne => Nat.lt_of_le_of_ne hle hne) ((sortNat_perm l).nodup_iff.mpr h)

theorem State.plain_updPlain_ne (s : State) {p q : Nat} (f : Plain → Plain) (h : q ≠ p) : (s.updPlain p f).plain q = s.plain q := by
  simp [State.plain, State.updPlain, mupd, mgetD_mset_ne _ _ _ h]

/-- A plain to which a batch is dealt. -/
def Plain.deals (b : Batch) (x : Plain) : Plain := { x with batches := x.batches ++ [b] }

/-- A batch of a job's next launch enters the plain with the most free cores (R271). -/
theorem exec_batchDeal {j : Job} {n p : Nat} {l l' : Launch} {gs : List Nat} {s : State} (hj : mget s.jobs s.cur.id = some j)
    (hs : j.stopped = false) (hd : dealChoice s s.cur.id = some (n, l)) (hb : bestPlain s s.cur.id = some p) (hf : freeCount s p ≠ 0)
    (ht : takeGroups l (min 64 (min (undealt l) (freeCount s p))) = (gs, l')) :
    ∃ t : State, (exec .batchDeal s = .next t ∧ t.cores = s.cores ∧
      (t.plain p).batches = (s.plain p).batches ++
        [{ prio := l.prio, seq := s.nextId, groups := gs.map fun g => { launch := n, lin := g } }] ∧
      (∀ q : Nat, q ≠ p → (t.plain q).batches = (s.plain q).batches)) ∧ t.launch? n = some l' := by
  rw [show exec .batchDeal s = execBatchDeal s from rfl]
  simp only [execBatchDeal, hj, hd, hb, ht, hs, State.newId]
  refine ⟨_, ⟨event_of (by simp [hf]) _, rfl, ?_, fun q hq => ?_⟩, mget_mset_self ..⟩
  · exact congrArg Plain.batches (State.plain_updPlain_self { s with nextId := s.nextId + 1 } p (Plain.deals _))
  · exact congrArg Plain.batches (State.plain_updPlain_ne { s with nextId := s.nextId + 1 } (Plain.deals _) hq)

section
variable {l : Launch} {k : Nat}

theorem takeGroups_frontier {f : Frontier} (hf : l.frontier = some f) : takeGroups l k =
    ((sortNat f.offered).take k,
      { l with frontier := some { f with offered := (sortNat f.offered).drop k }, running := l.running + k }) := by
  simp only [takeGroups, hf]

theorem takeGroups_returned (hf : l.frontier = none) :
    let back := (sortNat l.returned).take k
    takeGroups l k = (back ++ (List.range (k - back.length)).map (l.next + ·),
      { l with returned := l.returned.filter (!back.contains ·), next := l.next + (k - back.length), running := l.running + k }) := by
  simp only [takeGroups, hf]

end

/-- The groups a batch takes of a launch some of whose groups were returned: those first, in ascending order (R271, R274). -/
def dealt (ret : List Nat) (next k : Nat) : List Nat :=
  (sortNat ret).take k ++ (List.range (k - ((sortNat ret).take k).length)).map (next + ·)

section
variable {ret : List Nat} {next : Nat} (k : Nat)

theorem mem_take_sortNat {x : Nat} (hx : x ∈ (sortNat ret).take k) : x ∈ ret := (sortNat_perm ret).mem_iff.mp (List.mem_of_mem_take hx)

theorem filter_dealt (hlt : ∀ x ∈ ret, x < next) :
    ret.filter (!((sortNat ret).take k).contains ·) = ret.filter (!(dealt ret next k).contains ·) := by
  refine List.filter_congr fun x hx => ?_
  have hnew : x ∉ (List.range (k - ((sortNat ret).take k).length)).map (next + ·) := by
    simp only [List.mem_map, not_exists, not_and]
    intro i _ h
    have := hlt x hx
    omega
  rw [List.contains_eq_mem, List.contains_eq_mem, dealt]
  simp only [List.mem_append, hnew, or_false]

theorem dealt_spec (hnd : ret.Nodup) (hlt : ∀ x ∈ ret, x < next) :
    (dealt ret next k).length = k ∧ (dealt ret next k).Pairwise (· < ·) ∧ (∀ x ∈ dealt ret next k, x < next → x ∈ ret) ∧
    (∀ x ∈ ret, x ∉ dealt ret next k → ∀ y ∈ dealt ret next k, y < x) ∧
    (dealt ret next k).filter (next ≤ ·) = (List.range (k - ((sortNat ret).take k).length)).map (next + ·) := by
  have hord := sortNat_strict hnd
  have hnew (more : Nat) : ∀ y ∈ (List.range more).map (next + ·), next ≤ y := by
    simp only [List.mem_map]
    rintro y ⟨i, -, rfl⟩
    omega
  refine ⟨?_, ?_, fun x hx hxn => ?_, fun x hx hout y hy => ?_, ?_⟩
  · rw [dealt, List.length_append, List.length_map, List.length_range, List.length_take]
    omega
  · refine List.pairwise_append.mpr ⟨hord.sublist (List.take_sublist ..), ?_, fun x hx y hy => ?_⟩
    · rw [List.pairwise_map]
      exact List.pairwise_lt_range.imp (by omega)
    · exact (hlt x (mem_take_sortNat k hx)).trans_le (hnew _ y hy)
  · rcases List.mem_append.mp hx with hx | hx
    · exact mem_take_sortNat k hx
    · exact absurd (hnew _ x hx) (by omega)
  · have hsplit := hord
    rw [← List.take_append_drop k (sortNat ret), List.pairwise_append] at hsplit
    obtain ⟨-, -, hcross⟩ := hsplit
    have hdrop : x ∈ (sortNat ret).drop k := by
      have hmem := (sortNat_perm ret).mem_iff.mpr hx
      rw [← List.take_append_drop k (sortNat ret)] at hmem
      exact (List.mem_append.mp hmem).resolve_left fun h => hout (List.mem_append_left _ h)
    have hfull : k - ((sortNat ret).take k).length = 0 := by
      have := List.length_pos_of_mem hdrop
      rw [List.length_drop] at this
      rw [List.length_take]
      omega
    rw [dealt, hfull] at hy
    exact hcross y (by simpa using hy) x hdrop
  · rw [dealt, List.filter_append, List.filter_eq_nil_iff.mpr, List.nil_append, List.filter_eq_self.mpr]
    · exact fun y hy => decide_eq_true (hnew _ y hy)
    · intro x hx
      have := hlt x (mem_take_sortNat k hx)
      simp
      omega

end

theorem batchDeals : Clause.BatchDeals := by
  intro j n p l s hj hs hd hb hf left k deals
  have hk : min 64 (min (undealt l) (freeCount s p)) = k := rfl
  have hdeal (gs : List Nat) (l' : Launch) (ht : takeGroups l k = (gs, l')) : ∃ t, deals gs t ∧ t.launch? n = some l' :=
    exec_batchDeal hj hs hd hb hf (hk ▸ ht)
  refine ⟨bestPlain_leads hb, fun f hfr => ?_, fun hfr hret => ?_, fun hfr hnd hlt => ?_⟩
  · obtain ⟨t, ht, hl⟩ := hdeal _ _ (takeGroups_frontier hfr)
    have hle : k ≤ f.offered.length := by
      have : left = f.offered.length := by simp only [left, hfr]
      omega
    refine ⟨t, _, (sortNat f.offered).drop k, ht, ?_, ?_, ?_, hl⟩
    · rw [List.length_take, (sortNat_perm _).length_eq, Nat.min_eq_left hle]
    · rw [List.take_append_drop]
      exact sortNat_perm _
    · rw [List.take_append_drop]
      exact sortNat_sorted _
  · have ht := takeGroups_returned (k := k) hfr
    obtain ⟨t, ht, hl⟩ := hdeal _ _ ht
    simp only [hret, sortNat, List.foldr_nil, List.take_nil, List.length_nil, Nat.sub_zero, List.nil_append,
      List.filter_nil] at ht hl
    exact ⟨t, ht, by rw [hl, ← hret]⟩
  · obtain ⟨t, ht, hl⟩ := hdeal _ _ (takeGroups_returned hfr)
    obtain ⟨hlen, hord, hback, hfirst, hmore⟩ := dealt_spec k hnd hlt
    refine ⟨t, _, ht, hlen, hord, hback, hfirst, _, hmore, ?_⟩
    rw [hl, filter_dealt k hlt]
    rfl

theorem gangReleases : Clause.GangReleases := by
  intro s hid hne hall
  refine event_of ?_ _
  have hall' : (gangMembers s s.cur.id).all (fun p => undealt p.2 == 0 && !p.2.started && !jobHeld s p.2.job) = true := by
    refine List.all_eq_true.mpr fun p hp => ?_
    obtain ⟨hu, hst, hh⟩ := hall p hp
    simp [hu, hst, hh]
  simp [hid, hne, hall']

theorem coreFrees : Clause.CoreFrees := by
  intro s hg hr hi
  have hon : ((s.core s.cur.core).group.isNone && !(s.core s.cur.core).ready && coreIdle (s.core s.cur.core)) = true := by
    rw [State.myCore] at hg hr hi
    simp [hg, hr, hi]
  exact event_of hon _

/-! The sweep (R278). -/

/-- A die of a sweep that begins, and the time at which it will be read. -/
def duesDie (r : Map Nat × State) (d : Nat) : Map Nat × State :=
  (mset r.1 d (r.2.now + (r.2.fresh 15).1 % (2047 * Config.grainsPerCount)), (r.2.fresh 15).2)

/-- A sweep that begins with its reading times (R278). -/
def Sweep.fresh (due : Map Nat) (s : State) : Sweep := { due := due, found := (sweptLaunches s).map fun p => (p.1, (true, 0, 0)) }

theorem beginSweep_eq (s : State) : beginSweep s =
    { ((List.range 12).foldl duesDie ([], s)).2 with
      sweep := some (.fresh ((List.range 12).foldl duesDie ([], s)).1 ((List.range 12).foldl duesDie ([], s)).2) } := rfl

/-- A die is read within the 2,048 counts of a sweep that begins. -/
def duesWithin (now : Nat) (m : Map Nat) (d : Nat) : Prop :=
  ∃ due, mget m d = some due ∧ now ≤ due ∧ due < now + 2048 * Config.grainsPerCount

theorem duesDie_within (r : Map Nat × State) (d : Nat) {e : Nat} (h : e = d ∨ duesWithin r.2.now r.1 e) :
    duesWithin r.2.now (duesDie r d).1 e := by
  by_cases he : e = d
  · have hlt : (r.2.fresh 15).1 % (2047 * Config.grainsPerCount) < 2047 * Config.grainsPerCount := Nat.mod_lt _ (by decide)
    subst he
    refine ⟨_, mget_mset_self .., Nat.le_add_right .., ?_⟩
    omega
  · obtain ⟨due, hm, hb⟩ := h.resolve_left he
    exact ⟨due, (mget_mset_ne _ _ he).trans hm, hb⟩

theorem foldl_duesDie (l : List Nat) (r : Map Nat × State) : (∃ n, (l.foldl duesDie r).2 = { r.2 with free := n }) ∧
    ∀ d, d ∈ l ∨ duesWithin r.2.now r.1 d → duesWithin r.2.now (l.foldl duesDie r).1 d := by
  induction l generalizing r with
  | nil => exact ⟨⟨r.2.free, rfl⟩, fun d hd => hd.resolve_left List.not_mem_nil⟩
  | cons x l ih =>
    obtain ⟨⟨n, hn⟩, hd⟩ := ih (duesDie r x)
    refine ⟨⟨n, hn⟩, fun d h => hd d ?_⟩
    rcases h with h | h
    · rcases List.mem_cons.mp h with rfl | h
      · exact .inr (duesDie_within r d (.inl rfl))
      · exact .inl h
    · exact .inr (duesDie_within r x (.inr h))

theorem sweepBegins {s : State} (hw : s.sweep = none) (hk : s.sweepAt < s.ptime / 2048) :
    ∃ t w, exec .sweep s = .next t ∧ t.sweep = some w ∧ t.sweepAt = s.ptime / 2048 ∧ t.launches = s.launches ∧ t.cores = s.cores ∧
      (∀ d : Nat, d < 12 → ∃ due, mget w.due d = some due ∧ s.now ≤ due ∧ due < s.now + 2048 * Config.grainsPerCount) ∧
      w.found = (s.launches.filter fun p => !launchStopped s p.2).map fun p => (p.1, (true, 0, 0)) := by
  obtain ⟨⟨n, hs⟩, hdue⟩ := foldl_duesDie (List.range 12) ([], { s with sweepAt := s.ptime / 2048 })
  have hexec : exec .sweep s = .next (beginSweep { s with sweepAt := s.ptime / 2048 }) := by
    rw [show exec .sweep s = execSweep s from rfl]
    simp only [execSweep, hw]
    exact event_of (decide_eq_true hk) _
  rw [beginSweep_eq, hs] at hexec
  exact ⟨_, _, hexec, rfl, rfl, rfl, rfl, fun d hd => hdue d (.inl (List.mem_range.mpr hd)), rfl⟩

/-- What a sweep knows of a launch after it has read a die. -/
def Sweep.reads (s : State) (d : Nat) (p : Nat × Bool × Nat × Nat) : Nat × Bool × Nat × Nat :=
  match s.launch? p.1 with
  | some l => (p.1, (p.2.1 && idleAt s d p.1 l, p.2.2.1 + mgetD l.sent d 0, p.2.2.2 + mgetD l.recv d 0))
  | none => p

theorem readSweep_eq (s : State) (w : Sweep) (d : Nat) :
    readSweep s w d = { due := mdel w.due d, found := w.found.map (Sweep.reads s d) } := rfl

theorem Sweep.reads_fst (s : State) (d : Nat) (p : Nat × Bool × Nat × Nat) : (Sweep.reads s d p).1 = p.1 := by
  unfold Sweep.reads
  split <;> rfl

theorem sweepReads {s : State} {w : Sweep} {d due : Nat} {rest : Map Nat} (hw : s.sweep = some w) (hd : w.due = (d, due) :: rest)
    (hdue : due ≤ s.now) : ∃ v : Sweep, exec .sweep s = .next { s with sweep := some v } ∧ v.due = mdel w.due d ∧
      v.found.map Prod.fst = w.found.map Prod.fst ∧
      ∀ (n a b : Nat) (i : Bool) (l : Launch), (n, (i, a, b)) ∈ w.found → s.launch? n = some l →
        (n, (i && idleAt s d n l, a + mgetD l.sent d 0, b + mgetD l.recv d 0)) ∈ v.found := by
  have hfind : w.due.find? (fun p => decide (p.2 ≤ s.now)) = some (d, due) := by
    rw [hd]
    exact List.find?_cons_of_pos (decide_eq_true hdue)
  refine ⟨readSweep s w d, ?_, rfl, ?_, fun n a b i l hn hl => ?_⟩
  · rw [show exec .sweep s = execSweep s from rfl]
    simp only [execSweep, hw, hfind]
  · rw [readSweep_eq, List.map_map]
    exact List.map_congr_left fun p _ => Sweep.reads_fst s d p
  · have hread : Sweep.reads s d (n, (i, a, b)) = (n, (i && idleAt s d n l, a + mgetD l.sent d 0, b + mgetD l.recv d 0)) := by
      simp only [Sweep.reads, hl]
    rw [readSweep_eq, ← hread]
    exact List.mem_map_of_mem hn

/-! The end of a launch (R266, R278). -/

theorem northPut_of_northAt {s : State} {job addr pa : Nat} (v : Nat) (ha : addr % 64 = 0) (h : northAt s job (addr + 56) pa) :
    northPut s job (addr + 56) 8 v = (true, hbmWrite s pa (natBytes 8 v)) := by
  obtain ⟨hheld, hup, hreg, hx⟩ := h
  have hin : inPage (addr + 56) 8 = 8 := by
    simp only [inPage, levelSize]
    omega
  obtain ⟨e, he, hleaf⟩ := Option.map_eq_some_iff.mp hx
  have hlook : tlbLook s (lastUnit 10) (unitPlain s 10).tlb job (addr + 56) = some e := by
    simp [tlbLook, he, tlbParity, upsetAt, hup]
  have hplace : northPlace s job (addr + 56) = (some pa, s) := by
    simp only [northPlace, freeXlate, hlook, hleaf, hreg, if_true]
  simp only [northPut, hplace, hin, if_true]

/-- The machine after a write of the north pass die to device memory: of its launches and its translations nothing has changed. -/
theorem hbmWrite_frame (s : State) (pa : Nat) (bs : List Byte) : (hbmWrite s pa bs).launches = s.launches ∧
    (hbmWrite s pa bs).held = s.held ∧ (hbmWrite s pa bs).hbm = memWrite s.hbm pa bs := ⟨rfl, rfl, rfl⟩

theorem reportW7_of_northAt {s : State} {job addr pa : Nat} (v : Nat) (queued : Bool) (ha : addr % 64 = 0)
    (h : northAt s job (addr + 56) pa) : (reportW7 s job addr v queued).launches = s.launches ∧
      (reportW7 s job addr v queued).held = s.held ∧ (reportW7 s job addr v queued).hbm = memWrite s.hbm pa (natBytes 8 v) := by
  have hwrite := hbmWrite_frame s pa (natBytes 8 v)
  simp only [reportW7, writeW7, ha, if_true, northPut_of_northAt v ha h]
  generalize hbmWrite s pa (natBytes 8 v) = u at *
  split
  · exact hwrite
  · exact hwrite

theorem reportW7_keepsCores (s : State) (job addr v : Nat) (queued : Bool) : KeepsCores s (reportW7 s job addr v queued) := by
  have hw : KeepsCores s (writeW7 s job addr v).2 := by
    unfold writeW7
    split
    · exact northPut_keepsCores ..
    · exact .refl s
  unfold reportW7
  dsimp only
  split
  · exact hw.trans (.of_eq rfl rfl rfl)
  · exact hw

/-- A launch that ends is no longer live, and its frontier's image and store are those of its home (R298). -/
theorem endLaunch_frame (s : State) (n : Nat) (l : Launch) :
    let u := reportW7 s l.job l.addr (n + 2 * 2 ^ 16 + l.killed % 2 ^ 16 * 2 ^ 32) l.queued
    (endLaunch s n l).launches = mdel u.launches n ∧ (endLaunch s n l).held = u.held ∧ (endLaunch s n l).hbm = u.hbm ∧
      KeepsCores u (endLaunch s n l) := by
  unfold endLaunch
  dsimp only
  generalize reportW7 s l.job l.addr _ l.queued = u
  cases l.frontier with
  | none => exact ⟨rfl, rfl, rfl, .of_eq rfl rfl rfl⟩
  | some f =>
    dsimp only
    cases f.home with
    | none => exact ⟨rfl, rfl, rfl, .of_eq rfl rfl rfl⟩
    | some p => exact ⟨rfl, rfl, rfl, .of_eq rfl rfl rfl⟩

theorem endLaunch_keepsCores (s : State) (n : Nat) (l : Launch) : KeepsCores s (endLaunch s n l) := by
  obtain ⟨-, -, -, hk⟩ := endLaunch_frame s n l
  exact (reportW7_keepsCores ..).trans hk

theorem KeepsCores.sameSpads {s t : State} (h : KeepsCores s t) : sameSpads s t := fun c => Core.spad_eq_of_untlb (h.cores c)

theorem endLaunch_of_northAt {s : State} {n pa : Nat} {l : Launch} (ha : l.addr % 64 = 0) (h : northAt s l.job (l.addr + 56) pa)
    (hn : n < 2 ^ 16) : (endLaunch s n l).launches = mdel s.launches n ∧ (endLaunch s n l).held = none ∧
      putsWord pa (n + 2 * 2 ^ 16 + l.killed % 2 ^ 16 * 2 ^ 32) s (endLaunch s n l) := by
  have hlt : n + 2 * 2 ^ 16 + l.killed % 2 ^ 16 * 2 ^ 32 < 2 ^ (8 * 8) := by omega
  obtain ⟨hlive, hheld, hhbm, -⟩ := endLaunch_frame s n l
  generalize n + 2 * 2 ^ 16 + l.killed % 2 ^ 16 * 2 ^ 32 = v at *
  obtain ⟨hlive', hheld', hhbm'⟩ := reportW7_of_northAt v l.queued ha h
  refine ⟨by rw [hlive, hlive'], by rw [hheld, hheld', h.1], ?_, fun j hj => ?_⟩
  · rw [hhbm, hhbm', memNat_memWrite_natBytes, Nat.mod_eq_of_lt hlt]
  · rw [hhbm, hhbm', memGet_memWrite_out _ _ _ (by rwa [natBytes_length])]

theorem sweepCloses {s : State} {w : Sweep} {n a b : Nat} {i : Bool} {l : Launch} (hw : s.sweep = some w) (hd : w.due = [])
    (hf : w.found = [(n, (i, a, b))]) (hl : s.launches = [(n, l)]) : ∃ t : State, exec .sweep s = .next t ∧ t.sweep = none ∧ sameSpads s t ∧
      (i = true → a = b → (l.sweepSent = some a → ∀ pa : Nat, l.addr % 64 = 0 → northAt s l.job (l.addr + 56) pa → n < 2 ^ 16 →
          t.launches = [] ∧ putsWord pa (n + 2 * 2 ^ 16 + l.killed % 2 ^ 16 * 2 ^ 32) s t) ∧
        (l.sweepSent ≠ some a → t.launches = [(n, { l with sweepSent := some a })])) ∧
      (i = false ∨ a ≠ b → t.launches = [(n, { l with sweepSent := none })]) := by
  have hexec : exec .sweep s = .next (sweepLaunch { s with sweep := none } n i a b) := by
    rw [show exec .sweep s = execSweep s from rfl]
    simp only [execSweep, hw, hd, List.find?_nil, closeSweep, hf, List.foldl_cons, List.foldl_nil]
    rfl
  have hlive : State.launch? { s with sweep := none } n = some l := by simp [State.launch?, hl, mget]
  have hset (f : Launch → Launch) : State.updLaunch { s with sweep := none } n f = { s with sweep := none, launches := [(n, f l)] } := by
    simp [State.updLaunch, hl, mget, mset]
  refine ⟨_, hexec, ?_⟩
  unfold sweepLaunch
  rw [hlive]
  dsimp only
  rw [hset, hset]
  by_cases hidle : (i && a == b) = true
  · obtain ⟨rfl, hab⟩ := Bool.and_eq_true_iff.mp hidle
    obtain rfl := beq_iff_eq.mp hab
    rw [if_pos hidle]
    have hdiff : ¬ (true = false ∨ a ≠ a) := by simp
    by_cases hsent : l.sweepSent = some a
    · rw [if_pos hsent]
      have hkeeps := endLaunch_keepsCores { s with sweep := none } n l
      split
      · rename_i hheld
        refine ⟨rfl, fun _ => rfl, fun _ _ => ⟨fun _ pa ha hat hn => ?_, fun h => absurd hsent h⟩, fun h => absurd h hdiff⟩
        obtain ⟨-, hnone, -⟩ := endLaunch_of_northAt (s := { s with sweep := none }) ha hat hn
        rw [hnone] at hheld
        cases hheld
      · refine ⟨hkeeps.sweep, fun c => hkeeps.sameSpads c, fun _ _ => ⟨fun _ pa ha hat hn => ?_, fun h => absurd hsent h⟩,
          fun h => absurd h hdiff⟩
        obtain ⟨hlive', -, hputs⟩ := endLaunch_of_northAt (s := { s with sweep := none }) ha hat hn
        exact ⟨hlive'.trans (by simp [hl, mdel]), hputs⟩
    · rw [if_neg hsent]
      exact ⟨rfl, fun _ => rfl, fun _ _ => ⟨fun h => absurd h hsent, fun _ => rfl⟩, fun h => absurd h hdiff⟩
  · rw [if_neg hidle]
    refine ⟨rfl, fun _ => rfl, fun hi hab => absurd ?_ hidle, fun _ => rfl⟩
    simp [hi, hab]

theorem sweepEnds : Clause.SweepEnds := fun _ =>
  ⟨sweepBegins, fun _ _ _ _ hw hd hdue => sweepReads hw hd hdue, fun _ _ _ _ _ _ hw hd hf hl _ => sweepCloses hw hd hf hl⟩

end Sys2Proof.Machine
end

section
/-! PROOFS. The start of groups (spec/11, R273 to R275, R286). -/

namespace Sys2Proof.Machine

/-! The parts of a start. -/

/-- The group that a core starts next (R275). -/
def groupFor (s : State) (n lin : Nat) (l : Launch) : Group :=
  { id := s.nextId, launch := n, job := l.job, lin := lin, coord := groupCoord l lin, kind := l.kind }

/-- The codes of a core that the fill of a group start rewrites (R146). -/
def filled (c : Nat) (same : Bool) (u : Upset) : Bool :=
  u.unit == c && (u.kind == 5 || u.kind == 8 || (!same && (u.kind == 1 || u.kind == 6)))

/-- The machine with a core reset for a group (R146). -/
def clears (s : State) (c n lin : Nat) (l : Launch) : State :=
  let k := s.core c
  let u := State.setCore { s with nextId := s.nextId + 2 } c (k.forGroup (groupFor s n lin l) (frstatOf l))
  State.updSquare { u with upsets := u.upsets.filter (!filled c (k.lastJob == l.job) ·) } (coreSquare c)
    fun q => { q with recs := mdel q.recs (coreInSquare c) }

/-- The code image of a launch comes to a core, where it is not the last the core loaded (R275). -/
def bringsImage (s : State) (c : Nat) (l : Launch) : Option (Nat × Nat) × State :=
  if dImageLen l.words = 0 ∨ (s.core c).lastImage = some (dImage l.words, dImageLen l.words) then (none, s)
  else loadImage s c l.job (dImage l.words) (dImageLen l.words)

/-- The trap vectors of a job (R87). -/
def jobVectors (s : State) (job : Nat) : Nat × Nat :=
  match mget s.jobs job with
  | some j => (j.vec1.toNat, j.vec2.toNat)
  | none => (0, 0)

/-- The machine with the control context of a group in its slot (R275). -/
def seats (s : State) (c n gen : Nat) (g : Group) (l : Launch) : State :=
  s.setCtx c 0 (controlCtx (s.ctx c 0) n l g gen (jobVectors s l.job).1 (jobVectors s l.job).2 (s.clk c + 1 + dImageLen l.words))

/-- The machine with the image of a group noted at its core (R275). -/
def notesImage (s : State) (c : Nat) (l : Launch) : State :=
  if dImageLen l.words = 0 then s
  else s.updCore c fun k => { k with lastImage := some (dImage l.words, dImageLen l.words) }

/-- The end of a start, by what came of the image: its group runs, or is killed (R275). -/
def startEnds (gen c n : Nat) (g : Group) (l : Launch) (r : Option (Nat × Nat) × State) : State :=
  match r.1 with
  | some (cause, va) => killCtx (seats r.2 c n gen g l) c 0 { cause := cause, value := wordOf va, pc := dEntry l.words }
  | none => notesImage (seats r.2 c n gen g l) c l

theorem startGroup_eq (s : State) (c n lin : Nat) (l : Launch) : startGroup s c n lin l =
    startEnds (s.nextId + 1) c n (groupFor s n lin l) l (bringsImage (clears s c n lin l) c l) := rfl

/-! The control context (R64, R87, R275). -/

section
variable (old : Ctx) (n : Nat) (l : Launch) (g : Group) (gen vec1 vec2 from_ : Nat)

theorem controlCtx_start : (controlCtx old n l g gen vec1 vec2 from_).status = .live ∧
    (controlCtx old n l g gen vec1 vec2 from_).pc = dEntry l.words ∧ (controlCtx old n l g gen vec1 vec2 from_).mode = .job ∧
    (controlCtx old n l g gen vec1 vec2 from_).tl = 0 ∧ (controlCtx old n l g gen vec1 vec2 from_).step = old.step ∧
    (controlCtx old n l g gen vec1 vec2 from_).notBefore = from_ := ⟨rfl, rfl, rfl, rfl, rfl, rfl⟩

theorem controlCtx_vectors : (controlCtx old n l g gen vec1 vec2 from_).t1.tvec = wordOf (vec1 / 4 * 4 % 2 ^ 52) ∧
    (controlCtx old n l g gen vec1 vec2 from_).t2.tvec = wordOf (vec2 / 4 * 4 % 2 ^ 52) := ⟨rfl, rfl⟩

theorem controlCtx_getX : (controlCtx old n l g gen vec1 vec2 from_).getX 1 =
      wordOf (g.coord.1 + 2 ^ 21 * g.coord.2.1 + 2 ^ 42 * g.coord.2.2) ∧
    (controlCtx old n l g gen vec1 vec2 from_).getX 2 = wordOf (dArgs l.words) ∧
    (controlCtx old n l g gen vec1 vec2 from_).getX 3 = wordOf (n % 2 ^ 16 + 2 ^ 16 * l.kind + 2 ^ 18 * l.member) ∧
    (controlCtx old n l g gen vec1 vec2 from_).getX 4 = wordOf g.lin ∧
    ∀ r : Fin 48, r.val = 0 ∨ 4 < r.val → (controlCtx old n l g gen vec1 vec2 from_).getX r = 0 := by
  unfold controlCtx
  dsimp only
  refine ⟨?_, ?_, ?_, ?_, fun r hr => ?_⟩
  · rw [Ctx.getX_setX_ne _ _ (by decide), Ctx.getX_setX_ne _ _ (by decide), Ctx.getX_setX_ne _ _ (by decide),
      Ctx.getX_setX_self _ _ (by decide)]
  · rw [Ctx.getX_setX_ne _ _ (by decide), Ctx.getX_setX_ne _ _ (by decide), Ctx.getX_setX_self _ _ (by decide)]
  · rw [Ctx.getX_setX_ne _ _ (by decide), Ctx.getX_setX_self _ _ (by decide)]
  · rw [Ctx.getX_setX_self _ _ (by decide)]
  · have hne (k : Fin 48) (hk : 0 < k.val ∧ k.val ≤ 4) : r ≠ k := fun h => by rw [h] at hr; omega
    rw [Ctx.getX_setX_ne _ _ (hne 4 (by decide)), Ctx.getX_setX_ne _ _ (hne 3 (by decide)),
      Ctx.getX_setX_ne _ _ (hne 2 (by decide)), Ctx.getX_setX_ne _ _ (hne 1 (by decide)), Ctx.getX]
    split
    · rfl
    · exact Vector.getElem_replicate ..

end

/-! Where a group starts (R271, R273). -/

theorem squareFree_spec {s : State} {sq c : Nat} (h : squareFree s sq = some c) :
    coreFree s c = true ∧ ∃ n, n < 8 ∧ c = squareCore sq n := by
  obtain ⟨n, hn, rfl⟩ := List.mem_map.mp (List.mem_of_find?_eq_some h)
  exact ⟨List.find?_some h, n, List.mem_range.mp hn, rfl⟩

theorem coreDie_squareCore {p i n : Nat} (hi : i < 256) (hn : n < 8) : coreDie (squareCore (p * 256 + i) n) = p := by
  simp only [coreDie, squareCore, coreAt]
  omega

theorem chooseCore_spec {s : State} {p launch c : Nat} (h : chooseCore s p launch = some c) : coreFree s c = true ∧ coreDie c = p := by
  have hsquare (sq : Nat) (hsq : sq ∈ plainSquares s p) (hc : squareFree s sq = some c) : coreFree s c = true ∧ coreDie c = p := by
    obtain ⟨hsq, -⟩ := List.mem_filter.mp hsq
    obtain ⟨i, hi, rfl⟩ := List.mem_map.mp hsq
    obtain ⟨hfree, n, hn, rfl⟩ := squareFree_spec hc
    exact ⟨hfree, coreDie_squareCore (List.mem_range.mp hi) hn⟩
  unfold chooseCore at h
  dsimp only at h
  split at h
  · rename_i hfound
    obtain rfl := Option.some.inj h
    obtain ⟨sq, hsq, hc⟩ := List.exists_of_findSome?_eq_some hfound
    split at hc
    · exact hsquare sq hsq hc
    · cases hc
  · obtain ⟨sq, hsq, hc⟩ := List.exists_of_findSome?_eq_some h
    exact hsquare sq hsq hc

/-! The parts' effects. -/

section
variable (s : State) (c n lin : Nat) (l : Launch)

theorem clears_core_self : (clears s c n lin l).core c = (s.core c).forGroup (groupFor s n lin l) (frstatOf l) :=
  State.core_setCore_self ..

theorem clears_core_ne {k : Nat} (hk : k ≠ c) : (clears s c n lin l).core k = s.core k :=
  State.core_setCore_ne _ _ hk

/-- The step bits stay with the slots when a core is reset for a group (R224). -/
theorem clears_step (t : Nat) : ((clears s c n lin l).ctx c t).step = (s.ctx c t).step := by
  rw [State.ctx, clears_core_self, State.ctx]
  exact (congrArg Ctx.step
    (mgetD_map_snd (s.core c).ctxs t (fun x : Ctx => { freeCtx with step := x.step }) (d := ({} : Ctx)) rfl) :)

end

/-! GROUP_START. -/

theorem engineGoes_of_held {s t : State} (h : s.held = none → t.held = none) : engineGoes s t = .next t := by
  unfold engineGoes
  cases hs : s.held with
  | none => rw [h hs]; rfl
  | some m => rfl

/-- The machine of a die dispatcher whose head batch gives a group away (R273). -/
def popsGroup (s : State) (p : Nat) (b : Batch) (rest : List GroupReq) : State :=
  s.updPlain p fun x => { x with
    batches := (x.batches.map fun y => if y.seq = b.seq then { y with groups := rest } else y).filter fun y => !y.groups.isEmpty }

theorem exec_groupStart {b : Batch} {g : GroupReq} {rest : List GroupReq} {l : Launch} {j : Job} {c : Nat} {s : State}
    (hb : headBatch s s.cur.id = some b) (hg : b.groups = g :: rest) (hl : s.launch? g.launch = some l) (hj : mget s.jobs l.job = some j)
    (hs : j.stopped = false) (hgang : l.gang = 0 ∨ l.started = true) (hc : chooseCore s s.cur.id g.launch = some c)
    (hp : l.pipes = [] ∨ l.homed = true ∨ l.member ≠ 0 ∨ g.lin ≠ 0 ∨ l.gang = 0) :
    exec .groupStart s = engineGoes (popsGroup s s.cur.id b rest) (startGroup (popsGroup s s.cur.id b rest) c g.launch g.lin l) := by
  have hgo : (l.gang != 0 && !l.started) = false := by rcases hgang with h | h <;> simp [h]
  have hplace : placePipes (popsGroup s s.cur.id b rest) c l g.lin = some (popsGroup s s.cur.id b rest) := by
    refine if_pos ?_
    simp only [firstOfGang, Bool.not_eq_true', Bool.and_eq_false_iff, bne_eq_false_iff_eq, beq_eq_false_iff_ne]
    tauto
  rw [show exec .groupStart s = execGroupStart s from rfl]
  simp only [execGroupStart, hb, hg, hl, hc, hj, hs, hgo, Bool.or_false, Bool.false_eq_true, if_false]
  rw [popsGroup] at hplace ⊢
  rw [hplace]

theorem bringsImage_of_kept {s : State} {c n lin : Nat} {l : Launch} (h : dImageLen l.words = 0 ∨
    (s.core c).lastJob = l.job ∧ (s.core c).lastImage = some (dImage l.words, dImageLen l.words)) :
    bringsImage (clears s c n lin l) c l = (none, clears s c n lin l) := by
  refine if_pos (h.imp id fun ⟨hjob, himage⟩ => ?_)
  rw [clears_core_self, ← himage]
  exact if_pos (beq_iff_eq.mpr hjob)

/-- The machine v is u but for the scratchpad of a core. -/
structure Brought (c : Nat) (sp : Memory) (u v : State) : Prop where
  core : v.core c = { u.core c with spad := sp }
  others : ∀ k, k ≠ c → v.core k = u.core k
  rest : ∃ cs, v = { u with cores := cs }

theorem Brought.refl (c : Nat) (u : State) : Brought c (u.core c).spad u u := ⟨rfl, fun _ _ => rfl, u.cores, rfl⟩

theorem Brought.write {c : Nat} {sp : Memory} {u v : State} (h : Brought c sp u v) (a : Nat) (bs : List Byte) :
    Brought c (memWrite sp a bs) u (v.updCore c fun k => { k with spad := memWrite k.spad a bs }) := by
  obtain ⟨hcore, hothers, cs, hrest⟩ := h
  refine ⟨by rw [State.core_updCore_self, hcore], fun k hk => by rw [State.core_updCore_ne _ _ hk, hothers k hk], ?_⟩
  rw [hrest]
  exact ⟨_, rfl⟩

/-- The machine with a control context seated, and the image of its group noted (R275). -/
theorem notesImage_core (s : State) (c : Nat) (l : Launch) : ∃ im, (notesImage s c l).core c = { s.core c with lastImage := im } ∧
    (dImageLen l.words ≠ 0 → im = some (dImage l.words, dImageLen l.words)) := by
  unfold notesImage
  split
  · rename_i h0
    exact ⟨(s.core c).lastImage, rfl, fun h => absurd h0 h⟩
  · exact ⟨_, State.core_updCore_self .., fun _ => rfl⟩

theorem notesImage_core_ne (s : State) (c : Nat) (l : Launch) {k : Nat} (hk : k ≠ c) : (notesImage s c l).core k = s.core k := by
  unfold notesImage
  split
  · rfl
  · exact State.core_updCore_ne _ _ hk

theorem notesImage_frame (s : State) (c : Nat) (l : Launch) :
    (notesImage s c l).hbm = s.hbm ∧ (notesImage s c l).held = s.held := by
  unfold notesImage
  split <;> exact ⟨rfl, rfl⟩

/-- A core that has started a group (R275), but for its context's registers. -/
structure Started (s t : State) (c n lin : Nat) (l : Launch) (j : Job) (sp : Memory) : Prop where
  group : (t.core c).group = some (groupFor s n lin l)
  ctx : ∃ old gen, old.step = (s.ctx c 0).step ∧ t.ctx c 0 = controlCtx old n l (groupFor s n lin l) gen j.vec1.toNat j.vec2.toNat
    (s.clk c + 1 + dImageLen l.words)
  spad : (t.core c).spad = sp
  image : dImageLen l.words ≠ 0 → (t.core c).lastImage = some (dImage l.words, dImageLen l.words)
  others : ∀ k, k ≠ c → t.core k = s.core k
  hbm : t.hbm = s.hbm
  held : t.held = s.held

theorem started_of_brought {s v : State} {c n lin : Nat} {l : Launch} {j : Job} {sp : Memory} (hj : mget s.jobs l.job = some j)
    (hb : bringsImage (clears s c n lin l) c l = (none, v)) (hv : Brought c sp (clears s c n lin l) v) :
    Started s (startGroup s c n lin l) c n lin l j sp := by
  obtain ⟨hcore, hothers, cs, hrest⟩ := hv
  have hstart : startGroup s c n lin l = notesImage (seats v c n (s.nextId + 1) (groupFor s n lin l) l) c l := by
    rw [startGroup_eq, hb]
    rfl
  have hvec : jobVectors v l.job = (j.vec1.toNat, j.vec2.toNat) := by
    have hjv : mget v.jobs l.job = some j := by rw [hrest]; exact hj
    simp only [jobVectors, hjv]
  have hstep : (v.ctx c 0).step = (s.ctx c 0).step := by
    refine Eq.trans ?_ (clears_step s c n lin l 0)
    rw [State.ctx, hcore]
    rfl
  have hclk : v.clk c = s.clk c := by rw [hrest]; rfl
  obtain ⟨im, him, hlen⟩ := notesImage_core (seats v c n (s.nextId + 1) (groupFor s n lin l) l) c l
  have hseat : (seats v c n (s.nextId + 1) (groupFor s n lin l) l).core c = _ := State.core_setCtx_self ..
  rw [hvec, hclk] at hseat
  obtain ⟨hhbm, hheld⟩ := notesImage_frame (seats v c n (s.nextId + 1) (groupFor s n lin l) l) c l
  rw [clears_core_self] at hcore
  rw [hstart]
  rw [hseat, hcore] at him
  refine ⟨by rw [him]; rfl, ⟨v.ctx c 0, s.nextId + 1, hstep, ?_⟩, by rw [him], fun h => by rw [him, hlen h], fun k hk => ?_, ?_, ?_⟩
  · rw [State.ctx, him]
    exact mgetD_mset_self ..
  · rw [notesImage_core_ne _ _ _ hk, ← clears_core_ne s c n lin l hk, ← hothers k hk]
    exact State.core_setCtx_ne _ _ _ hk
  · rw [hhbm]
    exact (congrArg State.hbm hrest :)
  · rw [hheld]
    exact (congrArg State.held hrest :)

/-! A code image (R275). -/

theorem memRead_length (m : Memory) (a n : Nat) : (memRead m a n).length = n := by
  induction n generalizing a with
  | zero => rfl
  | succ n ih => rw [memRead, List.length_cons, ih]

theorem memRead_getElem? (m : Memory) (a : Nat) {n k : Nat} (hk : k < n) : (memRead m a n)[k]? = some (memGet m (a + k)) := by
  induction n generalizing a k with
  | zero => exact absurd hk (Nat.not_lt_zero k)
  | succ n ih =>
    cases k with
    | zero => rfl
    | succ k => rw [memRead, List.getElem?_cons_succ, ih (a + 1) (by omega), Nat.add_right_comm, Nat.add_assoc]

theorem memGet_memWrite_memRead (m h : Memory) (a pa n : Nat) {k : Nat} (hk : k < n) :
    memGet (memWrite m a (memRead h pa n)) (a + k) = memGet h (pa + k) := by
  have hr := memRead_memWrite m a (memRead h pa n)
  rw [memRead_length] at hr
  have he := congrArg (·[k]?) hr
  simp only [memRead_getElem? _ _ hk] at he
  exact Option.some.inj he

theorem memNat_one (m : Memory) (a : Nat) : memNat m a 1 = (memGet m a).toNat := by simp [memNat]

/-- A step of the copy of a code image, while no read has failed. -/
def loadsUnit (c job image : Nat) (r : Option (Nat × Nat) × State) (i : Nat) : Option (Nat × Nat) × State :=
  match r.1 with
  | some _ => r
  | none =>
    match engXlate r.2 (coreDie c) job (image + 64 * i) .read with
    | (.error _, s) => (some (Cause.translation.code, image + 64 * i), s)
    | (.ok pa, s) =>
      let (ok, s) := hbmCheck s pa 64
      if !ok then (some (Cause.uncorrectable.code, image + 64 * i), s)
      else (none, spadWrite s c (64 * i) (memRead s.hbm pa 64))

theorem loadImage_eq (s : State) (c job image units : Nat) :
    loadImage s c job image units = (List.range units).foldl (loadsUnit c job image) (none, s) := rfl

/-- The translation of a place of an image, as the TLB of the core's die holds it (R316). -/
def imageRead (s : State) (die job va : Nat) : Option (Except (Nat × Nat) Nat) :=
  (tlbFind (unitPlain s die).tlb job va).map fun e => leafCheck s e va .read

theorem engXlate_of_imageRead {s : State} {die job va : Nat} {x : Except (Nat × Nat) Nat} (hu : s.upsets = [])
    (h : imageRead s die job va = some x) : engXlate s die job va .read = (x, s) := by
  obtain ⟨e, he, rfl⟩ := Option.map_eq_some_iff.mp h
  have hlook : tlbLook s (lastUnit die) (unitPlain s die).tlb job va = some e := by
    simp [tlbLook, he, tlbParity, upsetAt, hu]
  simp only [engXlate, hlook]

theorem spadWrite_of_no_upsets {s : State} (h : s.upsets = []) (c a : Nat) (bs : List Byte) :
    spadWrite s c a bs = s.updCore c fun k => { k with spad := memWrite k.spad a bs } :=
  if_pos (show s.upsets.isEmpty = true by rw [h]; rfl)

theorem loadsUnit_of_read {s : State} {c job image i pa : Nat} (hu : s.upsets = [])
    (h : imageRead s (coreDie c) job (image + 64 * i) = some (.ok pa)) :
    loadsUnit c job image (none, s) i = (none, s.updCore c fun k => { k with spad := memWrite k.spad (64 * i) (memRead s.hbm pa 64) }) := by
  have hcheck : hbmCheck s pa 64 = (true, s) := by simp [hbmCheck, hu]
  simp only [loadsUnit, engXlate_of_imageRead hu h, hcheck, spadWrite_of_no_upsets hu]
  rfl

theorem foldl_loadsUnit {u : State} {c job image m : Nat} {pa : Nat → Nat} (hu : u.upsets = [])
    (h : ∀ i, i < m → imageRead u (coreDie c) job (image + 64 * i) = some (.ok (pa i))) :
    ∃ sp v, (List.range m).foldl (loadsUnit c job image) (none, u) = (none, v) ∧ Brought c sp u v ∧
      ∀ i k : Nat, i < m → k < 64 → memGet sp (64 * i + k) = memGet u.hbm (pa i + k) := by
  induction m with
  | zero => exact ⟨_, u, rfl, .refl c u, fun i k hi => absurd hi (Nat.not_lt_zero i)⟩
  | succ m ih =>
    obtain ⟨sp, v, hv, hbrought, hsp⟩ := ih fun i hi => h i (by omega)
    obtain ⟨cs, hrest⟩ := hbrought.rest
    have huv : v.upsets = [] := by rw [hrest]; exact hu
    have hread : imageRead v (coreDie c) job (image + 64 * m) = some (.ok (pa m)) := by rw [hrest]; exact h m (by omega)
    have hhbm : v.hbm = u.hbm := by rw [hrest]
    refine ⟨_, _, ?_, hbrought.write (64 * m) (memRead v.hbm (pa m) 64), fun i k hi hk => ?_⟩
    · rw [List.range_succ, List.foldl_append, hv]
      exact loadsUnit_of_read huv hread
    rw [hhbm]
    by_cases him : i = m
    · subst him
      exact memGet_memWrite_memRead _ _ _ _ _ hk
    · rw [memGet_memWrite_out _ _ _ (by omega), hsp i k (by omega) hk]

/-- A read that has failed ends the copy. -/
theorem foldl_loadsUnit_failed (c job image : Nat) (f : Nat × Nat) (s : State) (l : List Nat) :
    l.foldl (loadsUnit c job image) (some f, s) = (some f, s) := by
  induction l with
  | nil => rfl
  | cons i l ih => exact ih

theorem loadImage_of_failed {u : State} {c job image units : Nat} {f : Nat × Nat} (hu : u.upsets = []) (h0 : units ≠ 0)
    (h : imageRead u (coreDie c) job image = some (.error f)) :
    loadImage u c job image units = (some (Cause.translation.code, image), u) := by
  obtain ⟨m, rfl⟩ := Nat.exists_eq_succ_of_ne_zero h0
  have hx := engXlate_of_imageRead hu h
  have hstep : loadsUnit c job image (none, u) 0 = (some (Cause.translation.code, image), u) := by
    simp only [loadsUnit, Nat.mul_zero, Nat.add_zero, hx]
  rw [loadImage_eq, List.range_succ_eq_map, List.foldl_cons, hstep]
  exact foldl_loadsUnit_failed ..

/-! The kill of a group whose image cannot be read (R275). -/

section
variable {s : State} {c : Nat} {g : Group} (hg : (s.core c).group = some g)
include hg

theorem finishGroup_held (killed : Bool) (hh : s.held = none) : (finishGroup s c killed).held = none := by
  have hrec := traceHelperKills_records s c
  obtain ⟨tr, m', hT⟩ := hrec.core
  have hgT : ((traceHelperKills s c).core c).group = some g := by rw [hT]; exact hg
  obtain ⟨p, n, hd⟩ := dropPipes_frame (endGroup (traceHelperKills s c) c killed) (gangOf s c)
  rw [finishGroup, hd]
  refine Eq.trans ?_ (hrec.held hh)
  change (endGroup (traceHelperKills s c) c killed).held = _
  rw [endGroup_eq hgT, State.updLaunch_held]
  rfl

/-- The control slot of a group that has ended by a kill (R276). -/
theorem finishGroup_killed (hl : (s.ctx c 0).status = .live) : ((finishGroup s c true).ctx c 0).status = .killed := by
  have hrec := traceHelperKills_records s c
  obtain ⟨tr, m', hT⟩ := hrec.core
  have hgT : ((traceHelperKills s c).core c).group = some g := by rw [hT]; exact hg
  have hlT : ((traceHelperKills s c).ctx c 0).status = .live := by
    obtain ⟨hst, -⟩ := Ctx.fields_of_untraced (hrec.ctx 0)
    exact hst.trans hl
  have h0 : mget ((traceHelperKills s c).core c).ctxs 0 ≠ none := fun h => by
    rw [State.ctx, mgetD, h] at hlT
    cases hlT
  obtain ⟨p, n, hd⟩ := dropPipes_frame (endGroup (traceHelperKills s c) c true) (gangOf s c)
  rw [finishGroup, hd]
  refine (congrArg Ctx.status (endGroup_ctx (killed := true) hgT 0 fun _ _ => h0) :).trans ?_
  rfl

theorem finishGroup_no_group (killed : Bool) : ((finishGroup s c killed).core c).group = none := by
  obtain ⟨tr, h, q, m, m', hF⟩ := finishGroup_core (killed := killed) hg
  rw [hF]
  rfl

end

theorem faultTurn_held (s : State) (f : FaultNote) : (faultTurn s f).held = s.held := by
  unfold faultTurn
  dsimp only
  split <;> rfl

theorem Core.group_eq_of_untlb {k k' : Core} (h : k.untlb = k'.untlb) : k.group = k'.group := (congrArg Core.group h :)

/-- A live control context that is killed: its group has ended, and its slot is left killed (R89). -/
theorem killCtx_ends {s : State} {c : Nat} {r : TrapReq} {g : Group} (hg : (s.core c).group = some g)
    (hl : (s.ctx c 0).status = .live) :
    ((killCtx s c 0 r).ctx c 0).status = .killed ∧ ((killCtx s c 0 r).core c).group = none ∧
      (s.held = none → (killCtx s c 0 r).held = none) := by
  have hrec : Records c s (recordsKill s c r) := slotRecord_records ..
  obtain ⟨tr, m, hm⟩ := hrec.core
  have hgR : ((recordsKill s c r).core c).group = some g := by rw [hm]; exact hg
  obtain ⟨f, hf⟩ := killCtx_control hgR
  obtain ⟨d, hd⟩ := marksKill_core (recordsKill s c r) c (killRecordOf r c 0)
  have hgM : ((marksKill (recordsKill s c r) c (killRecordOf r c 0)).core c).group = some g := by rw [hd]; exact hgR
  have hlM : ((marksKill (recordsKill s c r) c (killRecordOf r c 0)).ctx c 0).status = .live := by
    obtain ⟨hst, -⟩ := Ctx.fields_of_untraced (hrec.ctx 0)
    rw [State.ctx, hd, mgetD_mset_self]
    exact hst.trans hl
  have hk := faultTurn_keepsCores (finishGroup (marksKill (recordsKill s c r) c (killRecordOf r c 0)) c true) f
  rw [hf]
  refine ⟨?_, ?_, fun hs => ?_⟩
  · rw [hk.ctx_eq]
    exact finishGroup_killed hgM hlM
  · exact (Core.group_eq_of_untlb (hk.cores c)).trans (finishGroup_no_group hgM true)
  · rw [faultTurn_held]
    exact finishGroup_held hgM true (hrec.held hs)

/-- A group whose image cannot be read is killed when it starts (R275). -/
theorem startGroup_fails {s : State} {c n lin : Nat} {l : Launch} {f : Nat × Nat}
    (h : bringsImage (clears s c n lin l) c l = (some f, clears s c n lin l)) :
    ((startGroup s c n lin l).ctx c 0).status = .killed ∧ ((startGroup s c n lin l).core c).group = none ∧
      (s.held = none → (startGroup s c n lin l).held = none) := by
  have hseat : (seats (clears s c n lin l) c n (s.nextId + 1) (groupFor s n lin l) l).core c = _ := State.core_setCtx_self ..
  have hctx : (seats (clears s c n lin l) c n (s.nextId + 1) (groupFor s n lin l) l).ctx c 0 = _ := State.ctx_setCtx_self ..
  have hheld : (seats (clears s c n lin l) c n (s.nextId + 1) (groupFor s n lin l) l).held = s.held := rfl
  rw [clears_core_self] at hseat
  have hends := killCtx_ends (r := { cause := f.1, value := wordOf f.2, pc := dEntry l.words })
    (g := groupFor s n lin l) (by rw [hseat]; rfl) (show (State.ctx _ c 0).status = .live by rw [hctx]; rfl)
  rw [hheld] at hends
  rw [startGroup_eq, h]
  exact hends

/-! The clause and the obligation. -/

theorem groupCoord_start (l : Launch) (lin : Nat) :
    (l.kind ≠ 2 → groupCoord l lin = coordOf l.ext lin) ∧ (l.kind = 2 → groupCoord l lin = (lin, 0, 0)) :=
  ⟨fun h => if_neg h, fun h => if_pos h⟩

theorem bringsImage_of_not_kept {s : State} {c n lin : Nat} {l : Launch} (h0 : dImageLen l.words ≠ 0)
    (h : ¬ ((s.core c).lastJob = l.job ∧ (s.core c).lastImage = some (dImage l.words, dImageLen l.words))) :
    bringsImage (clears s c n lin l) c l = loadImage (clears s c n lin l) c l.job (dImage l.words) (dImageLen l.words) := by
  refine if_neg fun hk => h ?_
  have himage := hk.resolve_left h0
  rw [clears_core_self] at himage
  change (if ((s.core c).lastJob == l.job) = true then (s.core c).lastImage else none) = _ at himage
  split at himage
  · rename_i hjob
    exact ⟨beq_iff_eq.mp hjob, himage⟩
  · cases himage

theorem clears_upsets {s : State} (h : s.upsets = []) (c n lin : Nat) (l : Launch) : (clears s c n lin l).upsets = [] :=
  (congrArg (List.filter _) h).trans List.filter_nil

/-- The translations of a die are not those of its batches. -/
theorem popsGroup_tlb (s : State) (p : Nat) (b : Batch) (rest : List GroupReq) (d : Nat) :
    (unitPlain (popsGroup s p b rest) d).tlb = (unitPlain s d).tlb := by
  unfold unitPlain
  split
  · by_cases hd : d = p
    · rw [hd, popsGroup, State.plain_updPlain_self]
    · rw [popsGroup, State.plain_updPlain_ne _ _ hd]
  · rfl

theorem imageRead_clears (s : State) (p : Nat) (b : Batch) (rest : List GroupReq) (c n lin : Nat) (l : Launch) (d job va : Nat) :
    imageRead (clears (popsGroup s p b rest) c n lin l) d job va = imageRead s d job va :=
  congrArg (fun tlb => (tlbFind tlb job va).map fun e => leafCheck s e va .read) (popsGroup_tlb s p b rest d)

/-- The scratchpad of a core that is reset for a group is kept for the same job (R146). -/
theorem clears_spad (s : State) (c n lin : Nat) (l : Launch) :
    ((clears s c n lin l).core c).spad = if (s.core c).lastJob = l.job then (s.core c).spad else [] := by
  rw [clears_core_self]
  change (if ((s.core c).lastJob == l.job) = true then (s.core c).spad else []) = _
  simp only [beq_iff_eq]

theorem groupStarts : Clause.GroupStarts := by
  intro b g rest l j c s hb hg hl hj hs hgang hc hp image kept
  have hexec := exec_groupStart hb hg hl hj hs hgang hc hp
  obtain ⟨hfree, hdie⟩ := chooseCore_spec hc
  have hreads (va : Nat) := imageRead_clears s s.cur.id b rest c g.launch g.lin l s.cur.id l.job va
  generalize hu : popsGroup s s.cur.id b rest = u at hexec hreads
  have hcore (k : Nat) : u.core k = s.core k := by rw [← hu]; rfl
  have hctx : u.ctx c 0 = s.ctx c 0 := by rw [← hu]; rfl
  have hjob : mget u.jobs l.job = some j := by rw [← hu]; exact hj
  have hclk : u.clk c = s.clk c := by rw [← hu]; rfl
  have hhbm : u.hbm = s.hbm := by rw [← hu]; rfl
  refine ⟨fun hk => ?_, fun h0 hlen hk hup => ⟨fun pa hread => ?_, fun f hread => ?_⟩⟩
  · have hbring : bringsImage (clears u c g.launch g.lin l) c l = (none, clears u c g.launch g.lin l) :=
      bringsImage_of_kept (by rw [hcore]; exact hk)
    obtain ⟨hgroup, ⟨old, gen, hstep, hx⟩, hspad, -, hothers, hmem, hheld⟩ := started_of_brought hjob hbring (.refl ..)
    obtain ⟨hlive, hpc, hmode, htl, hst, -⟩ := controlCtx_start old g.launch l (groupFor u g.launch g.lin l) gen j.vec1.toNat
      j.vec2.toNat (u.clk c + 1 + dImageLen l.words)
    obtain ⟨hv1, hv2⟩ := controlCtx_vectors old g.launch l (groupFor u g.launch g.lin l) gen j.vec1.toNat
      j.vec2.toNat (u.clk c + 1 + dImageLen l.words)
    obtain ⟨h1, h2, h3, h4, h5⟩ := controlCtx_getX old g.launch l (groupFor u g.launch g.lin l) gen j.vec1.toNat
      j.vec2.toNat (u.clk c + 1 + dImageLen l.words)
    obtain ⟨hc1, hc2⟩ := groupCoord_start l g.lin
    rw [engineGoes_of_held hheld.trans] at hexec
    rw [← hx] at hlive hpc hmode htl hst hv1 hv2 h1 h2 h3 h4 h5
    refine ⟨_, hexec, hfree, hdie, ⟨_, hgroup, rfl, rfl, rfl, rfl⟩, hlive, hpc, hmode, htl, hv1, hv2, fun h => ?_, fun h => ?_, h2, h3, h4,
      h5, ?_, ?_, fun k hk => ?_, ?_⟩
    · rw [h1, show (groupFor u g.launch g.lin l).coord = _ from hc1 h]
    · rw [h1, show (groupFor u g.launch g.lin l).coord = _ from hc2 h]
      rfl
    · rw [hst, hstep, hctx]
    · rw [hspad, clears_spad, hcore]
    · rw [hothers k hk, hcore]
    · rw [hmem, hhbm]
  · have hupu : u.upsets = [] := by rw [← hu]; exact hup
    obtain ⟨sp, v, hv, hbrought, hsp⟩ := foldl_loadsUnit (u := clears u c g.launch g.lin l) (c := c) (job := l.job)
      (image := dImage l.words) (m := dImageLen l.words) (pa := pa) (clears_upsets hupu ..) fun i hi => by
        rw [hdie, hreads]
        exact hread i hi
    have hbring : bringsImage (clears u c g.launch g.lin l) c l = (none, v) :=
      (bringsImage_of_not_kept h0 (by rw [hcore]; exact hk)).trans hv
    obtain ⟨hgroup, ⟨old, gen, hstep, hx⟩, hspad, himage, hothers, hmem, hheld⟩ := started_of_brought hjob hbring hbrought
    obtain ⟨hlive, hpc, -, -, -, hfrom⟩ := controlCtx_start old g.launch l (groupFor u g.launch g.lin l) gen j.vec1.toNat
      j.vec2.toNat (u.clk c + 1 + dImageLen l.words)
    rw [engineGoes_of_held hheld.trans] at hexec
    rw [← hx] at hlive hpc hfrom
    refine ⟨_, hexec, by rw [hgroup]; rfl, hlive, hpc, ?_, himage h0, fun i k hi hk => ?_⟩
    · rw [hfrom, hclk]
      change s.clk c + dImageLen l.words < _
      omega
    · rw [hspad, memNat_one, memNat_one, hsp i k hi hk]
      exact congrArg (fun m => (memGet m (pa i + k)).toNat) hhbm
  · have hupu : u.upsets = [] := by rw [← hu]; exact hup
    have hfail : bringsImage (clears u c g.launch g.lin l) c l =
        (some (Cause.translation.code, dImage l.words), clears u c g.launch g.lin l) := by
      rw [bringsImage_of_not_kept h0 (by rw [hcore]; exact hk)]
      refine loadImage_of_failed (clears_upsets hupu ..) h0 (f := f) ?_
      rw [hdie, hreads]
      exact hread
    obtain ⟨hst, hgone, hheld⟩ := startGroup_fails hfail
    rw [engineGoes_of_held hheld] at hexec
    exact ⟨_, hexec, hst, hgone⟩

/-- Settles O47, clause by clause. -/
theorem dealingAndStart : Obligations.DealingAndStart := ⟨batchDeals, gangReleases, groupStarts, coreFrees, sweepEnds⟩

end Sys2Proof.Machine
end

section
/-! PROOFS. The scalar instructions (spec/04): register arithmetic (R93), immediates and bit fields (R100), SEL and the literals
(R101, R50). -/

namespace Sys2Proof.Machine

/-! The two-source instructions (R93). -/

/-- Settles O1: each row's instruction gives `d` a function of its two sources. -/
theorem twoSourceResult : Obligations.TwoSourceResult := by
  intro row hrow d a b s h
  have hi := alu2_of_twoSourceRows (.x d) (.x a) (.x b) hrow
  rw [hi.exec_eq]
  refine issueOps_puts h (port?_of_regSrcs hi.srcs_eq) ?_
  rw [srcVals, hi.srcs_eq]
  simp [alu2, arg, Opnd.regVal, w64_v128]

/-! The instructions of one source (R93, R100). -/

/-- An instruction of one scalar source: what it names, and that its effect is to give `d` a function of its value. -/
structure Alu1 (i : Instr) (d x : SOp) (f : Word → Word) : Prop where
  exec_eq : ∀ s, exec i s = issueOps i (alu1 d f) s
  srcs_eq : srcs i = [.s x]

theorem Alu1.congr {i : Instr} {d x : SOp} {f g : Word → Word} (h : Alu1 i d x f) (hfg : ∀ a, f a = g a) : Alu1 i d x g := by
  rwa [← funext hfg]

theorem Alu1.writesX {i : Instr} {d a : Fin 48} {f : Word → Word} {s : State} (hi : Alu1 i (.x d) (.x a) f)
    (h : issues i s = true) : exec i s = .next (writesX i d (f (s.me.getX a)) s) := by
  rw [hi.exec_eq]
  refine issueOps_puts h (port?_of_regSrc hi.srcs_eq) ?_
  rw [srcVals, hi.srcs_eq]
  simp [alu1, arg, Opnd.regVal, w64_v128]

/-- CLZ counts down to the highest 1. -/
theorem clzFrom_eq (w : Word) (n : Nat) (h : w.toNat < 2 ^ n) :
    clzFrom w n = if w = 0 then n else n - 1 - Nat.log2 w.toNat := by
  induction n with
  | zero =>
    have hw : w = 0 := BitVec.eq_of_toNat_eq (by simpa using h)
    simp [clzFrom, hw]
  | succ n ih =>
    have hpos := Nat.two_pow_pos n
    rw [clzFrom]
    by_cases hn : w.getLsbD n = true
    · have hge : 2 ^ n ≤ w.toNat := Nat.ge_two_pow_of_testBit hn
      have h0 : w ≠ 0 := by rintro rfl; simp at hn
      have hlog : Nat.log2 w.toNat = n :=
        Nat.le_antisymm (Nat.lt_succ_iff.mp ((Nat.log2_lt (by omega)).mpr h)) ((Nat.le_log2 (by omega)).mpr hge)
      rw [if_pos hn, if_neg h0, hlog]
      omega
    · have hlt : w.toNat < 2 ^ n := by
        by_contra hge
        exact hn (Nat.testBit_of_two_pow_le_and_two_pow_add_one_gt (not_lt.mp hge) h)
      rw [if_neg hn, ih hlt]
      split
      · rfl
      · next h0 =>
        have : Nat.log2 w.toNat < n := (Nat.log2_lt (by simpa [BitVec.toNat_eq] using h0)).mpr hlt
        omega

/-- CTZ counts up to the lowest 1. -/
theorem ctzFrom_eq (w : Word) (i n : Nat) :
    ctzFrom w i n + i = ((List.range' i n).find? fun k => w.getLsbD k).getD (i + n) := by
  induction n generalizing i with
  | zero => simp [ctzFrom]
  | succ n ih =>
    rw [ctzFrom, List.range'_succ, List.find?_cons]
    by_cases hi : w.getLsbD i = true
    · simp [hi]
    · have := ih (i + 1)
      simp only [hi, Bool.false_eq_true, if_false]
      rw [show i + (n + 1) = i + 1 + n by omega, ← this]
      omega

theorem foldl_b2n_eq (p : Nat → Bool) (l : List Nat) (n : Nat) :
    l.foldl (fun n i => n + b2n (p i)) n = n + (l.filter p).length := by
  induction l generalizing n with
  | nil => rfl
  | cons a r ih =>
    rw [List.foldl_cons, ih, List.filter_cons]
    cases p a
    · simp [b2n]
    · simp [b2n]
      omega

section
variable (a : Word)

theorem clz_eq : wordOf (clzFrom a 64) = if a = 0 then 64 else BitVec.ofNat 64 (63 - Nat.log2 a.toNat) := by
  rw [clzFrom_eq a 64 a.isLt]
  split <;> rfl

theorem ctz_eq : wordOf (ctzFrom a 0 64) = BitVec.ofNat 64 (((List.range 64).find? fun i => a.getLsbD i).getD 64) := by
  have h := ctzFrom_eq a 0 64
  rw [← List.range_eq_range'] at h
  exact congrArg (BitVec.ofNat 64) h

theorem pop_eq : wordOf (popCount a) = BitVec.ofNat 64 ((List.range 64).filter fun i => a.getLsbD i).length := by
  rw [popCount, foldl_b2n_eq, Nat.zero_add]
  rfl

theorem shiftLeft_ofNat (n : Nat) : a <<< n = BitVec.ofNat 64 (a.toNat * 2 ^ n) := by
  apply BitVec.eq_of_toNat_eq
  rw [BitVec.toNat_shiftLeft, Nat.shiftLeft_eq, BitVec.toNat_ofNat]

theorem ushiftRight_ofNat (n : Nat) : a >>> n = BitVec.ofNat 64 (a.toNat / 2 ^ n) := by
  apply BitVec.eq_of_toNat_eq
  rw [BitVec.toNat_ushiftRight, Nat.shiftRight_eq_div_pow, BitVec.toNat_ofNat,
    Nat.mod_eq_of_lt ((Nat.div_le_self ..).trans_lt a.isLt)]

theorem sshiftRight_ofInt (n : Nat) : a.sshiftRight n = BitVec.ofInt 64 (a.toInt / (2 ^ n : Nat)) := by
  rw [BitVec.sshiftRight, Int.shiftRight_eq_div_pow]

theorem slti_eq (imm : BitVec 12) : boolWord (a.slt (simm imm)) = if a.toInt < imm.toInt then 1 else 0 := by
  refine boolWord_eq ?_
  rw [BitVec.slt_iff_toInt_lt, simm, BitVec.toInt_signExtend_of_le (by decide)]

/-! Bit fields (R100). -/

/-- A number with a field replaced, by its parts above and below the field. -/
theorem insertField_parts (pos len g : Nat) : a.toNat - bitField a pos len * 2 ^ pos + g * 2 ^ pos =
    2 ^ pos * (2 ^ len * (a.toNat / 2 ^ (pos + len)) + g) + a.toNat % 2 ^ pos := by
  have h1 := Nat.div_add_mod a.toNat (2 ^ pos)
  have h2 := Nat.div_add_mod (a.toNat / 2 ^ pos) (2 ^ len)
  rw [Nat.div_div_eq_div_mul, ← pow_add] at h2
  have h3 : 2 ^ pos * (a.toNat / 2 ^ pos) = 2 ^ pos * (2 ^ len * (a.toNat / 2 ^ (pos + len))) +
      a.toNat / 2 ^ pos % 2 ^ len * 2 ^ pos := by
    conv_lhs => rw [← h2, mul_add, Nat.mul_comm _ (a.toNat / 2 ^ pos % 2 ^ len)]
  rw [bitField, mul_add, Nat.mul_comm g]
  omega

theorem getLsbD_insertField (new : Word) {pos len n : Nat} (hn : n < 64) :
    (insertField a new pos len).getLsbD n =
      if pos ≤ n ∧ n < pos + len then new.getLsbD (n - pos) else a.getLsbD n := by
  have hg : new.toNat % 2 ^ len < 2 ^ len := Nat.mod_lt _ (Nat.two_pow_pos _)
  have hl : a.toNat % 2 ^ pos < 2 ^ pos := Nat.mod_lt _ (Nat.two_pow_pos _)
  rw [insertField, insertField_parts, wordOf, BitVec.getLsbD_ofNat, Nat.testBit_two_pow_mul_add _ hl,
    Nat.testBit_two_pow_mul_add _ hg, Nat.testBit_mod_two_pow, Nat.testBit_mod_two_pow, Nat.testBit_div_two_pow]
  simp only [hn, decide_true, Bool.true_and, BitVec.getLsbD]
  rcases lt_or_ge n pos with h1 | h1
  · rw [if_pos h1, if_neg (by omega), decide_eq_true h1, Bool.true_and]
  rw [if_neg (by omega)]
  rcases lt_or_ge n (pos + len) with h2 | h2
  · rw [if_pos (by omega), if_pos ⟨h1, h2⟩, decide_eq_true (by omega), Bool.true_and]
  · rw [if_neg (by omega), if_neg (by omega)]
    congr 1
    omega

theorem bfx_eq (pos len : Nat) : iword (sextN (bitField a pos (len + 1)) (len + 1)) =
    ((a >>> pos).setWidth (len + 1)).signExtend 64 := by
  rw [sextN_eq_toInt (Nat.succ_pos _), iword, BitVec.signExtend]
  congr 2
  apply BitVec.eq_of_toNat_eq
  rw [BitVec.toNat_ofNat, BitVec.toNat_setWidth, BitVec.toNat_ushiftRight, Nat.shiftRight_eq_div_pow, bitField, Nat.mod_mod]

theorem pfmt_eq (fmt : BitVec 5) (blog : BitVec 3) : insertField a (wordOf (fmt.toNat * 8 + blog.toNat)) 56 8 =
    (fmt ++ blog ++ a.setWidth 56 : BitVec 64) := by
  have hb : wordOf (fmt.toNat * 8 + blog.toNat) = (fmt ++ blog).setWidth 64 := by
    apply BitVec.eq_of_toNat_eq
    rw [wordOf, BitVec.toNat_ofNat, BitVec.toNat_setWidth, BitVec.toNat_append, ← Nat.shiftLeft_add_eq_or_of_lt blog.isLt,
      Nat.shiftLeft_eq]
  refine BitVec.eq_of_getLsbD_eq fun n hn => ?_
  rw [getLsbD_insertField _ _ hn, BitVec.getLsbD_append, BitVec.getLsbD_setWidth, hb, BitVec.getLsbD_setWidth]
  split
  · simp [show ¬ n < 56 by omega, show n - 56 < 64 by omega]
  · simp [show n < 56 by omega]

theorem pkey_eq (key : BitVec 4) : insertField a (wordOf key.toNat) 52 4 =
    (a.extractLsb' 56 8 ++ key ++ a.setWidth 52 : BitVec 64) := by
  refine BitVec.eq_of_getLsbD_eq fun n hn => ?_
  rw [getLsbD_insertField _ _ hn, BitVec.getLsbD_append, BitVec.getLsbD_append, BitVec.getLsbD_setWidth, wordOf,
    BitVec.getLsbD_ofNat]
  rcases lt_or_ge n 52 with h | h
  · simp [h, show ¬ 52 ≤ n by omega]
  rcases lt_or_ge n 56 with h' | h'
  · simp [h, h', show ¬ n < 52 by omega, show n - 52 < 64 by omega, show n - 52 < 4 by omega, BitVec.getLsbD]
  · simp [show ¬ n < 56 by omega, show ¬ n < 52 by omega, show ¬ n - 52 < 4 by omega, show n - 52 - 4 < 8 by omega,
      show 56 + (n - 52 - 4) = n by omega]

theorem lith_eq (imm : BitVec 32) : insertField a (wordOf imm.toNat) 32 32 = (imm ++ a.setWidth 32 : BitVec 64) := by
  refine BitVec.eq_of_getLsbD_eq fun n hn => ?_
  rw [getLsbD_insertField _ _ hn, BitVec.getLsbD_append, BitVec.getLsbD_setWidth, wordOf, BitVec.getLsbD_ofNat]
  split
  · simp [show ¬ n < 32 by omega, show n - 32 < 64 by omega, BitVec.getLsbD]
  · simp [show n < 32 by omega]

end

section
variable {row : (SOp → SOp → Instr) × (Word → Word)} {imm : BitVec 12} {sh pos lenm1 : BitVec 6} {fmt : BitVec 5} {blog : BitVec 3}
  {key : BitVec 4} (d x : SOp)

theorem alu1_of_oneSourceRows1 (h : row ∈ oneSourceRows1 imm) : Alu1 (row.1 d x) d x row.2 := by
  simp only [oneSourceRows1, List.mem_cons, List.not_mem_nil, or_false] at h
  rcases h with rfl | rfl | rfl | rfl | rfl | rfl | rfl <;> refine Alu1.congr ⟨fun _ => rfl, rfl⟩ fun a => ?_
  · exact clz_eq a
  · exact ctz_eq a
  · exact pop_eq a
  all_goals rfl

theorem alu1_of_oneSourceRows2 (h : row ∈ oneSourceRows2 imm sh) : Alu1 (row.1 d x) d x row.2 := by
  simp only [oneSourceRows2, List.mem_cons, List.not_mem_nil, or_false] at h
  rcases h with rfl | rfl | rfl | rfl | rfl | rfl <;> refine Alu1.congr ⟨fun _ => rfl, rfl⟩ fun a => ?_
  · exact slti_eq a imm
  · exact boolWord_eq BitVec.ult_iff_lt
  · exact shiftLeft_ofNat a _
  · exact ushiftRight_ofNat a _
  · exact sshiftRight_ofInt a _
  · exact addp_eq a _

theorem alu1_of_oneSourceRows3 (h : row ∈ oneSourceRows3 pos lenm1 fmt blog key) : Alu1 (row.1 d x) d x row.2 := by
  simp only [oneSourceRows3, List.mem_cons, List.not_mem_nil, or_false] at h
  rcases h with rfl | rfl | rfl | rfl <;> refine Alu1.congr ⟨fun _ => rfl, rfl⟩ fun a => ?_
  · exact bfx_eq a ..
  · rfl
  · exact pfmt_eq a fmt blog
  · exact pkey_eq a key

end

theorem oneSourceResult : Clause.OneSourceResult := by
  intro imm sh pos lenm1 fmt blog key row hrow d a s h
  have hi : Alu1 (row.1 (.x d) (.x a)) (.x d) (.x a) row.2 := by
    simp only [oneSourceRows, List.mem_append] at hrow
    rcases hrow with (hrow | hrow) | hrow
    · exact alu1_of_oneSourceRows1 _ _ hrow
    · exact alu1_of_oneSourceRows2 _ _ hrow
    · exact alu1_of_oneSourceRows3 _ _ hrow
  exact hi.writesX h

/-! Literals, BFI and SEL (R50, R100, R101). -/

/-- The destination of an instruction in its block reads as before the issue. -/
theorem getS_blocks {i : Instr} {s : State} (h : issues i s = true) (vs : List VWord) (d : Fin 48) :
    getS (blocks i 0 0 vs s) (.x d) = s.me.getX d := by
  rw [getS, blocks_me h]
  rfl

theorem exec_lit (d : SOp) (imm : BitVec 32) (s : State) : exec (.lit d imm) s = issueOps (.lit d imm) (effLit d imm) s := rfl
theorem exec_lith (d : SOp) (imm : BitVec 32) (s : State) : exec (.lith d imm) s = issueOps (.lith d imm) (effLith d imm) s := rfl
theorem exec_bfi (d x : SOp) (pos lenm1 : BitVec 6) (s : State) :
    exec (.bfi d x pos lenm1) s = issueOps (.bfi d x pos lenm1) (effBfi d pos lenm1) s := rfl
theorem exec_sel (d x y z : SOp) (s : State) : exec (.sel d x y z) s = issueOps (.sel d x y z) (effSel d) s := rfl

theorem literalsAndSelect : Clause.LiteralsAndSelect := by
  intro d a b c imm pos lenm1 s
  refine ⟨fun h => ?_, fun h => ?_,
    fun h hp => ⟨insertField (s.me.getX d) (s.me.getX a) pos.toNat (lenm1.toNat + 1), ?_, fun n hn => ?_⟩, fun h => ?_⟩
  · rw [exec_lit]
    exact issueOps_puts h (fun o ho => nomatch ho) rfl
  · rw [exec_lith]
    refine issueOps_puts h (fun o ho => nomatch ho) ?_
    rw [effLith, getS_blocks h, lith_eq]
  · rw [exec_bfi]
    refine issueOps_puts h (port?_of_regSrc rfl) ?_
    rw [effBfi, getS_blocks h, show arg (srcVals (.bfi (.x d) (.x a) pos lenm1) s) 0 = s.me.getX a from w64_v128 _]
  · rw [getLsbD_insertField _ _ hn]
    simp only [Nat.lt_succ_iff, ← Nat.add_assoc]
  · have hsrcs : srcs (.sel (.x d) (.x a) (.x b) (.x c)) = [.s (.x a), .s (.x b), .s (.x c)] := rfl
    rw [exec_sel]
    refine issueOps_puts h (by simp [hsrcs, Opnd.port?]) ?_
    simp [effSel, srcVals, hsrcs, arg, Opnd.regVal, w64_v128]

/-- Settles O2, clause by clause. -/
theorem scalarResults : Obligations.ScalarResults := ⟨oneSourceResult, literalsAndSelect⟩

end Sys2Proof.Machine
end

section
/-! PROOFS. Division (spec/04, R95, R97) and control transfers (R102 to R105). -/

namespace Sys2Proof.Machine

/-! Instructions that become pending at their issue (R79). -/

/-- A context with one more pending instruction. -/
def Ctx.addsPend (x : Ctx) (p : Pend) : Ctx := { x with pend := x.pend ++ [p] }

theorem Ctx.addsPend_blk (x : Ctx) (p : Pend) : (x.addsPend p).blk = x.blk := rfl
theorem Ctx.addsPend_halted (x : Ctx) (p : Pend) : (x.addsPend p).halted = x.halted := rfl

/-- The entry of an instruction that becomes pending at its issue (R79, R81). -/
def pendOf (i : Instr) (kind : PendKind) (due : Nat) (res : Option PendRes) (s : State) : Pend :=
  { id := s.nextId, l := (laOf i).getD 0, pc := s.me.pc, uses := pendingRegs i, dst := pendDst i, kind := kind, due := due, res := res }

theorem addPend_blocks {i : Instr} {s : State} (h : issues i s = true) (vs : List VWord) (kind : PendKind) (due : Nat)
    (res : Option PendRes) : addPend (blocks i 0 0 vs s) i kind due res =
      ((blocks i 0 0 vs s).setNextId (s.nextId + 1)).updMe fun x => x.addsPend (pendOf i kind due res s) := by
  have hb : (blocks i 0 0 vs s).me.blk = some (issueBlk i s.me (s.clk s.cur.core) vs) := congrArg Ctx.blk (blocks_me h)
  rw [addPend, hb]
  simp only [State.newId_eq, blocks_nextId h]
  rfl

theorem pends_eq {i : Instr} {kind : PendKind} {due : Nat} {res : Option PendRes} {s : State} :
    pends i kind due res s = ((issued i s).setNextId (s.nextId + 1)).updMe fun x => x.addsPend (pendOf i kind due res s) := rfl

/-- An instruction of register sources whose effect is to become pending. -/
theorem issueOps_pends {i : Instr} {eff : List VWord → State → State} {s : State} {kind : PendKind} {due : Nat}
    {res : Option PendRes} (h : issues i s = true) (hr : ∀ o ∈ srcs i, o.port? = none)
    (he : eff (srcVals i s) (blocks i 0 0 (srcVals i s) s) = addPend (blocks i 0 0 (srcVals i s) s) i kind due res) :
    issueOps i eff s = .next (pends i kind due res s) := by
  rw [issueOps_completes h hr (he.trans (addPend_blocks h ..)) (by rw [State.me_updMe, Ctx.addsPend_blk, State.setNextId_me])
    (by rw [State.me_updMe, Ctx.addsPend_halted, State.setNextId_me, blocks_halted h]), complete_updMe (fun _ _ => rfl), complete_setNextId,
    complete_blocks, pends_eq]

theorem inClocks_blocks {i : Instr} {s : State} (h : issues i s = true) (vs : List VWord) (n : Nat) :
    inClocks (blocks i 0 0 vs s) n = s.clk s.cur.core + n := by
  rw [inClocks, blocks_me h]
  rfl

/-! Division (R95, R97). -/

theorem divQ_eq_tdiv (a b : Int) : divQ a b = Int.tdiv a b := by
  have hzero (m n : Nat) (h : m = 0 ∨ n = 0) : -((m : Int) / n) = m / n := by
    rcases h with rfl | rfl <;> simp
  unfold divQ
  obtain ⟨m, rfl | rfl⟩ := Int.eq_nat_or_neg a <;> obtain ⟨n, rfl | rfl⟩ := Int.eq_nat_or_neg b <;> simp
  · omega
  · exact fun h => (hzero m n (by omega)).symm
  · exact fun h => (hzero m n (by omega)).symm
  · exact fun h => hzero m n (by omega)

/-- The instructions of the table divide with the values that it lists (R95). -/
theorem divides_of_divideRows {row : (SOp → SOp → SOp → BitVec 4 → Instr) × (Word → Word → Word)} (h : row ∈ divideRows)
    (d x y : SOp) (la : BitVec 4) :
    (∀ s, exec (row.1 d x y la) s = issueOps (row.1 d x y la) (divide (row.1 d x y la) row.2) s) ∧
      srcs (row.1 d x y la) = [.s x, .s y] := by
  simp only [divideRows, List.mem_cons, List.not_mem_nil, or_false] at h
  rcases h with rfl | rfl | rfl | rfl <;> refine ⟨fun s => ?_, rfl⟩
  · simp only [← divQ_eq_tdiv]
    rfl
  · rfl
  · simp only [Int.tmod_def, ← divQ_eq_tdiv]
    rfl
  · rfl

/-- Settles O3: the divisor is tested at the issue. -/
theorem divideIssues : Obligations.DivideIssues := by
  intro row hrow d a b la s i h
  obtain ⟨hexec, hsrcs⟩ := divides_of_divideRows hrow (.x d) (.x a) (.x b) la
  have hvals : arg (srcVals i s) 0 = s.me.getX a ∧ arg (srcVals i s) 1 = s.me.getX b := by
    rw [srcVals, hsrcs]
    exact ⟨w64_v128 _, w64_v128 _⟩
  refine ⟨fun hb => ?_, fun hb hp => ?_⟩
  · rw [hexec]
    refine issueOps_pends h (port?_of_regSrcs hsrcs) ?_
    rw [divide, hvals.1, hvals.2, if_neg hb, inClocks_blocks h]
  · rw [hexec]
    refine issueOps_traps (cause := .divideByZero) h (port?_of_regSrcs hsrcs) hp ?_
    rw [divide, hvals.2, if_pos hb]

/-! Branches (R102, R105). -/

/-- A context that goes to a target at a clock of its core (R105). -/
def Ctx.goesTo (x : Ctx) (target clk : Nat) : Ctx := { x with pc := target, fbuf := [], ffault := none, notBefore := clk + 3 }

theorem jumpTo_eq (s : State) (target : Nat) : jumpTo s target = s.updMe fun x => x.goesTo target (s.clk s.cur.core) := rfl

theorem jumpTo_updMe (s : State) (f : Ctx → Ctx) (target : Nat) :
    jumpTo (s.updMe f) target = s.updMe fun x => (f x).goesTo target (s.clk s.cur.core) := by
  rw [jumpTo_eq, State.updMe_updMe]
  rfl

theorem jumpTo_blocks {i : Instr} {s : State} (h : issues i s = true) (vs : List VWord) (target : Nat) :
    jumpTo (blocks i 0 0 vs s) target = (blocks i 0 0 vs s).updMe fun x => x.goesTo target (s.clk s.cur.core) := by
  have hstill := still_blocks h 0 0 vs
  rw [jumpTo_eq, hstill.clk_eq, hstill.cur_eq]

theorem herePc_blocks {i : Instr} {s : State} (h : issues i s = true) (vs : List VWord) : herePc (blocks i 0 0 vs s) = s.me.pc := by
  rw [herePc, blocks_me h]
  rfl

/-- An issue traces no branch where the slot is not traced. -/
theorem noteBranch_blocks {i : Instr} {s : State} (h : issues i s = true) (vs : List VWord)
    (ht : tracesSlot s.myCore s.cur.slot = false) (t : Bool) : noteBranch (blocks i 0 0 vs s) t = blocks i 0 0 vs s := by
  have hstill := still_blocks h 0 0 vs
  refine if_neg (ne_true_of_eq_false ?_)
  rwa [tracesSlot, tracing, hstill.trace_eq, hstill.cur_eq]

/-- The instructions of the table branch on the conditions that it lists (R102). -/
theorem branches_of_branchRows {row : (SOp → SOp → BitVec 12 → Instr) × (Word → Word → Bool)} (h : row ∈ branchRows)
    (x y : SOp) (off : BitVec 12) :
    (∀ s, exec (row.1 x y off) s = issueOps (row.1 x y off) (branchIf off row.2) s) ∧ srcs (row.1 x y off) = [.s x, .s y] := by
  have hge (a b : Word) : decide (b.toInt ≤ a.toInt) = !a.slt b := by simp only [BitVec.slt, ← decide_not, Int.not_lt]
  have hgeu (a b : Word) : decide (b.toNat ≤ a.toNat) = !a.ult b := by simp only [BitVec.ult, ← decide_not, Nat.not_lt]
  simp only [branchRows, List.mem_cons, List.not_mem_nil, or_false] at h
  rcases h with rfl | rfl | rfl | rfl | rfl | rfl <;> refine ⟨fun s => ?_, rfl⟩
  · rfl
  · simp only [ne_eq, decide_not]
    rfl
  · rfl
  · simp only [hge]
    rfl
  · rfl
  · simp only [hgeu]
    rfl

theorem branchResult : Clause.BranchResult := by
  intro row hrow a b off s i h ht
  obtain ⟨hexec, hsrcs⟩ := branches_of_branchRows hrow (.x a) (.x b) off
  have hr := port?_of_regSrcs hsrcs
  have heff : branchIf off row.2 (srcVals i s) (blocks i 0 0 (srcVals i s) s) =
      if row.2 (s.me.getX a) (s.me.getX b) then
        (blocks i 0 0 (srcVals i s) s).updMe fun x => x.goesTo (movePc s.me.pc (4 * off.toInt)) (s.clk s.cur.core)
      else blocks i 0 0 (srcVals i s) s := by
    have hvals : arg (srcVals i s) 0 = s.me.getX a ∧ arg (srcVals i s) 1 = s.me.getX b := by
      rw [srcVals, hsrcs]
      exact ⟨w64_v128 _, w64_v128 _⟩
    rw [branchIf, noteBranch_blocks h _ ht, hvals.1, hvals.2, herePc_blocks h, jumpTo_blocks h]
  rw [hexec]
  by_cases hc : row.2 (s.me.getX a) (s.me.getX b) = true
  · rw [if_pos hc]
    exact issueOps_changes h hr (fun x => x.goesTo _ _) (fun _ _ => rfl) (fun _ => rfl) (fun _ => rfl) (heff.trans (if_pos hc))
  · rw [if_neg hc, ← complete_blocks i 0 0 (srcVals i s)]
    exact issueOps_completes h hr (heff.trans (if_neg hc)) rfl (blocks_halted h ..)

/-! Jumps (R103, R104). -/

section
variable (x : Ctx) (target clk : Nat) (d : Fin 48) (w : Word)

/-- A link is a register, which the jump does not touch. -/
theorem Ctx.goesTo_setX : (x.setX d w).goesTo target clk = (x.goesTo target clk).setX d w := by
  unfold Ctx.setX
  split <;> rfl

/-- A context with the target of a JLR noted for the trace (R229). -/
def Ctx.notesTarget (x : Ctx) (target : Nat) : Ctx := { x with jlrTarget := 2 ^ 52 + target }

/-- A context that JLR has sent to a target, with its link (R104). -/
def Ctx.jumpsLinked (x : Ctx) (target clk : Nat) (d : Fin 48) (w : Word) : Ctx :=
  ((x.goesTo target clk).setX d w).notesTarget target

theorem Ctx.jumpsLinked_eq : ((x.notesTarget target).setX d w).goesTo target clk = x.jumpsLinked target clk d w := by
  rw [Ctx.goesTo_setX, Ctx.jumpsLinked]
  unfold Ctx.setX
  split <;> rfl

theorem Ctx.jumpsLinked_blk : (x.jumpsLinked target clk d w).blk = x.blk := (x.goesTo target clk).setX_blk d w
theorem Ctx.jumpsLinked_halted : (x.jumpsLinked target clk d w).halted = x.halted := (x.goesTo target clk).setX_halted d w

theorem Ctx.jumpsLinked_setBlk (b : Option Blk) : (x.setBlk b).jumpsLinked target clk d w = (x.jumpsLinked target clk d w).setBlk b :=
  congrArg (·.notesTarget target) ((x.goesTo target clk).setX_setBlk b d w)

end

theorem jl_jumps {d : Fin 48} {off : BitVec 18} {s : State} (h : issues (.jl (.x d) off) s = true) :
    exec (.jl (.x d) off) s = .next ((jumps (.jl (.x d) off) (movePc s.me.pc (4 * off.toInt)) s).updMe fun x =>
      x.setX d (wordOf (s.me.pc + 4))) := by
  have hstill := still_blocks h 0 0 (srcVals (.jl (.x d) off) s)
  refine (issueOps_changes h (fun o ho => nomatch ho)
    (fun x => (x.goesTo (movePc s.me.pc (4 * off.toInt)) (s.clk s.cur.core)).setX d (wordOf (s.me.pc + 4)))
    (fun x b => (x.goesTo _ _).setX_setBlk b ..) (fun x => (x.goesTo _ _).setX_blk ..) (fun x => (x.goesTo _ _).setX_halted ..)
    ?_).trans ?_
  · simp only [effJl, putS, herePc_blocks h, jumpTo_updMe, hstill.clk_eq, hstill.cur_eq]
    exact State.updMe_congr (Ctx.goesTo_setX ..)
  · rw [jumps, State.updMe_updMe]
    rfl

section
variable {d a : Fin 48} {imm : BitVec 12} {s : State} (h : issues (.jlr (.x d) (.x a) imm) s = true)
include h

theorem effJlr_blocks : effJlr (.x d) imm (srcVals (.jlr (.x d) (.x a) imm) s)
      (blocks (.jlr (.x d) (.x a) imm) 0 0 (srcVals (.jlr (.x d) (.x a) imm) s) s) =
    if movePc ((s.me.getX a).toNat % 2 ^ 52) imm.toInt % 4 ≠ 0 then
      trapHere (blocks (.jlr (.x d) (.x a) imm) 0 0 (srcVals (.jlr (.x d) (.x a) imm) s) s) .misaligned
        (wordOf (movePc ((s.me.getX a).toNat % 2 ^ 52) imm.toInt))
    else (blocks (.jlr (.x d) (.x a) imm) 0 0 (srcVals (.jlr (.x d) (.x a) imm) s) s).updMe fun x =>
      x.jumpsLinked (movePc ((s.me.getX a).toNat % 2 ^ 52) imm.toInt) (s.clk s.cur.core) d (wordOf (s.me.pc + 4)) := by
  have hstill := still_blocks h 0 0 (srcVals (.jlr (.x d) (.x a) imm) s)
  have harg : arg (srcVals (.jlr (.x d) (.x a) imm) s) 0 = s.me.getX a := w64_v128 _
  have hpc (target : Nat) : herePc ((blocks (.jlr (.x d) (.x a) imm) 0 0 (srcVals (.jlr (.x d) (.x a) imm) s) s).updMe
      (·.notesTarget target)) = s.me.pc := by
    rw [herePc, State.me_updMe, blocks_me h]
    rfl
  rw [effJlr, harg]
  refine if_congr Iff.rfl rfl ?_
  refine (congrArg (fun pc => jumpTo (putS _ (.x d) (wordOf (pc + 4))) _) (hpc _)).trans ?_
  rw [putS, State.updMe_updMe, jumpTo_updMe, hstill.clk_eq, hstill.cur_eq]
  exact State.updMe_congr (Ctx.jumpsLinked_eq ..)

theorem jlr_jumps (ht : movePc ((s.me.getX a).toNat % 2 ^ 52) imm.toInt % 4 = 0) : exec (.jlr (.x d) (.x a) imm) s =
    .next ((jumps (.jlr (.x d) (.x a) imm) (movePc ((s.me.getX a).toNat % 2 ^ 52) imm.toInt) s).updMe fun x =>
      { x.setX d (wordOf (s.me.pc + 4)) with jlrTarget := 2 ^ 52 + movePc ((s.me.getX a).toNat % 2 ^ 52) imm.toInt }) := by
  refine (issueOps_changes h (port?_of_regSrc rfl) (fun x => x.jumpsLinked _ _ d _) (fun x b => x.jumpsLinked_setBlk ..)
    (fun x => x.jumpsLinked_blk ..) (fun x => x.jumpsLinked_halted ..)
    ((effJlr_blocks h).trans (if_neg (not_not.mpr ht)))).trans ?_
  rw [jumps, State.updMe_updMe]
  rfl

theorem jlr_traps (ht : movePc ((s.me.getX a).toNat % 2 ^ 52) imm.toInt % 4 ≠ 0) (hp : trapsPlainly s = true) :
    exec (.jlr (.x d) (.x a) imm) s = .next (traps (.jlr (.x d) (.x a) imm) 0x04
      (wordOf (movePc ((s.me.getX a).toNat % 2 ^ 52) imm.toInt)) s.me.pc 1 s) :=
  issueOps_traps (cause := .misaligned) h (port?_of_regSrc rfl) hp ((effJlr_blocks h).trans (if_pos ht))

end

theorem jumpResult : Clause.JumpResult := by
  intro d a off imm s
  refine ⟨jl_jumps, fun h => ?_⟩
  have hpos : 0 ≤ (((s.me.getX a).toNat % 2 ^ 52 : Nat) + imm.toInt) % ((2 ^ 52 : Nat) : Int) := Int.emod_nonneg _ (by decide)
  exact ⟨fun ht => jlr_jumps h (by rw [movePc]; omega), fun ht hp => jlr_traps h (by rw [movePc]; omega) hp⟩

/-- Settles O4, clause by clause. -/
theorem controlTransfers : Obligations.ControlTransfers := ⟨branchResult, jumpResult⟩

end Sys2Proof.Machine
end

section
/-! PROOFS. The checks of the register instructions (spec/04, R108). -/

namespace Sys2Proof.Machine

theorem pend_of_trapsPlainly {s : State} (h : trapsPlainly s = true) : s.me.pend = [] := by
  simp only [trapsPlainly, Bool.and_eq_true, List.isEmpty_iff] at h
  obtain ⟨⟨⟨hpend, -⟩, -⟩, -⟩ := h
  exact hpend

/-- An instruction whose register check fails traps before its issue, whatever its effect is (R108). -/
theorem issueOps_of_csrCheck {i : Instr} {s : State} {n : Nat} {w : Bool} {c : Cause} (hr : reachesIssue s = true)
    (hi : illegalHere s.cur.core s.cur.slot i = false) (hp : trapsPlainly s = true) (hn : csrOf i = some (n, w))
    (hc : csrCheck s.cur.slot s.me.mode n w = some c) (hl : c ≠ .lookahead) (eff : List VWord → State → State) :
    issueOps i eff s = .next (trapsFirst i c.code (instrBits i) s) := by
  have hpend := pend_of_trapsPlainly hp
  have hdrains : drains i = false := by
    unfold drains
    split <;> [cases hn; cases hn; cases hn; rfl]
  have hv : verdict i s = .trap c (instrBits i) .plain := by
    rw [verdict_of_reachesIssue hr (by simp [holdsBack, hpend, windowVerdict]) (by rw [hpend]; rfl), hi, csrVerdict, hn]
    simp [hc, Verdict.andThen]
  rw [issueOps, issueState, hv]
  exact congrArg _ (trapHere_noteTrapped hr hp hl)

theorem csrOf_of_csrInstrRows {d a : SOp} {n : BitVec 12} {row : Instr × Bool} (h : row ∈ csrInstrRows d a n) :
    csrOf row.1 = some (n.toNat, row.2) ∧ instrLen row.1 = 1 ∧ ∃ eff, ∀ s, exec row.1 s = issueOps row.1 eff s := by
  simp only [csrInstrRows, List.mem_cons, List.not_mem_nil, or_false] at h
  rcases h with rfl | rfl | rfl | rfl <;> exact ⟨rfl, rfl, _, fun _ => rfl⟩

section
variable {t n : Nat} {m : Mode} {w : Bool}

theorem csrCheck_illegal (h : csrKnown n = false ∨ (w = true ∧ csrReadOnly n = true) ∨ (n = 0x003 ∧ t ≠ 0)) :
    csrCheck t m n w = some .illegal := by
  unfold csrCheck
  rcases h with h | ⟨h, h'⟩ | ⟨rfl, h⟩
  · rw [if_pos (by rw [h]; rfl)]
  · rw [if_pos (c := (w && csrReadOnly n) = true) (by rw [h, h']; rfl), ite_self]
  · rw [if_pos (c := (0x003 == 0x003 && t != 0) = true) (by simpa using h), ite_self, ite_self]

theorem csrCheck_privileged (hk : csrKnown n = true) (hw : ¬(w = true ∧ csrReadOnly n = true)) (hh : ¬(n = 0x003 ∧ t ≠ 0))
    (hm : m = .job) (hr : csrRuntime n = true) : csrCheck t m n w = some .privileged := by
  rw [csrCheck, if_neg (by simp [hk]), if_neg (by simpa using hw), if_neg (by simpa using hh), if_pos (by simp [hm, hr])]

end

/-- Settles O50: the first check that fails is the verdict, before any operand is taken. -/
theorem csrChecksInOrder : Obligations.CsrChecksInOrder := by
  intro d a n s row hrow hr hi hp
  obtain ⟨hof, hlen, eff, hexec⟩ := csrOf_of_csrInstrRows hrow
  have hn : n = 0x003 ↔ n.toNat = 0x003 := BitVec.toNat_eq
  have htrap (c : Cause) (hc : csrCheck s.cur.slot s.me.mode n.toNat row.2 = some c) (hl : c ≠ .lookahead) :
      exec row.1 s = .next { traps row.1 c.code (instrBits row.1) s.me.pc 1 s with free := s.free + 1 } := by
    rw [hexec, issueOps_of_csrCheck hr hi hp hof hc hl, trapsFirst, hlen]
  rw [hn]
  exact ⟨fun h => htrap .illegal (csrCheck_illegal h) (by decide),
    fun hk hw hh hm hrt => htrap .privileged (csrCheck_privileged hk hw hh hm hrt) (by decide)⟩

end Sys2Proof.Machine
end

section
/-! PROOFS. The reads and writes of the registers of a context and its core (spec/04, R106, R107, R109). What the registers of
the tables read is a part of the context and of its core, and a write changes one field of that part. -/

namespace Sys2Proof.Machine

/-! What the registers of the tables read (R106). -/

/-- The fields of a context that registers of the tables read. -/
def Ctx.csrs (x : Ctx) : Ctx :=
  { nbv2 := x.nbv2, lkchk := x.lkchk, mode := x.mode, tl := x.tl, t1 := x.t1, t2 := x.t2, fpstat := x.fpstat, tagsel := x.tagsel
    tlogsel := x.tlogsel, wmsel := x.wmsel, barsel := x.barsel, slotsel := x.slotsel, sqsel := x.sqsel, stksel := x.stksel
    tagrep := x.tagrep, tfdetail := x.tfdetail, pwidth := x.pwidth }

/-- The fields of a core that registers of the tables read. -/
def Core.csrs (k : Core) : Core :=
  { domm := k.domm, frstat := k.frstat, dbgsel := k.dbgsel, dbgrnum := k.dbgrnum, wpsel := k.wpsel, pmcsel := k.pmcsel
    trace := { base := k.trace.base }, dump := { base := k.dump.base } }

/-- The registers of the tables read the same for the contexts that two states are for. -/
structure SameCsrs (s t : State) : Prop where
  slot : t.cur.slot = s.cur.slot
  me : t.me.csrs = s.me.csrs
  core : t.myCore.csrs = s.myCore.csrs

theorem read_of_sameCsrs {s t : State} (h : SameCsrs s t) : ∀ row ∈ csrReadRows, row.2 t = row.2 s := by
  obtain ⟨hslot, hme, hcore⟩ := h
  simp only [Ctx.csrs, Core.csrs, Ctx.mk.injEq, Core.mk.injEq, Trace.mk.injEq, Dump.mk.injEq] at hme hcore
  simp [csrReadRows, csrRows, csrRows1, csrRows2, csrRows3, hslot, hme, hcore]

theorem csrPeek_of_csrReadRows : ∀ row ∈ csrReadRows, ∀ s : State, csrPeek s s.cur.core s.cur.slot row.1 = row.2 s := by
  simp only [csrReadRows, csrRows, csrRows1, csrRows2, csrRows3, List.map_append, List.map_cons, List.map_nil, List.forall_mem_append,
    List.forall_mem_cons]
  simp [csrPeek, State.me, State.myCore]

theorem sameCsrs_blocks {i : Instr} {s : State} (h : issues i s = true) (st : Nat) (aux : Word) (vs : List VWord) :
    SameCsrs s (blocks i st aux vs s) := by
  refine ⟨by rw [blocks_cur h], by rw [blocks_me h]; rfl, ?_⟩
  exact (congrArg Core.csrs (blocks_still (st := st) (aux := aux) (vs := vs) h) :)

/-- Registers of the table are read without a side effect, and not through DBGRDATA. -/
theorem csrRead_of_csrReadRows {row : Nat × (State → Word)} (h : row ∈ csrReadRows) (s : State) :
    csrRead s s.cur.core s.cur.slot row.1 = (row.2 s, s) := by
  have hn : ∀ r ∈ csrReadRows, r.1 ≠ 0x033 ∧ r.1 ≠ 0x026 := by
    simp [csrReadRows, csrRows, csrRows1, csrRows2, csrRows3]
  obtain ⟨h33, h26⟩ := hn row h
  simp only [csrRead, if_neg h33, if_neg h26, csrPeek_of_csrReadRows row h]

theorem toNat_ofNat_of_csrReadRows {row : Nat × (State → Word)} (h : row ∈ csrReadRows) : (BitVec.ofNat 12 row.1).toNat = row.1 := by
  have hn : ∀ r ∈ csrReadRows, r.1 < 2 ^ 12 := by simp [csrReadRows, csrRows, csrRows1, csrRows2, csrRows3]
  rw [BitVec.toNat_ofNat, Nat.mod_eq_of_lt (hn row h)]

theorem exec_csrr (d : SOp) (n : BitVec 12) (s : State) : exec (.csrr d n) s = issueOps (.csrr d n) (csrInstr d n.toNat none) s := rfl

theorem csrInstr_read {row : Nat × (State → Word)} (h : row ∈ csrReadRows) (d : SOp) (vs : List VWord) (s : State) :
    csrInstr d row.1 none vs s = putS s d (row.2 s) := by
  simp only [csrInstr, csrRead_of_csrReadRows h]
  exact if_neg (by simp)

theorem csrReads : Clause.CsrReads := by
  intro row hrow d s h
  rw [exec_csrr]
  refine issueOps_puts h (fun o ho => nomatch ho) ?_
  rw [toNat_ofNat_of_csrReadRows hrow, csrInstr_read hrow, read_of_sameCsrs (sameCsrs_blocks h 0 0 _) row hrow]

/-! What a write changes (R107). -/

/-- A context with a register of the table written; `v2` is the feature that allows V2 of NBVER to be 0 (R347). -/
def Ctx.putCsr (x : Ctx) (v2 : Bool) (n : Nat) (v : Word) : Ctx :=
  let put (m : Nat) (old : Word) : Word := if m = n then v else old
  { x with
    nbv2 := if 0x000 = n then v.getLsbD 0 || !v2 else x.nbv2
    lkchk := if 0x001 = n then v.getLsbD 2 else x.lkchk
    t1 := { tvec := put 0x005 x.t1.tvec, tcause := put 0x007 x.t1.tcause, tvalue := put 0x009 x.t1.tvalue
            tepc := put 0x00B x.t1.tepc, tstat := put 0x00D x.t1.tstat, tscratch := put 0x00F x.t1.tscratch }
    t2 := { tvec := put 0x006 x.t2.tvec, tcause := put 0x008 x.t2.tcause, tvalue := put 0x00A x.t2.tvalue
            tepc := put 0x00C x.t2.tepc, tstat := put 0x00E x.t2.tstat, tscratch := put 0x010 x.t2.tscratch }
    fpstat := if 0x011 = n then v.setWidth 5 else x.fpstat
    tagsel := put 0x021 x.tagsel, tlogsel := put 0x024 x.tlogsel, wmsel := put 0x027 x.wmsel, barsel := put 0x02C x.barsel
    slotsel := put 0x043 x.slotsel, sqsel := put 0x04E x.sqsel, stksel := put 0x050 x.stksel }

/-- A core with a register of the table written. -/
def Core.putCsr (k : Core) (n : Nat) (v : Word) : Core :=
  let put (m : Nat) (old : Word) : Word := if m = n then v else old
  { k with
    dbgsel := put 0x030 k.dbgsel, dbgrnum := put 0x032 k.dbgrnum, wpsel := put 0x034 k.wpsel, pmcsel := put 0x037 k.pmcsel
    trace := { k.trace with base := put 0x03B k.trace.base }, dump := { k.dump with base := put 0x03E k.dump.base }
    domm := put 0x048 k.domm }

/-- A state whose issuing context and core have a register of the table written. -/
structure HasPut (s t : State) (n : Nat) (v : Word) : Prop where
  slot : t.cur.slot = s.cur.slot
  me : t.me.csrs = s.me.csrs.putCsr (featureOn s 4) n v
  core : t.myCore.csrs = s.myCore.csrs.putCsr n v

/-- A write leaves what the other registers read. -/
theorem read_other_of_hasPut {s t : State} {n : Nat} {v : Word} (h : HasPut s t n v) :
    ∀ other ∈ csrReadRows, other.1 ≠ n → other.2 t = other.2 s := by
  obtain ⟨hslot, hme, hcore⟩ := h
  simp only [Ctx.csrs, Core.csrs, Ctx.putCsr, Core.putCsr, Ctx.mk.injEq, Core.mk.injEq, Trace.mk.injEq, Dump.mk.injEq,
    true_and, and_true] at hme hcore
  simp +contextual [csrReadRows, csrRows, csrRows1, csrRows2, csrRows3, hslot, hme, hcore]

/-- What a register of the table reads after a write. -/
theorem read_self_of_hasPut {s t : State} {n : Nat} {v : Word} (h : HasPut s t n v) : ∀ row ∈ csrRows, n = row.1 → row.2.2 t =
      if row.1 = 0x000 then wordOf (32 + b2n (v.getLsbD 0 || !featureOn s 4))
      else if row.1 = 0x001 then wordOf (4 * b2n (v.getLsbD 2) + 2 * b2n (s.me.mode == .runtime))
      else if row.1 = 0x011 then (v.setWidth 5).setWidth 64
      else v := by
  obtain ⟨-, hme, hcore⟩ := h
  simp only [Ctx.csrs, Core.csrs, Ctx.putCsr, Core.putCsr, Ctx.mk.injEq, Core.mk.injEq, Trace.mk.injEq, Dump.mk.injEq,
    true_and, and_true] at hme hcore
  simp +contextual [csrRows, csrRows1, csrRows2, csrRows3, hme, hcore]

/-! What the three writing instructions leave under a mask (R107). -/

section
variable {op : (SOp → SOp → BitVec 12 → Instr) × (Word → Word → Word → Word)}

/-- A bit that the mask leaves out stays. -/
theorem getLsbD_of_csrWriteRows (h : op ∈ csrWriteRows) {m : Word} {i : Nat} (hi : i < 64) (hm : m.getLsbD i = false) (old v : Word) :
    (op.2 old m v).getLsbD i = old.getLsbD i := by
  simp only [csrWriteRows, List.mem_cons, List.not_mem_nil, or_false] at h
  rcases h with rfl | rfl | rfl <;>
    simp only [BitVec.getLsbD_or, BitVec.getLsbD_and, BitVec.getLsbD_not, hm, hi, decide_true, Bool.and_false, Bool.or_false,
      Bool.not_false, Bool.and_true]

/-- NBVER is known from its bit 0 (R107). -/
theorem nbver_of_csrWriteRows (h : op ∈ csrWriteRows) (p : Bool) (v : Word) :
    wordOf (32 + b2n ((op.2 (wordOf (32 + b2n p)) (BitVec.ofNat 64 1) v).getLsbD 0)) = op.2 (wordOf (32 + b2n p)) (BitVec.ofNat 64 1) v := by
  have hv : v &&& BitVec.ofNat 64 1 = if v.getLsbD 0 then BitVec.ofNat 64 1 else 0 := BitVec.and_twoPow v 0
  simp only [csrWriteRows, List.mem_cons, List.not_mem_nil, or_false] at h
  rcases h with rfl | rfl | rfl <;> simp only [hv] <;> generalize v.getLsbD 0 = q <;> revert p q <;> decide

/-- The mode of a context is not in the RW field of its register (R107). -/
theorem ctl_of_csrWriteRows (h : op ∈ csrWriteRows) (p r : Bool) (v : Word) :
    wordOf (4 * b2n ((op.2 (wordOf (4 * b2n p + 2 * b2n r)) (BitVec.ofNat 64 4) v).getLsbD 2) + 2 * b2n r) =
      op.2 (wordOf (4 * b2n p + 2 * b2n r)) (BitVec.ofNat 64 4) v := by
  have hv : v &&& BitVec.ofNat 64 4 = if v.getLsbD 2 then BitVec.ofNat 64 4 else 0 := BitVec.and_twoPow v 2
  simp only [csrWriteRows, List.mem_cons, List.not_mem_nil, or_false] at h
  rcases h with rfl | rfl | rfl <;> simp only [hv] <;> generalize v.getLsbD 2 = q <;> revert p r q <;> decide

/-- FPSTAT has five bits (R122). -/
theorem fpstat_of_csrWriteRows (h : op ∈ csrWriteRows) (f : BitVec 5) (v : Word) :
    ((op.2 (f.setWidth 64) (BitVec.ofNat 64 0x1F) v).setWidth 5).setWidth 64 = op.2 (f.setWidth 64) (BitVec.ofNat 64 0x1F) v := by
  refine BitVec.eq_of_getLsbD_eq fun i hi => ?_
  rw [BitVec.getLsbD_setWidth, BitVec.getLsbD_setWidth]
  rcases lt_or_ge i 5 with h5 | h5
  · simp [h5, hi]
  · have hm : (BitVec.ofNat 64 0x1F).getLsbD i = false := by
      rw [BitVec.getLsbD_ofNat, Nat.testBit_lt_two_pow ((by decide : 0x1F < 2 ^ 5).trans_le (Nat.pow_le_pow_right (by decide) h5)),
        Bool.and_false]
    rw [getLsbD_of_csrWriteRows h hi hm, BitVec.getLsbD_setWidth, BitVec.getLsbD_of_ge f i h5]
    simp [show ¬ i < 5 by omega]

end

/-! A write as its instruction stores it (R107, R109). -/

/-- The registers of a context that a write changes at once. -/
def ctxCsrs : List Nat := [0x000, 0x001, 0x005, 0x006, 0x00F, 0x010, 0x011, 0x021, 0x024, 0x027, 0x02C, 0x043, 0x04E, 0x050]

/-- The registers of a core that a write changes at once. -/
def coreCsrs : List Nat := [0x030, 0x032, 0x034, 0x037]

/-- The registers of a core that other units read, which a write changes at the end of its clock. -/
def lateCsrs : List Nat := [0x03B, 0x03E, 0x048]

theorem Core.putCsr_of_ctxCsrs (k : Core) (v : Word) : ∀ n ∈ ctxCsrs, k.putCsr n v = k := by
  simp [ctxCsrs, Core.putCsr]
theorem Core.putCsr_of_trapRegs (k : Core) (v : Word) : ∀ n ∈ trapRegs, k.putCsr n v = k := by
  simp [trapRegs, Core.putCsr]
theorem Ctx.putCsr_of_coreCsrs (x : Ctx) (v2 : Bool) (v : Word) : ∀ n ∈ coreCsrs, x.putCsr v2 n v = x := by
  simp [coreCsrs, Ctx.putCsr]
theorem Ctx.putCsr_of_lateCsrs (x : Ctx) (v2 : Bool) (v : Word) : ∀ n ∈ lateCsrs, x.putCsr v2 n v = x := by
  simp [lateCsrs, Ctx.putCsr]

/-- A change of a core that writes a register of the table: at once, or with the late writes of its clock for slot `t`. -/
structure PutsCore (g : Core → Core) (t n : Nat) (v : Word) : Prop where
  ctxs : ∀ k m, g { k with ctxs := m } = { g k with ctxs := m }
  spad : ∀ k, (g k).spad = k.spad
  csrs : ∀ k, k.late = [] → (applyLate (g k)).csrs = k.csrs.putCsr n v
  slot : ∀ k, k.late = [] → (applyLate (g k)).ctxs = k.ctxs ∨
    (applyLate (g k)).ctxs = k.ctxs.map fun p => if p.1 = t then (p.1, p.2.setTrapReg n v) else p

/-- The registers of the context that are written at once. -/
theorem putsCore_id {n : Nat} (t : Nat) (v : Word) (h : n ∈ ctxCsrs) : PutsCore id t n v where
  ctxs _ _ := rfl
  spad _ := rfl
  csrs k hk := by rw [Core.putCsr_of_ctxCsrs _ _ n h, applyLate, id_eq, hk]; rfl
  slot k hk := .inl (by rw [applyLate, id_eq, hk]; rfl)

/-- The registers of the core that are written at once. -/
theorem putsCore_putCsr (t n : Nat) (v : Word) : PutsCore (·.putCsr n v) t n v where
  ctxs _ _ := rfl
  spad _ := rfl
  csrs k hk := by rw [applyLate, show (k.putCsr n v).late = [] from hk]; rfl
  slot k hk := .inl (by rw [applyLate, show (k.putCsr n v).late = [] from hk]; rfl)

/-- A core with one more late write. -/
def Core.addsLate (k : Core) (w : LateWrite) : Core := { k with late := k.late ++ [w] }

/-- What a trap register's late write leaves of the core. -/
theorem putsCore_addsLate {n t : Nat} {v : Word} (hn : n ∈ trapRegs) :
    PutsCore (·.addsLate { num := n, sel := t, value := v }) t n v := by
  have hl (k : Core) (hk : k.late = []) : applyLate (k.addsLate { num := n, sel := t, value := v }) =
      { k with ctxs := k.ctxs.map fun p => if p.1 = t then (p.1, p.2.setTrapReg n v) else p, late := [] } := by
    rw [applyLate, Core.addsLate, hk]
    revert n
    simp [trapRegs, applyWrite]
  exact ⟨fun _ _ => rfl, fun _ => rfl, fun k hk => by rw [hl k hk, Core.putCsr_of_trapRegs _ _ n hn]; rfl,
    fun k hk => .inr (by rw [hl k hk])⟩

/-- The registers that the trace encoder, the dump writer and the domain read. -/
theorem putsCore_late {n t sel : Nat} (v w : Word) (hn : n ∈ lateCsrs) :
    PutsCore (fun k => (k.putCsr n w).addsLate { num := n, sel := sel, value := v }) t n v := by
  have hl (k : Core) (hk : k.late = []) : applyLate ((k.putCsr n w).addsLate { num := n, sel := sel, value := v }) =
      { k.putCsr n v with late := [] } := by
    rw [applyLate, Core.addsLate, show (k.putCsr n w).late = [] from hk]
    revert n
    simp [lateCsrs, Core.putCsr, applyWrite]
  exact ⟨fun _ _ => rfl, fun _ => rfl, fun k hk => by rw [hl k hk]; rfl, fun k hk => .inl (by rw [hl k hk]; rfl)⟩

theorem csrKinds : ∀ row ∈ csrRows, row.1 ∈ ctxCsrs ∨ row.1 ∈ trapRegs ∨ row.1 ∈ coreCsrs ∨ row.1 ∈ lateCsrs := by
  simp [csrRows, csrRows1, csrRows2, csrRows3, ctxCsrs, trapRegs, coreCsrs, lateCsrs]

section
variable {n : Nat} (v : Word) (s : State)

theorem csrStore_of_ctxCsrs (h : n ∈ ctxCsrs) : csrStore s s.cur.core s.cur.slot n v =
    s.updMe fun x => x.putCsr (featureOn s 4) n v := by
  revert n
  simp [ctxCsrs, csrStore, csrLate, trapRegs, csrSet, Ctx.putCsr, State.updMe, State.updCtx]

theorem csrStore_of_trapRegs (h : n ∈ trapRegs) : csrStore s s.cur.core s.cur.slot n v =
    (s.updMe fun x => x.putCsr (featureOn s 4) n v).updMyCore (·.addsLate { num := n, sel := s.cur.slot, value := v }) := by
  revert n
  simp [trapRegs, csrStore, csrLate, csrSet, Ctx.putCsr, Ctx.setTrapReg, State.updMe, State.updCtx, State.updMyCore, Core.addsLate, lateSel]

theorem csrStore_of_coreCsrs (h : n ∈ coreCsrs) : csrStore s s.cur.core s.cur.slot n v = s.updMyCore (·.putCsr n v) := by
  revert n
  simp [coreCsrs, csrStore, csrLate, trapRegs, csrSet, Core.putCsr, State.updMyCore]

theorem csrStore_of_lateCsrs (h : n ∈ lateCsrs) : ∃ w, csrStore s s.cur.core s.cur.slot n v =
    s.updMyCore fun k => (k.putCsr n w).addsLate { num := n, sel := 0, value := v } := by
  refine ⟨(csrPeek s s.cur.core s.cur.slot n &&& ~~~wordOf 0) ||| (v &&& wordOf 0), ?_⟩
  revert n
  simp [lateCsrs, csrStore, csrLate, trapRegs, csrSet, Core.putCsr, State.updMyCore, csrW1C, lateSel, Core.addsLate, State.updCore_updCore]

end

/-- A write of a register of the table changes the context, whose slot its core lists, and its core (R107, R109). -/
theorem csrStore_of_csrRows {row : Nat × Nat × (State → Word)} (h : row ∈ csrRows) (v : Word) {s : State}
    (hs : s.updMe (fun x => x) = s) : ∃ g, PutsCore g s.cur.slot row.1 v ∧ csrStore s s.cur.core s.cur.slot row.1 v =
      (s.updMe fun x => x.putCsr (featureOn s 4) row.1 v).updMyCore g := by
  obtain ⟨n, m, r⟩ := row
  rcases csrKinds _ h with hn | hn | hn | hn
  · refine ⟨id, putsCore_id _ v hn, (csrStore_of_ctxCsrs v s hn).trans ?_⟩
    simp [State.updMe, State.updCtx, State.setCtx, State.updMyCore, State.updCore]
  · exact ⟨_, putsCore_addsLate hn, csrStore_of_trapRegs v s hn⟩
  · rw [(State.updMe_congr (g := fun x => x) (Ctx.putCsr_of_coreCsrs s.me _ v n hn)).trans hs]
    exact ⟨_, putsCore_putCsr _ n v, csrStore_of_coreCsrs v s hn⟩
  · obtain ⟨w, hw⟩ := csrStore_of_lateCsrs v s hn
    rw [(State.updMe_congr (g := fun x => x) (Ctx.putCsr_of_lateCsrs s.me _ v n hn)).trans hs]
    exact ⟨_, putsCore_late v w hn, hw⟩

/-! The three writing instructions at their issue (R106, R107, R109). -/

theorem mgetD_map_at {α : Type} (m : Map α) (t : Nat) (d : α) (f : α → α) :
    mgetD (m.map fun p => if p.1 = t then (p.1, f p.2) else p) t d = mgetD m t d ∨
      mgetD (m.map fun p => if p.1 = t then (p.1, f p.2) else p) t d = f (mgetD m t d) := by
  have hm : (m.map fun p => if p.1 = t then (p.1, f p.2) else p) = m.map fun p => (p.1, if p.1 = t then f p.2 else p.2) :=
    List.map_congr_left fun p _ => by split <;> rfl
  rw [mgetD, hm, mget_map_key (f := fun a x => if a = t then f x else x), mgetD]
  cases mget m t with
  | none => exact .inl rfl
  | some x => exact .inr (by simp)

/-- A trap register that is written twice holds the value (R109). -/
theorem setTrapReg_putCsr (x : Ctx) (v2 : Bool) (n : Nat) (v : Word) :
    ((x.putCsr v2 n v).setTrapReg n v).csrs = (x.putCsr v2 n v).csrs := by
  unfold Ctx.setTrapReg
  split <;> simp [Ctx.putCsr, Ctx.csrs]

/-- What the units outside see of a write from the next clock on (R109). -/
theorem hasPut_applyLate {g : Core → Core} {s u : State} {n : Nat} {v : Word} {x : Ctx} (hg : PutsCore g s.cur.slot n v)
    (hslot : u.cur.slot = s.cur.slot) (hlate : u.myCore.late = []) (hcore : u.myCore.csrs = s.myCore.csrs)
    (hme : u.me = x.putCsr (featureOn s 4) n v) (hx : x.csrs = s.me.csrs) :
    HasPut s ((u.updMyCore g).updMyCore applyLate) n v := by
  have hcsrs : (x.putCsr (featureOn s 4) n v).csrs = s.me.csrs.putCsr (featureOn s 4) n v := hx ▸ rfl
  refine ⟨hslot, ?_, ?_⟩
  · rw [State.me_updMyCore, State.myCore_updMyCore, State.updMyCore_cur, ← hcsrs, ← hme]
    have hctx : mgetD u.myCore.ctxs u.cur.slot {} = u.me := rfl
    rcases hg.slot u.myCore hlate with h | h <;> rw [h]
    · rfl
    · rw [← hslot]
      rcases mgetD_map_at u.myCore.ctxs u.cur.slot {} (·.setTrapReg n v) with h | h <;> rw [h, hctx]
      rw [hme, setTrapReg_putCsr]
  · rw [State.myCore_updMyCore, State.myCore_updMyCore, hg.csrs _ hlate, hcore]

/-- What the model makes of a row of the writing instructions. -/
structure CsrWriteRow (op : (SOp → SOp → BitVec 12 → Instr) × (Word → Word → Word → Word)) (o : CsrOp) : Prop where
  exec_eq : ∀ d x n s, exec (op.1 d x n) s = issueOps (op.1 d x n) (csrInstr d n.toNat (some o)) s
  srcs_eq : ∀ d x n, srcs (op.1 d x n) = [.s x]
  len : ∀ d x n, instrLen (op.1 d x n) = 1
  merge : ∀ n old v, csrW1C n = 0 → csrMerge n o old v = op.2 old (wordOf (csrMask n)) v

theorem csrWriteRow_of_csrWriteRows {op : (SOp → SOp → BitVec 12 → Instr) × (Word → Word → Word → Word)} (h : op ∈ csrWriteRows) :
    ∃ o, CsrWriteRow op o := by
  have hz (a v : Word) : a &&& ~~~(v &&& wordOf 0) = a := by
    rw [wordOf, BitVec.and_zero, BitVec.not_zero, BitVec.and_allOnes]
  simp only [csrWriteRows, List.mem_cons, List.not_mem_nil, or_false] at h
  rcases h with rfl | rfl | rfl
  · exact ⟨.w, fun _ _ _ _ => rfl, fun _ _ _ => rfl, fun _ _ _ => rfl, fun n old v h =>
      (congrArg (fun m => _ &&& ~~~(v &&& wordOf m)) h).trans (hz _ v)⟩
  · exact ⟨.s, fun _ _ _ _ => rfl, fun _ _ _ => rfl, fun _ _ _ => rfl, fun _ _ _ _ => rfl⟩
  · exact ⟨.c, fun _ _ _ _ => rfl, fun _ _ _ => rfl, fun _ _ _ => rfl, fun n old v h =>
      (congrArg (fun m => _ &&& ~~~(v &&& wordOf m)) h).trans (hz _ v)⟩

/-- Registers of the table have RW fields alone, and no action (R107). -/
theorem csrRows_plain : ∀ row ∈ csrRows, csrMask row.1 = row.2.1 ∧ csrW1C row.1 = 0 ∧ (∀ o v, csrIdle row.1 o v = false) ∧
    (∀ s c o old new v, csrAction s c row.1 o old new v = none) ∧ row.1 ≠ 0x020 ∧ (row.1, row.2.2) ∈ csrReadRows := by
  have hr : ∀ row ∈ csrRows, (row.1, row.2.2) ∈ csrReadRows := fun row hrow =>
    List.mem_append_left _ (List.mem_map_of_mem hrow)
  intro row hrow
  refine ⟨?_, ?_, ?_, ?_, ?_, hr row hrow⟩ <;> revert row <;>
    simp [csrRows, csrRows1, csrRows2, csrRows3, csrMask, csrW1C, csrIdle, csrAction]

/-- The effect of a writing instruction on a register of the table. -/
theorem csrInstr_write {op : (SOp → SOp → BitVec 12 → Instr) × (Word → Word → Word → Word)} {o : CsrOp} (ho : CsrWriteRow op o)
    {row : Nat × Nat × (State → Word)} (hrow : row ∈ csrRows) (d : SOp) (vs : List VWord) (s : State) :
    csrInstr d row.1 (some o) vs s = csrStore (putS s d (row.2.2 s)) s.cur.core s.cur.slot row.1
      (op.2 (row.2.2 s) (wordOf row.2.1) (arg vs 0)) := by
  obtain ⟨hmask, hw1c, hidle, hact, h20, hread⟩ := csrRows_plain row hrow
  have hev (k : Core) (old : Word) : eventBits k row.1 old = 0#64 := by
    simp [eventBits, hw1c, wordOf]
  simp only [csrInstr, csrRead_of_csrReadRows hread, h20, false_and, if_false, hidle, Bool.false_eq_true, hact, hev,
    ho.merge _ _ _ hw1c, hmask, BitVec.or_zero]

/-- A context that a CSR instruction has changed: the old value in a register, and the new one in its place. -/
def Ctx.writesCsr (x : Ctx) (d : Fin 48) (old : Word) (v2 : Bool) (n : Nat) (v : Word) : Ctx := (x.setX d old).putCsr v2 n v

theorem Ctx.writesCsr_setBlk (x : Ctx) (b : Option Blk) (d : Fin 48) (old : Word) (v2 : Bool) (n : Nat) (v : Word) :
    (x.setBlk b).writesCsr d old v2 n v = (x.writesCsr d old v2 n v).setBlk b := by
  rw [Ctx.writesCsr, Ctx.setX_setBlk]
  rfl

theorem Ctx.setX_csrs (x : Ctx) (d : Fin 48) (w : Word) : (x.setX d w).csrs = x.csrs := by
  unfold Ctx.setX
  split <;> rfl

theorem Ctx.setX_frame (x : Ctx) (d : Fin 48) (w : Word) : (x.setX d w).v = x.v ∧ (x.setX d w).k = x.k ∧ (x.setX d w).pc = x.pc := by
  unfold Ctx.setX
  split <;> exact ⟨rfl, rfl, rfl⟩

theorem Ctx.setX_x_congr {x y : Ctx} (h : x.x = y.x) (d : Fin 48) (w : Word) : (x.setX d w).x = (y.setX d w).x := by
  unfold Ctx.setX
  split
  · exact h
  · exact congrArg (Vector.set · d.val w d.isLt) h

theorem Ctx.writesCsr_blk (x : Ctx) (d : Fin 48) (old : Word) (v2 : Bool) (n : Nat) (v : Word) :
    (x.writesCsr d old v2 n v).blk = x.blk := x.setX_blk d old
theorem Ctx.writesCsr_halted (x : Ctx) (d : Fin 48) (old : Word) (v2 : Bool) (n : Nat) (v : Word) :
    (x.writesCsr d old v2 n v).halted = x.halted := x.setX_halted d old

section
variable {g : Core → Core} {t n : Nat} {v : Word} (hg : PutsCore g t n v)
include hg

theorem PutsCore.ctxs_eq (k : Core) : (g k).ctxs = k.ctxs := (congrArg Core.ctxs (hg.ctxs k k.ctxs) :)

theorem PutsCore.me_eq (s : State) : (s.updMyCore g).me = s.me := me_updMyCore_of_ctxs (hg.ctxs_eq _)

theorem PutsCore.complete_eq (s : State) : complete (s.updMyCore g) = (complete s).updMyCore g := updMyCore_updMe hg.ctxs s _

end

section
variable {op : (SOp → SOp → BitVec 12 → Instr) × (Word → Word → Word → Word)} {o : CsrOp} (ho : CsrWriteRow op o)
  {row : Nat × Nat × (State → Word)} (hrow : row ∈ csrRows) {d a : Fin 48} {s : State} {i : Instr}
  (hi : i = op.1 (.x d) (.x a) (BitVec.ofNat 12 row.1)) (h : issues i s = true)
include ho hrow hi h

/-- The effect of a CSR instruction in its block, as a change of its context and its core. -/
theorem csrInstr_write_blocks : ∃ g, PutsCore g s.cur.slot row.1 (op.2 (row.2.2 s) (wordOf row.2.1) (s.me.getX a)) ∧
    csrInstr (.x d) (BitVec.ofNat 12 row.1).toNat (some o) (srcVals i s) (blocks i 0 0 (srcVals i s) s) =
      ((blocks i 0 0 (srcVals i s) s).updMe fun x => x.writesCsr d (row.2.2 s) (featureOn s 4) row.1
        (op.2 (row.2.2 s) (wordOf row.2.1) (s.me.getX a))).updMyCore g := by
  obtain ⟨-, -, -, -, -, hread⟩ := csrRows_plain row hrow
  have hstill := still_blocks h 0 0 (srcVals i s)
  have hold : row.2.2 (blocks i 0 0 (srcVals i s) s) = row.2.2 s :=
    read_of_sameCsrs (sameCsrs_blocks h 0 0 _) (row.1, row.2.2) hread
  have harg : arg (srcVals i s) 0 = s.me.getX a := by
    rw [srcVals, hi, ho.srcs_eq]
    exact w64_v128 _
  have hfeat : featureOn (blocks i 0 0 (srcVals i s) s) 4 = featureOn s 4 := by rw [featureOn, hstill.mgmt_eq, featureOn]
  rw [toNat_ofNat_of_csrReadRows hread, csrInstr_write ho hrow, hold, harg]
  obtain ⟨g, hg, hstore⟩ := csrStore_of_csrRows hrow (op.2 (row.2.2 s) (wordOf row.2.1) (s.me.getX a))
    (s := (blocks i 0 0 (srcVals i s) s).updMe fun x => x.setX d (row.2.2 s)) (State.updMe_updMe ..)
  rw [State.updMe_cur, hstill.cur_eq] at hg hstore
  refine ⟨g, hg, ?_⟩
  rw [hstill.cur_eq]
  refine hstore.trans ?_
  rw [State.updMe_updMe]
  exact congrArg (fun v2 => (State.updMe _ fun x => (x.setX d (row.2.2 s)).putCsr v2 _ _).updMyCore g) hfeat

/-- A CSR instruction that writes a register of the table issues, and changes its context and its core. -/
theorem exec_csrWrite : ∃ g, PutsCore g s.cur.slot row.1 (op.2 (row.2.2 s) (wordOf row.2.1) (s.me.getX a)) ∧
    exec i s = .next (((issued i s).updMe fun x => x.writesCsr d (row.2.2 s) (featureOn s 4) row.1
      (op.2 (row.2.2 s) (wordOf row.2.1) (s.me.getX a))).updMyCore g) := by
  obtain ⟨g, hg, he⟩ := csrInstr_write_blocks ho hrow hi h
  refine ⟨g, hg, ?_⟩
  have hexec : exec i s = issueOps i (csrInstr (.x d) (BitVec.ofNat 12 row.1).toNat (some o)) s := by rw [hi, ho.exec_eq]
  have hr : ∀ o ∈ srcs i, o.port? = none := port?_of_regSrc (by rw [hi, ho.srcs_eq])
  rw [hexec, issueOps_completes h hr he (by rw [hg.me_eq, State.me_updMe, Ctx.writesCsr_blk])
    (by rw [hg.me_eq, State.me_updMe, Ctx.writesCsr_halted, blocks_halted h]), hg.complete_eq,
    complete_updMe (fun x b => x.writesCsr_setBlk b ..), complete_blocks]

end

theorem issued_me {i : Instr} {s : State} (h : issues i s = true) : (issued i s).me =
    ({ s.me with walking := none }.issue i (s.myCore.issueSeq + 1) s.nextId (s.clk s.cur.core)).setBlk none := by
  rw [issued, complete_me, noteIssue_me h]

theorem still_issued {i : Instr} {s : State} (h : issues i s = true) : Still s (issued i s) := by
  rw [issued, complete_eq]
  exact (still_noteIssue h).trans (still_updMe ..)

/-- The registers of the table that hold less than a word. -/
theorem csrRows_narrow : ∀ row ∈ csrRows, (row.1 = 0x000 → row.2.1 = 1 ∧ ∀ s, row.2.2 s = wordOf (32 + b2n s.me.nbv2)) ∧
    (row.1 = 0x001 → row.2.1 = 4 ∧ ∀ s, row.2.2 s = wordOf (4 * b2n s.me.lkchk + 2 * b2n (s.me.mode == .runtime))) ∧
    (row.1 = 0x011 → row.2.1 = 0x1F ∧ ∀ s, row.2.2 s = s.me.fpstat.setWidth 64) := by
  simp [csrRows, csrRows1, csrRows2, csrRows3]

/-- What the register that is written reads in the end (R107, R347). -/
theorem read_written {op : (SOp → SOp → BitVec 12 → Instr) × (Word → Word → Word → Word)} (hop : op ∈ csrWriteRows)
    {row : Nat × Nat × (State → Word)} (hrow : row ∈ csrRows) {s t : State} {v : Word}
    (h : HasPut s t row.1 (op.2 (row.2.2 s) (wordOf row.2.1) v)) : row.2.2 t =
      if row.1 = 0x000 ∧ featureOn s 4 = false then 33 else op.2 (row.2.2 s) (wordOf row.2.1) v := by
  obtain ⟨h0, h1, h11⟩ := csrRows_narrow row hrow
  rw [read_self_of_hasPut h row hrow rfl]
  by_cases hn : row.1 = 0x000
  · obtain ⟨hm, hr⟩ := h0 hn
    rw [if_pos hn, hm, hr]
    cases hf : featureOn s 4 with
    | false =>
      rw [if_pos ⟨hn, rfl⟩, Bool.not_false, Bool.or_true]
      rfl
    | true =>
      rw [if_neg (by simp), Bool.not_true, Bool.or_false]
      exact nbver_of_csrWriteRows hop _ v
  rw [if_neg hn, if_neg (c := row.1 = 0x000 ∧ _) fun h => hn h.1]
  by_cases hn : row.1 = 0x001
  · obtain ⟨hm, hr⟩ := h1 hn
    rw [if_pos hn, hm, hr]
    exact ctl_of_csrWriteRows hop _ _ v
  rw [if_neg hn]
  by_cases hn : row.1 = 0x011
  · obtain ⟨hm, hr⟩ := h11 hn
    rw [if_pos hn, hm, hr]
    exact fpstat_of_csrWriteRows hop _ v
  rw [if_neg hn]

/-- An issue keeps the registers, and moves the program counter (R78). -/
theorem issued_regs {i : Instr} {s : State} (h : issues i s = true) : (issued i s).me.x = s.me.x ∧ (issued i s).me.v = s.me.v ∧
    (issued i s).me.k = s.me.k ∧ (issued i s).me.pc = (s.me.pc + 4 * instrLen i) % 2 ^ 52 ∧ (issued i s).me.csrs = s.me.csrs := by
  rw [issued_me h]
  exact ⟨rfl, rfl, rfl, rfl, rfl⟩

theorem csrWrites : Clause.CsrWrites := by
  intro op hop row hrow d a s h hlate
  obtain ⟨o, ho⟩ := csrWriteRow_of_csrWriteRows hop
  obtain ⟨g, hg, hexec⟩ := exec_csrWrite ho hrow rfl h
  have hlen := ho.len (.x d) (.x a) (BitVec.ofNat 12 row.1)
  generalize op.1 (.x d) (.x a) (BitVec.ofNat 12 row.1) = i at h hexec hlen ⊢
  have hstill := still_issued h
  have hmy := hstill.myCore_eq
  obtain ⟨hx, hv, hk, hpc, hcsrs⟩ := issued_regs h
  rw [hlen] at hpc
  obtain ⟨hfv, hfk, hfpc⟩ := (issued i s).me.setX_frame d (row.2.2 s)
  have hput := hasPut_applyLate hg (congrArg Cur.slot hstill.cur_eq) (u := (issued i s).updMe fun x =>
      x.writesCsr d (row.2.2 s) (featureOn s 4) row.1 (op.2 (row.2.2 s) (wordOf row.2.1) (s.me.getX a)))
    (by rw [State.myCore_updMe]; exact (congrArg Core.late hmy).trans hlate)
    (by rw [State.myCore_updMe]; exact (congrArg Core.csrs hmy :)) (State.me_updMe ..) ((Ctx.setX_csrs ..).trans hcsrs)
  refine ⟨_, hexec, read_written hop hrow hput, ?_, ?_, ?_, ?_, read_other_of_hasPut hput, ?_, ?_, ?_⟩
  · rw [hg.me_eq, State.me_updMe]
    exact Ctx.setX_x_congr hx ..
  · rw [hg.me_eq, State.me_updMe]
    exact hfv.trans hv
  · rw [hg.me_eq, State.me_updMe]
    exact hfk.trans hk
  · rw [hg.me_eq, State.me_updMe]
    exact hfpc.trans hpc
  · rw [State.myCore_updMyCore, hg.spad, State.myCore_updMe]
    exact (congrArg Core.spad hmy :)
  · rw [State.updMyCore_hbm, State.updMe_hbm, hstill.package]
  · rw [State.updMyCore_host, State.updMe_host, hstill.package]

/-- Settles O9, clause by clause. -/
theorem csrInstructions : Obligations.CsrInstructions := ⟨csrReads, csrWrites⟩

end Sys2Proof.Machine
end

section
/-! PROOFS. What register writes that act leave of blocked contexts (spec/07, R165 to R168; spec/08, R212; spec/09, R219 to R233): each
context stays in the instruction in which it is blocked, or is out of it. -/

namespace Sys2Proof.Machine

/-! No context begins an instruction. -/

/-- Each context is in the instruction in which it was blocked before, or in none. -/
structure NoneBegins (s t : State) : Prop where
  cur : t.cur = s.cur
  blk : ∀ c u, (t.ctx c u).blk = (s.ctx c u).blk ∨ (t.ctx c u).blk = none

theorem NoneBegins.refl (s : State) : NoneBegins s s := ⟨rfl, fun _ _ => .inl rfl⟩

theorem NoneBegins.trans {s t u : State} (h : NoneBegins s t) (h' : NoneBegins t u) : NoneBegins s u := by
  refine ⟨h'.cur.trans h.cur, fun c n => ?_⟩
  rcases h'.blk c n with h1 | h1
  · rw [h1]
    exact h.blk c n
  · exact .inr h1

theorem NoneBegins.of_cores {s t : State} (hc : t.cur = s.cur) (hk : t.cores = s.cores) : NoneBegins s t :=
  ⟨hc, fun c u => .inl (by rw [State.ctx, State.core, hk, State.ctx, State.core])⟩

theorem NoneBegins.of_keepsCores {s t : State} (h : KeepsCores s t) : NoneBegins s t :=
  ⟨h.cur, fun c u => .inl (by rw [h.ctx_eq])⟩

theorem NoneBegins.foldl {α : Type} {f : State → α → State} (h : ∀ s a, NoneBegins s (f s a)) (l : List α) (s : State) :
    NoneBegins s (l.foldl f s) := by
  induction l generalizing s with
  | nil => exact .refl s
  | cons a l ih => exact (h s a).trans (ih _)

theorem noneBegins_setCore {s : State} {c : Nat} {k : Core}
    (h : ∀ u, (mgetD k.ctxs u {}).blk = (s.ctx c u).blk ∨ (mgetD k.ctxs u {}).blk = none) : NoneBegins s (s.setCore c k) := by
  refine ⟨rfl, fun a u => ?_⟩
  by_cases ha : a = c
  · rw [ha, State.ctx, State.core_setCore_self]
    exact h u
  · rw [State.ctx, State.core_setCore_ne _ _ ha]
    exact .inl rfl

theorem noneBegins_updCore {s : State} {c : Nat} {f : Core → Core} (h : (f (s.core c)).ctxs = (s.core c).ctxs) :
    NoneBegins s (s.updCore c f) :=
  noneBegins_setCore fun u => .inl (by rw [h, State.ctx])

/-- A change of every context of a core. -/
theorem noneBegins_updCore_map {s : State} {c : Nat} {f : Core → Core} {g : Nat → Ctx → Ctx}
    (h : (f (s.core c)).ctxs = (s.core c).ctxs.map fun p => (p.1, g p.1 p.2)) (hg : ∀ n x, (g n x).blk = x.blk ∨ (g n x).blk = none) :
    NoneBegins s (s.updCore c f) := by
  refine noneBegins_setCore fun u => ?_
  rw [h, State.ctx, mgetD, mget_map_key (f := g), mgetD]
  cases mget (s.core c).ctxs u with
  | none => exact .inl rfl
  | some x => exact hg u x

theorem noneBegins_setCtx {s : State} {c t : Nat} {x : Ctx} (h : x.blk = (s.ctx c t).blk ∨ x.blk = none) :
    NoneBegins s (s.setCtx c t x) := by
  refine noneBegins_setCore fun u => ?_
  by_cases hu : u = t
  · rw [hu, mgetD_mset_self]
    exact h
  · rw [mgetD_mset_ne _ _ _ hu]
    exact .inl rfl

theorem noneBegins_updCtx (s : State) (c t : Nat) {f : Ctx → Ctx} (h : ∀ x, (f x).blk = x.blk) : NoneBegins s (s.updCtx c t f) :=
  noneBegins_setCtx (.inl (h _))

/-! Trace records. -/

/-- What finding the home of a record leaves: the cores but for lost translations, the messages, and identities above those
given out. -/
structure FindsHome (s t : State) : Prop where
  keeps : KeepsCores s t
  msgs : t.msgs = s.msgs
  nextId : s.nextId ≤ t.nextId

theorem FindsHome.trans {s t u : State} (h : FindsHome s t) (h' : FindsHome t u) : FindsHome s u :=
  ⟨h.keeps.trans h'.keeps, h'.msgs.trans h.msgs, h.nextId.trans h'.nextId⟩

theorem FindsHome.of_eq {s t : State} (hc : t.cur = s.cur) (hw : t.sweep = s.sweep) (hk : t.cores = s.cores) (hm : t.msgs = s.msgs)
    (hn : s.nextId ≤ t.nextId) : FindsHome s t := ⟨.of_eq hc hw hk, hm, hn⟩

theorem updUnit_findsHome (s : State) (d : Nat) (f : Plain → Plain) : FindsHome s (updUnit s d f) := by
  have hf : (updUnit s d f).msgs = s.msgs ∧ (updUnit s d f).nextId = s.nextId := by
    unfold updUnit
    split <;> exact ⟨rfl, rfl⟩
  exact ⟨updUnit_keepsCores .., hf.1, hf.2.ge⟩

theorem dropLastParity_findsHome (s : State) (d job va : Nat) : FindsHome s (dropLastParity s d job va) := by
  refine ⟨dropLastParity_keepsCores .., ?_, ?_⟩ <;> unfold dropLastParity parityDropped evicted updUnit
  · repeat' split
    all_goals rfl
  · repeat' split
    all_goals exact le_rfl

theorem startMiss_findsHome {s t : State} {m : Miss} (h : startMiss s m = some t) : FindsHome s t := by
  simp only [startMiss, State.newId, State.fresh] at h
  cases hw : (unitPlain s m.die).walks.find? (·.serves m.job m.va) with
  | some w =>
    simp only [hw] at h
    split at h
    · cases h
    · cases h
      exact updUnit_findsHome ..
  | none =>
    simp only [hw] at h
    split at h
    · cases h
    · obtain rfl := Option.some.inj h
      have hs : FindsHome s { s with nextId := s.nextId + 1, free := s.free + 1 } := .of_eq rfl rfl rfl rfl (Nat.le_succ _)
      exact (hs.trans (dropLastParity_findsHome ..)).trans (updUnit_findsHome ..)

theorem engXlate_findsHome (s : State) (d job va : Nat) (k : XKind) : FindsHome s (engXlate s d job va k).2 := by
  unfold engXlate
  repeat' split
  all_goals exact .of_eq rfl rfl rfl rfl le_rfl

theorem traceHome_findsHome (s : State) (c job va : Nat) : FindsHome s (traceHome s c job va).2 := by
  have hx := engXlate_findsHome s (coreDie c) job va .write
  unfold traceHome
  generalize engXlate s (coreDie c) job va .write = r at *
  obtain ⟨x, t⟩ := r
  cases x with
  | ok pa => exact hx
  | error e =>
    dsimp only
    split
    · have ht : FindsHome s { t with held := none } := hx.trans (.of_eq rfl rfl rfl rfl le_rfl)
      cases hb : t.held.bind (startMiss { t with held := none }) with
      | none => exact ht
      | some w =>
        obtain ⟨m, -, hm⟩ := Option.bind_eq_some_iff.mp hb
        exact ht.trans (startMiss_findsHome hm)
    · exact hx

/-- A message is on its way that was not: cores change only by lost translations. -/
structure Sends (s w : State) (i : Issuer) (a : MsgAct) : Prop where
  keeps : KeepsCores s w
  msg : ∃ id m, s.nextId ≤ id ∧ id < w.nextId ∧ m.issuer = i ∧ m.act = a ∧ w.msgs = mset s.msgs id m

theorem FindsHome.sends {s t w : State} {i : Issuer} {a : MsgAct} (h : FindsHome s t) (h' : Sends t w i a) : Sends s w i a := by
  obtain ⟨id, m, hlo, hhi, hi, ha, hm⟩ := h'.msg
  exact ⟨h.keeps.trans h'.keeps, id, m, h.nextId.trans hlo, hhi, hi, ha, by rw [hm, h.msgs]⟩

theorem sendMsg_sends (s : State) (m : Msg) : Sends s (sendMsg s m).2 m.issuer m.act := by
  obtain ⟨due, s', hs'⟩ : ∃ due s', s' = { s with free := s.free + 1, nextId := s.nextId + 1 } ∧ (sendMsg s m).2 =
    { countSent s' m.launch m.issuer.die with msgs := mset s'.msgs s.nextId { m with phase := .going due } } := ⟨_, _, rfl, rfl⟩
  rw [hs'.2]
  refine ⟨.of_eq ?_ ?_ ?_, s.nextId, { m with phase := .going due }, le_rfl, ?_, rfl, rfl, by rw [hs'.1]⟩ <;> rw [hs'.1]
  · exact State.updLaunch_cur ..
  · exact State.updLaunch_sweep ..
  · exact State.updLaunch_cores ..
  · exact (Nat.lt_succ_self _).trans_eq (State.updLaunch_nextId { s with free := s.free + 1, nextId := s.nextId + 1 } ..).symm

/-- A record that waits for the translation of its address is a message too. -/
theorem sendMsg_waits (s : State) {m m' : Msg} {i : Issuer} {a : MsgAct} (b : Bool) (hm : m.issuer = i ∧ m.act = a)
    (hm' : m'.issuer = i ∧ m'.act = a) : Sends s
      (if b then { (sendMsg s m).2 with msgs := mset (sendMsg s m).2.msgs (sendMsg s m).1 m' } else (sendMsg s m).2) i a := by
  have hs := sendMsg_sends s m
  obtain ⟨due, hdue⟩ : ∃ due, (sendMsg s m).2.msgs = mset s.msgs s.nextId { m with phase := .going due } := ⟨_, rfl⟩
  rw [hm.1, hm.2] at hs
  cases b with
  | false => exact hs
  | true =>
    refine ⟨hs.keeps.trans (.of_eq rfl rfl rfl), s.nextId, m', le_rfl, ?_, hm'.1, hm'.2, ?_⟩
    · exact (Nat.lt_succ_self _).trans_eq (State.updLaunch_nextId { s with free := s.free + 1, nextId := s.nextId + 1 } ..).symm
    · exact (congrArg (mset · s.nextId m') hdue).trans (mset_mset ..)

/-- A record that finds one of the eight places free goes out (R228). -/
theorem oneRecord_sends {s : State} {c : Nat} (h : (s.core c).trace.flying.length < 8) (ty slot body : Nat) : ∃ w ctl id,
    Sends s w (.trace c) (.store (natBytes 16 (ty + 16 * slot + 256 * (s.core c).trace.seq + 65536 * body))) ∧
    oneRecord s c ty slot body = w.setCore c { s.core c with trace := { (s.core c).trace with
      seq := ((s.core c).trace.seq + 1) % 256, ctl := ctl, flying := (s.core c).trace.flying ++ [id] } } := by
  unfold oneRecord
  dsimp only
  rw [if_neg (Nat.not_le.mpr h)]
  refine ⟨_, _, _, ?_, rfl⟩
  exact (traceHome_findsHome s c _ _).sends (sendMsg_waits _ _ ⟨rfl, rfl⟩ ⟨rfl, rfl⟩)

theorem oneRecord_noneBegins (s : State) (c ty slot body : Nat) : NoneBegins s (oneRecord s c ty slot body) := by
  rcases lt_or_ge (s.core c).trace.flying.length 8 with h | h
  · obtain ⟨w, ctl, id, hw, he⟩ := oneRecord_sends h ty slot body
    rw [he]
    refine (NoneBegins.of_keepsCores hw.keeps).trans (noneBegins_setCore fun u => .inl ?_)
    exact congrArg Ctx.blk (hw.keeps.ctx_eq c u).symm
  · unfold oneRecord
    dsimp only
    rw [if_pos h]
    exact noneBegins_setCore fun u => .inl rfl

theorem lostRecord_noneBegins (s : State) (c : Nat) : NoneBegins s (lostRecord s c) := by
  unfold lostRecord
  dsimp only
  split
  · exact (noneBegins_updCore rfl).trans (oneRecord_noneBegins ..)
  · exact .refl s

theorem traceRecord_noneBegins (s : State) (c ty slot body : Nat) : NoneBegins s (traceRecord s c ty slot body) :=
  (lostRecord_noneBegins s c).trans (oneRecord_noneBegins ..)

theorem flowRecord_noneBegins (s : State) (c t : Nat) : NoneBegins s (flowRecord s c t) :=
  (traceRecord_noneBegins s c ..).trans (noneBegins_setCtx (.inl rfl))

theorem syncRecord_noneBegins (s : State) (c t : Nat) : NoneBegins s (syncRecord s c t) :=
  ((traceRecord_noneBegins s c ..).trans (noneBegins_updCore rfl)).trans (noneBegins_setCtx (.inl rfl))

theorem oweSync_noneBegins (s : State) (c t : Nat) : NoneBegins s (oweSync s c t) := by
  unfold oweSync
  split
  · exact syncRecord_noneBegins ..
  · split
    · exact (flowRecord_noneBegins s c t).trans (syncRecord_noneBegins ..)
    · exact .refl s

theorem slotRecord_noneBegins (s : State) (c t ty body : Nat) : NoneBegins s (slotRecord s c t ty body) := by
  unfold slotRecord
  split
  · exact ((oweSync_noneBegins s c t).trans (flowRecord_noneBegins ..)).trans (traceRecord_noneBegins ..)
  · exact .refl s

/-! Held work, and the ends of contexts and groups. -/

theorem resumeHelper_noneBegins (s : State) (c t : Nat) : NoneBegins s (resumeHelper s c t) := by
  unfold resumeHelper
  refine NoneBegins.trans ?_ (slotRecord_noneBegins ..)
  exact noneBegins_updCtx s c t fun x => by rfl

/-- A command of a core's slot that HOLDDISP no longer holds. -/
def CmdEnt.letGo (c : Nat) (owner : Option Nat) (e : CmdEnt) : CmdEnt :=
  if e.core = c ∧ owner.all (· == e.slot) then { e with held := false } else e

/-- A core whose held work of a slot, or of every slot, is let go. -/
def Core.letsGo (c : Nat) (owner : Option Nat) (k : Core) : Core :=
  { k with
    held := k.held.filter fun h => !owner.all (· == h.owner)
    eq1 := k.eq1.map (CmdEnt.letGo c owner)
    chans := k.chans.map fun p => (p.1, { p.2 with startQ := p.2.startQ.map (CmdEnt.letGo c owner) }) }

/-- What is let go beside helpers. -/
theorem releaseHeld_true_cores (s : State) (c : Nat) (owner : Option Nat) :
    (releaseHeld s c owner true).cores = (s.updCore c (Core.letsGo c owner)).cores := rfl

theorem releaseHeld_true_noneBegins (s : State) (c : Nat) (owner : Option Nat) : NoneBegins s (releaseHeld s c owner true) :=
  (noneBegins_updCore (f := Core.letsGo c owner) rfl).trans (.of_cores rfl (releaseHeld_true_cores ..))

theorem releaseHeld_noneBegins (s : State) (c : Nat) (owner : Option Nat) (k : Bool) : NoneBegins s (releaseHeld s c owner k) := by
  cases k with
  | true => exact releaseHeld_true_noneBegins ..
  | false =>
    exact (releaseHeld_true_noneBegins s c owner).trans (NoneBegins.foldl (fun s t => resumeHelper_noneBegins s c t) _ _)

theorem setEvt_noneBegins (s : State) (c : Nat) : NoneBegins s (setEvt s c) := by
  refine noneBegins_updCore_map (g := fun _ x => x.seesEvent) ?_ fun n x => .inl ?_
  · exact List.map_congr_left fun p _ => by unfold Ctx.seesEvent; split <;> rfl
  · unfold Ctx.seesEvent
    split <;> rfl

theorem leaveLive_noneBegins {s : State} {c t : Nat} {x : Ctx} (hx : x.blk = none) : NoneBegins s (leaveLive s c t x) := by
  unfold leaveLive
  refine NoneBegins.trans ?_ ((noneBegins_setCtx (.inr hx)).trans (NoneBegins.trans (noneBegins_updCore_map
    (g := fun n x => if n = t then x else x.sawIssue t) ?_ fun n x => .inl ?_) (setEvt_noneBegins ..)))
  · split
    · exact releaseHeld_noneBegins ..
    · exact .refl s
  · exact List.map_congr_left fun p _ => by split <;> rfl
  · split <;> rfl

theorem endGroup_noneBegins (s : State) (c : Nat) (killed : Bool) : NoneBegins s (endGroup s c killed) := by
  cases hg : (s.core c).group with
  | none => simp only [endGroup, hg, NoneBegins.refl]
  | some g =>
    rw [endGroup_eq hg]
    refine ((releaseHeld_true_noneBegins s c none).trans (noneBegins_updCore_map
      (g := fun n x => x.ended (if killed ∧ n = 0 then .killed else .free)) ?_ fun n x => .inr rfl)).trans
      (.of_cores (State.updLaunch_cur ..) (State.updLaunch_cores ..))
    rfl

theorem finishGroup_noneBegins (s : State) (c : Nat) (killed : Bool) : NoneBegins s (finishGroup s c killed) := by
  have hkills : NoneBegins s (traceHelperKills s c) := NoneBegins.foldl (fun s p => by
    split
    · exact slotRecord_noneBegins ..
    · exact .refl s) _ s
  obtain ⟨p, n, hp⟩ := dropPipes_frame (endGroup (traceHelperKills s c) c killed) (gangOf s c)
  unfold finishGroup
  dsimp only
  rw [hp]
  exact (hkills.trans (endGroup_noneBegins ..)).trans (.of_cores rfl rfl)

theorem killCtx_noneBegins (s : State) (c t : Nat) (r : TrapReq) : NoneBegins s (killCtx s c t r) := by
  have hn : NoneBegins s ((slotRecord s c t 3 (r.cause + 2 ^ 8 * 3 + 2 ^ 10 * (r.pc % 2 ^ 52))).updCore c
      (·.notesKill (killRecordOf r c t))) := (slotRecord_noneBegins ..).trans (noneBegins_updCore rfl)
  have hd (u : State) : NoneBegins u (u.updCore c Core.autoDumps) := noneBegins_updCore (by unfold Core.autoDumps; split <;> rfl)
  unfold killCtx
  dsimp only
  split
  · split
    · exact hn
    · refine NoneBegins.trans ?_ (.of_keepsCores (faultTurn_keepsCores ..))
      refine NoneBegins.trans ?_ (finishGroup_noneBegins ..)
      exact (hn.trans (noneBegins_updCtx _ c 0 (f := (·.notesKill (killRecordOf r c t))) fun _ => rfl)).trans (hd _)
  · exact hn.trans (leaveLive_noneBegins rfl)

/-! Traps, and the actions of task queues. -/

theorem Ctx.note_blk (x : Ctx) (n : TrapNote) : (x.note n).blk = x.blk := by
  unfold Ctx.note
  repeat' split
  all_goals rfl

theorem stepHalt_noneBegins (s : State) (c t : Nat) : NoneBegins s (stepHalt s c t) := by
  unfold stepHalt
  refine NoneBegins.trans ?_ (slotRecord_noneBegins ..)
  exact noneBegins_updCtx s c t fun x => by rfl

theorem takeTrap_noneBegins (s : State) (c t : Nat) (r : TrapReq) : NoneBegins s (takeTrap s c t r) := by
  have henter (ty body : Nat) {x : Ctx} (hx : x.blk = none) : NoneBegins s ((slotRecord s c t ty body).setCtx c t x) :=
    (slotRecord_noneBegins ..).trans (noneBegins_setCtx (.inr hx))
  unfold takeTrap
  dsimp only
  split
  · exact (noneBegins_setCtx (.inl (Ctx.note_blk ..))).trans (killCtx_noneBegins ..)
  · split
    · exact (henter _ _ rfl).trans (stepHalt_noneBegins ..)
    · exact henter _ _ rfl

theorem raiseTrap_noneBegins (s : State) (c t : Nat) (r : TrapReq) : NoneBegins s (raiseTrap s c t r) := by
  unfold raiseTrap
  dsimp only
  split
  · exact takeTrap_noneBegins ..
  · split
    · exact noneBegins_setCtx (.inl rfl)
    · exact noneBegins_setCtx (.inr rfl)

theorem trapBlockedPuts_noneBegins (s : State) : NoneBegins s (trapBlockedPuts s) := by
  refine NoneBegins.foldl (fun s p => NoneBegins.foldl (fun s x => ?_) _ s) _ s
  split
  · split
    · dsimp only
      split
      · exact raiseTrap_noneBegins ..
      · exact .refl s
    · exact .refl s
  · exact .refl s

theorem tqCreate_noneBegins (s : State) (c : Nat) (v : Word) : NoneBegins s (tqCreate s c v).2 := by
  unfold tqCreate
  dsimp only
  split
  · exact .refl s
  · exact .of_cores rfl rfl
  · split
    · dsimp only
      exact .of_keepsCores (updUnit_keepsCores ..)
    · exact .refl s

theorem tqDestroy_noneBegins (s : State) (c : Nat) (v : Word) : NoneBegins s (tqDestroy s c v).2 := by
  unfold tqDestroy
  dsimp only
  split
  · exact .refl s
  · exact .of_cores rfl rfl
  · split
    · exact .refl s
    · split
      · exact .refl s
      · exact (NoneBegins.of_keepsCores (updUnit_keepsCores ..)).trans (trapBlockedPuts_noneBegins _)

end Sys2Proof.Machine
end

section
/-! PROOFS. The writes of registers that no context waits for, through DBGRDATA (spec/09, R107, R220, R221). -/

namespace Sys2Proof.Machine

/-! No register write begins an instruction. -/

theorem haltCtx_noneBegins (s : State) (c t cause : Nat) : NoneBegins s (haltCtx s c t cause) := by
  unfold haltCtx
  refine NoneBegins.trans ?_ (slotRecord_noneBegins ..)
  exact noneBegins_updCtx s c t fun x => by rfl

theorem actHalt_noneBegins (s : State) (c t : Nat) : NoneBegins s (actHalt s c t) := by
  unfold actHalt
  dsimp only
  split
  · exact haltCtx_noneBegins ..
  · exact .refl s

theorem Ctx.takeHeld_blk (x : Ctx) : x.takeHeld.blk = x.blk ∨ x.takeHeld.blk = none := by
  unfold Ctx.takeHeld
  split
  · split
    · exact .inr rfl
    · exact .inr rfl
    · exact .inl rfl
  · exact .inr rfl

/-- A context that RESUME lets run (R219, R220). -/
def Ctx.runsAgain (x : Ctx) : Ctx :=
  { x.takeHeld with
    halted := false, hcause := 0, evt := true, exempt := true, stepping := if x.step then some 0 else none }

/-- A core of which no held helper is slot t. -/
def Core.forgetsHelper (t : Nat) (k : Core) : Core :=
  { k with held := k.held.filter fun h => match h with
      | .helper _ u => u != t
      | .launch _ _ => true }

/-- The state of a resumed slot, before its record. -/
def resumes (s : State) (c t : Nat) : State := (s.setCtx c t (s.ctx c t).runsAgain).updCore c (Core.forgetsHelper t)

theorem actResume_eq {s : State} {c t : Nat} (h : (s.ctx c t).halted = true) : ∃ body, actResume s c t =
    if (s.ctx c t).step then slotRecord (resumes s c t) c t 4 body
    else releaseHeld (slotRecord (resumes s c t) c t 4 body) c (some t) false := by
  unfold actResume
  dsimp only
  rw [if_pos h]
  exact ⟨_, rfl⟩

theorem actResume_noneBegins (s : State) (c t : Nat) : NoneBegins s (actResume s c t) := by
  cases h : (s.ctx c t).halted with
  | false =>
    rw [actResume]
    simp only [h, Bool.false_eq_true, if_false]
    exact .refl s
  | true =>
    obtain ⟨body, hb⟩ := actResume_eq h
    have hr : NoneBegins s (resumes s c t) :=
      (noneBegins_setCtx (x := (s.ctx c t).runsAgain) (Ctx.takeHeld_blk _)).trans (noneBegins_updCore rfl)
    rw [hb]
    split
    · exact hr.trans (slotRecord_noneBegins ..)
    · exact (hr.trans (slotRecord_noneBegins ..)).trans (releaseHeld_noneBegins ..)

theorem actHoldOff_noneBegins (s : State) (c : Nat) : NoneBegins s (actHoldOff s c) := by
  unfold actHoldOff
  refine NoneBegins.trans ?_ (releaseHeld_noneBegins ..)
  exact noneBegins_updCore rfl

theorem actTrace_noneBegins (s : State) (c : Nat) : NoneBegins s (actTrace s c) :=
  noneBegins_updCore_map (g := fun _ x => { x with icount := 0, hist := [], jlrTarget := 0, syncCount := 0 }) rfl fun _ _ => .inl rfl

theorem actMark_noneBegins (s : State) (c t : Nat) (v : Word) : NoneBegins s (actMark s c t v) := slotRecord_noneBegins ..

theorem actDump_noneBegins (s : State) (c : Nat) : NoneBegins s (actDump s c) := noneBegins_updCore rfl

/-- A context whose barrier has released (R214). -/
def Ctx.releasedAt (b : Nat) (x : Ctx) : Ctx :=
  if x.barWaiting.getLsbD b then
    { x with barWaiting := x.barWaiting &&& ~~~BitVec.ofNat 64 (2 ^ b), barReleased := x.barReleased ||| BitVec.ofNat 64 (2 ^ b) }
  else x

theorem Ctx.releasedAt_blk (b : Nat) (x : Ctx) : (x.releasedAt b).blk = x.blk := by
  unfold Ctx.releasedAt
  split <;> rfl

/-- A core with a barrier released (R214). -/
def Core.releasesAt (b : Nat) (k : Core) : Core :=
  { k with
    bars := mupd k.bars b {} fun x => { x with arrived := 0, releases := (x.releases + 1) % 2 ^ 16 }
    ctxs := k.ctxs.map fun p => (p.1, p.2.releasedAt b) }

theorem releaseBar_eq (s : State) (c b : Nat) : releaseBar s c b = setEvt (s.updCore c (Core.releasesAt b)) c := by
  have hf : (fun p : Nat × Ctx => if p.2.barWaiting.getLsbD b then (p.1, { p.2 with
      barWaiting := p.2.barWaiting &&& ~~~BitVec.ofNat 64 (2 ^ b), barReleased := p.2.barReleased ||| BitVec.ofNat 64 (2 ^ b) }) else p) =
      fun p => (p.1, p.2.releasedAt b) := by
    funext p
    unfold Ctx.releasedAt
    split <;> rfl
  unfold releaseBar Core.releasesAt
  dsimp only
  rw [hf]

theorem releaseBar_noneBegins (s : State) (c b : Nat) : NoneBegins s (releaseBar s c b) := by
  rw [releaseBar_eq]
  refine NoneBegins.trans ?_ (setEvt_noneBegins ..)
  exact noneBegins_updCore_map (g := fun _ x => x.releasedAt b) rfl fun _ x => .inl (x.releasedAt_blk b)

/-- A core with the EXPECT of a barrier written (R212). -/
def Core.expects (b e : Nat) (k : Core) : Core := { k with bars := mupd k.bars b {} fun x => { x with expect := e } }

theorem actBarcfg_noneBegins (s : State) (c b e : Nat) : NoneBegins s (actBarcfg s c b e) := by
  have h : NoneBegins s (s.updCore c (Core.expects b e)) := noneBegins_updCore rfl
  unfold actBarcfg
  dsimp only
  split
  · exact h.trans (releaseBar_noneBegins ..)
  · exact h

theorem retagNow_noneBegins (s : State) (c t : Nat) (w : Word) : NoneBegins s (retagNow s c t w) := by
  unfold retagNow
  split
  · exact .refl s
  · exact noneBegins_updCore rfl

theorem tqNow_noneBegins (s : State) (c t : Nat) (v : Word) : NoneBegins s (tqNow s c t v) := by
  have h : NoneBegins s (if v.toNat % 4 = 1 then tqCreate s c v else tqDestroy s c v).2 := by
    split
    · exact tqCreate_noneBegins ..
    · exact tqDestroy_noneBegins ..
  unfold tqNow
  dsimp only
  exact h.trans (noneBegins_updCtx _ c t fun _ => by rfl)

theorem dbgNow_noneBegins (s : State) (c : Nat) (w : Word) : NoneBegins s (dbgNow s c w) := by
  have h : NoneBegins s (if 2 ^ 32 ≤ w.toNat then actHoldOff s c else s) := by
    split
    · exact actHoldOff_noneBegins ..
    · exact .refl s
  unfold dbgNow
  dsimp only
  split
  · exact h.trans (actHalt_noneBegins ..)
  · exact h.trans (actResume_noneBegins ..)
  · exact h

theorem startInval_noneBegins (s : State) (core slot gen job lo len : Nat) :
    NoneBegins s (startInval s core slot gen job lo len).2 := by
  unfold startInval
  dsimp only
  split <;> exact .of_cores rfl rfl

theorem Ctx.setTrapReg_blk (x : Ctx) (n : Nat) (v : Word) : (x.setTrapReg n v).blk = x.blk := by
  unfold Ctx.setTrapReg
  split <;> rfl

/-- A register write at once changes a context or a core, of which it keeps what it is blocked in. -/
theorem csrSet_noneBegins (s : State) (c t n : Nat) (v : Word) : NoneBegins s (csrSet s c t n v) := by
  have hctx (x : Ctx) (h : x.blk = (s.ctx c t).blk) : NoneBegins s (s.setCtx c t x) := noneBegins_setCtx (.inl h)
  have hcore (f : Core → Core) (h : (f (s.core c)).ctxs = (s.core c).ctxs) : NoneBegins s (s.updCore c f) := noneBegins_updCore h
  have hctl (d : Nat) : NoneBegins s (if 10 < d then s else (s.updCore c fun k => { k with brkHalt := v.getLsbD 4 }).updCtx c d fun y =>
      { y with step := v.getLsbD 3 }) := by
    split
    · exact .refl s
    · exact (hcore _ rfl).trans (noneBegins_updCtx _ c d fun _ => by rfl)
  unfold csrSet
  dsimp only
  split <;> simp only [hctx, hcore, hctl, Ctx.setTrapReg_blk, NoneBegins.refl]

theorem csrStore_noneBegins (s : State) (c t n : Nat) (v : Word) : NoneBegins s (csrStore s c t n v) := by
  have hlate (u : State) (w : LateWrite) : NoneBegins u (u.updCore c (·.addsLate w)) := noneBegins_updCore rfl
  unfold csrStore
  dsimp only
  split
  · exact (csrSet_noneBegins ..).trans (hlate _ _)
  · split
    · exact (csrSet_noneBegins ..).trans (hlate _ _)
    · exact csrSet_noneBegins ..

theorem csrRead_noneBegins (s : State) (c t n : Nat) : NoneBegins s (csrRead s c t n).2 := by
  have hplain (m : Nat) : NoneBegins s (if m = 0x026 then eccTake s c else s) := by
    split
    · exact noneBegins_updCore rfl
    · exact .refl s
  unfold csrRead
  dsimp only
  split
  · split
    · split
      · dsimp only
        exact hplain _
      · exact .refl s
    · exact .refl s
  · exact hplain _

theorem csrNow_noneBegins (s : State) (c t n : Nat) (op : CsrOp) (v : Word) : NoneBegins s (csrNow s c t n op v) := by
  unfold csrNow
  split
  · exact .refl s
  · have hr := csrRead_noneBegins s c t n
    generalize csrRead s c t n = r at *
    obtain ⟨old, u⟩ := r
    dsimp only at *
    have hs (new : Word) : NoneBegins s (if csrIdle n op v then u else csrStore u c t n new) := by
      split
      · exact hr
      · exact hr.trans (csrStore_noneBegins ..)
    split
    · exact (hs _).trans (retagNow_noneBegins ..)
    · exact (hs _).trans (actBarcfg_noneBegins ..)
    · exact (hs _).trans (dbgNow_noneBegins ..)
    · exact (hs _).trans (actTrace_noneBegins ..)
    · exact (hs _).trans (actMark_noneBegins ..)
    · exact (hs _).trans (actDump_noneBegins ..)
    · exact (hs _).trans (tqNow_noneBegins ..)
    · exact (hs _).trans (startInval_noneBegins ..)
    · exact hs _

theorem dbgWrite_noneBegins (s : State) (c : Nat) (v : Word) : NoneBegins s (dbgWrite s c v) := by
  unfold dbgWrite
  dsimp only
  split
  · split
    · exact noneBegins_setCtx (.inl rfl)
    · split
      · exact noneBegins_setCtx (.inl rfl)
      · split
        · exact noneBegins_setCtx (.inl rfl)
        · exact noneBegins_setCtx (.inr rfl)
  · exact .refl s

theorem dbgrWrite_noneBegins (s : State) (c : Nat) (op : CsrOp) (v : Word) : NoneBegins s (dbgrWrite s c op v) := by
  unfold dbgrWrite
  dsimp only
  split
  · exact dbgWrite_noneBegins ..
  · split
    · exact csrNow_noneBegins ..
    · exact .refl s

/-! An action that the issuing context waits for. -/

/-- The block of a context that waits for the action of a register at a stage. -/
theorem acts_iff {s : State} {stage : Nat} {w : Word} : acts s stage w = true ↔
    ∃ b, s.me.blk = some b ∧ (csrOf b.instr).isSome = true ∧ b.stage = stage ∧ b.aux = w ∧ b.outs = [] := by
  unfold acts
  cases s.me.blk with
  | none => simp
  | some b => simp [and_assoc]

section
variable {s : State} {stage : Nat} {w : Word} (h : acts s stage w = true)
include h

theorem actionOf_of_acts : actionOf s stage = some w := by
  obtain ⟨b, hb, hc, hs, hw, -⟩ := acts_iff.mp h
  simp [actionOf, hb, hc, hs, hw]

/-- An action after which the context is still in its CSR instruction, or out of it, completes it. -/
theorem doneOps_of_acts {t : State} (ht : NoneBegins s t) : doneOps t = complete t := by
  obtain ⟨b, hb, -, -, -, ho⟩ := acts_iff.mp h
  have hme : t.me.blk = some b ∨ t.me.blk = none := by
    rw [← hb, State.me, ht.cur]
    exact ht.blk _ _
  rcases hme with hme | hme
  · exact doneOps_eq_complete hme ho
  · have hu : (updBlk t fun b => { b with stage := 0 }).me.blk = none := by rw [updBlk_me, hme]; rfl
    rw [doneOps, settleOps, hu]
    exact State.updMe_congr (by rw [hme]; rfl)

theorem doAction_of_acts {act : Word → State → State} (ht : NoneBegins s (act w s)) :
    doAction s stage act = .next (complete (act w s)) := by
  rw [doAction, actionOf_of_acts h, ← doneOps_of_acts h ht]

end

theorem complete_blk (s : State) : (complete s).me.blk = none := by
  rw [complete_me]
  rfl

theorem complete_ctx_ne (s : State) {d : Nat} (h : d ≠ s.cur.slot) : (complete s).ctx s.cur.core d = s.ctx s.cur.core d :=
  State.ctx_setCtx_slot _ _ _ h

/-- The completion of an instruction changes of its core the block of its context. -/
theorem complete_myCore (s : State) : (complete s).myCore = { s.myCore with ctxs := mset s.myCore.ctxs s.cur.slot (s.me.setBlk none) } :=
  State.myCore_updMe ..

end Sys2Proof.Machine
end

section
/-! PROOFS. The actions of register writes (spec/07, R165, R168; spec/08, R212; spec/09, R219 to R233). -/

namespace Sys2Proof.Machine

/-! RETAG (R165, R168). -/

section
variable {s : State} {w : Word}

theorem exec_retag (h : acts s 1 w = true) (hq : ∀ e ∈ s.myCore.storeQ, e.slot = s.cur.slot → e.gen ≠ s.me.gen)
    (ha : retagAhead s.myCore s.cur.slot s.me.lastIssue = false) : exec .retag s =
      .next ((stay s 10 (wordOf (w.toNat % 2 ^ 48 + 2 ^ 60 * mgetD s.myCore.tags (retagFirst w) 0))).updMe fun x =>
        { x with notBefore := s.clk s.cur.core + retagCount w + 1 }) := by
  have hstores : (s.myCore.storeQ.any fun e => e.slot == s.cur.slot && e.gen == s.me.gen) = false := by
    simpa using hq
  show execRetag s = _
  simp only [execRetag, actionOf_of_acts h]
  exact event_of (by rw [hstores, ha]; rfl) _

theorem retagStarts (h : acts s 1 w = true) (hq : ∀ e ∈ s.myCore.storeQ, e.slot = s.cur.slot → e.gen ≠ s.me.gen)
    (ha : retagAhead s.myCore s.cur.slot s.me.lastIssue = false) : ∃ t : State, exec .retag s = .next t ∧
      acts t 10 (wordOf (w.toNat % 2 ^ 48 + 2 ^ 60 * mgetD s.myCore.tags (retagFirst w) 0)) = true ∧
      t.me.notBefore = s.clk s.cur.core + (retagCount w + 1) ∧ t.myCore.tags = s.myCore.tags := by
  obtain ⟨b, hb, hc, -, -, ho⟩ := acts_iff.mp h
  refine ⟨_, exec_retag h hq ha, acts_iff.mpr ⟨{ b with
    stage := 10, aux := wordOf (w.toNat % 2 ^ 48 + 2 ^ 60 * mgetD s.myCore.tags (retagFirst w) 0) }, ?_, hc, rfl, rfl, ho⟩, ?_, ?_⟩
  · rw [State.me_updMe, stay_me, hb]
    rfl
  · rw [State.me_updMe]
    rfl
  · rw [State.myCore_updMe, stay, updBlk, State.myCore_updMe]

theorem retagEnds (h : acts s 10 w = true) (hn : s.me.notBefore ≤ s.clk s.cur.core) : ∃ t : State, exec .retagComplete s = .next t ∧
    t.me.blk = none ∧ t.myCore.tags = s.myCore.tags ∧ t.myCore.spad = s.myCore.spad ∧ t.myCore.fulls = s.myCore.fulls ∧
    t.myCore.retagLog = (wordOf (w.toNat / 2 ^ 60 * 2 ^ 60 + w.toNat % 16 * 2 ^ 56 + retagCount w * 2 ^ 44 + s.cur.slot * 2 ^ 40 +
      retagFirst w * 2 ^ 26 + s.ptime / 2 ^ 10 % 2 ^ 26) :: s.myCore.retagLog).take 64 := by
  have he : exec .retagComplete s = .next (complete (s.updMyCore fun k => logRetag k s.cur.slot (w.toNat / 2 ^ 60) (retagTag w)
      (retagCount w) (retagFirst w) (s.ptime / 2 ^ 10))) := by
    show execRetagComplete s = _
    simp only [execRetagComplete, actionOf_of_acts h, if_pos hn]
    exact congrArg _ (doneOps_of_acts h (noneBegins_updCore rfl))
  refine ⟨_, he, complete_blk _, ?_, ?_, ?_, ?_⟩ <;> rw [complete_myCore, State.myCore_updMyCore] <;> rfl

/-- The context with a RETAG in progress is the first of its core that writes a granule. -/
theorem findSome?_retagGranule {m : Map Ctx} {t clk : Nat} {x : Ctx} {g : Nat × Nat} (hx : mget m t = some x)
    (hg : retagGranule x clk = some g) (ho : ∀ p ∈ m, p.1 ≠ t → retagGranule p.2 clk = none) :
    (m.findSome? fun p => retagGranule p.2 clk) = some g := by
  induction m with
  | nil => cases hx
  | cons p m ih =>
    obtain ⟨a, y⟩ := p
    by_cases ha : a = t
    · rw [mget, if_pos ha] at hx
      cases hx
      simp [List.findSome?, hg]
    · rw [mget, if_neg ha] at hx
      have hy : retagGranule y clk = none := ho (a, y) List.mem_cons_self ha
      simp only [List.findSome?, hy]
      exact ih hx fun p hp => ho p (List.mem_cons_of_mem _ hp)

theorem mgetD_setTags_one (m : Map Nat) (g tag j : Nat) : mgetD (setTags m g tag 1) j 0 = if j = g then tag else mgetD m j 0 := by
  simp only [setTags]
  by_cases ht : tag = 0 <;> by_cases hj : j = g
  · simp [ht, hj, mgetD]
  · simp [ht, hj, mgetD, mget_mdel_ne]
  · simp [ht, hj]
  · simp [ht, hj, mgetD_mset_ne]

theorem retagWrites (h : acts s 10 w = true) {i : Nat} (hi : i < retagCount w + 1)
    (hn : s.me.notBefore = s.clk s.cur.core + (retagCount w + 1) - i)
    (ho : ∀ x ∈ s.myCore.ctxs, x.1 ≠ s.cur.slot → retagGranule x.2 (s.clk s.cur.core) = none) (g : Nat) :
    mgetD (retagClock s s.cur.core).myCore.tags g 0 = if g = retagFirst w + i then w.toNat % 16 else mgetD s.myCore.tags g 0 := by
  obtain ⟨b, hb, hc, hs, hw, -⟩ := acts_iff.mp h
  have hx : mget s.myCore.ctxs s.cur.slot = some s.me := by
    have hme : s.me = (mget s.myCore.ctxs s.cur.slot).getD {} := rfl
    cases hm : mget s.myCore.ctxs s.cur.slot with
    | none =>
      rw [hme, hm] at hb
      cases hb
    | some x => rw [hme, hm]; rfl
  have hg : retagGranule s.me (s.clk s.cur.core) = some (retagFirst w + i, retagTag w) := by
    have hclk : s.clk s.cur.core + retagCount w + 1 - s.me.notBefore = i := by omega
    simp only [retagGranule, hb, hw, hclk]
    rw [if_pos ⟨hc, hs, by omega⟩]
  have hf : ((s.core s.cur.core).ctxs.findSome? fun p => retagGranule p.2 (s.clk s.cur.core)) = some (retagFirst w + i, retagTag w) :=
    findSome?_retagGranule hx hg ho
  simp only [retagClock, hf]
  rw [State.myCore, State.updCore_cur, State.core_updCore_self]
  exact mgetD_setTags_one ..

end

/-! BARCFG (R212, R214). -/

theorem actBarcfg_eq (s : State) (c b e : Nat) : actBarcfg s c b e =
    if (if e = 0 then 16 else e) ≤ (mgetD (s.core c).bars b {}).arrived then releaseBar (s.updCore c (Core.expects b e)) c b
    else s.updCore c (Core.expects b e) := by
  have hbar : mgetD ((s.updCore c (Core.expects b e)).core c).bars b {} = { mgetD (s.core c).bars b {} with expect := e } := by
    rw [State.core_updCore_self]
    exact mgetD_mset_self ..
  have he : actBarcfg s c b e = if expectOf (mgetD ((s.updCore c (Core.expects b e)).core c).bars b {}) ≤
      (mgetD ((s.updCore c (Core.expects b e)).core c).bars b {}).arrived then releaseBar (s.updCore c (Core.expects b e)) c b
    else s.updCore c (Core.expects b e) := rfl
  rw [he, hbar]
  rfl

section
variable {s : State} {w : Word} (h : acts s 2 w = true)
include h

theorem exec_barcfgWrite : exec .barcfgWrite s = .next (complete (actBarcfg s s.cur.core s.me.barsel.toNat (w.toNat % 16))) :=
  doAction_of_acts (act := fun w s => actBarcfg s s.cur.core s.me.barsel.toNat (w.toNat % 16)) h (actBarcfg_noneBegins ..)

theorem barcfgWaits (hb : (mgetD s.myCore.bars s.me.barsel.toNat {}).arrived < (if w.toNat % 16 = 0 then 16 else w.toNat % 16)) :
    exec .barcfgWrite s = .next (complete (s.updMyCore (Core.expects s.me.barsel.toNat (w.toNat % 16)))) := by
  rw [State.myCore] at hb
  rw [exec_barcfgWrite h, actBarcfg_eq, if_neg (Nat.not_le.mpr hb)]
  rfl

/-- A release as a change of the core and an event of it (R112, R214). -/
theorem barcfgReleases (hb : (if w.toNat % 16 = 0 then 16 else w.toNat % 16) ≤ (mgetD s.myCore.bars s.me.barsel.toNat {}).arrived) :
    exec .barcfgWrite s = .next (complete (setEvt (s.updCore s.cur.core fun k =>
      (k.expects s.me.barsel.toNat (w.toNat % 16)).releasesAt s.me.barsel.toNat) s.cur.core)) := by
  rw [State.myCore] at hb
  rw [exec_barcfgWrite h, actBarcfg_eq, if_pos hb, releaseBar_eq, State.updCore_updCore]

end

theorem complete_ctx_setBlk (s : State) (m : Nat) : ∃ b, (complete s).ctx s.cur.core m = (s.ctx s.cur.core m).setBlk b := by
  by_cases hm : m = s.cur.slot
  · exact ⟨none, by rw [hm]; exact complete_me s⟩
  · exact ⟨_, complete_ctx_ne s hm⟩

theorem Ctx.seesEvent_evt (x : Ctx) : ∃ e, x.seesEvent = { x with evt := e } := by
  unfold Ctx.seesEvent
  split
  · exact ⟨true, rfl⟩
  · exact ⟨x.evt, rfl⟩

/-- What a slot that waits at a released barrier becomes: it has been released, and is awake (R112, R214). -/
theorem seesEvent_releasedAt {x : Ctx} {b : Nat} (h : x.barWaiting.getLsbD b = true) :
    (x.releasedAt b).seesEvent.barWaiting = x.barWaiting &&& ~~~BitVec.ofNat 64 (2 ^ b) ∧
    (x.releasedAt b).seesEvent.barReleased = x.barReleased ||| BitVec.ofNat 64 (2 ^ b) ∧
    (x.status = .live → (x.releasedAt b).seesEvent.evt = true) := by
  rw [Ctx.releasedAt, if_pos h]
  refine ⟨?_, ?_, fun hl => ?_⟩
  · obtain ⟨e, he⟩ := Ctx.seesEvent_evt { x with
      barWaiting := x.barWaiting &&& ~~~BitVec.ofNat 64 (2 ^ b), barReleased := x.barReleased ||| BitVec.ofNat 64 (2 ^ b) }
    rw [he]
  · obtain ⟨e, he⟩ := Ctx.seesEvent_evt { x with
      barWaiting := x.barWaiting &&& ~~~BitVec.ofNat 64 (2 ^ b), barReleased := x.barReleased ||| BitVec.ofNat 64 (2 ^ b) }
    rw [he]
  · rw [Ctx.seesEvent, if_pos (by exact hl)]

/-- A barrier of a core after its EXPECT is written and it has released. -/
theorem bars_setEvt_releasesAt (s : State) (c b e : Nat) :
    mgetD ((setEvt (s.updCore c fun k => (k.expects b e).releasesAt b) c).core c).bars b {} =
      { mgetD (s.core c).bars b {} with
        expect := e, arrived := 0, releases := ((mgetD (s.core c).bars b {}).releases + 1) % 2 ^ 16 } := by
  rw [setEvt, State.core_updCore_self, State.core_updCore_self]
  simp [Core.releasesAt, Core.expects, mupd]

theorem ctx_setEvt_releasesAt (s : State) (c b e m : Nat) :
    (setEvt (s.updCore c fun k => (k.expects b e).releasesAt b) c).ctx c m = ((s.ctx c m).releasedAt b).seesEvent := by
  rw [setEvt_ctx, State.ctx, State.core_updCore_self]
  refine congrArg Ctx.seesEvent (mgetD_map_snd (s.core c).ctxs m (Ctx.releasedAt b) (if_neg ?_))
  simp

theorem barrierReleased {s : State} {w : Word} (h : acts s 2 w = true)
    (hb : (if w.toNat % 16 = 0 then 16 else w.toNat % 16) ≤ (mgetD s.myCore.bars s.me.barsel.toNat {}).arrived) : ∃ t : State,
      exec .barcfgWrite s = .next t ∧ t.me.blk = none ∧
      mgetD t.myCore.bars s.me.barsel.toNat {} = { mgetD s.myCore.bars s.me.barsel.toNat {} with
        expect := w.toNat % 16, arrived := 0, releases := ((mgetD s.myCore.bars s.me.barsel.toNat {}).releases + 1) % 2 ^ 16 } ∧
      ∀ m : Nat, (s.ctx s.cur.core m).barWaiting.getLsbD s.me.barsel.toNat = true →
        (t.ctx s.cur.core m).barWaiting = (s.ctx s.cur.core m).barWaiting &&& ~~~BitVec.ofNat 64 (2 ^ s.me.barsel.toNat) ∧
        (t.ctx s.cur.core m).barReleased = (s.ctx s.cur.core m).barReleased ||| BitVec.ofNat 64 (2 ^ s.me.barsel.toNat) ∧
        ((s.ctx s.cur.core m).status = .live → (t.ctx s.cur.core m).evt = true) := by
  have hctx := ctx_setEvt_releasesAt s s.cur.core s.me.barsel.toNat (w.toNat % 16)
  have hbars := bars_setEvt_releasesAt s s.cur.core s.me.barsel.toNat (w.toNat % 16)
  refine ⟨_, barcfgReleases h hb, complete_blk _, ?_, fun m hm => ?_⟩
  · rw [complete_myCore]
    exact hbars
  · obtain ⟨b, hb⟩ := complete_ctx_setBlk (setEvt (s.updCore s.cur.core fun k =>
      (k.expects s.me.barsel.toNat (w.toNat % 16)).releasesAt s.me.barsel.toNat) s.cur.core) m
    have ht : (complete (setEvt (s.updCore s.cur.core fun k =>
        (k.expects s.me.barsel.toNat (w.toNat % 16)).releasesAt s.me.barsel.toNat) s.cur.core)).ctx s.cur.core m =
          (((s.ctx s.cur.core m).releasedAt s.me.barsel.toNat).seesEvent).setBlk b := hb.trans (congrArg (Ctx.setBlk · b) (hctx m))
    rw [ht]
    exact seesEvent_releasedAt hm

/-! TRCCTL, TRCMARK and DUMPCTL (R227, R229, R233). -/

theorem traceStarts {s : State} {w : Word} (h : acts s 5 w = true) : ∃ t : State, exec .traceEnable s = .next t ∧ t.me.blk = none ∧
    t.myCore.trace.ctl.toNat / 16 % 2 ^ 24 = 0 ∧ t.myCore.trace.unsynced = List.range 11 := by
  refine ⟨_, doAction_of_acts (act := fun _ s => actTrace s s.cur.core) h (actTrace_noneBegins ..), complete_blk _, ?_, ?_⟩ <;>
    rw [complete_myCore]
  · have hc : (actTrace s s.cur.core).myCore.trace.ctl =
        wordOf (s.myCore.trace.ctl.toNat - s.myCore.trace.ctl.toNat / 16 % 2 ^ 24 * 16) := by
      rw [actTrace, State.myCore, State.updCore_cur, State.core_updCore_self]
      rfl
    show (actTrace s s.cur.core).myCore.trace.ctl.toNat / 16 % 2 ^ 24 = 0
    rw [hc, wordOf, BitVec.toNat_ofNat]
    have := s.myCore.trace.ctl.isLt
    omega
  · rw [actTrace, State.myCore, State.updCore_cur, State.core_updCore_self]

theorem dumpStarts {s : State} {w : Word} (h : acts s 7 w = true) (hd : s.myCore.dump.stat.toNat < 2 ^ 63) : ∃ t : State,
    exec .dumpStart s = .next t ∧ t.me.blk = none ∧
    t.myCore.dump.stat.toNat = 2 ^ 63 + s.myCore.dump.stat.toNat / 2 ^ 62 % 2 * 2 ^ 62 ∧ t.myCore.dump.pos = 0 ∧
    (s.myCore.group = none → t.myCore.ready = false) := by
  have hstart : s.myCore.dump.start = { s.myCore.dump with
      stat := BitVec.ofNat 64 (2 ^ 63 + s.myCore.dump.stat.toNat / 2 ^ 62 % 2 * 2 ^ 62), pos := 0, fresh := true } :=
    if_neg (Nat.not_le.mpr hd)
  have hk : (actDump s s.cur.core).myCore =
      { s.myCore with dump := s.myCore.dump.start, ready := s.myCore.ready && s.myCore.group.isSome } :=
    State.core_updCore_self ..
  refine ⟨_, doAction_of_acts (act := fun _ s => actDump s s.cur.core) h (actDump_noneBegins ..), complete_blk _, ?_⟩
  rw [complete_myCore, hk, hstart]
  refine ⟨?_, rfl, fun hg => by simp [hg]⟩
  rw [BitVec.toNat_ofNat]
  omega

end Sys2Proof.Machine
end

section
/-! PROOFS. HALT, RESUME and HOLDDISP of the debug module, and the MARK record (spec/09, R219, R220, R227 to R229). -/

namespace Sys2Proof.Machine

/-! HALT and RESUME (R219). -/

theorem debugHalts {s : State} {w : Word} (h : acts s 3 w = true) (h1 : w.toNat % 4 = 1) (h32 : w.toNat < 2 ^ 32)
    (hne : s.myCore.dbgsel.toNat ≠ s.cur.slot) (ht : tracesSlot s.myCore s.myCore.dbgsel.toNat = false)
    (hl : (s.ctx s.cur.core s.myCore.dbgsel.toNat).status = .live) (hh : (s.ctx s.cur.core s.myCore.dbgsel.toNat).halted = false) :
    exec .debugHalt s = .next ((complete s).updCtx s.cur.core s.myCore.dbgsel.toNat fun x => { x with halted := true, hcause := 1 }) := by
  have hexec : exec .debugHalt s = .next (actHalt (doneOps s) s.cur.core s.myCore.dbgsel.toNat) := by
    show execDebugHalt s = _
    simp only [execDebugHalt, actionOf_of_acts h, dbgSlot]
    exact event_of (by rw [h1, decide_eq_true h32]; rfl) _
  have hctx := complete_ctx_ne s hne
  rw [hexec, doneOps_of_acts h (.refl s), actHalt, hctx]
  refine congrArg Host.Outcome.next ((if_pos (by simp [hl, hh])).trans ?_)
  generalize hu : (complete s).updCtx s.cur.core s.myCore.dbgsel.toNat (fun x => { x with halted := true, hcause := 1 }) = u
  have htr : tracesSlot (u.core s.cur.core) s.myCore.dbgsel.toNat = false := by
    have hk : (complete s).core s.cur.core = _ := complete_myCore s
    rw [← hu, State.updCtx, State.core_setCtx_self, hk]
    exact ht
  rw [haltCtx, hu]
  exact if_neg (by rw [htr]; exact Bool.false_ne_true)

theorem Ctx.takeHeld_fault {x : Ctx} {r : TrapReq} (h : x.heldFault = some r) : x.takeHeld.heldFault = none ∧ x.takeHeld.blk = none ∧
    x.takeHeld.trap.map (fun x => (x.cause, x.value)) = some (r.cause, r.value) := by
  unfold Ctx.takeHeld
  simp [h]

theorem Ctx.takeHeld_trap {x : Ctx} (h : x.heldFault = none) (ht : x.trap ≠ none) : x.takeHeld.blk = none ∧ x.takeHeld.trap = x.trap := by
  obtain ⟨r, hr⟩ := Option.ne_none_iff_exists'.mp ht
  unfold Ctx.takeHeld
  cases hb : x.blk with
  | none => simp only [h, hr, hb, and_self]
  | some b => simp only [h, hr, and_self]

/-- A core that holds nothing lets nothing go that its contexts see. -/
theorem releaseHeld_ctx_of_no_held {s : State} {c : Nat} (h : (s.core c).held = []) (owner : Option Nat) (u : Nat) :
    (releaseHeld s c owner false).ctx c u = s.ctx c u := by
  have he : releaseHeld s c owner false = releaseHeld s c owner true := by simp [releaseHeld, h]
  have hk : (releaseHeld s c owner false).core c = Core.letsGo c owner (s.core c) := by
    rw [he, State.core, releaseHeld_true_cores]
    exact State.core_updCore_self ..
  rw [State.ctx, hk]
  rfl

/-- A slot that runs again, where nothing is held for it: its record changes no more than the counts of its next one. -/
theorem actResume_ctx {s : State} {c t : Nat} (h : (s.ctx c t).halted = true) (hk : (s.core c).held = []) :
    ((actResume s c t).ctx c t).untraced = (s.ctx c t).runsAgain.untraced := by
  have hu : (resumes s c t).core c = Core.forgetsHelper t ((s.setCtx c t (s.ctx c t).runsAgain).core c) := State.core_updCore_self ..
  have hctx : (resumes s c t).ctx c t = (s.ctx c t).runsAgain := by
    rw [State.ctx, hu]
    exact State.ctx_setCtx_self ..
  obtain ⟨body, hb⟩ := actResume_eq h
  have hr := slotRecord_records (resumes s c t) c t 4 body
  have hrec := hr.ctx t
  rw [hctx] at hrec
  rw [hb]
  split
  · exact hrec
  · rw [releaseHeld_ctx_of_no_held, hrec]
    obtain ⟨tr, m, hm⟩ := hr.core
    rw [hm, hu, State.core_setCtx_self]
    simp [Core.forgetsHelper, hk]

theorem debugResumes {s : State} {w : Word} (h : acts s 3 w = true) (h2 : w.toNat % 4 = 2) (h32 : w.toNat < 2 ^ 32)
    (hne : s.myCore.dbgsel.toNat ≠ s.cur.slot) (hh : (s.ctx s.cur.core s.myCore.dbgsel.toNat).halted = true)
    (hk : s.myCore.held = []) : ∃ t : State, exec .debugResume s = .next t ∧ t.me.blk = none ∧
      (t.ctx s.cur.core s.myCore.dbgsel.toNat).untraced = (s.ctx s.cur.core s.myCore.dbgsel.toNat).runsAgain.untraced := by
  have hexec : exec .debugResume s = .next (actResume (doneOps s) s.cur.core s.myCore.dbgsel.toNat) := by
    show execDebugResume s = _
    simp only [execDebugResume, actionOf_of_acts h, dbgSlot]
    exact event_of (by rw [h2, decide_eq_true h32]; rfl) _
  rw [doneOps_of_acts h (.refl s)] at hexec
  have hctx := complete_ctx_ne s hne
  refine ⟨_, hexec, ?_, ?_⟩
  · obtain ⟨hcur, hblk⟩ := actResume_noneBegins (complete s) s.cur.core s.myCore.dbgsel.toNat
    rw [State.me, hcur]
    exact (hblk _ _).elim (fun hb => hb.trans (complete_blk s)) id
  · rw [actResume_ctx (by rw [hctx, hh]), hctx]
    exact (congrArg Core.held (complete_myCore s)).trans hk

/-! HOLDDISP cleared (R220). -/

theorem resumeHelper_core (s : State) (c t : Nat) : ∃ tr m, (resumeHelper s c t).core c = { s.core c with trace := tr, ctxs := m } := by
  unfold resumeHelper
  dsimp only
  generalize hu : s.updCtx c t (fun x => { x with halted := false, hcause := 0, evt := true, exempt := true }) = u
  obtain ⟨tr, m, hm⟩ := (slotRecord_records u c t 4 (2 ^ 4 * ((u.ctx c t).pc % 2 ^ 52))).core
  refine ⟨tr, m, ?_⟩
  rw [hm, ← hu, State.updCtx, State.core_setCtx_self]

theorem foldl_resumeHelper_core (hs : List Nat) (s : State) (c : Nat) : ∃ tr m,
    (hs.foldl (fun s t => resumeHelper s c t) s).core c = { s.core c with trace := tr, ctxs := m } := by
  induction hs generalizing s with
  | nil => exact ⟨_, _, rfl⟩
  | cons t hs ih =>
    obtain ⟨tr, m, hm⟩ := resumeHelper_core s c t
    obtain ⟨tr', m', hm'⟩ := ih (resumeHelper s c t)
    exact ⟨tr', m', by rw [List.foldl_cons, hm', hm]⟩

theorem actHoldOff_core (s : State) (c : Nat) : ∃ tr m, (actHoldOff s c).core c =
    { Core.letsGo c none { s.core c with holdDisp := false } with trace := tr, ctxs := m } := by
  generalize hv : s.updCore c (fun k => { k with holdDisp := false }) = v
  have hk : (releaseHeld v c none true).core c = Core.letsGo c none { s.core c with holdDisp := false } := by
    rw [State.core, releaseHeld_true_cores, ← hv]
    exact (State.core_updCore_self ..).trans (congrArg (Core.letsGo c none) (State.core_updCore_self ..))
  have ha : actHoldOff s c = releaseHeld v c none false := by rw [actHoldOff, hv]
  obtain ⟨tr, m, hm⟩ := foldl_resumeHelper_core (((v.core c).held.filter fun h => (none : Option Nat).all (· == h.owner)).filterMap fun
      | .helper _ t => some t
      | _ => none) (releaseHeld v c none true) c
  refine ⟨tr, m, ?_⟩
  rw [ha, ← hk]
  exact hm

theorem CmdEnt.held_letGo (c : Nat) (e : CmdEnt) (h : (e.letGo c none).core = c) : (e.letGo c none).held = false := by
  unfold CmdEnt.letGo at h ⊢
  split
  · rfl
  · rename_i hn
    rw [if_neg hn] at h
    exact absurd ⟨h, rfl⟩ hn

theorem debugLetsGo {s : State} {w : Word} (h : acts s 3 w = true) (h32 : 2 ^ 32 ≤ w.toNat) : ∃ t : State,
    exec .debugHoldRelease s = .next t ∧ t.myCore.holdDisp = false ∧ t.myCore.held = [] ∧
    (∀ e ∈ t.myCore.eq1, e.core = s.cur.core → e.held = false) ∧ (w.toNat % 4 = 0 → t.me.blk = none) := by
  have hn := actHoldOff_noneBegins s s.cur.core
  have hexec : exec .debugHoldRelease s = .next (if w.toNat % 4 = 0 then complete (actHoldOff s s.cur.core)
      else stay (actHoldOff s s.cur.core) 3 (wordOf (w.toNat % 4))) := by
    rw [← doneOps_of_acts h hn]
    show execDebugHoldRelease s = _
    simp only [execDebugHoldRelease, actionOf_of_acts h]
    exact event_of (by simpa using h32) _
  obtain ⟨tr, m, hm⟩ := actHoldOff_core s s.cur.core
  have hcore : ∃ m', (if w.toNat % 4 = 0 then complete (actHoldOff s s.cur.core)
      else stay (actHoldOff s s.cur.core) 3 (wordOf (w.toNat % 4))).myCore =
        { Core.letsGo s.cur.core none { s.myCore with holdDisp := false } with trace := tr, ctxs := m' } := by
    have hk : (actHoldOff s s.cur.core).myCore = _ := (congrArg (State.core _) (congrArg Cur.core hn.cur)).trans hm
    split
    · rw [complete_myCore, hk]
      exact ⟨_, rfl⟩
    · rw [stay, updBlk, State.myCore_updMe, hk]
      exact ⟨_, rfl⟩
  obtain ⟨m', hm'⟩ := hcore
  refine ⟨_, hexec, ?_, ?_, fun e he => ?_, fun h0 => ?_⟩
  · rw [hm']
    rfl
  · rw [hm']
    exact List.filter_eq_nil_iff.mpr fun _ _ => Bool.false_ne_true
  · rw [hm'] at he
    obtain ⟨e', -, rfl⟩ := List.mem_map.mp (show e ∈ s.myCore.eq1.map (CmdEnt.letGo s.cur.core none) from he)
    exact e'.held_letGo s.cur.core
  · rw [if_pos h0]
    exact complete_blk _

/-! A MARK record (R227 to R229). -/

theorem mem_of_mget {α : Type} {m : Map α} {k : Nat} {v : α} (h : mget m k = some v) : (k, v) ∈ m := by
  induction m with
  | nil => cases h
  | cons p m ih =>
    obtain ⟨a, b⟩ := p
    by_cases ha : a = k
    · rw [mget, if_pos ha, Option.some.injEq] at h
      rw [ha, h]
      exact List.mem_cons_self
    · rw [mget, if_neg ha] at h
      exact List.mem_cons_of_mem _ (ih h)

theorem lostRecord_of_none {s : State} {c : Nat} (h : (s.core c).trace.lost = 0) : lostRecord s c = s :=
  if_neg fun hn => hn.2.1 h

/-- The number that a branch history is in a FLOW record (R229). -/
theorem hist_sum (l : List Bool) (k : Nat) : ((l.zipIdx k).map fun p => if p.1 then 2 ^ p.2 else 0).sum =
    2 ^ k * l.foldr (fun b a => b2n b + 2 * a) 0 := by
  induction l generalizing k with
  | nil => rfl
  | cons b l ih =>
    rw [List.zipIdx_cons, List.map_cons, List.sum_cons, ih, List.foldr_cons, Nat.pow_succ]
    cases b <;> simp [b2n] <;> ring

theorem flowRecord_eq {s : State} {c t : Nat} (h : (s.core c).trace.lost = 0) : flowRecord s c t =
    (oneRecord s c 2 t (flowBody (s.ctx c t))).updCtx c t fun x => { x with icount := 0, hist := [], jlrTarget := 0 } := by
  have hb := hist_sum (s.ctx c t).hist 0
  rw [Nat.pow_zero, Nat.one_mul] at hb
  unfold flowRecord traceRecord
  rw [lostRecord_of_none h, flowBody, hb]

/-- A record of a slot that owes none goes out behind its FLOW record. -/
theorem slotRecord_recorded {s : State} {c t : Nat} (h : traceClear s c t = true) (ty body : Nat) :
    recorded s (slotRecord s c t ty body) c ty t body := by
  obtain ⟨⟨⟨⟨ht, hl⟩, hf⟩, hu⟩, hn⟩ : (((tracesSlot (s.core c) t = true ∧ (s.core c).trace.lost = 0) ∧
      (s.core c).trace.flying.length < 7) ∧ (s.core c).trace.unsynced.contains t = false) ∧ (s.ctx c t).needSync = false := by
    simpa only [traceClear, Bool.and_eq_true, Bool.not_eq_true', beq_iff_eq, decide_eq_true_eq] using h
  have howe : oweSync s c t = s := by
    unfold oweSync
    rw [if_neg (by rw [hu]; exact Bool.false_ne_true), if_neg (by rw [hn]; exact Bool.false_ne_true)]
  obtain ⟨v, ctl, id, hv, he⟩ := oneRecord_sends (s := s) (c := c) (by omega) 2 t (flowBody (s.ctx c t))
  obtain ⟨i, m, -, hi, hmi, hma, hmm⟩ := hv.msg
  have hflow := flowRecord_eq (t := t) hl
  rw [he] at hflow
  generalize hk : { s.core c with trace := { (s.core c).trace with
      seq := ((s.core c).trace.seq + 1) % 256, ctl := ctl, flying := (s.core c).trace.flying ++ [id] } } = k at hflow
  generalize hw : (v.setCore c k).updCtx c t (fun x => { x with icount := 0, hist := [], jlrTarget := 0 }) = w at hflow
  have htrace : (w.core c).trace = k.trace := by
    rw [← hw, State.updCtx, State.core_setCtx_self, State.core_setCore_self]
  have hwm : w.msgs = v.msgs ∧ w.nextId = v.nextId := by
    rw [← hw]
    exact ⟨rfl, rfl⟩
  have hlen : (w.core c).trace.flying.length < 8 := by
    rw [htrace, ← hk, List.length_append]
    exact Nat.succ_lt_succ hf
  have hlost : (w.core c).trace.lost = 0 := by
    rw [htrace, ← hk]
    exact hl
  obtain ⟨v', ctl', id', hv', he'⟩ := oneRecord_sends hlen ty t body
  obtain ⟨i', m', hi', -, hmi', hma', hmm'⟩ := hv'.msg
  have hslot : (slotRecord s c t ty body).msgs = mset (mset s.msgs i m) i' m' := by
    rw [slotRecord, if_pos ht, howe, hflow, traceRecord, lostRecord_of_none hlost, he', ← hmm, ← hwm.1, ← hmm']
    rfl
  have hne : i ≠ i' := by
    rw [hwm.2] at hi'
    omega
  refine ⟨⟨(i, m), ?_, hmi, hma⟩, ⟨(i', m'), ?_, hmi', ?_⟩⟩
  · rw [hslot]
    exact (mem_mset_ne _ m' m hne).mpr (mem_of_mget (mget_mset_self ..))
  · rw [hslot]
    exact mem_of_mget (mget_mset_self ..)
  · rw [hma', htrace, ← hk]

theorem marks {s : State} {w : Word} (h : acts s 6 w = true) (hc : traceClear s s.cur.core s.cur.slot = true) : ∃ t : State,
    exec .trcmark s = .next t ∧ t.me.blk = none ∧ recorded s t s.cur.core 8 s.cur.slot (w.toNat % 2 ^ 32) :=
  ⟨_, doAction_of_acts (act := fun w s => actMark s s.cur.core s.cur.slot w) h (actMark_noneBegins ..), complete_blk _,
    slotRecord_recorded hc 8 _⟩

/-- Each register write that starts an action does it, and ends its instruction. -/
theorem registerActions : Clause.RegisterActions := by
  intro w s
  refine ⟨retagStarts, retagEnds, fun h i hi hn ho g => retagWrites h hi hn ho g, barcfgWaits, barrierReleased, debugHalts,
    fun h h2 h32 hne hh hk => ?_, debugLetsGo, traceStarts, marks, dumpStarts⟩
  obtain ⟨t, ht, hblk, hx⟩ := debugResumes h h2 h32 hne hh hk
  have hstep : (t.ctx s.cur.core s.myCore.dbgsel.toNat).stepping =
    if (s.ctx s.cur.core s.myCore.dbgsel.toNat).step then some 0 else none := (congrArg Ctx.stepping hx :)
  have htrap : (t.ctx s.cur.core s.myCore.dbgsel.toNat).trap = (s.ctx s.cur.core s.myCore.dbgsel.toNat).takeHeld.trap :=
    (congrArg Ctx.trap hx :)
  have hheld : (t.ctx s.cur.core s.myCore.dbgsel.toNat).heldFault = (s.ctx s.cur.core s.myCore.dbgsel.toNat).takeHeld.heldFault :=
    (congrArg Ctx.heldFault hx :)
  have hb : (t.ctx s.cur.core s.myCore.dbgsel.toNat).blk = (s.ctx s.cur.core s.myCore.dbgsel.toNat).takeHeld.blk :=
    (congrArg Ctx.blk hx :)
  refine ⟨t, ht, hblk, (congrArg Ctx.halted hx :), (congrArg Ctx.hcause hx :), (congrArg Ctx.evt hx :), (congrArg Ctx.exempt hx :),
    ?_, fun r hr => ?_, fun hn hnt => ?_⟩
  · rw [hstep]
    cases (s.ctx s.cur.core s.myCore.dbgsel.toNat).step <;> rfl
  · obtain ⟨h1, h2, h3⟩ := Ctx.takeHeld_fault hr
    exact ⟨hheld.trans h1, hb.trans h2, (congrArg _ htrap).trans h3⟩
  · obtain ⟨h1, h2⟩ := Ctx.takeHeld_trap hn hnt
    exact ⟨hb.trans h1, htrap.trans h2⟩

end Sys2Proof.Machine
end

section
/-! PROOFS. DBGRDATA_WRITE (spec/09, R107, R220, R221). -/

namespace Sys2Proof.Machine

/-! The way in which the blocked CSR instruction writes (R107). -/

theorem csrMerge_of_rw {n : Nat} (hm : wordOf (csrMask n) = BitVec.allOnes 64) (hc : wordOf (csrW1C n) = 0#64) (op : CsrOp) (old v : Word) :
    csrMerge n op old v = match op with
      | .w => v
      | .s => old ||| v
      | .c => old &&& ~~~v := by
  unfold csrMerge
  cases op <;> simp only [hm, hc, BitVec.not_allOnes, BitVec.and_zero, BitVec.zero_or, BitVec.and_allOnes, BitVec.not_zero]

theorem csrMerge_of_w1c {n : Nat} (hm : wordOf (csrMask n) = 0#64) (op : CsrOp) (old v : Word) :
    csrMerge n op old v = match op with
      | .s => old
      | _ => old &&& ~~~(v &&& wordOf (csrW1C n)) := by
  unfold csrMerge
  cases op <;> simp only [hm, BitVec.and_zero, BitVec.or_zero, BitVec.and_allOnes, BitVec.not_zero]

theorem actingOp_of_blk {s : State} {b : Blk} (h : s.me.blk = some b) : actingOp s = csrOpOf b.instr := by
  rw [actingOp, h]
  rfl

theorem csrOpOf_eq_s {i : Instr} : csrOpOf i = .s ↔ ∃ d a n, i = .csrs d a n := by
  unfold csrOpOf
  split <;> simp_all

theorem csrOpOf_eq_c {i : Instr} : csrOpOf i = .c ↔ ∃ d a n, i = .csrc d a n := by
  unfold csrOpOf
  split <;> simp_all

theorem fieldOf_eq {s : State} {b : Blk} (h : s.me.blk = some b) (old v : Word) : fieldOf s old v = csrMerge 0x033 (actingOp s) old v := by
  rw [csrMerge_of_rw (by decide) (by decide), actingOp_of_blk h, fieldOf, h, Option.map_some]
  cases hop : csrOpOf b.instr with
  | s =>
    obtain ⟨d, a, n, hi⟩ := csrOpOf_eq_s.mp hop
    rw [hi]
  | c =>
    obtain ⟨d, a, n, hi⟩ := csrOpOf_eq_c.mp hop
    rw [hi]
  | w =>
    split
    · rename_i hi
      rw [csrOpOf_eq_s.mpr ⟨_, _, _, Option.some.inj hi⟩] at hop
      cases hop
    · rename_i hi
      rw [csrOpOf_eq_c.mpr ⟨_, _, _, Option.some.inj hi⟩] at hop
      cases hop
    · rfl

theorem clearedBy_eq {s : State} {b : Blk} (h : s.me.blk = some b) (old v : Word) :
    clearedBy s old v = csrMerge 0x036 (actingOp s) old v := by
  rw [csrMerge_of_w1c (by decide), actingOp_of_blk h, clearedBy, h, Option.map_some]
  split
  · rename_i hi
    rw [csrOpOf_eq_s.mpr ⟨_, _, _, Option.some.inj hi⟩]
  · rename_i hi
    have hop : csrOpOf b.instr ≠ .s := fun hop => by
      obtain ⟨d, a, n, hs⟩ := csrOpOf_eq_s.mp hop
      exact hi d a n (congrArg some hs)
    cases hc : csrOpOf b.instr with
    | s => exact absurd hc hop
    | w => rfl
    | c => rfl

/-! The registers of a halted slot that are not CSRs (R221). -/

section
variable {s : State} {c : Nat}

theorem dbgRead_of_running {t : Nat} (h : (s.ctx c t).halted = false) (num : Nat) : dbgRead (s.core c) t num = none :=
  if_pos (by rw [show (mgetD (s.core c).ctxs t {}).halted = false from h]; simp)

theorem dbgWrite_of_none (h : dbgRead (s.core c) (s.core c).dbgsel.toNat (s.core c).dbgrnum.toNat = none) (v : Word) :
    dbgWrite s c v = s :=
  if_neg (by rw [h]; exact Bool.false_ne_true)

end

/-- A context with a register of DBGRNUM that is no CSR written (R221). -/
def Ctx.dbgPut (x : Ctx) (num : Nat) (v : Word) : Ctx :=
  if num < 48 then { x with x := x.x.setIfInBounds num v }
  else if num < 128 then
    { x with v := x.v.setIfInBounds ((num - 64) / 2) (BitVec.ofNat 128 (
        if num % 2 = 0 then (x.v.toList.getD ((num - 64) / 2) 0).toNat / 2 ^ 64 * 2 ^ 64 + v.toNat
        else (x.v.toList.getD ((num - 64) / 2) 0).toNat % 2 ^ 64 + v.toNat * 2 ^ 64)) }
  else if num < 136 then { x with k := x.k.setIfInBounds (num - 128) (v.setWidth 16) }
  else { x with pc := v.toNat % 2 ^ 52 / 4 * 4, fbuf := [], ffault := none, blk := none }

theorem dbgWrite_of_some {s : State} {c : Nat} {old : Word}
    (h : dbgRead (s.core c) (s.core c).dbgsel.toNat (s.core c).dbgrnum.toNat = some old) (v : Word) :
    (dbgWrite s c v).ctx c (s.core c).dbgsel.toNat = (s.ctx c (s.core c).dbgsel.toNat).dbgPut (s.core c).dbgrnum.toNat v := by
  unfold dbgWrite Ctx.dbgPut
  dsimp only
  rw [if_pos (by rw [h]; rfl)]
  split
  · exact State.ctx_setCtx_self ..
  · split
    · exact State.ctx_setCtx_self ..
    · split <;> exact State.ctx_setCtx_self ..

theorem setIfInBounds_fin {α : Type} {n : Nat} (v : Vector α n) (i : Fin n) (a : α) : v.setIfInBounds i.val a = v.set i.val a := by
  ext j hj
  simp [Vector.getElem_setIfInBounds, Vector.getElem_set]

section
variable (x : Ctx) (v : Word)

theorem Ctx.dbgPut_x (r : Fin 48) : x.dbgPut r.val v = { x with x := x.x.set r.val v } := by
  rw [Ctx.dbgPut, if_pos r.isLt, setIfInBounds_fin]

theorem append_low (old : VWord) :
    BitVec.ofNat 128 (old.toNat / 2 ^ 64 * 2 ^ 64 + v.toNat) = (old.extractLsb' 64 64 ++ v : BitVec 128) := by
  have := old.isLt
  apply BitVec.eq_of_toNat_eq
  rw [BitVec.toNat_ofNat, BitVec.toNat_append, BitVec.extractLsb'_toNat, ← Nat.shiftLeft_add_eq_or_of_lt v.isLt, Nat.shiftRight_eq_div_pow,
    Nat.shiftLeft_eq]
  omega

theorem append_high (old : VWord) :
    BitVec.ofNat 128 (old.toNat % 2 ^ 64 + v.toNat * 2 ^ 64) = (v ++ old.extractLsb' 0 64 : BitVec 128) := by
  have := v.isLt
  apply BitVec.eq_of_toNat_eq
  rw [BitVec.toNat_ofNat, BitVec.toNat_append, BitVec.extractLsb'_toNat, Nat.shiftRight_zero,
    ← Nat.shiftLeft_add_eq_or_of_lt (Nat.mod_lt _ (by decide)), Nat.shiftLeft_eq]
  omega

theorem Ctx.dbgPut_low (r : Fin 32) : x.dbgPut (64 + 2 * r.val) v =
    { x with v := x.v.set r.val (x.v[r.val].extractLsb' 64 64 ++ v : BitVec 128) } := by
  have hr : (64 + 2 * r.val - 64) / 2 = r.val := by omega
  have hget : x.v.toList.getD r.val 0 = x.v[r.val] := by simp
  rw [Ctx.dbgPut, if_neg (by omega), if_pos (by omega), hr, hget, if_pos (by omega), append_low, setIfInBounds_fin]

theorem Ctx.dbgPut_high (r : Fin 32) : x.dbgPut (65 + 2 * r.val) v =
    { x with v := x.v.set r.val (v ++ x.v[r.val].extractLsb' 0 64 : BitVec 128) } := by
  have hr : (65 + 2 * r.val - 64) / 2 = r.val := by omega
  have hget : x.v.toList.getD r.val 0 = x.v[r.val] := by simp
  rw [Ctx.dbgPut, if_neg (by omega), if_pos (by omega), hr, hget, if_neg (by omega), append_high, setIfInBounds_fin]

theorem Ctx.dbgPut_k (r : Fin 8) : x.dbgPut (128 + r.val) v = { x with k := x.k.set r.val (v.setWidth 16) } := by
  have hr : 128 + r.val - 128 = r.val := by omega
  rw [Ctx.dbgPut, if_neg (by omega), if_neg (by omega), if_pos (by omega), hr, setIfInBounds_fin]

theorem Ctx.dbgPut_pc : (x.dbgPut 136 v).pc = v.toNat % 2 ^ 52 / 4 * 4 := rfl

end

/-! WPHIT of the slot (R107, R221). -/

theorem csrNow_wphit {s : State} {c : Nat} (t : Nat) (op : CsrOp) (v : Word) (he : (s.core c).events.contains 0x036 = false) :
    csrNow s c t 0x036 op v = s.updCore c fun k => { k with wphit := csrMerge 0x036 op (s.core c).wphit v } := by
  have hev : eventBits (s.core c) 0x036 (s.core c).wphit = 0#64 := if_neg (by rw [he]; exact Bool.false_ne_true)
  have hnow : csrNow s c t 0x036 op v = csrStore s c t 0x036
      (csrMerge 0x036 op (s.core c).wphit v ||| eventBits (s.core c) 0x036 (s.core c).wphit) := rfl
  rw [hnow, hev, BitVec.or_zero]
  rfl

/-! DBGRDATA_WRITE. -/

/-- What another slot of the core is after the completion of the instruction. -/
theorem ctx_complete_dbgrWrite (s : State) (w : Word) {d : Nat} (hd : d ≠ s.cur.slot) :
    (complete (dbgrWrite s s.cur.core (actingOp s) w)).ctx s.cur.core d = (dbgrWrite s s.cur.core (actingOp s) w).ctx s.cur.core d := by
  have hcur := (dbgrWrite_noneBegins s s.cur.core (actingOp s) w).cur
  have hc := complete_ctx_ne (dbgrWrite s s.cur.core (actingOp s) w) (d := d) (by rw [hcur]; exact hd)
  rwa [hcur] at hc

theorem dbgrWrite_none {s : State} (w : Word) (hn : s.myCore.dbgrnum.toNat < 256)
    (hold : dbgRead s.myCore s.myCore.dbgsel.toNat s.myCore.dbgrnum.toNat = none) : dbgrWrite s s.cur.core (actingOp s) w = s :=
  (if_pos hn).trans (dbgWrite_of_none hold _)

section
variable {s : State} {w : Word} (h : acts s 4 w = true)
include h

theorem exec_dbgrdataWrite : exec .dbgrdataWrite s = .next (complete (dbgrWrite s s.cur.core (actingOp s) w)) :=
  doAction_of_acts (act := fun w s => dbgrWrite s s.cur.core (actingOp s) w) h (dbgrWrite_noneBegins ..)

/-- A register that is no CSR is one field of all bits (R221). -/
theorem dbgrWrite_reg (hn : s.myCore.dbgrnum.toNat < 256) {old : Word}
    (hold : dbgRead s.myCore s.myCore.dbgsel.toNat s.myCore.dbgrnum.toNat = some old) :
    dbgrWrite s s.cur.core (actingOp s) w = dbgWrite s s.cur.core (fieldOf s old w) := by
  obtain ⟨b, hb, -⟩ := acts_iff.mp h
  rw [fieldOf_eq hb]
  have ho : (dbgRead (s.core s.cur.core) (s.core s.cur.core).dbgsel.toNat (s.core s.cur.core).dbgrnum.toNat).getD 0 = old := by
    rw [State.myCore] at hold
    rw [hold]
    rfl
  exact (if_pos hn).trans (by rw [ho])

theorem dbgrWrite_wphit (hd : s.myCore.dbgsel.toNat ≤ 10) (hh : (s.ctx s.cur.core s.myCore.dbgsel.toNat).halted = true)
    (hn : s.myCore.dbgrnum.toNat = 256 + 0x036) (he : s.myCore.events.contains 0x036 = false) :
    dbgrWrite s s.cur.core (actingOp s) w = s.updMyCore fun k => { k with wphit := clearedBy s s.myCore.wphit w } := by
  obtain ⟨b, hb, -⟩ := acts_iff.mp h
  have hgo : dbgrWrite s s.cur.core (actingOp s) w = csrNow s s.cur.core s.myCore.dbgsel.toNat (s.myCore.dbgrnum.toNat - 256)
      (actingOp s) w := by
    refine (if_neg (by rw [State.myCore] at hn; omega)).trans (if_pos ?_)
    rw [State.myCore] at hd hh hn
    simp [hd, hh, hn]
  rw [hgo, hn, csrNow_wphit _ _ _ he, clearedBy_eq hb]
  rfl

end

theorem debugRegisterWrite : Clause.DebugRegisterWrite := by
  intro w s h hd hne
  have hctx := ctx_complete_dbgrWrite s w hne
  refine ⟨_, exec_dbgrdataWrite h, complete_blk _, fun hh hn => ?_, fun _ hn hr => ?_, fun hh hn he => ?_, fun old hh hold => ?_⟩
  · exact hctx.trans (congrArg (State.ctx · _ _) (dbgrWrite_none w hn (dbgRead_of_running hh _)))
  · exact hctx.trans (congrArg (State.ctx · _ _) (dbgrWrite_none w hn hr))
  · have hw := dbgrWrite_wphit h hd hh hn he
    refine ⟨?_, hctx.trans ?_⟩
    · rw [hw, complete_myCore, State.myCore_updMyCore]
    · rw [hw, State.ctx, State.updMyCore, State.core_updCore_self]
      rfl
  · have hreg (hn : s.myCore.dbgrnum.toNat < 256) :
        (complete (dbgrWrite s s.cur.core (actingOp s) w)).ctx s.cur.core s.myCore.dbgsel.toNat =
          (s.ctx s.cur.core s.myCore.dbgsel.toNat).dbgPut s.myCore.dbgrnum.toNat (fieldOf s old w) :=
      hctx.trans ((congrArg (State.ctx · _ _) (dbgrWrite_reg h hn hold)).trans (dbgWrite_of_some hold _))
    refine ⟨fun r hn => ?_, fun r hn => ?_, fun r hn => ?_, fun r hn => ?_, fun hn => ?_⟩
    · rw [hreg (by omega), hn, Ctx.dbgPut_x]
    · rw [hreg (by omega), hn, Ctx.dbgPut_low]
    · rw [hreg (by omega), hn, Ctx.dbgPut_high]
    · rw [hreg (by omega), hn, Ctx.dbgPut_k]
    · rw [hreg (by omega), hn, Ctx.dbgPut_pc]

/-- Settles O34: an action that ends leaves its instruction without pushes, and the instruction completes. -/
theorem registerWritesAct : Obligations.RegisterWritesAct := ⟨registerActions, debugRegisterWrite⟩

end Sys2Proof.Machine
end

section
/-! PROOFS. Lane instructions (spec/05, R118, R119, R123): what an instruction on vector registers reads in its issue clock, the
lanes and flags it writes, and the instructions of R127 to R129. -/

namespace Sys2Proof.Machine

/-! Vector registers, masks and FPSTAT of the issuing context (R119, R122). -/

/-- A context whose FPSTAT has taken flags (R122). -/
def Ctx.takesFlags (x : Ctx) (fl : FFlags) : Ctx := { x with fpstat := x.fpstat ||| fl }

theorem Ctx.takesFlags_zero (x : Ctx) : x.takesFlags 0 = x := by
  simp [Ctx.takesFlags]

theorem Ctx.takesFlags_blk (x : Ctx) (fl : FFlags) : (x.takesFlags fl).blk = x.blk := rfl
theorem Ctx.takesFlags_halted (x : Ctx) (fl : FFlags) : (x.takesFlags fl).halted = x.halted := rfl

theorem orMyFp_eq (s : State) (fl : FFlags) : orMyFp s fl = s.updMe fun x => x.takesFlags fl := rfl

theorem putV_v (s : State) (d : Fin 32) (w : VWord) : putV s (.v d) w = s.updMe fun x => x.setV d w := rfl

/-- An instruction whose sources are vector registers takes nothing from a port. -/
theorem port?_of_vecSrcs {i : Instr} {vs : List (Fin 32)} (h : srcs i = vs.map fun a => .v (.v a)) : ∀ o ∈ srcs i, o.port? = none := by
  simp [h, Opnd.port?]

theorem arg_srcVals {i : Instr} {a : Fin 48} {l : List Opnd} (h : srcs i = .s (.x a) :: l) (s : State) :
    arg (srcVals i s) 0 = s.me.getX a := by
  rw [srcVals, h]
  exact w64_v128 _

theorem argV_srcVals {i : Instr} {a : Fin 32} {l : List Opnd} (h : srcs i = .v (.v a) :: l) (s : State) :
    argV (srcVals i s) 0 = s.me.v[a.val] := by
  rw [srcVals, h]
  rfl

theorem writesLanes_eq (i : Instr) (w n : Nat) (d : Fin 32) (r : Nat → Nat × FFlags) (s : State) : writesLanes i w n d r s =
    (issued i s).updMe fun x => (x.setV d (ofLanes w ((List.range n).map fun k => (r k).1))).takesFlags
      (orFlags ((List.range n).map fun k => (r k).2)) := rfl

section
variable {i : Instr} {s : State} (h : issues i s = true) (vs : List VWord)
include h

/-! What the instruction reads in its block is what stood there before its issue. -/

theorem laneOn_blocks (m : Fin 8) (k : Nat) : laneOn (blocks i 0 0 vs s) m k = laneOn s m k := by
  rw [laneOn, blocks_me h]
  rfl

theorem flushV1_blocks : flushV1 (blocks i 0 0 vs s) = !s.me.nbv2 := by
  rw [flushV1, opVer, blocks_me h]
  rfl

theorem getV_blocks (d : Fin 32) : getV (blocks i 0 0 vs s) (.v d) = s.me.v[d.val] := by
  simp only [getV, blocks_me h]
  rfl

theorem getK_blocks (n : Nat) : (blocks i 0 0 vs s).me.getK n = s.me.getK n := by
  rw [blocks_me h]
  rfl

theorem activeLanes_blocks (t : VType) (m : Fin 8) (v : VWord) : activeLanes t m v (blocks i 0 0 vs s) = activeLanes t m v s := by
  rw [activeLanes, activeLanes, funext (laneOn_blocks h vs m)]

end

section
variable {i : Instr} {eff : List VWord → State → State} {s : State} (h : issues i s = true) (hr : ∀ o ∈ srcs i, o.port? = none)
include h hr

/-- An effect that sets flags and writes lanes of a vector register (R119, R123). -/
theorem issueOps_writesLanes {w n : Nat} {d : Fin 32} {r : Nat → Nat × FFlags}
    (he : eff (srcVals i s) (blocks i 0 0 (srcVals i s) s) =
      putV (orMyFp (blocks i 0 0 (srcVals i s) s) (orFlags ((List.range n).map fun k => (r k).2))) (.v d)
        (ofLanes w ((List.range n).map fun k => (r k).1))) :
    issueOps i eff s = .next (writesLanes i w n d r s) := by
  rw [writesLanes_eq]
  refine issueOps_changes h hr (fun x => (x.setV d _).takesFlags _) (fun _ _ => rfl) (fun _ => rfl) (fun _ => rfl) ?_
  rw [he, orMyFp_eq, putV_v, State.updMe_updMe]
  rfl

/-- A lanewise effect writes the lanes that `masked` lists (R119). -/
theorem issueOps_lanewise {t : VType} {m : Fin 8} {d : Fin 32} {r : Nat → Nat × FFlags}
    (he : eff (srcVals i s) (blocks i 0 0 (srcVals i s) s) = lanewise t m (.v d) r (blocks i 0 0 (srcVals i s) s)) :
    issueOps i eff s = .next (writesLanes i t.width t.lanes d (masked t m d r s) s) := by
  refine issueOps_writesLanes h hr ?_
  have hlane (k : Nat) : (if laneOn (blocks i 0 0 (srcVals i s) s) m k then r k
      else (laneT t (getV (blocks i 0 0 (srcVals i s) s) (.v d)) k, 0)) = masked t m d r s k := by
    rw [laneOn_blocks h, getV_blocks h]
    simp only [laneOn, masked, laneT, Bool.or_eq_true, beq_iff_eq]
  rw [he, lanewise]
  simp only [hlane, List.map_map]
  rfl

end

/-! Lanes as numbers (R12, R118). -/

theorem laneT_lt (t : VType) (v : VWord) (k : Nat) : laneT t v k < 2 ^ t.width := Nat.mod_lt _ (Nat.two_pow_pos _)

theorem width_pos (t : VType) : 0 < t.width := by cases t <;> decide
theorem lanes_pos (t : VType) : 0 < t.lanes := by cases t <;> decide
theorem lanes_le (t : VType) : t.lanes ≤ 16 := by cases t <;> decide

theorem two_pow_width (t : VType) : 2 ^ t.width = 2 * 2 ^ (t.width - 1) := by
  rw [← Nat.pow_succ', Nat.succ_eq_add_one, Nat.sub_add_cancel (width_pos t)]

/-- A signed lane by its code (R12). -/
theorem ival_eq {t : VType} {a : Nat} (ha : a < 2 ^ t.width) :
    ival t a = if 2 ^ (t.width - 1) ≤ a then (a : Int) - (2 ^ t.width : Nat) else a := by
  simp only [ival, sextN, Nat.mod_eq_of_lt ha, width_pos t, and_true]

theorem ival_bounds (t : VType) (a : Nat) : -(2 ^ t.width : Nat) ≤ ival t a ∧ ival t a < (2 ^ t.width : Nat) := by
  have hlt : a % 2 ^ t.width < 2 ^ t.width := Nat.mod_lt _ (Nat.two_pow_pos _)
  simp only [ival, sextN]
  split <;> omega

/-! The instructions of R127 to R129. -/

/-- A lane instruction of two sources: what it names, and that its effect gives each active lane of d a function of that lane of
its sources and of d (R127). -/
structure Lane2 (t : VType) (m : Fin 8) (i : VOp → VOp → VOp → Instr) (r : Nat → Nat → Nat → Nat × FFlags) (s : State) : Prop where
  srcs_eq : ∀ d a b, srcs (i d a b) = [.v a, .v b]
  exec_eq : ∀ d a b, ∃ eff, (∀ u, exec (i d a b) u = issueOps (i d a b) eff u) ∧ ∀ vs u, (flushV1 u = !s.me.nbv2) →
    eff vs u = lanewise t m d (fun k => r (laneT t (argV vs 0) k) (laneT t (argV vs 1) k) (laneT t (getV u d) k)) u

theorem Lane2.congr {t : VType} {m : Fin 8} {i : VOp → VOp → VOp → Instr} {r r' : Nat → Nat → Nat → Nat × FFlags} {s : State}
    (h : Lane2 t m i r s) (hr : ∀ a b c, r a b c = r' a b c) : Lane2 t m i r' s := by
  rwa [← show r = r' from funext fun a => funext fun b => funext fun c => hr a b c]

theorem Lane2.writesLanes {t : VType} {m : Fin 8} {i : VOp → VOp → VOp → Instr} {r : Nat → Nat → Nat → Nat × FFlags} {s : State}
    {d a b : Fin 32} (hi : Lane2 t m i r s) (h : issues (i (.v d) (.v a) (.v b)) s = true) :
    exec (i (.v d) (.v a) (.v b)) s = .next (writesLanes (i (.v d) (.v a) (.v b)) t.width t.lanes d
      (masked t m d (fun k => r (lane (s.me.v[a.val]) t.width k) (lane (s.me.v[b.val]) t.width k)
        (lane (s.me.v[d.val]) t.width k)) s) s) := by
  have hsrcs := hi.srcs_eq (.v d) (.v a) (.v b)
  obtain ⟨eff, hexec, heff⟩ := hi.exec_eq (.v d) (.v a) (.v b)
  rw [hexec]
  refine issueOps_lanewise h (port?_of_vecSrcs (vs := [a, b]) hsrcs) ?_
  rw [heff _ _ (flushV1_blocks h _), getV_blocks h, srcVals, hsrcs]
  rfl

section
variable {t : VType} {m : Fin 8} {i : VOp → VOp → VOp → Instr} {s : State} (hsrcs : ∀ d a b, srcs (i d a b) = [.v a, .v b])
include hsrcs

section
variable {fi : Int → Int → Int} {ff : FVal → FVal → FVal}
  (hexec : ∀ d a b u, exec (i d a b) u = issueOps (i d a b) (arith2 t m d fi ff) u)
include hexec

theorem lane2_of_arith2_float (ht : t.isFloat = true) : Lane2 t m i (fun a b _ => rounded t s (ff (fval t a) (fval t b))) s :=
  ⟨hsrcs, fun d a b => ⟨_, hexec d a b, fun vs u hu => by simp only [arith2, ht, if_true, hu, rounded]⟩⟩

theorem lane2_of_arith2_int (ht : t.isFloat = false) : Lane2 t m i (fun a b _ => (wrapT t (fi (ival t a) (ival t b)), 0)) s :=
  ⟨hsrcs, fun d a b => ⟨_, hexec d a b, fun vs u _ => by simp only [arith2, ht, Bool.false_eq_true, if_false]⟩⟩

end

theorem lane2_of_fused {ff : FVal → FVal → FVal → FVal}
    (hexec : ∀ d a b u, exec (i d a b) u = issueOps (i d a b) (fused t m d ff) u) :
    Lane2 t m i (fun a b c => rounded t s (ff (fval t a) (fval t b) (fval t c))) s :=
  ⟨hsrcs, fun d a b => ⟨_, hexec d a b, fun vs u hu => by simp only [fused, hu, rounded]⟩⟩

theorem lane2_of_bits2 {f : Nat → Nat → Nat} (hexec : ∀ d a b u, exec (i d a b) u = issueOps (i d a b) (bits2 t m d f) u) :
    Lane2 t m i (fun a b _ => (f a b, 0)) s :=
  ⟨hsrcs, fun d a b => ⟨_, hexec d a b, fun _ _ _ => rfl⟩⟩

theorem lane2_of_pickLane {top : Bool} (hexec : ∀ d a b u, exec (i d a b) u = issueOps (i d a b)
      (fun vs => lanewise t m d fun k => pickLane t top (laneT t (argV vs 0) k) (laneT t (argV vs 1) k)) u) :
    Lane2 t m i (fun a b _ => pickLane t top a b) s :=
  ⟨hsrcs, fun d a b => ⟨_, hexec d a b, fun _ _ _ => rfl⟩⟩

end

/-- An arithmetic shift by the width or more leaves the sign alone (R129). -/
theorem ival_ediv_two_pow_min (t : VType) (a b : Nat) : ival t a / (2 ^ min b t.width : Nat) =
    if b < t.width then ival t a / (2 ^ b : Nat) else if ival t a < 0 then -1 else 0 := by
  obtain ⟨hlo, hhi⟩ := ival_bounds t a
  rcases lt_or_ge b t.width with hb | hb
  · rw [Nat.min_eq_left hb.le, if_pos hb]
  rw [Nat.min_eq_right hb, if_neg hb.not_gt]
  rcases lt_or_ge (ival t a) 0 with hneg | hpos
  · rw [if_pos hneg, Int.ediv_eq_neg_one_of_neg_of_le hneg (by omega)]
  · rw [if_neg hpos.not_gt, Int.ediv_eq_zero_of_lt hpos hhi]

/-- VMIN and VMAX, with the NaN rule of both operands (R128). -/
theorem pickLane_eq (t : VType) (top : Bool) (a b : Nat) : pickLane t top a b =
    (if laneNan t a then a else if laneNan t b then b else if (if top then rankLt t a b else rankLt t b a) then b else a,
      if laneNan t a || laneNan t b then flagNV else 0) := by
  simp only [pickLane]
  split
  · rfl
  split
  · rfl
  cases top <;> rfl

section
variable {t : VType} {m : Fin 8} {s : State} {row : (VOp → VOp → VOp → Instr) × (Nat → Nat → Nat → Nat × FFlags)}

theorem lane2_of_laneRows (h : row ∈ laneRows t m s) : Lane2 t m row.1 row.2 s := by
  have hshift (b x : Nat) : (if t.width ≤ b then 0 else x) = if b < t.width then x else 0 := by
    simp only [← not_lt, ite_not]
  rw [laneRows, List.mem_append] at h
  rcases h with h | h
  · cases ht : t.isFloat
    · simp only [ht, Bool.false_eq_true, if_false, List.mem_cons, List.not_mem_nil, or_false] at h
      rcases h with rfl | rfl | rfl | rfl | rfl | rfl | rfl | rfl | rfl
      · exact lane2_of_arith2_int (fun _ _ _ => rfl) (fun _ _ _ _ => rfl) ht
      · exact lane2_of_arith2_int (fun _ _ _ => rfl) (fun _ _ _ _ => rfl) ht
      · exact lane2_of_arith2_int (fun _ _ _ => rfl) (fun _ _ _ _ => rfl) ht
      · exact lane2_of_bits2 (fun _ _ _ => rfl) (fun _ _ _ _ => rfl)
      · exact lane2_of_bits2 (fun _ _ _ => rfl) (fun _ _ _ _ => rfl)
      · exact lane2_of_bits2 (fun _ _ _ => rfl) (fun _ _ _ _ => rfl)
      · exact (lane2_of_bits2 (fun _ _ _ => rfl) (fun _ _ _ _ => rfl)).congr fun a b _ => by rw [hshift]
      · exact (lane2_of_bits2 (fun _ _ _ => rfl) (fun _ _ _ _ => rfl)).congr fun a b _ => by rw [hshift]
      · exact (lane2_of_bits2 (fun _ _ _ => rfl) (fun _ _ _ _ => rfl)).congr fun a b _ => by rw [ival_ediv_two_pow_min]
    · simp only [ht, if_true, List.mem_cons, List.not_mem_nil, or_false] at h
      rcases h with rfl | rfl | rfl | rfl | rfl | rfl
      · exact lane2_of_arith2_float (fun _ _ _ => rfl) (fun _ _ _ _ => rfl) ht
      · exact lane2_of_arith2_float (ff := fun x y => x.add y.neg) (fun _ _ _ => rfl) (fun _ _ _ _ => rfl) ht
      · exact lane2_of_arith2_float (fun _ _ _ => rfl) (fun _ _ _ _ => rfl) ht
      · exact lane2_of_fused (ff := fun x y z => (x.mul y).add z) (fun _ _ _ => rfl) (fun _ _ _ _ => rfl)
      · exact lane2_of_fused (ff := fun x y z => (x.mul y).add z.neg) (fun _ _ _ => rfl) (fun _ _ _ _ => rfl)
      · exact lane2_of_fused (ff := fun x y z => z.add (x.mul y).neg) (fun _ _ _ => rfl) (fun _ _ _ _ => rfl)
  · simp only [List.mem_cons, List.not_mem_nil, or_false] at h
    rcases h with rfl | rfl
    · exact (lane2_of_pickLane (fun _ _ _ => rfl) (fun _ _ _ _ => rfl)).congr fun a b _ => pickLane_eq t false a b
    · exact (lane2_of_pickLane (fun _ _ _ => rfl) (fun _ _ _ _ => rfl)).congr fun a b _ => pickLane_eq t true a b

end

/-! VABS and VNEG (R127). -/

/-- The sign bit cleared or inverted, by the parts of a code. -/
theorem signBit_eq {t : VType} {a : Nat} (ha : a < 2 ^ t.width) :
    a % 2 ^ (t.width - 1) + 2 ^ (t.width - 1) * b2n (!decide (2 ^ (t.width - 1) ≤ a)) = (a + 2 ^ (t.width - 1)) % 2 ^ t.width := by
  rw [two_pow_width] at ha ⊢
  generalize 2 ^ (t.width - 1) = half at ha ⊢
  rcases lt_or_ge a half with hlt | hge
  · rw [Nat.mod_eq_of_lt hlt, Nat.mod_eq_of_lt (by omega)]
    simp [b2n, hlt]
  · have hsub : a % half = a - half := by rw [Nat.mod_eq_sub_mod hge, Nat.mod_eq_of_lt (by omega)]
    have hsum : (a + half) % (2 * half) = a - half := by
      rw [Nat.mod_eq_sub_mod (by omega), Nat.mod_eq_of_lt (by omega)]
      omega
    rw [hsub, hsum]
    simp [b2n, hge]

/-- A lane that `signOp` gives, for a lane's code. -/
def signLane (t : VType) (fi : Int → Int) (fs : Bool → Bool) (a : Nat) : Nat :=
  if t.isFloat then
    if (fval t a).isNan then (vFmt t).nanCode
    else a % 2 ^ (t.width - 1) + 2 ^ (t.width - 1) * b2n (fs (2 ^ (t.width - 1) ≤ a))
  else wrapT t (fi (ival t a))

theorem signOp_eq (t : VType) (m : Fin 8) (d : VOp) (fi : Int → Int) (fs : Bool → Bool) (vs : List VWord) (s : State) :
    signOp t m d fi fs vs s = lanewise t m d (fun k => (signLane t fi fs (laneT t (argV vs 0) k), 0)) s := by
  simp only [signOp, signLane]
  refine congrArg (fun f => lanewise t m d f s) (funext fun k => ?_)
  split
  · split <;> rfl
  · rfl

/-- A row of `signRows`: its instruction and its lanes. -/
theorem signLane_of_signRows {t : VType} {m : Fin 8} {row : (VOp → VOp → Instr) × (Nat → Nat)} (h : row ∈ signRows t m) :
    ∃ fi fs, (∀ d a u, exec (row.1 d a) u = issueOps (row.1 d a) (signOp t m d fi fs) u) ∧ (∀ d a, srcs (row.1 d a) = [.v a]) ∧
      ∀ a < 2 ^ t.width, signLane t fi fs a = row.2 a := by
  cases ht : t.isFloat
  · simp only [signRows, ht, Bool.false_eq_true, if_false, List.mem_cons, List.not_mem_nil, or_false] at h
    rcases h with rfl | rfl
    · refine ⟨_, _, fun _ _ _ => rfl, fun _ _ => rfl, fun a _ => ?_⟩
      simp only [signLane, ht, Bool.false_eq_true, if_false]
      congr 1
      split <;> omega
    · refine ⟨_, _, fun _ _ _ => rfl, fun _ _ => rfl, fun a _ => ?_⟩
      simp only [signLane, ht, Bool.false_eq_true, if_false, zero_sub]
  · simp only [signRows, ht, if_true, List.mem_cons, List.not_mem_nil, or_false] at h
    rcases h with rfl | rfl
    · refine ⟨_, _, fun _ _ _ => rfl, fun _ _ => rfl, fun a _ => ?_⟩
      simp [signLane, laneNan, ht, b2n]
    · refine ⟨_, _, fun _ _ _ => rfl, fun _ _ => rfl, fun a ha => ?_⟩
      simp only [signLane, laneNan, ht, if_true, Bool.true_and, signBit_eq ha]

/-- Settles O22: each row's instruction is lanewise, with the lanes of its row. -/
theorem lanesResult : Obligations.LanesResult := by
  intro t m d a b s
  refine ⟨fun row hrow h => (lane2_of_laneRows hrow).writesLanes h, fun row hrow h => ?_⟩
  obtain ⟨fi, fs, hexec, hsrcs, hlane⟩ := signLane_of_signRows hrow
  rw [hexec]
  refine issueOps_lanewise h (port?_of_vecSrcs (vs := [a]) (hsrcs _ _)) ?_
  rw [signOp_eq, argV_srcVals (hsrcs _ _)]
  exact congrArg (fun f => lanewise t m (.v d) f _) (funext fun k => by rw [hlane _ (laneT_lt ..), laneT])

end Sys2Proof.Machine
end

section
/-! PROOFS. Lanes selected, moved and compared (spec/05, R129 to R131). -/

namespace Sys2Proof.Machine

/-! The flags of several lanes (R119, R123). -/

theorem orFlags_cons (fl : FFlags) (l : List FFlags) : orFlags (fl :: l) = fl ||| orFlags l := by
  rw [orFlags, orFlags, List.foldl_cons, BitVec.or_comm]
  exact List.foldl_assoc (op := (· ||| · : FFlags → FFlags → FFlags))

/-- Lanes that set one flag or none. -/
theorem orFlags_map_ite {α : Type} (p : α → Bool) (fl : FFlags) (l : List α) :
    orFlags (l.map fun x => if p x then fl else 0) = if l.any p then fl else 0 := by
  induction l with
  | nil => rfl
  | cons x l ih =>
    rw [List.map_cons, orFlags_cons, ih, List.any_cons]
    cases p x <;> cases l.any p <;> simp

theorem orFlags_map_zero {α : Type} (l : List α) : orFlags (l.map fun _ => 0) = 0 := by
  simpa using orFlags_map_ite (fun _ => false) 0 l

theorem putV_orMyFp_zero (s : State) (d : Fin 32) (w : VWord) : putV (orMyFp s 0) (.v d) w = putV s (.v d) w := by
  simp only [orMyFp_eq, putV_v, State.updMe_updMe, Ctx.takesFlags_zero]

/-- An effect that writes lanes of a vector register and sets no flag. -/
theorem issueOps_movesLanes {i : Instr} {eff : List VWord → State → State} {s : State} (h : issues i s = true)
    (hr : ∀ o ∈ srcs i, o.port? = none) {w n : Nat} {d : Fin 32} {r : Nat → Nat}
    (he : eff (srcVals i s) (blocks i 0 0 (srcVals i s) s) = putV (blocks i 0 0 (srcVals i s) s) (.v d) (ofLanes w ((List.range n).map r))) :
    issueOps i eff s = .next (writesLanes i w n d (fun k => (r k, 0)) s) :=
  issueOps_writesLanes h hr (by rw [he, orFlags_map_zero, putV_orMyFp_zero])

/-! VCMP (R130). -/

theorem ival_inj {t : VType} {a b : Nat} (ha : a < 2 ^ t.width) (hb : b < 2 ^ t.width) (h : ival t a = ival t b) : a = b := by
  rw [ival_eq ha, ival_eq hb] at h
  split at h <;> split at h <;> omega

theorem cmpLane_eq_laneHolds {t : VType} {a b : Nat} (p : CmpOp) (ha : a < 2 ^ t.width) (hb : b < 2 ^ t.width) :
    cmpLane p t a b = laneHolds p t a b := by
  cases ht : t.isFloat
  · have heq : (a == b) = (!decide (ival t a < ival t b) && !decide (ival t b < ival t a)) := by
      rw [Bool.eq_iff_iff]
      simp only [beq_iff_eq, Bool.and_eq_true, Bool.not_eq_true', decide_eq_false_iff_not, not_lt]
      exact ⟨by rintro rfl; simp, fun ⟨h1, h2⟩ => ival_inj ha hb (le_antisymm h2 h1)⟩
    have hle (x y : Int) : decide (x ≤ y) = !decide (y < x) := by rw [← decide_not, decide_eq_decide, Int.not_lt]
    cases p <;> simp only [cmpLane, laneHolds, laneNan, ht, bne, heq, hle, Bool.not_and, Bool.not_not, Bool.false_and, Bool.false_or,
      Bool.not_false, Bool.true_and, Bool.false_eq_true, if_false]
  · cases p <;> simp [cmpLane, laneHolds, laneNan, ht]

theorem cmpFlag_eq (p : CmpOp) (t : VType) (a b : Nat) :
    cmpFlag p t a b = if (p != .eq && p != .ne) && (laneNan t a || laneNan t b) then flagNV else 0 := by
  cases p <;> rfl

/-- The number whose bits are the places below n at which p holds. -/
theorem foldl_two_pow_bits (p : Nat → Bool) (n : Nat) :
    let b := ((List.range n).filter p).foldl (fun x i => x + 2 ^ i) 0
    b < 2 ^ n ∧ ∀ k, b.testBit k = (decide (k < n) && p k) := by
  induction n with
  | zero => simp
  | succ n ih =>
    obtain ⟨hlt, hbits⟩ := ih
    simp only [List.range_succ, List.filter_append, List.foldl_append]
    generalize ((List.range n).filter p).foldl (fun x i => x + 2 ^ i) 0 = b at hlt hbits
    cases hp : p n
    · simp only [hp, List.filter_cons, List.filter_nil, Bool.false_eq_true, if_false, List.foldl_nil]
      refine ⟨hlt.trans (Nat.pow_lt_pow_succ (by decide)), fun k => ?_⟩
      rcases lt_trichotomy k n with hk | rfl | hk
      · simp [hbits, hk, hk.trans (Nat.lt_succ_self n)]
      · simp [hbits, hp]
      · simp [hbits, hk.not_gt, show ¬ k < n + 1 by omega]
    · simp only [hp, List.filter_cons, List.filter_nil, if_true, List.foldl_cons, List.foldl_nil]
      refine ⟨by rw [Nat.pow_succ]; omega, fun k => ?_⟩
      rw [Nat.add_comm]
      rcases lt_trichotomy k n with hk | rfl | hk
      · simp [Nat.testBit_two_pow_add_gt hk, hbits, hk, hk.trans (Nat.lt_succ_self n)]
      · simp [Nat.testBit_two_pow_add_eq, hbits, hp]
      · have hn : ¬ k < n + 1 := by omega
        have hsum : 2 ^ n + b < 2 ^ k := lt_of_lt_of_le (by rw [Nat.pow_succ]; omega) (Nat.pow_le_pow_right (by decide) hk)
        simp [Nat.testBit_lt_two_pow hsum, hn]

/-- The mask of the lanes of which a predicate holds (R130). -/
def laneMask (t : VType) (holds : Nat → Bool) : BitVec 16 :=
  BitVec.ofNat 16 (((List.range t.lanes).filter holds).foldl (fun x i => x + 2 ^ i) 0)

theorem getLsbD_laneMask (t : VType) (holds : Nat → Bool) {n : Nat} (hn : n < 16) :
    (laneMask t holds).getLsbD n = (decide (n < t.lanes) && holds n) := by
  rw [laneMask, BitVec.getLsbD_ofNat, (foldl_two_pow_bits holds t.lanes).2, decide_eq_true hn, Bool.true_and]

/-- VCMP writes the mask of the active lanes of which its predicate holds, and sets NV for an active NaN where its predicate is an
order (R130). -/
theorem effVcmp_eq (p : CmpOp) (t : VType) (m k : Fin 8) (vs : List VWord) (s : State) :
    effVcmp p t m k vs s = s.updMe fun x =>
      (x.setK k (laneMask t fun n => laneOn s m n && laneHolds p t (laneT t (argV vs 0) n) (laneT t (argV vs 1) n))).takesFlags
        (if (p != .eq && p != .ne) && (List.range t.lanes).any fun n => laneOn s m n &&
          (laneNan t (laneT t (argV vs 0) n) || laneNan t (laneT t (argV vs 1) n)) then flagNV else 0) := by
  have hholds (n : Nat) := cmpLane_eq_laneHolds p (laneT_lt t (argV vs 0) n) (laneT_lt t (argV vs 1) n)
  have hany (c : Bool) (l : List Nat) (q r : Nat → Bool) : (l.any fun n => q n && (c && r n)) = (c && l.any fun n => q n && r n) := by
    cases c <;> simp
  simp only [effVcmp, orMyFp_eq, State.updMe_updMe, hholds, List.filter_filter, cmpFlag_eq, orFlags_map_ite, List.any_filter, hany,
    Bool.and_comm (laneHolds ..)]
  rfl

/-! The moves (R129, R131). -/

/-- The lanes of a vector with one of them replaced. -/
theorem lanesOf_set (v : VWord) (w n l x : Nat) :
    (lanesOf v w n).set l x = (List.range n).map fun k => if k = l then x else lane v w k := by
  refine List.ext_getElem (by simp [lanesOf]) fun k _ _ => ?_
  simp [lanesOf, List.getElem_set, eq_comm]

theorem lanesMove : Clause.LanesMove := by
  intro t m k d a b c x l p s at_ on nans
  refine ⟨fun h => ?_, fun h => ?_, fun h => ⟨_, ?_, fun n hn => (getLsbD_laneMask t _ hn).trans (Bool.and_assoc ..).symm⟩,
    fun h => ?_, fun h _ => ?_, fun h _ => issueOps_puts h (port?_of_vecSrcs (vs := [a]) rfl) rfl⟩
  · refine issueOps_movesLanes h (port?_of_vecSrcs (vs := [a, b]) rfl) ?_
    simp only [effVsel, getK_blocks h]
    refine congrArg (fun l => putV _ _ (ofLanes _ l)) (List.map_congr_left fun n _ => ?_)
    split <;> rfl
  · refine issueOps_lanewise h (port?_of_regSrc rfl) ?_
    rw [← arg_srcVals (i := .vbcast t m (.v d) (.x x)) rfl]
    rfl
  · refine issueOps_changes h (port?_of_vecSrcs (vs := [a, b]) rfl) (fun q => (q.setK k _).takesFlags _) (fun _ _ => rfl)
      (fun _ => rfl) (fun _ => rfl) ?_
    rw [effVcmp_eq]
    simp only [laneOn_blocks h]
    rfl
  · exact issueOps_lanewise h (port?_of_vecSrcs (vs := [a, b, c]) rfl) rfl
  · refine issueOps_movesLanes h (port?_of_regSrc rfl) ?_
    rw [effVins, getV_blocks h, lanesOf_set, arg_srcVals rfl]

end Sys2Proof.Machine
end

section
/-! PROOFS. Lanes summed, ranked and searched (spec/05, R128, R132 to R134). -/

namespace Sys2Proof.Machine

/-! The sum of integer lanes (R132): every level of the tree keeps the sum of the present lanes modulo 2^width. -/

section
variable (t : VType)

/-- The sum of the lanes that are present. -/
def presentSum (l : List (Option Nat)) : Int := (l.map fun o => ((o.getD 0 : Nat) : Int)).sum

/-- Every lane that is present is a code of the type. -/
def presentCodes (l : List (Option Nat)) : Prop := ∀ o ∈ l, o.getD 0 < 2 ^ t.width

/-- The sum of two lanes of a type (R132). -/
def addLanes (a b : Nat) : Nat := wrapT t ((a : Int) + b)

theorem wrapT_lt (x : Int) : wrapT t x < 2 ^ t.width := by
  have hpos : (0 : Int) < (2 ^ t.width : Nat) := by positivity
  have h0 := Int.emod_nonneg x hpos.ne'
  have hlt := Int.emod_lt_of_pos x hpos
  rw [wrapT, lowBits]
  omega

theorem wrapT_modEq (x : Int) : (wrapT t x : Int) ≡ x [ZMOD (2 ^ t.width : Nat)] := by
  have hpos : (0 : Int) < (2 ^ t.width : Nat) := by positivity
  rw [wrapT, lowBits, Int.toNat_of_nonneg (Int.emod_nonneg x hpos.ne')]
  exact Int.mod_modEq ..

theorem wrapT_congr {x y : Int} (h : x ≡ y [ZMOD (2 ^ t.width : Nat)]) : wrapT t x = wrapT t y := by
  rw [wrapT, wrapT, lowBits, lowBits, h]

theorem wrapT_of_lt {a : Nat} (h : a < 2 ^ t.width) : wrapT t a = a := by
  rw [wrapT, lowBits, ← Int.natCast_mod, Int.toNat_natCast, Nat.mod_eq_of_lt h]

theorem ival_modEq (a : Nat) : ival t a ≡ a [ZMOD (2 ^ t.width : Nat)] := by
  have hmod : ((a % 2 ^ t.width : Nat) : Int) ≡ a [ZMOD (2 ^ t.width : Nat)] := by
    rw [Int.natCast_mod]
    exact Int.mod_modEq ..
  simp only [ival, sextN]
  split
  · simpa using hmod.sub (Int.modEq_zero_iff_dvd.mpr (dvd_refl _))
  · exact hmod

theorem pairUp_length {α : Type} (f : α → α → α) (l : List (Option α)) : (pairUp f l).length = (l.length + 1) / 2 := by
  induction l using pairUp.induct with
  | case1 => simp [pairUp]
  | case2 a => simp [pairUp]
  | case3 a b r ih =>
    simp only [pairUp, List.length_cons, ih]
    omega

theorem pairUp_presentSum (l : List (Option Nat)) :
    presentSum (pairUp (addLanes t) l) ≡ presentSum l [ZMOD (2 ^ t.width : Nat)] := by
  induction l using pairUp.induct with
  | case1 => rfl
  | case2 a => rfl
  | case3 a b r ih =>
    simp only [pairUp, presentSum, List.map_cons, List.sum_cons, ← add_assoc] at ih ⊢
    refine Int.ModEq.add ?_ ih
    rcases a with _ | a <;> rcases b with _ | b
    · rfl
    · simp
    · simp
    · exact wrapT_modEq t (a + b)

theorem pairUp_presentCodes {l : List (Option Nat)} (h : presentCodes t l) : presentCodes t (pairUp (addLanes t) l) := by
  induction l using pairUp.induct with
  | case1 => exact h
  | case2 a => exact h
  | case3 a b r ih =>
    obtain ⟨ha, hb, hr⟩ : a.getD 0 < 2 ^ t.width ∧ b.getD 0 < 2 ^ t.width ∧ presentCodes t r := by
      simpa [presentCodes] using h
    refine List.forall_mem_cons.mpr ⟨?_, ih hr⟩
    rcases a with _ | a <;> rcases b with _ | b
    · exact hb
    · exact hb
    · exact ha
    · exact wrapT_lt t (a + b)

/-- The root of a tree with a level for each bit of the number of its lanes. -/
theorem treeRoot_addLanes (n : Nat) (l : List (Option Nat)) (hl : l.length ≤ 2 ^ n) (h : presentCodes t l) :
    (treeRoot (addLanes t) n l).getD 0 = wrapT t (presentSum l) := by
  induction n generalizing l with
  | zero =>
    match l, hl with
    | [], _ => exact (wrapT_of_lt t (Nat.two_pow_pos _)).symm
    | [o], _ =>
      have ho : presentSum [o] = (o.getD 0 : Nat) := by simp [presentSum]
      rw [ho, wrapT_of_lt t (h o (List.mem_singleton_self o))]
      rfl
  | succ n ih =>
    rw [treeRoot, ih _ (by rw [pairUp_length]; omega) (pairUp_presentCodes t h)]
    exact wrapT_congr t (pairUp_presentSum t l)

end

/-! The ranking of two lanes as an order of keys (R128). -/

/-- The signed significand of a finite value. -/
def signedSig (neg : Bool) (m : Nat) : Int := if neg then -(m : Int) else m

/-- The place of a value that is not NaN in the ranking: minus infinity, the finite values by number, +0 above −0, plus infinity. -/
def FVal.rankKey : FVal → ℤ ×ₗ ℚ ×ₗ ℕ
  | .nan => toLex (0, toLex (0, 0))
  | .inf neg => toLex (if neg then -1 else 1, toLex (0, 0))
  | .fin neg m e => toLex (0, toLex (signedSig neg m * (2 : ℚ) ^ e, if m = 0 ∧ neg = false then 1 else 0))

/-- A finite value scaled to an exponent at or below its own. -/
theorem signedSig_scaled (neg : Bool) (m : Nat) {e g : Int} (h : g ≤ e) :
    ((if neg then -((m * 2 ^ (e - g).toNat : Nat) : Int) else (m * 2 ^ (e - g).toNat : Nat) : Int) : ℚ) * (2 : ℚ) ^ g =
      signedSig neg m * (2 : ℚ) ^ e := by
  have hpow : (2 : ℚ) ^ (e - g).toNat * (2 : ℚ) ^ g = (2 : ℚ) ^ e := by
    rw [← zpow_natCast, ← zpow_add₀ (by decide), Int.toNat_of_nonneg (by omega), sub_add_cancel]
  cases neg <;> simp [signedSig, mul_assoc, hpow]

theorem FVal.lt_fin (a b : Bool) (m n : Nat) (e f : Int) : (FVal.fin a m e).lt (.fin b n f) = true ↔
    (signedSig a m * (2 : ℚ) ^ e) < signedSig b n * (2 : ℚ) ^ f := by
  have hg : (0 : ℚ) < (2 : ℚ) ^ min e f := by positivity
  rw [← signedSig_scaled a m (min_le_left e f), ← signedSig_scaled b n (min_le_right e f), mul_lt_mul_iff_left₀ hg, Int.cast_lt]
  simp only [FVal.lt, decide_eq_true_eq]

theorem signedSig_eq_zero {neg : Bool} {m : Nat} {e : Int} : signedSig neg m * (2 : ℚ) ^ e = 0 ↔ m = 0 := by
  have hpow : (2 : ℚ) ^ e ≠ 0 := by positivity
  cases neg <;> simp [signedSig, hpow]

theorem FVal.isZero_fin (neg : Bool) (m : Nat) (e : Int) : (FVal.fin neg m e).isZero = decide (m = 0) := by
  cases m <;> rfl

/-- Below in number, or -0 below +0. -/
theorem FVal.rankKey_lt {x y : FVal} (hx : x.isNan = false) (hy : y.isNan = false) :
    (x.lt y || (x.isZero && y.isZero && x.sign && !y.sign)) = true ↔ x.rankKey < y.rankKey := by
  rcases x with _ | a | ⟨a, m, e⟩
  · cases hx
  · rcases y with _ | b | ⟨b, n, f⟩
    · cases hy
    · cases a <;> cases b <;> decide
    · cases a <;> simp [FVal.lt, FVal.isZero, FVal.rankKey, Prod.Lex.toLex_lt_toLex]
  · rcases y with _ | b | ⟨b, n, f⟩
    · cases hy
    · cases b <;> simp [FVal.lt, FVal.isZero, FVal.rankKey, Prod.Lex.toLex_lt_toLex]
    · have hzero : signedSig a m * (2 : ℚ) ^ e = signedSig b n * (2 : ℚ) ^ f → (m = 0 ↔ n = 0) := fun h => by
        rw [← signedSig_eq_zero (neg := a) (e := e), h, signedSig_eq_zero]
      simp only [Bool.or_eq_true, FVal.lt_fin, FVal.isZero_fin, FVal.sign, Bool.and_eq_true, decide_eq_true_eq, Bool.not_eq_true',
        FVal.rankKey, Prod.Lex.toLex_lt_toLex, lt_irrefl, true_and, false_or]
      refine or_congr_right ⟨?_, ?_⟩
      · rintro ⟨⟨⟨rfl, rfl⟩, rfl⟩, rfl⟩
        simp [signedSig]
      · rintro ⟨heq, hlt⟩
        obtain ⟨rfl, rfl⟩ : n = 0 ∧ b = false := by
          by_contra hn
          rw [if_neg hn] at hlt
          exact absurd hlt (Nat.not_lt_zero _)
        obtain rfl : m = 0 := (hzero heq).mpr rfl
        cases a
        · exact absurd hlt (lt_irrefl _)
        · exact ⟨⟨⟨rfl, rfl⟩, rfl⟩, rfl⟩

/-- The place of a lane in the ranking (R128). -/
def laneKey (t : VType) (a : Nat) : ℤ ×ₗ ℚ ×ₗ ℕ := if t.isFloat then (fval t a).rankKey else toLex (ival t a, toLex (0, 0))

theorem rankLt_iff {t : VType} {a b : Nat} (ha : laneNan t a = false) (hb : laneNan t b = false) :
    rankLt t a b = true ↔ laneKey t a < laneKey t b := by
  cases ht : t.isFloat
  · simp [rankLt, laneKey, ht, Prod.Lex.toLex_lt_toLex]
  · simp only [laneNan, ht, Bool.true_and] at ha hb
    simp only [rankLt, laneKey, ht, if_true]
    exact FVal.rankKey_lt ha hb

section
variable {t : VType} {a b c : Nat}

theorem rankLt_irrefl (ha : laneNan t a = false) : rankLt t a a = false :=
  Bool.eq_false_iff.mpr fun h => lt_irrefl _ ((rankLt_iff ha ha).mp h)

theorem rankLt_asymm (ha : laneNan t a = false) (hb : laneNan t b = false) (h : rankLt t a b = true) : rankLt t b a = false :=
  Bool.eq_false_iff.mpr fun h' => ((rankLt_iff ha hb).mp h).not_gt ((rankLt_iff hb ha).mp h')

theorem not_rankLt_trans (ha : laneNan t a = false) (hb : laneNan t b = false) (hc : laneNan t c = false)
    (hab : rankLt t a b = false) (hbc : rankLt t b c = false) : rankLt t a c = false := by
  rw [Bool.eq_false_iff, ne_eq, rankLt_iff ha hb, not_lt] at hab
  rw [Bool.eq_false_iff, ne_eq, rankLt_iff hb hc, not_lt] at hbc
  rw [Bool.eq_false_iff, ne_eq, rankLt_iff ha hc, not_lt]
  exact hbc.trans hab

end

/-! The search of a lane (R133, R134). -/

/-- A lane outranks another in the search of the highest or of the lowest. -/
def above (t : VType) (top : Bool) (x y : Nat) : Bool := if top then rankLt t y x else rankLt t x y

section
variable {t : VType} {top : Bool} {x y z : Nat}

theorem above_irrefl (hx : laneNan t x = false) : above t top x x = false := by
  cases top <;> exact rankLt_irrefl hx

theorem above_asymm (hx : laneNan t x = false) (hy : laneNan t y = false) (h : above t top x y = true) : above t top y x = false := by
  cases top
  · exact rankLt_asymm hx hy h
  · exact rankLt_asymm hy hx h

theorem not_above_trans (hx : laneNan t x = false) (hy : laneNan t y = false) (hz : laneNan t z = false)
    (hxy : above t top x y = false) (hyz : above t top y z = false) : above t top x z = false := by
  cases top
  · exact not_rankLt_trans hx hy hz hxy hyz
  · exact not_rankLt_trans hz hy hx hyz hxy

end

section
variable {t : VType} {top : Bool}

theorem bestLane_cons (p : Nat × Nat) (r : List (Nat × Nat)) : bestLane t top (p :: r) =
    match bestLane t top r with
    | none => some p
    | some q => some (if above t top q.2 p.2 then q else p) := by
  rw [bestLane]
  cases top <;> rfl

/-- Without a NaN, the best lane is the first that no other outranks. -/
theorem bestLane_bestAt {ls : List (Nat × Nat)} (hne : ls ≠ []) (hn : ∀ q ∈ ls, laneNan t q.2 = false)
    (hs : ls.Pairwise (·.1 < ·.1)) : ∃ p ∈ ls, bestLane t top ls = some p ∧
      ∀ q ∈ ls, above t top q.2 p.2 = false ∧ (q.1 < p.1 → above t top p.2 q.2 = true) := by
  induction ls with
  | nil => exact absurd rfl hne
  | cons p r ih =>
    obtain ⟨hp, hr⟩ := List.forall_mem_cons.mp hn
    obtain ⟨hfirst, hsr⟩ := List.pairwise_cons.mp hs
    have hself : above t top p.2 p.2 = false ∧ (p.1 < p.1 → above t top p.2 p.2 = true) :=
      ⟨above_irrefl hp, fun h => absurd h (lt_irrefl _)⟩
    rcases eq_or_ne r [] with rfl | hrne
    · exact ⟨p, List.mem_cons_self, rfl, by simpa using hself⟩
    obtain ⟨b, hb, hbest, hall⟩ := ih hrne hr hsr
    cases hab : above t top b.2 p.2
    · refine ⟨p, List.mem_cons_self, by simp [bestLane_cons, hbest, hab],
        List.forall_mem_cons.mpr ⟨hself, fun q hq => ⟨?_, fun h => ?_⟩⟩⟩
      · exact not_above_trans (hr q hq) (hr b hb) hp (hall q hq).1 hab
      · exact absurd (hfirst q hq) h.not_gt
    · refine ⟨b, List.mem_cons_of_mem _ hb, by simp [bestLane_cons, hbest, hab], List.forall_mem_cons.mpr ⟨⟨?_, fun _ => hab⟩, hall⟩⟩
      exact above_asymm (hr b hb) hp hab

/-- The lane that is found is the first NaN, else the best (R133). -/
theorem findLane_bestAt {ls : List (Nat × Nat)} (hne : ls ≠ []) (hs : ls.Pairwise (·.1 < ·.1)) :
    ∃ p, findLane t top ls = some p ∧ bestAt t top ls p := by
  cases hf : ls.find? fun p => laneNan t p.2 with
  | none =>
    have hn (q : Nat × Nat) (hq : q ∈ ls) : laneNan t q.2 = false := by simpa using List.find?_eq_none.mp hf q hq
    obtain ⟨p, hp, hbest, hall⟩ := bestLane_bestAt (top := top) hne hn hs
    refine ⟨p, by rw [findLane, hf, hbest], hp, fun h => absurd h (by simp [hn p hp]), fun _ q hq => ⟨hn q hq, hall q hq⟩⟩
  | some p =>
    obtain ⟨hnan, before, after, rfl, hbefore⟩ := List.find?_eq_some_iff_append.mp hf
    refine ⟨p, by rw [findLane, hf], by simp, fun _ q hq hlt => ?_, fun h => absurd hnan (by simp [h])⟩
    obtain ⟨-, hafter, -⟩ := List.pairwise_append.mp hs
    rcases List.mem_append.mp hq with hq | hq
    · simpa using hbefore q hq
    rcases List.mem_cons.mp hq with rfl | hq
    · exact absurd hlt (lt_irrefl _)
    · exact absurd ((List.pairwise_cons.mp hafter).1 q hq) hlt.not_gt

end

theorem activeLanes_sorted (t : VType) (m : Fin 8) (v : VWord) (s : State) : (activeLanes t m v s).Pairwise (·.1 < ·.1) :=
  List.pairwise_map.mpr (List.pairwise_lt_range.filter _)

/-! The reductions. -/

/-- The present lanes of a source have the sum of its active lanes (R132). -/
theorem presentSum_active (t : VType) (on : Nat → Bool) (c : Nat → Nat) (l : List Nat) :
    presentSum (l.map fun k => if on k then some (c k) else none) ≡
      ((l.filter on).map fun k => ival t (c k)).sum [ZMOD (2 ^ t.width : Nat)] := by
  induction l with
  | nil => rfl
  | cons k l ih =>
    cases hk : on k
    · simpa [presentSum, hk] using ih
    · simpa [presentSum, hk] using (ival_modEq t (c k)).symm.add ih

/-- The wrapped sum of the active lanes is the root of their tree (R132). -/
theorem redSum_int {t : VType} (ht : t.isFloat = false) (v1 : Bool) (m : Fin 8) (v : VWord) (s : State) :
    redSum t v1 ((List.range t.lanes).map fun k => if laneOn s m k then some (laneT t v k) else none) =
      (wrapT t (((activeLanes t m v s).map fun p => ival t p.2).foldl (· + ·) 0), 0) := by
  have hlen : ((List.range t.lanes).map fun k => if laneOn s m k then some (laneT t v k) else none).length ≤ 2 ^ 4 := by
    simpa using lanes_le t
  have hcodes : presentCodes t ((List.range t.lanes).map fun k => if laneOn s m k then some (laneT t v k) else none) := by
    intro o ho
    obtain ⟨k, -, rfl⟩ := List.mem_map.mp ho
    split
    · exact laneT_lt t v k
    · exact Nat.two_pow_pos _
  have hroot := treeRoot_addLanes t 4 _ hlen hcodes
  simp only [redSum, ht, Bool.false_eq_true, if_false]
  refine Prod.ext (hroot.trans ?_) rfl
  rw [← List.sum_eq_foldl, activeLanes, List.map_map]
  exact wrapT_congr t (presentSum_active t _ _ _)

/-- An effect that fills a vector register with one lane and sets flags. -/
theorem issueOps_fillsLanes {i : Instr} {eff : List VWord → State → State} {s : State} (h : issues i s = true)
    (hr : ∀ o ∈ srcs i, o.port? = none) {w n c : Nat} {d : Fin 32} {fl : FFlags} (hn : 0 < n)
    (he : eff (srcVals i s) (blocks i 0 0 (srcVals i s) s) =
      putV (orMyFp (blocks i 0 0 (srcVals i s) s) fl) (.v d) (ofLanes w (List.replicate n c))) :
    issueOps i eff s = .next (writesLanes i w n d (fun k => (c, if k = 0 then fl else 0)) s) := by
  have hfl : orFlags ((List.range n).map fun k => if k = 0 then fl else 0) = fl := by
    have hany : (List.range n).any (· == 0) = true := List.any_eq_true.mpr ⟨0, List.mem_range.mpr hn, rfl⟩
    simpa [hany] using orFlags_map_ite (· == 0) fl (List.range n)
  refine issueOps_writesLanes h hr ?_
  rw [he, hfl, List.map_const', List.length_range]

theorem Ctx.setX_takesFlags (x : Ctx) (fl : FFlags) (d : Fin 48) (w : Word) :
    (x.takesFlags fl).setX d w = (x.setX d w).takesFlags fl := by
  unfold Ctx.setX
  split <;> rfl

theorem Ctx.setX_fpstat (x : Ctx) (d : Fin 48) (w : Word) : (x.setX d w).fpstat = x.fpstat := by
  unfold Ctx.setX
  split <;> rfl

theorem findsLane_eq (i : Instr) (d c : Fin 48) (index value : Word) (fl : FFlags) (s : State) : findsLane i d c index value fl s =
    (issued i s).updMe fun x => ((x.setX c index).setX d value).takesFlags fl := by
  simp only [findsLane, Ctx.takesFlags, Ctx.setX_fpstat]

/-- An effect that gives the index and the value of a lane, and sets flags (R134). -/
theorem issueOps_findsLane {i : Instr} {eff : List VWord → State → State} {s : State} (h : issues i s = true)
    (hr : ∀ o ∈ srcs i, o.port? = none) {d c : Fin 48} {index value : Word} {fl : FFlags}
    (he : eff (srcVals i s) (blocks i 0 0 (srcVals i s) s) =
      putS (putS (orMyFp (blocks i 0 0 (srcVals i s) s) fl) (.x c) index) (.x d) value) :
    issueOps i eff s = .next (findsLane i d c index value fl s) := by
  rw [findsLane_eq]
  refine issueOps_changes h hr (fun x => ((x.setX c index).setX d value).takesFlags fl) (fun x b => ?_) (fun x => ?_) (fun x => ?_) ?_
  · rw [Ctx.setX_setBlk, Ctx.setX_setBlk]
    rfl
  · exact (Ctx.setX_blk ..).trans (Ctx.setX_blk ..)
  · exact (Ctx.setX_halted ..).trans (Ctx.setX_halted ..)
  · rw [he]
    simp only [orMyFp_eq, putS, State.updMe_updMe, Ctx.setX_takesFlags]

section
variable {t : VType} {m : Fin 8} {d a : Fin 32} {s : State}

theorem effVreds_blocks {i : Instr} (h : issues i s = true) (vs : List VWord) :
    effVreds t m (.v d) vs (blocks i 0 0 (srcVals i s) s) =
      let r := redSum t (!s.me.nbv2) ((List.range t.lanes).map fun k => if laneOn s m k then some (laneT t (argV vs 0) k) else none)
      putV (orMyFp (blocks i 0 0 (srcVals i s) s) r.2) (.v d) (ofLanes t.width (List.replicate t.lanes r.1)) := by
  simp only [effVreds, laneOn_blocks h, flushV1_blocks h]

/-- The lane that VREDM gives: the highest active one, or the lowest value of the type where none is active (R133). -/
def topLane (t : VType) (ls : List (Nat × Nat)) : Nat :=
  match findLane t true ls with
  | some p => p.2
  | none => if t.isFloat then (vFmt t).infCode true else 2 ^ (t.width - 1)

theorem topLane_bestAt {ls : List (Nat × Nat)} (hne : ls ≠ []) (hs : ls.Pairwise (·.1 < ·.1)) :
    ∃ n : Nat, bestAt t true ls (n, topLane t ls) := by
  obtain ⟨⟨n, c⟩, hfind, hbest⟩ := findLane_bestAt (top := true) hne hs
  exact ⟨n, by rw [topLane, hfind]; exact hbest⟩

theorem effVredm_blocks {i : Instr} (h : issues i s = true) (vs : List VWord) :
    effVredm t m (.v d) vs (blocks i 0 0 (srcVals i s) s) =
      let ls := activeLanes t m (argV vs 0) s
      putV (orMyFp (blocks i 0 0 (srcVals i s) s) (nanFlag t ls)) (.v d) (ofLanes t.width (List.replicate t.lanes (topLane t ls))) := by
  simp only [effVredm, activeLanes_blocks h]
  rfl

theorem bestIndex_blocks {i : Instr} (h : issues i s = true) (top : Bool) (x y : SOp) (vs : List VWord) :
    bestIndex top t m x y vs (blocks i 0 0 (srcVals i s) s) =
      let ls := activeLanes t m (argV vs 0) s
      putS (putS (orMyFp (blocks i 0 0 (srcVals i s) s) (nanFlag t ls)) y
        (((findLane t top ls).map fun p => wordOf p.1).getD (BitVec.allOnes 64))) x
        (((findLane t top ls).map fun p => laneWord t p.2).getD 0) := by
  simp only [bestIndex, activeLanes_blocks h]
  cases findLane t top (activeLanes t m (argV vs 0) s) <;> rfl

/-- VMAXI and VMINI of vector registers, by the effect they share (R134). -/
theorem findsLane_of_bestIndex {i : Instr} {x y : Fin 48} {top : Bool} (h : issues i s = true) (hsrcs : srcs i = [.v (.v a)])
    (hexec : ∀ u, exec i u = issueOps i (bestIndex top t m (.x x) (.x y)) u) :
    let ls := activeLanes t m (s.me.v[a.val]) s
    (ls = [] → exec i s = .next (findsLane i x y (BitVec.allOnes 64) 0 0 s)) ∧
    (ls ≠ [] → ∃ n c : Nat, bestAt t top ls (n, c) ∧
      exec i s = .next (findsLane i x y (BitVec.ofNat 64 n) (laneWord t c) (nanFlag t ls) s)) := by
  intro ls
  have hrun := issueOps_findsLane h (port?_of_vecSrcs (vs := [a]) hsrcs)
    (bestIndex_blocks (t := t) (m := m) h top (.x x) (.x y) (srcVals i s))
  rw [← hexec, argV_srcVals hsrcs] at hrun
  refine ⟨fun hnil => ?_, fun hne => ?_⟩
  · rw [hrun, show activeLanes t m (s.me.v[a.val]) s = [] from hnil]
    rfl
  · obtain ⟨⟨n, c⟩, hfind, hbest⟩ := findLane_bestAt (top := top) hne (activeLanes_sorted ..)
    exact ⟨n, c, hbest, by rw [hrun, hfind]; rfl⟩

end

theorem lanesReduce : Clause.LanesReduce := by
  intro t m d a x y s ls fl present sum word
  refine ⟨fun h ht => ?_, fun h _ => ?_, fun h => ⟨topLane t ls, ?_, fun hnil => ?_, fun hne => ?_⟩,
    fun top => ?_⟩
  · refine issueOps_movesLanes h (port?_of_vecSrcs (vs := [a]) rfl) ?_
    rw [effVreds_blocks h, argV_srcVals (a := a) rfl, redSum_int ht, putV_orMyFp_zero, List.map_const', List.length_range]
  · exact issueOps_fillsLanes h (port?_of_vecSrcs (vs := [a]) rfl) (lanes_pos t) (effVreds_blocks h _)
  · exact issueOps_fillsLanes h (port?_of_vecSrcs (vs := [a]) rfl) (lanes_pos t) (effVredm_blocks h _)
  · rw [hnil]
    rfl
  · exact topLane_bestAt hne (activeLanes_sorted ..)
  · cases top
    · exact fun h => findsLane_of_bestIndex h rfl fun _ => rfl
    · exact fun h => findsLane_of_bestIndex h rfl fun _ => rfl

/-- Settles O23, clause by clause. -/
theorem lanesMoveAndReduce : Obligations.LanesMoveAndReduce := ⟨lanesMove, lanesReduce⟩

end Sys2Proof.Machine
end

section
/-! PROOFS. Conversions, dot products and approximations (spec/05, R135 to R142). -/

namespace Sys2Proof.Machine

/-! Conversions (R136, R137). -/

theorem vcvtWrites {dst src : CvtFmt} {r : CvtRnd} {m : Fin 8} {d a : Fin 32} {s : State}
    (h : issues (.vcvt dst src r m (.v d) (.v a)) s = true) :
    exec (.vcvt dst src r m (.v d) (.v a)) s = .next (writesLanes (.vcvt dst src r m (.v d) (.v a)) dst.width
      (min 16 (128 / max src.width dst.width)) d
      (fun k => if laneOn s m k then convert dst src r (!s.me.nbv2) (lane (s.me.v[a.val]) src.width k)
        else (lane (s.me.v[d.val]) dst.width k, 0)) s) := by
  refine issueOps_writesLanes h (port?_of_vecSrcs (vs := [a]) rfl) ?_
  simp only [effVcvt, laneOn_blocks h, flushV1_blocks h, getV_blocks h, List.map_map]
  rfl

/-- An effect that sets flags and writes two vector registers (R137). -/
theorem issueOps_writesTwo {i : Instr} {eff : List VWord → State → State} {s : State} (h : issues i s = true)
    (hr : ∀ o ∈ srcs i, o.port? = none) {d c : Fin 32} {y z : VWord} {fl : FFlags}
    (he : eff (srcVals i s) (blocks i 0 0 (srcVals i s) s) =
      putV (putV (orMyFp (blocks i 0 0 (srcVals i s) s) fl) (.v c) z) (.v d) y) :
    issueOps i eff s = .next ((issued i s).updMe fun x => ((x.setV c z).setV d y).takesFlags fl) := by
  refine issueOps_changes h hr _ (fun _ _ => rfl) (fun _ => rfl) (fun _ => rfl) ?_
  rw [he, orMyFp_eq, putV_v, putV_v, State.updMe_updMe, State.updMe_updMe]
  rfl

theorem vcvtefWrites {dst src : CvtFmt} {r : CvtRnd} {m : Fin 8} {d a c : Fin 32} {s : State}
    (h : issues (.vcvtef dst src r m (.v d) (.v c) (.v a)) s = true) :
    let n := min 16 (128 / src.width)
    let y (k : Nat) : Nat × FFlags := convert dst src r (!s.me.nbv2) (lane (s.me.v[a.val]) src.width k)
    exec (.vcvtef dst src r m (.v d) (.v c) (.v a)) s = .next ((issued (.vcvtef dst src r m (.v d) (.v c) (.v a)) s).updMe fun q =>
      ((q.setV c (ofLanes src.width ((List.range n).map fun k => if laneOn s m k then
          residual dst src (!s.me.nbv2) (lane (s.me.v[a.val]) src.width k) (y k).1 else lane (s.me.v[c.val]) src.width k))).setV d
        (ofLanes dst.width ((List.range n).map fun k => if laneOn s m k then (y k).1 else lane (s.me.v[d.val]) dst.width k))).takesFlags
        (orFlags ((List.range n).map fun k => if laneOn s m k then (y k).2 else 0))) := by
  intro n y
  refine issueOps_writesTwo h (port?_of_vecSrcs (vs := [a]) rfl) ?_
  simp only [effVcvtef, laneOn_blocks h, flushV1_blocks h, getV_blocks h, List.map_map, Function.comp_def, apply_ite Prod.fst,
    apply_ite Prod.snd]
  rfl

/-! The dot product (R142). -/

theorem dotByte_true (v : VWord) (k : Nat) :
    dotByte true v k = if (lane v 8 k : Int) < 128 then (lane v 8 k : Int) else lane v 8 k - 256 := by
  have hlt : lane v 8 k < 2 ^ 8 := Nat.mod_lt _ (by decide)
  simp only [dotByte, if_true, sextN, Nat.mod_eq_of_lt hlt]
  split <;> split <;> omega

theorem dotTerm_eq (sg : DotSign) (a b : VWord) (k : Nat) :
    dotByte (sg != .uu) a k * dotByte (sg == .ss) b k = dotTerm sg a b k := by
  cases sg
  · exact congrArg₂ (· * ·) (dotByte_true a k) (dotByte_true b k)
  · rfl
  · exact congrArg (· * (lane b 8 k : Int)) (dotByte_true a k)

/-- A lane of VDOT4 (R142): the sign of the old lane does not matter in 32 bits. -/
theorem dotLane_eq (old : Nat) (x : Nat → Int) (j : Nat) :
    lowBits (((List.range 4).map fun i => x (4 * j + i)).foldl (· + ·) (sextN old 32)) 32 =
      (((old : Int) + x (4 * j) + x (4 * j + 1) + x (4 * j + 2) + x (4 * j + 3)) % 2 ^ 32).toNat := by
  have hold : sextN old 32 % 2 ^ 32 = (old : Int) % 2 ^ 32 := ival_modEq .i32 old
  simp only [lowBits, List.range_succ_eq_map, List.range_zero, List.map_cons, List.map_nil, List.foldl_cons, List.foldl_nil]
  push_cast
  rw [Nat.add_zero]
  omega

theorem vdot4Writes {sg : DotSign} {m : Fin 8} {d a b : Fin 32} {s : State} (h : issues (.vdot4 sg m (.v d) (.v a) (.v b)) s = true) :
    let x (k : Nat) : Int := dotTerm sg (s.me.v[a.val]) (s.me.v[b.val]) k
    exec (.vdot4 sg m (.v d) (.v a) (.v b)) s = .next (writesLanes (.vdot4 sg m (.v d) (.v a) (.v b)) 32 4 d
      (masked .i32 m d (fun k => (((lane (s.me.v[d.val]) 32 k : Nat) + x (4 * k) + x (4 * k + 1) + x (4 * k + 2) + x (4 * k + 3)) %
        2 ^ 32 |>.toNat, 0)) s) s) := by
  intro x
  refine issueOps_lanewise (t := .i32) h (port?_of_vecSrcs (vs := [a, b]) rfl) ?_
  simp only [effVdot4, getV_blocks h, dotTerm_eq, dotLane_eq]
  rfl

theorem lanesConvert : Clause.LanesConvert :=
  fun _ _ _ _ _ _ => ⟨fun _ _ _ => vcvtWrites, fun _ _ _ => vcvtefWrites, fun _ => vdot4Writes⟩

/-! The issue of an approximation (R123, R141). -/

theorem State.setNextId_updMe (s : State) (n : Nat) (f : Ctx → Ctx) : (s.updMe f).setNextId n = (s.setNextId n).updMe f := rfl

theorem orMyFp_blk (u : State) (fl : FFlags) : (orMyFp u fl).me.blk = u.me.blk := by
  rw [orMyFp_eq, State.me_updMe, Ctx.takesFlags_blk]

/-- Flags set and an entry made pending do not meet. -/
theorem addPend_orMyFp (u : State) (fl : FFlags) (i : Instr) (kind : PendKind) (due : Nat) (res : Option PendRes) :
    addPend (orMyFp u fl) i kind due res = (addPend u i kind due res).updMe fun x => x.takesFlags fl := by
  rw [addPend, addPend, orMyFp_blk]
  cases u.me.blk with
  | none => rfl
  | some b =>
    simp only [State.newId_eq, orMyFp_eq, State.updMe_nextId, State.setNextId_updMe, State.updMe_updMe]
    rfl

theorem inClocks_orMyFp (u : State) (fl : FFlags) (n : Nat) : inClocks (orMyFp u fl) n = inClocks u n := by
  rw [inClocks, inClocks, orMyFp_blk]
  rfl

theorem approximates_eq (i : Instr) (t : VType) (clocks : Nat) (r : Nat → Nat × FFlags) (s : State) : approximates i t clocks r s =
    (pends i .approx (s.clk s.cur.core + clocks)
      (some (.value (ofLanes t.width ((List.range t.lanes).map fun k => (r k).1)))) s).updMe fun x =>
        x.takesFlags (orFlags ((List.range t.lanes).map fun k => (r k).2)) := rfl

/-- An approximation of register sources sets its flags at its issue and is pending (R123, R141). -/
theorem issueOps_approximates {i : Instr} {eff : List VWord → State → State} {s : State} {t : VType} {clocks : Nat}
    {r : Nat → Nat × FFlags} (h : issues i s = true) (hr : ∀ o ∈ srcs i, o.port? = none)
    (he : eff (srcVals i s) (blocks i 0 0 (srcVals i s) s) = approxOp i t clocks r (blocks i 0 0 (srcVals i s) s)) :
    issueOps i eff s = .next (approximates i t clocks r s) := by
  have hop : approxOp i t clocks r (blocks i 0 0 (srcVals i s) s) =
      ((blocks i 0 0 (srcVals i s) s).setNextId (s.nextId + 1)).updMe fun x =>
        (x.addsPend (pendOf i .approx (s.clk s.cur.core + clocks)
          (some (.value (ofLanes t.width ((List.range t.lanes).map fun k => (r k).1)))) s)).takesFlags
          (orFlags ((List.range t.lanes).map fun k => (r k).2)) := by
    simp only [approxOp, inClocks_orMyFp, inClocks_blocks h, addPend_orMyFp, addPend_blocks h, State.updMe_updMe, List.map_map]
    rfl
  rw [issueOps_completes h hr (he.trans hop)
    (by rw [State.me_updMe, Ctx.takesFlags_blk, Ctx.addsPend_blk, State.setNextId_me])
    (by rw [State.me_updMe, Ctx.takesFlags_halted, Ctx.addsPend_halted, State.setNextId_me, blocks_halted h]),
    complete_updMe (fun _ _ => rfl), complete_setNextId, complete_blocks, approximates_eq, pends_eq, State.updMe_updMe]

section
variable {t : VType} {s : State}

/-- The instructions of the table approximate with the lane functions that it lists (R139, R141). -/
theorem approx1_of_approxRows {row : Instr × Nat × (VType → Bool → Nat → Nat × FFlags)} {d x : VOp} {la : BitVec 4}
    (h : row ∈ approxRows t d x la) :
    (∀ u, exec row.1 u = issueOps row.1 (approx1 row.1 t row.2.1 row.2.2) u) ∧ srcs row.1 = [.v x] ∧
      ∀ (v1 : Bool) (c : Nat), fval t c = .nan → row.2.2 t v1 c = badLane t := by
  simp only [approxRows, List.mem_cons, List.not_mem_nil, or_false] at h
  rcases h with rfl | rfl | rfl | rfl
  · exact ⟨fun _ => rfl, rfl, fun v1 c hc => by simp only [rcpLane, hc]⟩
  · exact ⟨fun _ => rfl, rfl, fun v1 c hc => by simp only [rsqLane, hc]⟩
  · exact ⟨fun _ => rfl, rfl, fun v1 c hc => by simp only [exp2Lane, hc]⟩
  · exact ⟨fun _ => rfl, rfl, fun v1 c hc => by simp only [log2Lane, hc]⟩

theorem fval_of_laneNan {c : Nat} (h : laneNan t c = true) : fval t c = .nan := by
  simp only [laneNan, Bool.and_eq_true] at h
  obtain ⟨-, h⟩ := h
  cases hv : fval t c with
  | nan => rfl
  | inf n => simp [hv, FVal.isNan] at h
  | fin n m e => simp [hv, FVal.isNan] at h

/-- VRCPS and VRSQS, by the effect they share (R140, R141). -/
theorem approximates_of_approx2 {i : Instr} {sqrt : Bool} {a b : Fin 32} (h : issues i s = true)
    (hsrcs : srcs i = [.v (.v a), .v (.v b)]) (hexec : ∀ u, exec i u = issueOps i (approx2 i t sqrt) u) :
    exec i s = .next (approximates i t 6 (fun k => newtonLane sqrt t (!s.me.nbv2) (lane (s.me.v[a.val]) t.width k)
      (lane (s.me.v[b.val]) t.width k)) s) := by
  rw [hexec]
  refine issueOps_approximates h (port?_of_vecSrcs (vs := [a, b]) hsrcs) ?_
  rw [approx2, flushV1_blocks h, srcVals, hsrcs]
  rfl

end

/-! The special operands (R139). -/

section
variable {t : VType} (v1 : Bool) {n : Bool} {c m : Nat} {e : Int}

theorem approxLanes_of_zero (h : fval t c = .fin n 0 e) : rcpLane t v1 c = ((vFmt t).infCode n, flagDZ) ∧
    rsqLane t v1 c = ((vFmt t).infCode n, flagDZ) ∧ exp2Lane t v1 c = ((vFmt t).ne (FVal.ofInt 1), 0) ∧
    log2Lane t v1 c = ((vFmt t).infCode true, flagDZ) := by
  refine ⟨?_, ?_, ?_, ?_⟩
  · simp only [rcpLane, h]
  · simp only [rsqLane, h]
  · simp only [exp2Lane, h]
    rfl
  · simp only [log2Lane, h]

theorem approxLanes_of_inf (h : fval t c = .inf n) : rcpLane t v1 c = ((vFmt t).signed n 0, 0) ∧
    rsqLane t v1 c = (if n then ((vFmt t).nanCode, flagNV) else (0, 0)) ∧
    exp2Lane t v1 c = (if n then 0 else (vFmt t).infCode false, 0) ∧
    log2Lane t v1 c = (if n then ((vFmt t).nanCode, flagNV) else ((vFmt t).infCode false, 0)) := by
  refine ⟨?_, ?_, ?_, ?_⟩
  · simp only [rcpLane, h]
  · simp only [rsqLane, h, badLane]
  · simp only [exp2Lane, h]
  · simp only [log2Lane, h, badLane]

theorem approxLanes_of_neg (h : fval t c = .fin true m e) (hm : m ≠ 0) :
    rsqLane t v1 c = ((vFmt t).nanCode, flagNV) ∧ log2Lane t v1 c = ((vFmt t).nanCode, flagNV) := by
  obtain ⟨k, rfl⟩ := Nat.exists_eq_succ_of_ne_zero hm
  refine ⟨?_, ?_⟩
  · simp only [rsqLane, h, badLane]
  · simp only [log2Lane, h, badLane]

end

theorem approximations : Clause.Approximations := by
  intro t d a b la s
  refine ⟨fun row hrow h => ?_, fun sqrt => ?_, fun v1 _ _ _ => approxLanes_of_zero v1, fun v1 _ _ => approxLanes_of_inf v1,
    fun v1 _ _ _ => approxLanes_of_neg v1⟩
  · obtain ⟨hexec, hsrcs, hnan⟩ := approx1_of_approxRows hrow
    refine ⟨?_, fun v1 c hc => hnan v1 c (fval_of_laneNan hc)⟩
    rw [hexec]
    refine issueOps_approximates h (port?_of_vecSrcs (vs := [a]) hsrcs) ?_
    rw [approx1, flushV1_blocks h, argV_srcVals hsrcs]
    rfl
  · cases sqrt
    · exact fun h => approximates_of_approx2 h rfl fun _ => rfl
    · exact fun h => approximates_of_approx2 h rfl fun _ => rfl

/-- Settles O24, clause by clause. -/
theorem lanesConvertAndApproximate : Obligations.LanesConvertAndApproximate := ⟨lanesConvert, approximations⟩

end Sys2Proof.Machine
end
